-- ==== Sys2Proof/Word.lean ====
section
/-!
DEFINITION. The word types of the model and nothing else: a byte, a 16-bit and a 32-bit word, a Roari half, a Breath
position (48.16 in 64 bits), a sparse table (the one form in which memories and register files are held), and real
quantities, which the spec's equations state exactly and the model holds as rationals.
-/
namespace Sys2Proof

/-- A byte. -/
abbrev Byte := BitVec 8
/-- A half word: what the 16-bit host bus carries (R605). -/
abbrev Half := BitVec 16
/-- A 32-bit register word. -/
abbrev Word := BitVec 32
/-- A Breath position, 48.16 in 64 bits (R73). -/
abbrev Pos := BitVec 64
/-- A table held sparsely: keys strictly rising, no entry equal to what an unlisted key reads as. -/
abbrev Sparse (α : Type) := List (Nat × α)
/-- A real quantity of the spec's equations, held exactly. -/
abbrev Real' := Rat

end Sys2Proof
end

