-- ==== Sys2Proof/Syntax.lean ====
section
/-!
DEFINITION. The commands of the block: one constructor of `Instr` for each row of spec/opcode_table.json, with the
operands that the sender, the line or the analog world supplies. What a rule lets the device compute from its own state
is no operand. Chapter numbers are those of the spec's files.
-/
namespace Sys2Proof

/-- Who sends a register or memory access (R773, table 'Write access by agent'). -/
inductive Agent where
  | host | usb | mgmt | image | sysex | console
deriving DecidableEq, Repr

/-- A result group of R618. -/
inductive Group where
  | meters | chanter | atomic | aperture | selftest
deriving DecidableEq, Repr

/-- A memory of one Chanter core (R247). -/
inductive CMem where
  | pm | x | y
deriving DecidableEq, Repr

/-- The carriers of lock messages (R761). -/
inductive Carrier where
  | uart1 | hostPort | usbCmd
deriving DecidableEq, Repr

/-- One X or Y move of the parallel format (R299, R300): register code, pointer, mode 0 to 4. -/
inductive Mv where
  | none
  | load (reg : BitVec 6) (p : BitVec 3) (mode : BitVec 3)
  | store (reg : BitVec 6) (p : BitVec 3) (mode : BitVec 3)
deriving DecidableEq, Repr

/-- The source of a MAXI, MINI or MAXMIN operand (R265, AOP 22 to 24). -/
inductive MaxSrc where
  | half (reg : BitVec 3) (h : BitVec 1)
  | acc (n : BitVec 3)
deriving DecidableEq, Repr

/-- An error that a load met in X or Y memory: the space, and whether it is a double-bit one (R293). -/
structure MemErr where
  ySpace : Bool
  double : Bool
deriving DecidableEq, Repr

/-- What a word that does no arithmetic does: its two moves; for a reserved encoding a program fault (R326); and, where the
word fetched fails its parity, a stop of fetching (R294). -/
inductive NopForm where
  | moves (xm ym : Mv) (err : Option MemErr)
  | reserved
  | parity
deriving DecidableEq, Repr

/-- An upset met when a word is taken in (R146, R646): a single- or double-bit error in the main store, at a place among
the occupied entries; a double-bit error in the mailbox's head. -/
inductive StoreErr where
  | single
  | double (place : Nat)
  | mailbox
deriving DecidableEq, Repr

/-- One request presented to a bank port (R332): offsets are within the bank. -/
inductive BankOp where
  | read (off len : Nat)
  | write (off : Nat) (data : List Byte)
  | atomicAdd (off : Nat) (w64 : Bool) (addend : BitVec 64)
  | cas (off : Nat) (w64 : Bool) (cmp swap : BitVec 64)
deriving DecidableEq, Repr

/-- How a word met by a bank operation reads (R349). -/
inductive Ecc where
  | single (word : BitVec 3)
  | double (word : BitVec 3)
deriving DecidableEq, Repr

/-- How a prefetch burst ended (R168, R169, R202). -/
inductive Burst where
  | granted | retried | missed | uncorrectable
deriving DecidableEq, Repr

/-- A frame as the line delivers it: the bytes from the destination address to the last byte before the FCS, whether the
FCS matched, and whether the buffer later lost it to a double-bit error (R411, R412, R447). -/
structure Frame where
  bytes : List Byte
  fcsOk : Bool
  lost  : Bool
deriving DecidableEq, Repr

/-- A self-tested unit: kind and index as R707 codes them, and the row for the row kinds (R818). -/
structure UnitId where
  kind  : BitVec 4
  index : BitVec 8
  row   : BitVec 12
deriving DecidableEq, Repr

/-- A clock control request of the audio function (R564). -/
inductive ClockReq where
  | getCur | getRange | getValid
  | setCur (rate : Nat)
deriving DecidableEq, Repr

/-- What kicks the watchdog (R661). -/
inductive Kick where
  | key (k : Half)
  | core (c : BitVec 4)
deriving DecidableEq, Repr

/-- The commands of the block, one constructor per row of spec/opcode_table.json: those with operands in its order, then the
others, so that every constructor that carries data has a tag that compiled code can hold. -/
inductive Instr where
  -- start-up, image and update (02)
  | resetNRise (qio33 otpBad : Bool)
  | bodyReadComplete (rowFails : List (BitVec 4 × Nat))
  | reload (ag : Agent)
  | start (ag : Agent)
  | programBody (ag : Agent)
  | verify (ag : Agent)
  | record (ag : Agent)
  | commit (ag : Agent)
  | abort (ag : Agent)
  | cfgCmdend (opsDone : Nat) (flashFail : Bool)
  | pmReload (c : BitVec 4)
  -- the Breath pipeline and the scheduler (01, 04)
  | blockStart (parity : List (BitVec 5))
  | eventIntake (c : BitVec 4) (err : Option StoreErr)
  | allOff (bothBad : Bool)
  | ingressWindowWrite (ag : Agent) (off : BitVec 12) (data : List Byte)
  -- Reeds and allocation (05, 06)
  | reedPrefetch (reed : BitVec 12) (osc : BitVec 2) (burst : Burst)
  | invalidate (num : BitVec 10)
  | validate (num : BitVec 10)
  | rdaPlibWrite (ag : Agent) (v : Word)
  | rdaRselWrite (ag : Agent) (v : Word)
  | valSpill2Write (ag : Agent) (v : Word)
  -- Chanter cores: the parallel format (07, 08)
  | nop (c : BitVec 4) (form : NopForm)
  | cmac (c : BitVec 4) (k a b : BitVec 2) (xm ym : Mv)
  | cmsu (c : BitVec 4) (k a b : BitVec 2) (xm ym : Mv)
  | cmpy (c : BitVec 4) (k a b : BitVec 2) (xm ym : Mv)
  | cmacj (c : BitVec 4) (k a b : BitVec 2) (xm ym : Mv)
  | dmac (c : BitVec 4) (k a b : BitVec 2) (xm ym : Mv)
  | mac (c : BitVec 4) (d : BitVec 3) (a : BitVec 2) (hx : BitVec 1) (b : BitVec 2) (hy : BitVec 1) (xm ym : Mv)
  | msu (c : BitVec 4) (d : BitVec 3) (a : BitVec 2) (hx : BitVec 1) (b : BitVec 2) (hy : BitVec 1) (xm ym : Mv)
  | mpy (c : BitVec 4) (d : BitVec 3) (a : BitVec 2) (hx : BitVec 1) (b : BitVec 2) (hy : BitVec 1) (xm ym : Mv)
  | mag (c : BitVec 4) (d : BitVec 3) (a : BitVec 2) (xm ym : Mv)
  | add (c : BitVec 4) (d s : BitVec 3) (xm ym : Mv)
  | sub (c : BitVec 4) (d s : BitVec 3) (xm ym : Mv)
  | tfr (c : BitVec 4) (d s : BitVec 3) (xm ym : Mv)
  | addx (c : BitVec 4) (d : BitVec 3) (a : BitVec 2) (hx : BitVec 1) (xm ym : Mv)
  | neg (c : BitVec 4) (d : BitVec 3) (xm ym : Mv)
  | abs (c : BitVec 4) (d : BitVec 3) (xm ym : Mv)
  | clr (c : BitVec 4) (d : BitVec 3) (xm ym : Mv)
  | asl (c : BitVec 4) (d : BitVec 3) (s : BitVec 5) (xm ym : Mv)
  | asr (c : BitVec 4) (d : BitVec 3) (s : BitVec 5) (xm ym : Mv)
  | and (c : BitVec 4) (a b : BitVec 2) (xm ym : Mv)
  | or (c : BitVec 4) (a b : BitVec 2) (xm ym : Mv)
  | xor (c : BitVec 4) (a b : BitVec 2) (xm ym : Mv)
  | maxi (c : BitVec 4) (src : MaxSrc) (xm ym : Mv)
  | mini (c : BitVec 4) (src : MaxSrc) (xm ym : Mv)
  | maxmin (c : BitVec 4) (src : MaxSrc) (xm ym : Mv)
  | clrmx (c : BitVec 4) (xm ym : Mv)
  -- Chanter cores: the control format
  | ldi (c : BitVec 4) (reg : BitVec 8) (imm : Word)
  | mova (c : BitVec 4) (store ySpace : Bool) (reg : BitVec 8) (addr : Half) (err : Option MemErr)
  | movp (c : BitVec 4) (store ySpace : Bool) (reg : BitVec 8) (p mode : BitVec 3) (err : Option MemErr)
  | movr (c : BitVec 4) (dst src : BitVec 8)
  | bra (c : BitVec 4) (cond : BitVec 4) (target : BitVec 14)
  | call (c : BitVec 4) (target : BitVec 14)
  | ret (c : BitVec 4) (cond : BitVec 4)
  | rti (c : BitVec 4)
  | rep (c : BitVec 4) (count : Half) (le : BitVec 14)
  | repr (c : BitVec 4) (reg : BitVec 8) (le : BitVec 14)
  | evpost (c : BitVec 4) (a b : BitVec 2)
  | pmw (c : BitVec 4) (a : BitVec 2) (p : BitVec 3)
  | pmr (c : BitVec 4) (a : BitVec 2) (p : BitVec 3)
  | syncp (c : BitVec 4)
  | waitb (c : BitVec 4)
  | linv (c : BitVec 4)
  | lopen (c : BitVec 4)
  | notify (c : BitVec 4) (v : Half)
  | stop (c : BitVec 4)
  | interruptAccept (c : BitVec 4)
  | storeBufferDrain (c : BitVec 4)
  | windowLineFill (c : BitVec 4) (ySpace : Bool)
  | windowTimeout (c : BitVec 4) (ySpace : Bool)
  | outsideAccess (ag : Agent) (c : BitVec 4) (mem : CMem) (off : BitVec 18) (wide : Bool) (write : Option (BitVec 64))
  | chnPowerOff (ag : Agent) (c : BitVec 4)
  | chnPowerOn (ag : Agent) (c : BitVec 4)
  | restart (ag : Agent) (c : BitVec 4)
  | door (ag : Agent) (c : BitVec 4)
  | chnWindowWrite (ag : Agent) (c : BitVec 4) (ySpace : Bool) (v : Word)
  | coreRegisterViewWrite (ag : Agent) (c : BitVec 4) (off : BitVec 11) (v : Word)
  -- banks (09)
  | bankPortOperation (bank : BitVec 7) (owner guest : Option BankOp) (guestDue : Bool) (ecc : List Ecc)
  | bnkOwnWrite (ag : Agent) (bank : BitVec 7) (v : Word)
  | handoverComplete (bank : BitVec 7)
  | handoverForced (bank : BitVec 7)
  | bnkGuestWrite (ag : Agent) (bank : BitVec 7) (v : Word)
  | salvageEnd (bank : BitVec 7)
  -- the Bell (10)
  | bellRowFetch (ch : BitVec 7)
  | hmuteWrite (ag : Agent) (on : Bool)
  | belPlatWrite (ag : Agent) (v : Word)
  | readbackWindow (lo : BitVec 3) (diff : Half)
  | readbackTestStepEnd (lo : BitVec 3) (pass : Bool)
  | loCurrentLimit (lo : BitVec 3)
  | loShortRetry (lo : BitVec 3) (holds : Bool)
  | coComplianceFlag (co : BitVec 2)
  | coLoadRetry (co : BitVec 2) (holds : Bool)
  | sapFrame (port : BitVec 2) (slots : List Word) (bclks : Nat)
  | sapClockLoss (port : BitVec 2)
  -- the Breath (03)
  | brtSrcWrite (ag : Agent) (src : BitVec 3)
  | rebase (ag : Agent)
  | brtPosRead (ag : Agent)
  | pllRelockRetry (locked : Bool)
  -- frame ports (11)
  | linkUp (port : BitVec 2)
  | linkDown (port : BitVec 2)
  | autoNegotiationFail (port : BitVec 2)
  | macModeWrite (ag : Agent) (port : BitVec 2) (v : Word)
  | frameReceive (port : BitVec 2) (frame : Frame)
  | frameDelivery (port : BitVec 2)
  | frameTransmit (port : BitVec 2)
  | lpiEntry (port : BitVec 2)
  | lpiExit (port : BitVec 2)
  | lldpTransmit (port : BitVec 2)
  | lldpTtlExpiry (port : BitVec 2)
  | lecClear (ag : Agent) (port : BitVec 2)
  -- the transport (12, 13)
  | workRequestStart (q : BitVec 6)
  | packetSend (tag : BitVec 12)
  | write (collided : Option (BitVec 6))
  | send (collided : Option (BitVec 6))
  | atomicAdd (collided : Bool)
  | cas (collided : Bool)
  | ackDelayExpiry (src tag : BitVec 12)
  | retransmitTimeout (tag : BitVec 12) (psn : BitVec 13)
  | nakResendWaitEnd (tag : BitVec 12) (psn : BitVec 13)
  | messageLifetimeEnd (tag : BitVec 12)
  | recordExpiry (src tag : BitVec 12)
  | completionSpaceWaitEnd (cq : BitVec 6)
  | hostAtomicGo (ag : Agent)
  | transportEnable (ag : Agent) (v : Word)
  | transportDisable (ag : Agent) (v : Word)
  | keyLoad (ag : Agent)
  | keyEpoch (ag : Agent) (slot : BitVec 4)
  | keyErase (ag : Agent) (slot : BitVec 4)
  | mrAttrWrite (ag : Agent) (v : Word)
  | triggerEnabled (q : BitVec 6)
  | streamBlockSend (s : BitVec 6)
  | streamResendStop (s : BitVec 6)
  -- USB (14)
  | usbAttach (highSpeed : Bool)
  | getDescriptor (type index : Byte)
  | setInterface (ifc alt : Byte)
  | clockRequest (req : ClockReq)
  | audioOutPacket (data : List Byte)
  | usbMidiEventPacket (pkt : Word)
  | universalMidiPacket (words : List Word)
  | jrTimestamp (group : BitVec 4) (ts : Half)
  | endpointDiscovery (filter : Byte)
  | streamConfigurationRequest (protocol : Byte) (jrRx : Bool)
  | functionBlockDiscovery (block filter : Byte)
  | regwr (addr value : Word)
  | regRead (seq : Half) (addr : Word) (len : Word)
  | regWrite (seq : Half) (addr : Word) (len : Word) (data : List Byte)
  | memRead (seq : Half) (addr : Word) (len : Word)
  | memWrite (seq : Half) (addr : Word) (len : Word) (data : List Byte)
  | lock (seq : Half) (len : Word) (payload : List Byte)
  | remoteWake (busLeftIdle : Bool)
  -- UARTs (14)
  | uartReceiveCharacter (u : BitVec 1) (byte : Byte) (fe pe brk : Bool)
  | uartStatRead (ag : Agent) (u : BitVec 1)
  | uartDataRead (ag : Agent) (u : BitVec 1)
  | uartDataWrite (ag : Agent) (u : BitVec 1) (byte : Byte)
  | consoleFrame (gap : Bool)
  -- host register port (15)
  | hostLowHalfRead (off : BitVec 21)
  | hostHighHalfRead (off : BitVec 21)
  | hostLowHalfWrite (off : BitVec 21) (data : Half) (be : BitVec 2)
  | hostHighHalfWrite (off : BitVec 21) (data : Half) (be : BitVec 2)
  | resWordRead (g : Group)
  | resultGroupRead (g : Group) (word : BitVec 5)
  | resultLockTimeout (g : Group)
  | mailboxWrite (half : BitVec 3) (data : Half) (be : BitVec 2)
  | apertureRead (off : BitVec 20)
  | refresh (ag : Agent)
  | hrpApbaseWrite (ag : Agent) (v : Word)
  | apertureFillComplete (ecc : List Ecc)
  | apertureWrite (off : BitVec 20) (data : Half) (be : BitVec 2)
  | apertureWritePerform (collided : Bool)
  | noticeRead (ecc : Bool)
  | hrpCxselWrite (ag : Agent) (v : Word)
  -- timers (16)
  | timerEnable (ag : Agent) (n : BitVec 3) (v : Word)
  | timerDisable (ag : Agent) (n : BitVec 3) (v : Word)
  | timerZero (n : BitVec 3)
  | timerMatch (n : BitVec 3)
  | timerCapture (n : BitVec 3) (level : Bool)
  | timerCapRead (ag : Agent) (n : BitVec 3)
  | timerIomodeWrite (ag : Agent) (n : BitVec 3) (v : Word)
  | wdtKick (k : Kick)
  | wdtLock (ag : Agent)
  -- modes and energy (17)
  | reqLeave (ag : Agent)
  | reqSafe (ag : Agent)
  | reqIdle (ag : Agent)
  | reqDormant (ag : Agent)
  | reqService (ag : Agent)
  | wake (sources : Byte) (ctxErr : Bool)
  | vidStep (marginHigh : Bool)
  | hot (tj : Half)
  | temperatureLimit (tj : Half)
  -- faults (18)
  | selftestVerdict (u : UnitId) (pass : Bool) (step : BitVec 2) (micros : Nat)
  | selftestAbort (u : UnitId)
  | scoreDecay (cls : BitVec 4) (index : Byte) (upset : Bool)
  | stateSplit (kind : BitVec 4) (index : Byte)
  | mstWrite (ag : Agent) (kind : BitVec 4) (index : Byte) (v : BitVec 2)
  -- field lock (19)
  | getstate (k : Carrier)
  | challenge (k : Carrier) (scope : Byte)
  | respond (k : Carrier) (body : List Byte)
  | password (k : Carrier) (scope : Byte) (body : List Byte)
  | relock (k : Carrier)
  | lckCtlRelock (ag : Agent)
  | lckHcmdGo (ag : Agent)
  | setpw (ag : Agent) | setkey (ag : Agent) | lockpw (ag : Agent) | lockcr (ag : Agent) | sealLock (ag : Agent)
  | serviceTest (ag : Agent)
  | flogrd (ag : Agent)
  -- supplies, TAP and the rest (20, 21)
  | powerOnRelease (otpBad : Bool)
  | samplePreload (cells : List Bool)
  | bypass (code : BitVec 5)
  | registerWrite (ag : Agent) (off : BitVec 20) (v : Word)
  | supplyCollapse (opsDone : Nat)
  | pcsBlockError (port : BitVec 2)
  | partnerLowPowerIdle (port : BitVec 2) (enter : Bool)
  | setAddress (addr : BitVec 7)
  | setConfiguration (cfg : Byte)
  | remoteWakeEnable (on : Bool)
  | uartTransmitCharacter (u : BitVec 1)
  -- the commands without operands, last
  | resetNLow | faultLogAppend
  | spillOffer | noteOn | noteOff | polyPress | control | pitchBend | program | perNote | partMode | spillNote | mark
  | validateDone | spillDeadline | leaseKeepalive | leaseExpiry | leaseFree | ledgerOfferUpdate
  | queueExit | muteRampEnd | pauseResume
  | bthVsEdge | bthHsEdge | bthWcEdge | sourceLost | holdmaxExpiry | beaconSend | delayRequestSend | masterTakeover
  | beacon | delayReq | delayResp | pllUnlock | pllRelock
  | read | mgmt | ack | nak | resp | keyDerivationDone | secureCounterWaitEnd
  | usbDetach | busReset | startOfFrame | audioInPacket | noticePacket | usbSuspend | usbResume
  | hwake | dwakeAssert
  | wdtWarn | wdtBite
  | powerDownEntry | voltageAlarm | clockHalveEnd | brownOutWarning | brownOutClear
  | nonceExpiry
  | tapReset | extest | idcode | usbPacketError | idleDormantEntryComplete
deriving DecidableEq, Repr

end Sys2Proof
end

