-- ==== Sys2Proof/Decode.lean ====
section
/-!
DEFINITION. The command that a word spells by the table's bits. No row of spec/opcode_table.json gives bits, so no word
spells a command. (The 48-bit words of a Chanter program are decoded in Machine/ChnDecode.lean.)
-/
namespace Sys2Proof

/-- No row gives bits: every word is refused. -/
def decodeTableWord (_nbits _w : Nat) : Option Instr := none

end Sys2Proof
end

