-- ==== Sys2Proof/Config.lean ====
section
/-!
DEFINITION. What the spec leaves open or states as a real or cryptographic function: constants with no body, so that no
proof can use a value of theirs. `Config.free` is the source of every value the spec leaves undefined or unstated: the
state's counter `Dev.free` draws a fresh one each time (notes/assumptions/6). The real functions stand for the functions
the equations of chapters 01, 05 and 10 name (notes/assumptions/7); the cryptographic ones for the published standards
that the spec cites and does not restate (notes/assumptions/8).
-/
namespace Sys2Proof.Config

/-- The n-th free value, as a word of w bits. -/
opaque free (w n : Nat) : BitVec w

/-- sin of x cycles, 2, 10 and e to the x, hyperbolic tangent, tan of x half cycles, base-10 logarithm. -/
opaque sinCycle : Rat → Rat
opaque pow2 : Rat → Rat
opaque pow10 : Rat → Rat
opaque expE : Rat → Rat
opaque tanh : Rat → Rat
opaque tanHalf : Rat → Rat
opaque log10 : Rat → Rat
/-- The triangle shape of an LFO: R179 names the shape and gives no phase for it. -/
opaque lfoTriangle : Rat → Rat
/-- The square root of 2 (R174). -/
opaque sqrt2 : Rat
/-- How a real sample becomes an integer bus sample: R181 gives the format and no rounding. -/
opaque busRound : Rat → Int
/-- The pink shaping filter, the device's own (R170): next output from the last output and a white sample. -/
opaque pink : Rat → Rat → Rat
/-- The frequency offset (0.001 ppm) that the second-order loop filter gives: bandwidth code, last offset, phase error
in nanoseconds. The spec gives its bandwidth and no coefficients (R82). -/
opaque loopFilter : Nat → Int → Int → Int
/-- The source's frequency offset (0.001 ppm) that R87 counts from, measured from its last interval over the nominal one. -/
opaque sourceRate : Rat → Int
/-- The loop's filtered estimate of the phase error (ns): bandwidth code, last estimate, error. Its form is not given (R95). -/
opaque phaseEstimate : Nat → Int → Int → Int
/-- How many entries a row of internal table `t` holds, where the owning chapter does not say (R715), and which protection
entries (0 to 1,023 regions, then 64 domains, 64 counters, 16 key slots, 256 cache entries) a row of that table holds. -/
opaque tableRow : Nat → Nat
opaque protRow : Nat → List Nat

/-- SHA-256 of a message. -/
opaque sha256 : List Byte → List Byte
/-- HMAC-SHA-256 of a message under a key. -/
opaque hmac : List Byte → List Byte → List Byte
/-- AES-256-GCM: ciphertext followed by the 16-byte tag, from key, IV, additional data and plaintext. -/
opaque gcmSeal : List Byte → List Byte → List Byte → List Byte → List Byte
/-- AES-256-GCM: the plaintext, or none when the tag does not match. -/
opaque gcmOpen : List Byte → List Byte → List Byte → List Byte → Option (List Byte)
/-- ECDSA P-256: does the signature over the digest verify against the public key? -/
opaque ecdsa : List Byte → List Byte → List Byte → Bool

end Sys2Proof.Config
end

