-- ==== Sys2Proof/Machine/Regs.lean ====
section
/-!
DEFINITION. The register map: every register and field of the owning chapters' tables by its name in the spec, with its
host port offset (chapter 20), stride, bits, access code, reset value and the values its table does not mark reserved.
-/
namespace Sys2Proof.Machine

/-- A field of a register (or of each register of an array): offset of the register, stride of the array, bits. -/
structure Fld where
  base   : Nat
  stride : Nat
  hi     : Nat
  lo     : Nat
deriving DecidableEq, Repr

/-- One row of a register table: where the register lies, how many, its reset value, the bits of each access code, and
for the RW fields with reserved values the ranges (first, last, step) of the values allowed (R7). -/
structure RegRow where
  base   : Nat
  stride : Nat
  count  : Nat
  reset  : Word
  rw     : Word
  w1c    : Word
  w1s    : Word
  rc     : Word
  wo     : Word
  ok     : List (Nat × Nat × List (Nat × Nat × Nat))
deriving DecidableEq, Repr

/-! ### SYS -/

def SYS_ID.PART : Fld := ⟨0x0, 0x0, 15, 0⟩
def SYS_ID.STEPMAJ : Fld := ⟨0x0, 0x0, 19, 16⟩
def SYS_ID.STEPMIN : Fld := ⟨0x0, 0x0, 23, 20⟩
def SYS_ID.TGRADE : Fld := ⟨0x0, 0x0, 24, 24⟩
def SYS_MODE.MODE : Fld := ⟨0x4, 0x0, 2, 0⟩
def SYS_BLK.BLK : Fld := ⟨0x8, 0x0, 6, 0⟩
def SYS_BLKNUM : Fld := ⟨0xC, 0x0, 31, 0⟩
def SYS_SCRATCH : Fld := ⟨0x10, 0x0, 31, 0⟩

/-- Register rows of the SYS block (20). -/
def rowsSYS : List RegRow :=
  [⟨0x0, 0x0, 1, 0x14096, 0x0, 0x0, 0x0, 0x0, 0x0, []⟩,
   ⟨0x4, 0x0, 1, 0x0, 0x0, 0x0, 0x0, 0x0, 0x0, []⟩,
   ⟨0x8, 0x0, 1, 0x20, 0x7F, 0x0, 0x0, 0x0, 0x0, [(6, 0, [(16, 16, 1), (32, 32, 1), (64, 64, 1)])]⟩,
   ⟨0xC, 0x0, 1, 0x0, 0x0, 0x0, 0x0, 0x0, 0x0, []⟩,
   ⟨0x10, 0x0, 1, 0x0, 0xFFFFFFFF, 0x0, 0x0, 0x0, 0x0, []⟩]

/-! ### CFG -/

def CFG_STAT.COPY : Fld := ⟨0x1000, 0x0, 0, 0⟩
def CFG_STAT.ONECOPY : Fld := ⟨0x1000, 0x0, 1, 1⟩
def CFG_STAT.SEQEQ : Fld := ⟨0x1000, 0x0, 2, 2⟩
def CFG_STAT.DEFAULTS : Fld := ⟨0x1000, 0x0, 3, 3⟩
def CFG_STAT.SIGFAIL : Fld := ⟨0x1000, 0x0, 4, 4⟩
def CFG_STAT.SIGREQ : Fld := ⟨0x1000, 0x0, 5, 5⟩
def CFG_STAT.NOSFDP : Fld := ⟨0x1000, 0x0, 6, 6⟩
def CFG_STAT.NOFLASH : Fld := ⟨0x1000, 0x0, 7, 7⟩
def CFG_STAT.BADSEC : Fld := ⟨0x1000, 0x0, 8, 8⟩
def CFG_STAT.ADDR32 : Fld := ⟨0x1000, 0x0, 9, 9⟩
def CFG_STAT.Q144 : Fld := ⟨0x1000, 0x0, 10, 10⟩
def CFG_STAT.PMRLF : Fld := ⟨0x1000, 0x0, 11, 11⟩
def CFG_STAT.FLOGNA : Fld := ⟨0x1000, 0x0, 12, 12⟩
def CFG_STAT.WHYA : Fld := ⟨0x1000, 0x0, 19, 16⟩
def CFG_STAT.WHYB : Fld := ⟨0x1000, 0x0, 23, 20⟩
def CFG_SEQ : Fld := ⟨0x1004, 0x0, 31, 0⟩
def CFG_BODYLEN : Fld := ⟨0x1008, 0x0, 31, 0⟩
def CFG_FLSIZE : Fld := ⟨0x100C, 0x0, 31, 0⟩
def CFG_CTL.RELOAD : Fld := ⟨0x1010, 0x0, 0, 0⟩
def CFG_SKIP.SECT : Fld := ⟨0x1014, 0x0, 7, 0⟩
def CFG_SKIP.REG : Fld := ⟨0x1014, 0x0, 23, 8⟩
def CFG_SKIP.FLOG : Fld := ⟨0x1014, 0x0, 31, 24⟩
def CFG_UPD_CMD.CMD : Fld := ⟨0x1020, 0x0, 3, 0⟩
def CFG_UPD_STAT.BUSY : Fld := ⟨0x1024, 0x0, 0, 0⟩
def CFG_UPD_STAT.STEP : Fld := ⟨0x1024, 0x0, 3, 1⟩
def CFG_UPD_STAT.AGENT : Fld := ⟨0x1024, 0x0, 4, 4⟩
def CFG_UPD_STAT.ERR : Fld := ⟨0x1024, 0x0, 11, 8⟩
def CFG_UPD_STAT.XERR : Fld := ⟨0x1024, 0x0, 15, 12⟩
def CFG_UPD_SRC : Fld := ⟨0x1028, 0x0, 31, 0⟩
def CFG_UPD_OFF : Fld := ⟨0x102C, 0x0, 31, 0⟩
def CFG_UPD_LEN : Fld := ⟨0x1030, 0x0, 31, 0⟩
def CFG_UPD_BLEN : Fld := ⟨0x1034, 0x0, 31, 0⟩
def CFG_UPD_CRC : Fld := ⟨0x1038, 0x0, 31, 0⟩
def CFG_FLOG : Fld := ⟨0x1100, 0x4, 31, 0⟩

/-- Register rows of the CFG block (02). -/
def rowsCFG : List RegRow :=
  [⟨0x1000, 0x0, 1, 0x0, 0x0, 0x800, 0x0, 0x0, 0x0, []⟩,
   ⟨0x1004, 0x0, 1, 0x0, 0x0, 0x0, 0x0, 0x0, 0x0, []⟩,
   ⟨0x1008, 0x0, 1, 0x0, 0x0, 0x0, 0x0, 0x0, 0x0, []⟩,
   ⟨0x100C, 0x0, 1, 0x0, 0x0, 0x0, 0x0, 0x0, 0x0, []⟩,
   ⟨0x1010, 0x0, 1, 0x0, 0x0, 0x0, 0x0, 0x0, 0x1, []⟩,
   ⟨0x1014, 0x0, 1, 0x0, 0x0, 0x0, 0x0, 0xFFFFFFFF, 0x0, []⟩,
   ⟨0x1020, 0x0, 1, 0x0, 0x0, 0x0, 0x0, 0x0, 0xF, []⟩,
   ⟨0x1024, 0x0, 1, 0x0, 0x0, 0x0, 0x0, 0xFF00, 0x0, []⟩,
   ⟨0x1028, 0x0, 1, 0x0, 0xFFFFFFFF, 0x0, 0x0, 0x0, 0x0, []⟩,
   ⟨0x102C, 0x0, 1, 0x0, 0xFFFFFFFF, 0x0, 0x0, 0x0, 0x0, []⟩,
   ⟨0x1030, 0x0, 1, 0x0, 0xFFFFFFFF, 0x0, 0x0, 0x0, 0x0, []⟩,
   ⟨0x1034, 0x0, 1, 0x0, 0xFFFFFFFF, 0x0, 0x0, 0x0, 0x0, []⟩,
   ⟨0x1038, 0x0, 1, 0x0, 0xFFFFFFFF, 0x0, 0x0, 0x0, 0x0, []⟩,
   ⟨0x1100, 0x4, 128, 0x0, 0x0, 0x0, 0x0, 0x0, 0x0, []⟩]

/-! ### BRT -/

def BRT_CTL.SRC : Fld := ⟨0x2000, 0x0, 2, 0⟩
def BRT_CTL.FS : Fld := ⟨0x2000, 0x0, 6, 4⟩
def BRT_CTL.JUMP : Fld := ⟨0x2000, 0x0, 8, 8⟩
def BRT_CTL.BW : Fld := ⟨0x2000, 0x0, 10, 9⟩
def BRT_CTL.WCDIV : Fld := ⟨0x2000, 0x0, 12, 11⟩
def BRT_CTL.VSPOL : Fld := ⟨0x2000, 0x0, 13, 13⟩
def BRT_CTL.HSPOL : Fld := ⟨0x2000, 0x0, 14, 14⟩
def BRT_CTL.HSEN : Fld := ⟨0x2000, 0x0, 15, 15⟩
def BRT_CTL.WCOEN : Fld := ⟨0x2000, 0x0, 16, 16⟩
def BRT_CTL.REBASE : Fld := ⟨0x2000, 0x0, 17, 17⟩
def BRT_STAT.STATE : Fld := ⟨0x2004, 0x0, 1, 0⟩
def BRT_STAT.SRCOK : Fld := ⟨0x2004, 0x0, 2, 2⟩
def BRT_STAT.SLEW : Fld := ⟨0x2004, 0x0, 3, 3⟩
def BRT_STAT.PAUSE : Fld := ⟨0x2004, 0x0, 4, 4⟩
def BRT_STAT.FIRST : Fld := ⟨0x2004, 0x0, 5, 5⟩
def BRT_STAT.MASTER : Fld := ⟨0x2004, 0x0, 6, 6⟩
def BRT_STAT.RUNNING : Fld := ⟨0x2004, 0x0, 7, 7⟩
def BRT_STAT.JUMPED : Fld := ⟨0x2004, 0x0, 8, 8⟩
def BRT_STAT.RANGE : Fld := ⟨0x2004, 0x0, 9, 9⟩
def BRT_STAT.VIDFMT : Fld := ⟨0x2004, 0x0, 10, 10⟩
def BRT_STAT.BACKWARD : Fld := ⟨0x2004, 0x0, 11, 11⟩
def BRT_STAT.PLLUNL : Fld := ⟨0x2004, 0x0, 12, 12⟩
def BRT_STAT.GLITCH : Fld := ⟨0x2004, 0x0, 13, 13⟩
def BRT_POS_L : Fld := ⟨0x2008, 0x0, 31, 0⟩
def BRT_POS_H : Fld := ⟨0x200C, 0x0, 31, 0⟩
def BRT_PHERR : Fld := ⟨0x2010, 0x0, 31, 0⟩
def BRT_FERR : Fld := ⟨0x2014, 0x0, 31, 0⟩
def BRT_HOLDMAX : Fld := ⟨0x2018, 0x0, 31, 0⟩
def BRT_LATEWIN : Fld := ⟨0x201C, 0x0, 19, 0⟩
def BRT_LEAD : Fld := ⟨0x2020, 0x0, 12, 0⟩
def BRT_SPF_NUM : Fld := ⟨0x2024, 0x0, 23, 0⟩
def BRT_SPF_DEN : Fld := ⟨0x2028, 0x0, 15, 0⟩
def BRT_VID.VLINES : Fld := ⟨0x202C, 0x0, 12, 0⟩
def BRT_LOCKTOL : Fld := ⟨0x2030, 0x0, 15, 0⟩
def BRT_FAB.MASTEN : Fld := ⟨0x2034, 0x0, 0, 0⟩
def BRT_FAB.FPRIO : Fld := ⟨0x2034, 0x0, 15, 8⟩
def BRT_FAB.TKO : Fld := ⟨0x2034, 0x0, 31, 16⟩
def BRT_FMASTER.NODE : Fld := ⟨0x2038, 0x0, 11, 0⟩
def BRT_FMASTER.PRIO : Fld := ⟨0x2038, 0x0, 23, 16⟩
def BRT_FMASTER.VALID : Fld := ⟨0x2038, 0x0, 31, 31⟩
def BRT_PDLY : Fld := ⟨0x203C, 0x0, 31, 0⟩
def BRT_EPOCH_L : Fld := ⟨0x2040, 0x0, 31, 0⟩
def BRT_EPOCH_H : Fld := ⟨0x2044, 0x0, 31, 0⟩
def BRT_NLOSS : Fld := ⟨0x2050, 0x0, 31, 0⟩
def BRT_NJUMP : Fld := ⟨0x2054, 0x0, 31, 0⟩
def BRT_NGLITCH : Fld := ⟨0x2058, 0x0, 31, 0⟩
def BRT_NOUTLIER : Fld := ⟨0x205C, 0x0, 31, 0⟩

/-- Register rows of the BRT block (03). -/
def rowsBRT : List RegRow :=
  [⟨0x2000, 0x0, 1, 0x210, 0x1FF07, 0x0, 0x0, 0x0, 0x20000, [(2, 0, [(0, 4, 1)]), (12, 11, [(0, 2, 1)])]⟩,
   ⟨0x2004, 0x0, 1, 0x23, 0x0, 0x3F00, 0x0, 0x0, 0x0, []⟩,
   ⟨0x2008, 0x0, 1, 0x0, 0x0, 0x0, 0x0, 0x0, 0x0, []⟩,
   ⟨0x200C, 0x0, 1, 0x0, 0x0, 0x0, 0x0, 0x0, 0x0, []⟩,
   ⟨0x2010, 0x0, 1, 0x0, 0x0, 0x0, 0x0, 0x0, 0x0, []⟩,
   ⟨0x2014, 0x0, 1, 0x0, 0x0, 0x0, 0x0, 0x0, 0x0, []⟩,
   ⟨0x2018, 0x0, 1, 0x2710, 0xFFFFFFFF, 0x0, 0x0, 0x0, 0x0, [(31, 0, [(0, 600000, 1)])]⟩,
   ⟨0x201C, 0x0, 1, 0x12C0, 0xFFFFF, 0x0, 0x0, 0x0, 0x0, []⟩,
   ⟨0x2020, 0x0, 1, 0x100, 0x1FFF, 0x0, 0x0, 0x0, 0x0, [(12, 0, [(32, 4096, 1)])]⟩,
   ⟨0x2024, 0x0, 1, 0x320, 0xFFFFFF, 0x0, 0x0, 0x0, 0x0, [(23, 0, [(1, 16777215, 1)])]⟩,
   ⟨0x2028, 0x0, 1, 0x1, 0xFFFF, 0x0, 0x0, 0x0, 0x0, [(15, 0, [(1, 65535, 1)])]⟩,
   ⟨0x202C, 0x0, 1, 0x465, 0x1FFF, 0x0, 0x0, 0x0, 0x0, [(12, 0, [(1, 8191, 1)])]⟩,
   ⟨0x2030, 0x0, 1, 0x3E8, 0xFFFF, 0x0, 0x0, 0x0, 0x0, [(15, 0, [(10, 65535, 1)])]⟩,
   ⟨0x2034, 0x0, 1, 0x208000, 0xFFFFFF01, 0x0, 0x0, 0x0, 0x0, [(31, 16, [(4, 65535, 1)])]⟩,
   ⟨0x2038, 0x0, 1, 0x0, 0x0, 0x0, 0x0, 0x0, 0x0, []⟩,
   ⟨0x203C, 0x0, 1, 0x0, 0x0, 0x0, 0x0, 0x0, 0x0, []⟩,
   ⟨0x2040, 0x0, 1, 0x0, 0x0, 0x0, 0x0, 0x0, 0x0, []⟩,
   ⟨0x2044, 0x0, 1, 0x0, 0x0, 0x0, 0x0, 0x0, 0x0, []⟩,
   ⟨0x2050, 0x0, 1, 0x0, 0x0, 0x0, 0x0, 0xFFFFFFFF, 0x0, []⟩,
   ⟨0x2054, 0x0, 1, 0x0, 0x0, 0x0, 0x0, 0xFFFFFFFF, 0x0, []⟩,
   ⟨0x2058, 0x0, 1, 0x0, 0x0, 0x0, 0x0, 0xFFFFFFFF, 0x0, []⟩,
   ⟨0x205C, 0x0, 1, 0x0, 0x0, 0x0, 0x0, 0xFFFFFFFF, 0x0, []⟩]

/-! ### EVS -/

def EVS_CTL.JRDLY : Fld := ⟨0x3000, 0x0, 12, 0⟩
def EVS_CTL.JREN : Fld := ⟨0x3000, 0x0, 16, 16⟩
def EVS_STAT.PEND : Fld := ⟨0x3004, 0x0, 16, 0⟩
def EVS_STAT.PANIC : Fld := ⟨0x3004, 0x0, 21, 17⟩
def EVS_STAT.FULL : Fld := ⟨0x3004, 0x0, 22, 22⟩
def EVS_STAT.WASFULL : Fld := ⟨0x3004, 0x0, 23, 23⟩
def EVS_CAP : Fld := ⟨0x3008, 0x0, 16, 0⟩
def EVS_QSEL.EVQ : Fld := ⟨0x300C, 0x0, 5, 0⟩
def EVS_QSEL.EVQEN : Fld := ⟨0x300C, 0x0, 7, 7⟩
def EVS_QSEL.SPQ : Fld := ⟨0x300C, 0x0, 13, 8⟩
def EVS_QSEL.SPQEN : Fld := ⟨0x300C, 0x0, 15, 15⟩
def EVS_HWM : Fld := ⟨0x3010, 0x0, 16, 0⟩
def EVS_MARKPOS_L : Fld := ⟨0x3018, 0x0, 31, 0⟩
def EVS_MARKPOS_H : Fld := ⟨0x301C, 0x0, 31, 0⟩
def EVS_MARKVAL.VALA : Fld := ⟨0x3020, 0x0, 15, 0⟩
def EVS_MARKVAL.VALB : Fld := ⟨0x3020, 0x0, 31, 16⟩
def EVS_LATE : Fld := ⟨0x3040, 0x0, 31, 0⟩
def EVS_STALE : Fld := ⟨0x3044, 0x0, 31, 0⟩
def EVS_DROP : Fld := ⟨0x3048, 0x0, 31, 0⟩
def EVS_FAR : Fld := ⟨0x304C, 0x0, 31, 0⟩
def EVS_BADOP : Fld := ⟨0x3050, 0x0, 31, 0⟩
def EVS_BADARG : Fld := ⟨0x3054, 0x0, 31, 0⟩
def EVS_UNBOUND : Fld := ⟨0x3058, 0x0, 31, 0⟩
def EVS_DEFER : Fld := ⟨0x305C, 0x0, 31, 0⟩
def EVS_FLUSHED : Fld := ⟨0x3060, 0x0, 31, 0⟩
def EVS_PANICMERGE : Fld := ⟨0x3064, 0x0, 31, 0⟩
def EVS_JRSLIP : Fld := ⟨0x3068, 0x0, 31, 0⟩
def EVS_IGNORED : Fld := ⟨0x306C, 0x0, 31, 0⟩
def EVS_BADWIN : Fld := ⟨0x3070, 0x0, 31, 0⟩
def EVS_ECCCOR : Fld := ⟨0x3074, 0x0, 31, 0⟩
def EVS_LOST : Fld := ⟨0x3078, 0x0, 31, 0⟩

/-- Register rows of the EVS block (04). -/
def rowsEVS : List RegRow :=
  [⟨0x3000, 0x0, 1, 0x10060, 0x11FFF, 0x0, 0x0, 0x0, 0x0, [(12, 0, [(0, 4800, 1)])]⟩,
   ⟨0x3004, 0x0, 1, 0x0, 0x0, 0x800000, 0x0, 0x0, 0x0, []⟩,
   ⟨0x3008, 0x0, 1, 0x10000, 0x0, 0x0, 0x0, 0x0, 0x0, []⟩,
   ⟨0x300C, 0x0, 1, 0x100, 0xBFBF, 0x0, 0x0, 0x0, 0x0, []⟩,
   ⟨0x3010, 0x0, 1, 0x0, 0x0, 0x0, 0x0, 0x1FFFF, 0x0, []⟩,
   ⟨0x3018, 0x0, 1, 0x0, 0x0, 0x0, 0x0, 0x0, 0x0, []⟩,
   ⟨0x301C, 0x0, 1, 0x0, 0x0, 0x0, 0x0, 0x0, 0x0, []⟩,
   ⟨0x3020, 0x0, 1, 0x0, 0x0, 0x0, 0x0, 0x0, 0x0, []⟩,
   ⟨0x3040, 0x0, 1, 0x0, 0x0, 0x0, 0x0, 0xFFFFFFFF, 0x0, []⟩,
   ⟨0x3044, 0x0, 1, 0x0, 0x0, 0x0, 0x0, 0xFFFFFFFF, 0x0, []⟩,
   ⟨0x3048, 0x0, 1, 0x0, 0x0, 0x0, 0x0, 0xFFFFFFFF, 0x0, []⟩,
   ⟨0x304C, 0x0, 1, 0x0, 0x0, 0x0, 0x0, 0xFFFFFFFF, 0x0, []⟩,
   ⟨0x3050, 0x0, 1, 0x0, 0x0, 0x0, 0x0, 0xFFFFFFFF, 0x0, []⟩,
   ⟨0x3054, 0x0, 1, 0x0, 0x0, 0x0, 0x0, 0xFFFFFFFF, 0x0, []⟩,
   ⟨0x3058, 0x0, 1, 0x0, 0x0, 0x0, 0x0, 0xFFFFFFFF, 0x0, []⟩,
   ⟨0x305C, 0x0, 1, 0x0, 0x0, 0x0, 0x0, 0xFFFFFFFF, 0x0, []⟩,
   ⟨0x3060, 0x0, 1, 0x0, 0x0, 0x0, 0x0, 0xFFFFFFFF, 0x0, []⟩,
   ⟨0x3064, 0x0, 1, 0x0, 0x0, 0x0, 0x0, 0xFFFFFFFF, 0x0, []⟩,
   ⟨0x3068, 0x0, 1, 0x0, 0x0, 0x0, 0x0, 0xFFFFFFFF, 0x0, []⟩,
   ⟨0x306C, 0x0, 1, 0x0, 0x0, 0x0, 0x0, 0xFFFFFFFF, 0x0, []⟩,
   ⟨0x3070, 0x0, 1, 0x0, 0x0, 0x0, 0x0, 0xFFFFFFFF, 0x0, []⟩,
   ⟨0x3074, 0x0, 1, 0x0, 0x0, 0x0, 0x0, 0xFFFFFFFF, 0x0, []⟩,
   ⟨0x3078, 0x0, 1, 0x0, 0x0, 0x0, 0x0, 0xFFFFFFFF, 0x0, []⟩]

/-! ### VAL -/

def VAL_CTL.HOLD : Fld := ⟨0x4000, 0x0, 0, 0⟩
def VAL_CTL.SPILLEN : Fld := ⟨0x4000, 0x0, 1, 1⟩
def VAL_CTL.HOSTEN : Fld := ⟨0x4000, 0x0, 2, 2⟩
def VAL_STAT.GHOSTS : Fld := ⟨0x4004, 0x0, 7, 0⟩
def VAL_STAT.SPMAP : Fld := ⟨0x4004, 0x0, 18, 8⟩
def VAL_STAT.RSVCUT : Fld := ⟨0x4004, 0x0, 19, 19⟩
def VAL_STAT.PARTERR : Fld := ⟨0x4004, 0x0, 20, 20⟩
def VAL_STAT.LEASES : Fld := ⟨0x4004, 0x0, 29, 21⟩
def VAL_STAT.RETERR : Fld := ⟨0x4004, 0x0, 30, 30⟩
def VAL_LANE.MINON : Fld := ⟨0x4008, 0x0, 5, 0⟩
def VAL_LANE.IDLE : Fld := ⟨0x4008, 0x0, 15, 8⟩
def VAL_LANE.MINFREE : Fld := ⟨0x4008, 0x0, 27, 16⟩
def VAL_SPILL.HOSTPART : Fld := ⟨0x400C, 0x0, 5, 0⟩
def VAL_SPILL.OFFER : Fld := ⟨0x400C, 0x0, 16, 8⟩
def VAL_SPILL.KEEP : Fld := ⟨0x400C, 0x0, 31, 20⟩
def VAL_SPILL2.RETBLK : Fld := ⟨0x4010, 0x0, 3, 0⟩
def VAL_SPILL2.TRIES : Fld := ⟨0x4010, 0x0, 7, 4⟩
def VAL_SPILL2.GUARD : Fld := ⟨0x4010, 0x0, 19, 8⟩
def VAL_SPILL2.WQ : Fld := ⟨0x4010, 0x0, 25, 20⟩
def VAL_LEDGER : Fld := ⟨0x4014, 0x0, 31, 6⟩
def VAL_LEASEMAX : Fld := ⟨0x4018, 0x0, 31, 0⟩
def VAL_PREDICT.NSEEN : Fld := ⟨0x401C, 0x0, 6, 0⟩
def VAL_PREDICT.HEADROOM : Fld := ⟨0x401C, 0x0, 27, 16⟩
def VAL_STEALS : Fld := ⟨0x4040, 0x0, 31, 0⟩
def VAL_HARDCUT : Fld := ⟨0x4044, 0x0, 31, 0⟩
def VAL_REFUSED : Fld := ⟨0x4048, 0x0, 31, 0⟩
def VAL_ORPHAN : Fld := ⟨0x404C, 0x0, 31, 0⟩
def VAL_SPILLS : Fld := ⟨0x4050, 0x0, 31, 0⟩
def VAL_SPILLFAIL : Fld := ⟨0x4054, 0x0, 31, 0⟩
def VAL_SPILLLATE : Fld := ⟨0x4058, 0x0, 31, 0⟩
def VAL_RETLATE : Fld := ⟨0x405C, 0x0, 31, 0⟩
def VAL_FWDLATE : Fld := ⟨0x4060, 0x0, 31, 0⟩
def VAL_LEASEEXP : Fld := ⟨0x4064, 0x0, 31, 0⟩
def VAL_DISPLACED : Fld := ⟨0x4068, 0x0, 31, 0⟩
def VAL_LANEWAKE : Fld := ⟨0x406C, 0x0, 31, 0⟩
def VAL_LEASEBAD : Fld := ⟨0x4070, 0x0, 31, 0⟩
def VAL_PEER.NODE : Fld := ⟨0x4100, 0x10, 11, 0⟩
def VAL_PEER.EN : Fld := ⟨0x4100, 0x10, 15, 15⟩
def VAL_PEER.SPQ : Fld := ⟨0x4100, 0x10, 21, 16⟩
def VAL_PEER.EVQ : Fld := ⟨0x4100, 0x10, 29, 24⟩
def VAL_PEER_LEDGER : Fld := ⟨0x4104, 0x10, 31, 0⟩
def VAL_PEER_RKEY : Fld := ⟨0x4108, 0x10, 31, 0⟩
def VAL_PEER_RXSLOT.RXSLOT : Fld := ⟨0x410C, 0x10, 5, 0⟩
def VAL_PART : Fld := ⟨0x4400, 0x4, 31, 0⟩

/-- Register rows of the VAL block (06). -/
def rowsVAL : List RegRow :=
  [⟨0x4000, 0x0, 1, 0x0, 0x7, 0x0, 0x0, 0x0, 0x0, []⟩,
   ⟨0x4004, 0x0, 1, 0x0, 0x0, 0x100000, 0x0, 0x0, 0x0, []⟩,
   ⟨0x4008, 0x0, 1, 0x104001, 0xFFFFF3F, 0x0, 0x0, 0x0, 0x0, [(5, 0, [(1, 32, 1)]), (15, 8, [(1, 255, 1)])]⟩,
   ⟨0x400C, 0x0, 1, 0x1000003F, 0xFFF1FF3F, 0x0, 0x0, 0x0, 0x0, [(16, 8, [(0, 256, 1)])]⟩,
   ⟨0x4010, 0x0, 1, 0x6044, 0x3FFFFFF, 0x0, 0x0, 0x0, 0x0, [(7, 4, [(1, 15, 1)])]⟩,
   ⟨0x4014, 0x0, 1, 0x0, 0xFFFFFFC0, 0x0, 0x0, 0x0, 0x0, []⟩,
   ⟨0x4018, 0x0, 1, 0x7530, 0xFFFFFFFF, 0x0, 0x0, 0x0, 0x0, [(31, 0, [(1000, 600000, 1)])]⟩,
   ⟨0x401C, 0x0, 1, 0x100000, 0x0, 0x0, 0x0, 0x0, 0x0, []⟩,
   ⟨0x4040, 0x0, 1, 0x0, 0x0, 0x0, 0x0, 0xFFFFFFFF, 0x0, []⟩,
   ⟨0x4044, 0x0, 1, 0x0, 0x0, 0x0, 0x0, 0xFFFFFFFF, 0x0, []⟩,
   ⟨0x4048, 0x0, 1, 0x0, 0x0, 0x0, 0x0, 0xFFFFFFFF, 0x0, []⟩,
   ⟨0x404C, 0x0, 1, 0x0, 0x0, 0x0, 0x0, 0xFFFFFFFF, 0x0, []⟩,
   ⟨0x4050, 0x0, 1, 0x0, 0x0, 0x0, 0x0, 0xFFFFFFFF, 0x0, []⟩,
   ⟨0x4054, 0x0, 1, 0x0, 0x0, 0x0, 0x0, 0xFFFFFFFF, 0x0, []⟩,
   ⟨0x4058, 0x0, 1, 0x0, 0x0, 0x0, 0x0, 0xFFFFFFFF, 0x0, []⟩,
   ⟨0x405C, 0x0, 1, 0x0, 0x0, 0x0, 0x0, 0xFFFFFFFF, 0x0, []⟩,
   ⟨0x4060, 0x0, 1, 0x0, 0x0, 0x0, 0x0, 0xFFFFFFFF, 0x0, []⟩,
   ⟨0x4064, 0x0, 1, 0x0, 0x0, 0x0, 0x0, 0xFFFFFFFF, 0x0, []⟩,
   ⟨0x4068, 0x0, 1, 0x0, 0x0, 0x0, 0x0, 0xFFFFFFFF, 0x0, []⟩,
   ⟨0x406C, 0x0, 1, 0x0, 0x0, 0x0, 0x0, 0xFFFFFFFF, 0x0, []⟩,
   ⟨0x4070, 0x0, 1, 0x0, 0x0, 0x0, 0x0, 0xFFFFFFFF, 0x0, []⟩,
   ⟨0x4100, 0x10, 16, 0x0, 0x3F3F8FFF, 0x0, 0x0, 0x0, 0x0, []⟩,
   ⟨0x4104, 0x10, 16, 0x0, 0xFFFFFFFF, 0x0, 0x0, 0x0, 0x0, []⟩,
   ⟨0x4108, 0x10, 16, 0x0, 0xFFFFFFFF, 0x0, 0x0, 0x0, 0x0, []⟩,
   ⟨0x410C, 0x10, 16, 0x0, 0x3F, 0x0, 0x0, 0x0, 0x0, []⟩,
   ⟨0x4400, 0x4, 512, 0x0, 0xFFFFFFFF, 0x0, 0x0, 0x0, 0x0, []⟩]

/-! ### RDA -/

def RDA_CTL.ELEN : Fld := ⟨0x5000, 0x0, 0, 0⟩
def RDA_STAT.ACTIVE : Fld := ⟨0x5004, 0x0, 12, 0⟩
def RDA_STAT.ELIDED : Fld := ⟨0x5004, 0x0, 28, 16⟩
def RDA_CAP : Fld := ⟨0x5008, 0x0, 12, 0⟩
def RDA_LANEPWR : Fld := ⟨0x500C, 0x0, 31, 0⟩
def RDA_LANERET : Fld := ⟨0x5010, 0x0, 31, 0⟩
def RDA_PLIB.BANK : Fld := ⟨0x5014, 0x0, 6, 0⟩
def RDA_PCMD.OP : Fld := ⟨0x5018, 0x0, 1, 0⟩
def RDA_PCMD.NUM : Fld := ⟨0x5018, 0x0, 25, 16⟩
def RDA_PSTAT.BUSY : Fld := ⟨0x501C, 0x0, 0, 0⟩
def RDA_PSTAT.RES : Fld := ⟨0x501C, 0x0, 3, 1⟩
def RDA_PSTAT.NUM : Fld := ⟨0x501C, 0x0, 25, 16⟩
def RDA_RSEL.N : Fld := ⟨0x5020, 0x0, 11, 0⟩
def RDA_RINFO0.STATE : Fld := ⟨0x5024, 0x0, 2, 0⟩
def RDA_RINFO0.PART : Fld := ⟨0x5024, 0x0, 8, 3⟩
def RDA_RINFO0.PATCH : Fld := ⟨0x5024, 0x0, 18, 9⟩
def RDA_RINFO1.NID : Fld := ⟨0x5028, 0x0, 15, 0⟩
def RDA_RINFO1.PEAK : Fld := ⟨0x5028, 0x0, 31, 16⟩
def RDA_FETCHMISS : Fld := ⟨0x5040, 0x0, 31, 0⟩
def RDA_SRCERR : Fld := ⟨0x5044, 0x0, 31, 0⟩
def RDA_NOPATCH : Fld := ⟨0x5048, 0x0, 31, 0⟩
def RDA_BUSSAT : Fld := ⟨0x504C, 0x0, 31, 0⟩
def RDA_LPAR : Fld := ⟨0x5050, 0x0, 31, 0⟩
def RDA_ELIDES : Fld := ⟨0x5054, 0x0, 31, 0⟩
def RDA_PVALID : Fld := ⟨0x5100, 0x4, 31, 0⟩

/-- Register rows of the RDA block (05). -/
def rowsRDA : List RegRow :=
  [⟨0x5000, 0x0, 1, 0x1, 0x1, 0x0, 0x0, 0x0, 0x0, []⟩,
   ⟨0x5004, 0x0, 1, 0x0, 0x0, 0x0, 0x0, 0x0, 0x0, []⟩,
   ⟨0x5008, 0x0, 1, 0x1000, 0x0, 0x0, 0x0, 0x0, 0x0, []⟩,
   ⟨0x500C, 0x0, 1, 0x0, 0x0, 0x0, 0x0, 0x0, 0x0, []⟩,
   ⟨0x5010, 0x0, 1, 0x0, 0x0, 0x0, 0x0, 0x0, 0x0, []⟩,
   ⟨0x5014, 0x0, 1, 0x7E, 0x7F, 0x0, 0x0, 0x0, 0x0, [(6, 0, [(0, 126, 2)])]⟩,
   ⟨0x5018, 0x0, 1, 0x0, 0x0, 0x0, 0x0, 0x0, 0x3FF0003, []⟩,
   ⟨0x501C, 0x0, 1, 0x0, 0x0, 0x0, 0x0, 0x0, 0x0, []⟩,
   ⟨0x5020, 0x0, 1, 0x0, 0xFFF, 0x0, 0x0, 0x0, 0x0, []⟩,
   ⟨0x5024, 0x0, 1, 0x0, 0x0, 0x0, 0x0, 0x0, 0x0, []⟩,
   ⟨0x5028, 0x0, 1, 0x80000000, 0x0, 0x0, 0x0, 0x0, 0x0, []⟩,
   ⟨0x5040, 0x0, 1, 0x0, 0x0, 0x0, 0x0, 0xFFFFFFFF, 0x0, []⟩,
   ⟨0x5044, 0x0, 1, 0x0, 0x0, 0x0, 0x0, 0xFFFFFFFF, 0x0, []⟩,
   ⟨0x5048, 0x0, 1, 0x0, 0x0, 0x0, 0x0, 0xFFFFFFFF, 0x0, []⟩,
   ⟨0x504C, 0x0, 1, 0x0, 0x0, 0x0, 0x0, 0xFFFFFFFF, 0x0, []⟩,
   ⟨0x5050, 0x0, 1, 0x0, 0x0, 0x0, 0x0, 0xFFFFFFFF, 0x0, []⟩,
   ⟨0x5054, 0x0, 1, 0x0, 0x0, 0x0, 0x0, 0xFFFFFFFF, 0x0, []⟩,
   ⟨0x5100, 0x4, 32, 0x0, 0x0, 0x0, 0x0, 0x0, 0x0, []⟩]

/-! ### CHN -/

def CHN_CTL.MST : Fld := ⟨0x8000, 0x800, 1, 0⟩
def CHN_CTL.PWR : Fld := ⟨0x8000, 0x800, 2, 2⟩
def CHN_CTL.RESTART : Fld := ⟨0x8000, 0x800, 3, 3⟩
def CHN_CTL.STARTPC : Fld := ⟨0x8000, 0x800, 29, 16⟩
def CHN_STAT.DST : Fld := ⟨0x8004, 0x800, 1, 0⟩
def CHN_STAT.EST : Fld := ⟨0x8004, 0x800, 3, 2⟩
def CHN_STAT.RUNNING : Fld := ⟨0x8004, 0x800, 4, 4⟩
def CHN_STAT.WAITING : Fld := ⟨0x8004, 0x800, 5, 5⟩
def CHN_STAT.STOPPED : Fld := ⟨0x8004, 0x800, 6, 6⟩
def CHN_STAT.PREF : Fld := ⟨0x8004, 0x800, 7, 7⟩
def CHN_STAT.LL : Fld := ⟨0x8004, 0x800, 10, 8⟩
def CHN_STAT.DONE : Fld := ⟨0x8004, 0x800, 11, 11⟩
def CHN_STAT.FCODE : Fld := ⟨0x8004, 0x800, 15, 12⟩
def CHN_STAT.FPC : Fld := ⟨0x8004, 0x800, 29, 16⟩
def CHN_XWIN : Fld := ⟨0x8008, 0x800, 24, 17⟩
def CHN_YWIN : Fld := ⟨0x800C, 0x800, 24, 17⟩
def CHN_IEN.EN : Fld := ⟨0x8010, 0x800, 3, 0⟩
def CHN_IEN.TSEL : Fld := ⟨0x8010, 0x800, 6, 4⟩
def CHN_IPEND : Fld := ⟨0x8014, 0x800, 3, 0⟩
def CHN_DOOR.RING : Fld := ⟨0x8018, 0x800, 0, 0⟩
def CHN_NOTE : Fld := ⟨0x801C, 0x800, 15, 0⟩
def CHN_PERF.OVR : Fld := ⟨0x8020, 0x800, 7, 0⟩
def CHN_PERF.PSTALL : Fld := ⟨0x8020, 0x800, 23, 8⟩
def CHN_PERF.ECCCOR : Fld := ⟨0x8020, 0x800, 31, 24⟩
def CHN_CYC : Fld := ⟨0x8024, 0x800, 19, 0⟩
def CHN_CYCMAX : Fld := ⟨0x8028, 0x800, 19, 0⟩

/-- Register rows of the CHN block (08). -/
def rowsCHN : List RegRow :=
  [⟨0x8000, 0x800, 16, 0x2, 0x3FFF0007, 0x0, 0x0, 0x0, 0x8, []⟩,
   ⟨0x8004, 0x800, 16, 0x80A, 0x0, 0x0, 0x0, 0x0, 0x0, []⟩,
   ⟨0x8008, 0x800, 16, 0x0, 0x1FE0000, 0x0, 0x0, 0x0, 0x0, []⟩,
   ⟨0x800C, 0x800, 16, 0x0, 0x1FE0000, 0x0, 0x0, 0x0, 0x0, []⟩,
   ⟨0x8010, 0x800, 16, 0x0, 0x7F, 0x0, 0x0, 0x0, 0x0, []⟩,
   ⟨0x8014, 0x800, 16, 0x0, 0x0, 0xF, 0x0, 0x0, 0x0, []⟩,
   ⟨0x8018, 0x800, 16, 0x0, 0x0, 0x0, 0x0, 0x0, 0x1, []⟩,
   ⟨0x801C, 0x800, 16, 0x0, 0x0, 0x0, 0x0, 0x0, 0x0, []⟩,
   ⟨0x8020, 0x800, 16, 0x0, 0x0, 0x0, 0x0, 0xFFFFFFFF, 0x0, []⟩,
   ⟨0x8024, 0x800, 16, 0x0, 0x0, 0x0, 0x0, 0x0, 0x0, []⟩,
   ⟨0x8028, 0x800, 16, 0x0, 0x0, 0x0, 0x0, 0xFFFFF, 0x0, []⟩]

/-! ### BNK -/

def BNK_CTL.GMAX : Fld := ⟨0x10000, 0x0, 7, 0⟩
def BNK_CTL.SALV : Fld := ⟨0x10000, 0x0, 31, 16⟩
def BNK_STAT.HOERR : Fld := ⟨0x10004, 0x0, 0, 0⟩
def BNK_STAT.DENIED : Fld := ⟨0x10004, 0x0, 1, 1⟩
def BNK_CAP : Fld := ⟨0x10008, 0x0, 7, 0⟩
def BNK_RET : Fld := ⟨0x10010, 0x4, 31, 0⟩
def BNK_DENYLOG.BANK : Fld := ⟨0x10020, 0x0, 6, 0⟩
def BNK_DENYLOG.AGENT : Fld := ⟨0x10020, 0x0, 12, 8⟩
def BNK_DENYLOG.WR : Fld := ⟨0x10020, 0x0, 13, 13⟩
def BNK_DENYLOG.VALID : Fld := ⟨0x10020, 0x0, 31, 31⟩
def BNK_ECCCOR : Fld := ⟨0x10040, 0x0, 31, 0⟩
def BNK_ECCUNC : Fld := ⟨0x10044, 0x0, 31, 0⟩
def BNK_POISONRD : Fld := ⟨0x10048, 0x0, 31, 0⟩
def BNK_DENY : Fld := ⟨0x1004C, 0x0, 31, 0⟩
def BNK_COLL : Fld := ⟨0x10050, 0x0, 31, 0⟩
def BNK_REMAP : Fld := ⟨0x10054, 0x0, 31, 0⟩
def BNK_FORCED : Fld := ⟨0x10058, 0x0, 31, 0⟩
def BNK_CONTEND : Fld := ⟨0x1005C, 0x0, 31, 0⟩

/-- Register rows of the BNK block (09). -/
def rowsBNK : List RegRow :=
  [⟨0x10000, 0x0, 1, 0x640010, 0xFFFF00FF, 0x0, 0x0, 0x0, 0x0, [(7, 0, [(4, 255, 1)]), (31, 16, [(1, 65535, 1)])]⟩,
   ⟨0x10004, 0x0, 1, 0x0, 0x0, 0x3, 0x0, 0x0, 0x0, []⟩,
   ⟨0x10008, 0x0, 1, 0x80, 0x0, 0x0, 0x0, 0x0, 0x0, []⟩,
   ⟨0x10010, 0x4, 4, 0x0, 0x0, 0x0, 0x0, 0x0, 0x0, []⟩,
   ⟨0x10020, 0x0, 1, 0x0, 0x0, 0x80000000, 0x0, 0x0, 0x0, []⟩,
   ⟨0x10040, 0x0, 1, 0x0, 0x0, 0x0, 0x0, 0xFFFFFFFF, 0x0, []⟩,
   ⟨0x10044, 0x0, 1, 0x0, 0x0, 0x0, 0x0, 0xFFFFFFFF, 0x0, []⟩,
   ⟨0x10048, 0x0, 1, 0x0, 0x0, 0x0, 0x0, 0xFFFFFFFF, 0x0, []⟩,
   ⟨0x1004C, 0x0, 1, 0x0, 0x0, 0x0, 0x0, 0xFFFFFFFF, 0x0, []⟩,
   ⟨0x10050, 0x0, 1, 0x0, 0x0, 0x0, 0x0, 0xFFFFFFFF, 0x0, []⟩,
   ⟨0x10054, 0x0, 1, 0x0, 0x0, 0x0, 0x0, 0xFFFFFFFF, 0x0, []⟩,
   ⟨0x10058, 0x0, 1, 0x0, 0x0, 0x0, 0x0, 0xFFFFFFFF, 0x0, []⟩,
   ⟨0x1005C, 0x0, 1, 0x0, 0x0, 0x0, 0x0, 0xFFFFFFFF, 0x0, []⟩]

/-! ### BNKN -/

def BNK_OWN.OWN : Fld := ⟨0x11000, 0x10, 4, 0⟩
def BNK_OWN.BUSY : Fld := ⟨0x11000, 0x10, 8, 8⟩
def BNK_GUEST.GUEST : Fld := ⟨0x11004, 0x10, 1, 0⟩
def BNK_GUEST.RDONLY : Fld := ⟨0x11004, 0x10, 2, 2⟩
def BNK_GUEST.BUSY : Fld := ⟨0x11004, 0x10, 3, 3⟩
def BNK_MODE.MST : Fld := ⟨0x11008, 0x10, 1, 0⟩
def BNK_MODE.DST : Fld := ⟨0x11008, 0x10, 3, 2⟩
def BNK_MODE.EST : Fld := ⟨0x11008, 0x10, 5, 4⟩
def BNK_HEALTH.SPUSED : Fld := ⟨0x1100C, 0x10, 3, 0⟩
def BNK_HEALTH.LASTROW : Fld := ⟨0x1100C, 0x10, 19, 8⟩
def BNK_HEALTH.POISON : Fld := ⟨0x1100C, 0x10, 31, 20⟩

/-- Register rows of the BNKN block (09). -/
def rowsBNKN : List RegRow :=
  [⟨0x11000, 0x10, 128, 0x0, 0x1F, 0x0, 0x0, 0x0, 0x0, [(4, 0, [(0, 21, 1)])]⟩,
   ⟨0x11004, 0x10, 128, 0x0, 0x7, 0x0, 0x0, 0x0, 0x0, [(1, 0, [(0, 2, 1)])]⟩,
   ⟨0x11008, 0x10, 128, 0x0, 0x3, 0x0, 0x0, 0x0, 0x0, []⟩,
   ⟨0x1100C, 0x10, 128, 0x0, 0x0, 0x0, 0x0, 0x0, 0x0, []⟩]

/-! ### MAC -/

def MAC_CTL.MST : Fld := ⟨0x14000, 0x400, 1, 0⟩
def MAC_CTL.MODE : Fld := ⟨0x14000, 0x400, 4, 2⟩
def MAC_CTL.ANEN : Fld := ⟨0x14000, 0x400, 5, 5⟩
def MAC_CTL.EEEEN : Fld := ⟨0x14000, 0x400, 6, 6⟩
def MAC_CTL.LLDPEN : Fld := ⟨0x14000, 0x400, 7, 7⟩
def MAC_CTL.PROMISC : Fld := ⟨0x14000, 0x400, 8, 8⟩
def MAC_CTL.TXPOL : Fld := ⟨0x14000, 0x400, 9, 9⟩
def MAC_CTL.RXPOL : Fld := ⟨0x14000, 0x400, 10, 10⟩
def MAC_STAT.DST : Fld := ⟨0x14004, 0x400, 1, 0⟩
def MAC_STAT.EST : Fld := ⟨0x14004, 0x400, 3, 2⟩
def MAC_STAT.LINK : Fld := ⟨0x14004, 0x400, 4, 4⟩
def MAC_STAT.ANFAIL : Fld := ⟨0x14004, 0x400, 5, 5⟩
def MAC_STAT.LPITX : Fld := ⟨0x14004, 0x400, 6, 6⟩
def MAC_STAT.LPIRX : Fld := ⟨0x14004, 0x400, 7, 7⟩
def MAC_STAT.EEEOK : Fld := ⟨0x14004, 0x400, 8, 8⟩
def MAC_STAT.LECLVL : Fld := ⟨0x14004, 0x400, 10, 9⟩
def MAC_STAT.TEST : Fld := ⟨0x14004, 0x400, 11, 11⟩
def MAC_ADDR_L : Fld := ⟨0x14008, 0x400, 31, 0⟩
def MAC_ADDR_H : Fld := ⟨0x1400C, 0x400, 15, 0⟩
def MAC_MAXFRM : Fld := ⟨0x14010, 0x400, 13, 0⟩
def MAC_LEC.VALUE : Fld := ⟨0x14014, 0x400, 9, 0⟩
def MAC_LEC.CLR : Fld := ⟨0x14014, 0x400, 31, 31⟩
def MAC_TAG.VID : Fld := ⟨0x14018, 0x400, 11, 0⟩
def MAC_TAG.TAGEN : Fld := ⟨0x14018, 0x400, 12, 12⟩
def MAC_TAG.PCP0 : Fld := ⟨0x14018, 0x400, 18, 16⟩
def MAC_TAG.PCP1 : Fld := ⟨0x14018, 0x400, 21, 19⟩
def MAC_TAG.PCP2 : Fld := ⟨0x14018, 0x400, 24, 22⟩
def MAC_TAG.PCP3 : Fld := ⟨0x14018, 0x400, 27, 25⟩
def MAC_PCPMAP.MAP : Fld := ⟨0x1401C, 0x400, 15, 0⟩
def MAC_EEE.IDLE : Fld := ⟨0x14020, 0x400, 7, 0⟩
def MAC_EEE.TWMAX : Fld := ⟨0x14020, 0x400, 15, 8⟩
def MAC_EEE.TWTX : Fld := ⟨0x14020, 0x400, 23, 16⟩
def MAC_LLDP.PRX : Fld := ⟨0x14024, 0x400, 15, 0⟩
def MAC_LLDP.TTL : Fld := ⟨0x14024, 0x400, 30, 16⟩
def MAC_LLDP.VALID : Fld := ⟨0x14024, 0x400, 31, 31⟩
def MAC_FABMC_L : Fld := ⟨0x14028, 0x400, 31, 0⟩
def MAC_FABMC_H : Fld := ⟨0x1402C, 0x400, 15, 0⟩
def MAC_FFQ_BASE : Fld := ⟨0x14030, 0x400, 31, 6⟩
def MAC_FFQ_CFG.SLOT : Fld := ⟨0x14034, 0x400, 7, 0⟩
def MAC_FFQ_CFG.NSLOT : Fld := ⟨0x14034, 0x400, 19, 8⟩
def MAC_FFQ_HEAD : Fld := ⟨0x14038, 0x400, 11, 0⟩
def MAC_FFQ_TAIL : Fld := ⟨0x1403C, 0x400, 11, 0⟩
def MAC_TXOK : Fld := ⟨0x14080, 0x400, 31, 0⟩
def MAC_RXOK : Fld := ⟨0x14084, 0x400, 31, 0⟩
def MAC_RXFCS : Fld := ⟨0x14088, 0x400, 31, 0⟩
def MAC_RXRUNT : Fld := ⟨0x1408C, 0x400, 31, 0⟩
def MAC_RXOVS : Fld := ⟨0x14090, 0x400, 31, 0⟩
def MAC_RXDROP : Fld := ⟨0x14094, 0x400, 31, 0⟩
def MAC_RXFILT : Fld := ⟨0x14098, 0x400, 31, 0⟩
def MAC_RXPAUSE : Fld := ⟨0x1409C, 0x400, 31, 0⟩
def MAC_FFDROP : Fld := ⟨0x140A0, 0x400, 31, 0⟩
def MAC_PCSERR : Fld := ⟨0x140A4, 0x400, 31, 0⟩
def MAC_TXDISC : Fld := ⟨0x140A8, 0x400, 31, 0⟩
def MAC_LINKDN : Fld := ⟨0x140AC, 0x400, 31, 0⟩
def MAC_QUAR : Fld := ⟨0x140B0, 0x400, 31, 0⟩
def MAC_LLDPERR : Fld := ⟨0x140B4, 0x400, 31, 0⟩
def MAC_LPIENT : Fld := ⟨0x140B8, 0x400, 31, 0⟩
def MAC_RXECC : Fld := ⟨0x140BC, 0x400, 31, 0⟩

/-- Register rows of the MAC block (11). -/
def rowsMAC : List RegRow :=
  [⟨0x14000, 0x400, 4, 0xA0, 0x7FF, 0x0, 0x0, 0x0, 0x0, [(4, 2, [(0, 4, 1)])]⟩,
   ⟨0x14004, 0x400, 4, 0x0, 0x0, 0x20, 0x0, 0x0, 0x0, []⟩,
   ⟨0x14008, 0x400, 4, 0x0, 0xFFFFFFFF, 0x0, 0x0, 0x0, 0x0, []⟩,
   ⟨0x1400C, 0x400, 4, 0x0, 0xFFFF, 0x0, 0x0, 0x0, 0x0, []⟩,
   ⟨0x14010, 0x400, 4, 0x880, 0x3FFF, 0x0, 0x0, 0x0, 0x0, [(13, 0, [(64, 9216, 1)])]⟩,
   ⟨0x14014, 0x400, 4, 0x0, 0x0, 0x0, 0x0, 0x0, 0x80000000, []⟩,
   ⟨0x14018, 0x400, 4, 0x12F0000, 0xFFF1FFF, 0x0, 0x0, 0x0, 0x0, []⟩,
   ⟨0x1401C, 0x400, 4, 0x6FF, 0xFFFF, 0x0, 0x0, 0x0, 0x0, []⟩,
   ⟨0x14020, 0x400, 4, 0x10, 0xFF, 0x0, 0x0, 0x0, 0x0, [(7, 0, [(1, 255, 1)])]⟩,
   ⟨0x14024, 0x400, 4, 0x0, 0x0, 0x0, 0x0, 0x0, 0x0, []⟩,
   ⟨0x14028, 0x400, 4, 0x4C535A03, 0xFFFFFFFF, 0x0, 0x0, 0x0, 0x0, []⟩,
   ⟨0x1402C, 0x400, 4, 0x0, 0xFFFF, 0x0, 0x0, 0x0, 0x0, []⟩,
   ⟨0x14030, 0x400, 4, 0x0, 0xFFFFFFC0, 0x0, 0x0, 0x0, 0x0, []⟩,
   ⟨0x14034, 0x400, 4, 0x0, 0xFFFFF, 0x0, 0x0, 0x0, 0x0, [(7, 0, [(0, 145, 1)]), (19, 8, [(2, 4095, 1)])]⟩,
   ⟨0x14038, 0x400, 4, 0x0, 0x0, 0x0, 0x0, 0x0, 0x0, []⟩,
   ⟨0x1403C, 0x400, 4, 0x0, 0xFFF, 0x0, 0x0, 0x0, 0x0, []⟩,
   ⟨0x14080, 0x400, 4, 0x0, 0x0, 0x0, 0x0, 0xFFFFFFFF, 0x0, []⟩,
   ⟨0x14084, 0x400, 4, 0x0, 0x0, 0x0, 0x0, 0xFFFFFFFF, 0x0, []⟩,
   ⟨0x14088, 0x400, 4, 0x0, 0x0, 0x0, 0x0, 0xFFFFFFFF, 0x0, []⟩,
   ⟨0x1408C, 0x400, 4, 0x0, 0x0, 0x0, 0x0, 0xFFFFFFFF, 0x0, []⟩,
   ⟨0x14090, 0x400, 4, 0x0, 0x0, 0x0, 0x0, 0xFFFFFFFF, 0x0, []⟩,
   ⟨0x14094, 0x400, 4, 0x0, 0x0, 0x0, 0x0, 0xFFFFFFFF, 0x0, []⟩,
   ⟨0x14098, 0x400, 4, 0x0, 0x0, 0x0, 0x0, 0xFFFFFFFF, 0x0, []⟩,
   ⟨0x1409C, 0x400, 4, 0x0, 0x0, 0x0, 0x0, 0xFFFFFFFF, 0x0, []⟩,
   ⟨0x140A0, 0x400, 4, 0x0, 0x0, 0x0, 0x0, 0xFFFFFFFF, 0x0, []⟩,
   ⟨0x140A4, 0x400, 4, 0x0, 0x0, 0x0, 0x0, 0xFFFFFFFF, 0x0, []⟩,
   ⟨0x140A8, 0x400, 4, 0x0, 0x0, 0x0, 0x0, 0xFFFFFFFF, 0x0, []⟩,
   ⟨0x140AC, 0x400, 4, 0x0, 0x0, 0x0, 0x0, 0xFFFFFFFF, 0x0, []⟩,
   ⟨0x140B0, 0x400, 4, 0x0, 0x0, 0x0, 0x0, 0xFFFFFFFF, 0x0, []⟩,
   ⟨0x140B4, 0x400, 4, 0x0, 0x0, 0x0, 0x0, 0xFFFFFFFF, 0x0, []⟩,
   ⟨0x140B8, 0x400, 4, 0x0, 0x0, 0x0, 0x0, 0xFFFFFFFF, 0x0, []⟩,
   ⟨0x140BC, 0x400, 4, 0x0, 0x0, 0x0, 0x0, 0xFFFFFFFF, 0x0, []⟩]

/-! ### BLW -/

def BLW_CTL.EN : Fld := ⟨0x18000, 0x0, 0, 0⟩
def BLW_CTL.MTU : Fld := ⟨0x18000, 0x0, 2, 1⟩
def BLW_STAT.TAGS : Fld := ⟨0x18004, 0x0, 12, 0⟩
def BLW_STAT.RECS : Fld := ⟨0x18004, 0x0, 24, 13⟩
def BLW_STAT.TAGFULL : Fld := ⟨0x18004, 0x0, 25, 25⟩
def BLW_STAT.CQWAIT : Fld := ⟨0x18004, 0x0, 26, 26⟩
def BLW_STAT2.ATOM : Fld := ⟨0x18008, 0x0, 10, 0⟩
def BLW_STAT2.DONE : Fld := ⟨0x18008, 0x0, 25, 11⟩
def BLW_CAP.REC : Fld := ⟨0x1800C, 0x0, 11, 0⟩
def BLW_CAP.DONE : Fld := ⟨0x1800C, 0x0, 26, 12⟩
def BLW_NODE : Fld := ⟨0x18010, 0x0, 11, 0⟩
def BLW_ETYPE : Fld := ⟨0x18014, 0x0, 15, 0⟩
def BLW_MPL : Fld := ⟨0x18018, 0x0, 15, 0⟩
def BLW_MLIFE : Fld := ⟨0x1801C, 0x0, 7, 0⟩
def BLW_RTO.RTO : Fld := ⟨0x18020, 0x0, 9, 0⟩
def BLW_RTO.RETRIES : Fld := ⟨0x18020, 0x0, 15, 12⟩
def BLW_ACK.N : Fld := ⟨0x18024, 0x0, 4, 0⟩
def BLW_ACK.DLY : Fld := ⟨0x18024, 0x0, 15, 8⟩
def BLW_PLANE.W : Fld := ⟨0x18028, 0x0, 15, 0⟩
def BLW_PLANE.EW : Fld := ⟨0x18028, 0x0, 31, 16⟩
def BLW_MGMT.EN : Fld := ⟨0x1802C, 0x0, 0, 0⟩
def BLW_MGMT.SEC : Fld := ⟨0x1802C, 0x0, 1, 1⟩
def BLW_MGMT.NODE : Fld := ⟨0x1802C, 0x0, 27, 16⟩
def BLW_TXPKT : Fld := ⟨0x18040, 0x0, 31, 0⟩
def BLW_RXPKT : Fld := ⟨0x18044, 0x0, 31, 0⟩
def BLW_RETX : Fld := ⟨0x18048, 0x0, 31, 0⟩
def BLW_FAILED : Fld := ⟨0x1804C, 0x0, 31, 0⟩
def BLW_NAKTX : Fld := ⟨0x18050, 0x0, 31, 0⟩
def BLW_NAKRX : Fld := ⟨0x18054, 0x0, 31, 0⟩
def BLW_STALE : Fld := ⟨0x18058, 0x0, 31, 0⟩
def BLW_FUTURE : Fld := ⟨0x1805C, 0x0, 31, 0⟩
def BLW_DUP : Fld := ⟨0x18060, 0x0, 31, 0⟩
def BLW_TAGFULL : Fld := ⟨0x18064, 0x0, 31, 0⟩
def BLW_BADHDR : Fld := ⟨0x18068, 0x0, 31, 0⟩
def BLW_MISDIR : Fld := ⟨0x1806C, 0x0, 31, 0⟩
def BLW_ABANDON : Fld := ⟨0x18070, 0x0, 31, 0⟩
def BLW_NCOLL : Fld := ⟨0x18074, 0x0, 31, 0⟩
def BLW_RECECC : Fld := ⟨0x18078, 0x0, 31, 0⟩
def BLW_BUSYTX : Fld := ⟨0x1807C, 0x0, 31, 0⟩
def BLW_HA_CMD.NODE : Fld := ⟨0x18080, 0x0, 11, 0⟩
def BLW_HA_CMD.W64 : Fld := ⟨0x18080, 0x0, 12, 12⟩
def BLW_HA_CMD.CAS : Fld := ⟨0x18080, 0x0, 13, 13⟩
def BLW_HA_CMD.WQ : Fld := ⟨0x18080, 0x0, 21, 16⟩
def BLW_HA_CMD.GO : Fld := ⟨0x18080, 0x0, 31, 31⟩
def BLW_HA_ADDR : Fld := ⟨0x18084, 0x0, 31, 0⟩
def BLW_HA_RKEY : Fld := ⟨0x18088, 0x0, 31, 0⟩
def BLW_HA_OP0_L : Fld := ⟨0x1808C, 0x0, 31, 0⟩
def BLW_HA_OP0_H : Fld := ⟨0x18090, 0x0, 31, 0⟩
def BLW_HA_OP1_L : Fld := ⟨0x18094, 0x0, 31, 0⟩
def BLW_HA_OP1_H : Fld := ⟨0x18098, 0x0, 31, 0⟩
def BLW_HA_OLD_L : Fld := ⟨0x1809C, 0x0, 31, 0⟩
def BLW_HA_OLD_H : Fld := ⟨0x180A0, 0x0, 31, 0⟩
def BLW_HA_RES : Fld := ⟨0x180A4, 0x0, 31, 0⟩
def BLW_WQ_BASE : Fld := ⟨0x18200, 0x10, 31, 6⟩
def BLW_WQ_CFG.DEPTH : Fld := ⟨0x18204, 0x10, 3, 0⟩
def BLW_WQ_CFG.PD : Fld := ⟨0x18204, 0x10, 9, 4⟩
def BLW_WQ_CFG.CQ : Fld := ⟨0x18204, 0x10, 15, 10⟩
def BLW_WQ_CFG.MST : Fld := ⟨0x18204, 0x10, 17, 16⟩
def BLW_WQ_CFG.DST : Fld := ⟨0x18204, 0x10, 19, 18⟩
def BLW_WQ_CFG.EST : Fld := ⟨0x18204, 0x10, 21, 20⟩
def BLW_WQ_PI : Fld := ⟨0x18208, 0x10, 11, 0⟩
def BLW_WQ_CI : Fld := ⟨0x1820C, 0x10, 11, 0⟩
def BLW_RQ_BASE : Fld := ⟨0x18600, 0x10, 31, 6⟩
def BLW_RQ_CFG.SLOT : Fld := ⟨0x18604, 0x10, 10, 0⟩
def BLW_RQ_CFG.EN : Fld := ⟨0x18604, 0x10, 11, 11⟩
def BLW_RQ_CFG.NSLOT : Fld := ⟨0x18604, 0x10, 23, 12⟩
def BLW_RQ_CFG.CQ : Fld := ⟨0x18604, 0x10, 29, 24⟩
def BLW_RQ_CFG.CQEN : Fld := ⟨0x18604, 0x10, 30, 30⟩
def BLW_RQ_HEAD : Fld := ⟨0x18608, 0x10, 11, 0⟩
def BLW_RQ_TAIL : Fld := ⟨0x1860C, 0x10, 11, 0⟩
def BLW_CQ_BASE : Fld := ⟨0x18A00, 0x10, 31, 6⟩
def BLW_CQ_CFG.DEPTH : Fld := ⟨0x18A04, 0x10, 3, 0⟩
def BLW_CQ_CFG.EN : Fld := ⟨0x18A04, 0x10, 4, 4⟩
def BLW_CQ_CFG.NOTIFY : Fld := ⟨0x18A04, 0x10, 5, 5⟩
def BLW_CQ_PI : Fld := ⟨0x18A08, 0x10, 11, 0⟩
def BLW_CQ_CI : Fld := ⟨0x18A0C, 0x10, 11, 0⟩

/-- Register rows of the BLW block (12). -/
def rowsBLW : List RegRow :=
  [⟨0x18000, 0x0, 1, 0x6, 0x7, 0x0, 0x0, 0x0, 0x0, []⟩,
   ⟨0x18004, 0x0, 1, 0x0, 0x0, 0x4000000, 0x0, 0x0, 0x0, []⟩,
   ⟨0x18008, 0x0, 1, 0x0, 0x0, 0x0, 0x0, 0x0, 0x0, []⟩,
   ⟨0x1800C, 0x0, 1, 0x4000800, 0x0, 0x0, 0x0, 0x0, 0x0, []⟩,
   ⟨0x18010, 0x0, 1, 0xFFF, 0xFFF, 0x0, 0x0, 0x0, 0x0, []⟩,
   ⟨0x18014, 0x0, 1, 0x88B5, 0xFFFF, 0x0, 0x0, 0x0, 0x0, []⟩,
   ⟨0x18018, 0x0, 1, 0x7D0, 0xFFFF, 0x0, 0x0, 0x0, 0x0, [(15, 0, [(100, 65535, 1)])]⟩,
   ⟨0x1801C, 0x0, 1, 0x19, 0xFF, 0x0, 0x0, 0x0, 0x0, [(7, 0, [(5, 255, 1)])]⟩,
   ⟨0x18020, 0x0, 1, 0x8032, 0xF3FF, 0x0, 0x0, 0x0, 0x0, [(9, 0, [(10, 1000, 1)]), (15, 12, [(1, 15, 1)])]⟩,
   ⟨0x18024, 0x0, 1, 0xA08, 0xFF1F, 0x0, 0x0, 0x0, 0x0, [(4, 0, [(1, 16, 1)]), (15, 8, [(1, 255, 1)])]⟩,
   ⟨0x18028, 0x0, 1, 0x4444, 0xFFFF, 0x0, 0x0, 0x0, 0x0, []⟩,
   ⟨0x1802C, 0x0, 1, 0x2, 0xFFF0003, 0x0, 0x0, 0x0, 0x0, []⟩,
   ⟨0x18040, 0x0, 1, 0x0, 0x0, 0x0, 0x0, 0xFFFFFFFF, 0x0, []⟩,
   ⟨0x18044, 0x0, 1, 0x0, 0x0, 0x0, 0x0, 0xFFFFFFFF, 0x0, []⟩,
   ⟨0x18048, 0x0, 1, 0x0, 0x0, 0x0, 0x0, 0xFFFFFFFF, 0x0, []⟩,
   ⟨0x1804C, 0x0, 1, 0x0, 0x0, 0x0, 0x0, 0xFFFFFFFF, 0x0, []⟩,
   ⟨0x18050, 0x0, 1, 0x0, 0x0, 0x0, 0x0, 0xFFFFFFFF, 0x0, []⟩,
   ⟨0x18054, 0x0, 1, 0x0, 0x0, 0x0, 0x0, 0xFFFFFFFF, 0x0, []⟩,
   ⟨0x18058, 0x0, 1, 0x0, 0x0, 0x0, 0x0, 0xFFFFFFFF, 0x0, []⟩,
   ⟨0x1805C, 0x0, 1, 0x0, 0x0, 0x0, 0x0, 0xFFFFFFFF, 0x0, []⟩,
   ⟨0x18060, 0x0, 1, 0x0, 0x0, 0x0, 0x0, 0xFFFFFFFF, 0x0, []⟩,
   ⟨0x18064, 0x0, 1, 0x0, 0x0, 0x0, 0x0, 0xFFFFFFFF, 0x0, []⟩,
   ⟨0x18068, 0x0, 1, 0x0, 0x0, 0x0, 0x0, 0xFFFFFFFF, 0x0, []⟩,
   ⟨0x1806C, 0x0, 1, 0x0, 0x0, 0x0, 0x0, 0xFFFFFFFF, 0x0, []⟩,
   ⟨0x18070, 0x0, 1, 0x0, 0x0, 0x0, 0x0, 0xFFFFFFFF, 0x0, []⟩,
   ⟨0x18074, 0x0, 1, 0x0, 0x0, 0x0, 0x0, 0xFFFFFFFF, 0x0, []⟩,
   ⟨0x18078, 0x0, 1, 0x0, 0x0, 0x0, 0x0, 0xFFFFFFFF, 0x0, []⟩,
   ⟨0x1807C, 0x0, 1, 0x0, 0x0, 0x0, 0x0, 0xFFFFFFFF, 0x0, []⟩,
   ⟨0x18080, 0x0, 1, 0x0, 0x3F3FFF, 0x0, 0x0, 0x0, 0x80000000, []⟩,
   ⟨0x18084, 0x0, 1, 0x0, 0xFFFFFFFF, 0x0, 0x0, 0x0, 0x0, []⟩,
   ⟨0x18088, 0x0, 1, 0x0, 0xFFFFFFFF, 0x0, 0x0, 0x0, 0x0, []⟩,
   ⟨0x1808C, 0x0, 1, 0x0, 0xFFFFFFFF, 0x0, 0x0, 0x0, 0x0, []⟩,
   ⟨0x18090, 0x0, 1, 0x0, 0xFFFFFFFF, 0x0, 0x0, 0x0, 0x0, []⟩,
   ⟨0x18094, 0x0, 1, 0x0, 0xFFFFFFFF, 0x0, 0x0, 0x0, 0x0, []⟩,
   ⟨0x18098, 0x0, 1, 0x0, 0xFFFFFFFF, 0x0, 0x0, 0x0, 0x0, []⟩,
   ⟨0x1809C, 0x0, 1, 0x0, 0x0, 0x0, 0x0, 0x0, 0x0, []⟩,
   ⟨0x180A0, 0x0, 1, 0x0, 0x0, 0x0, 0x0, 0x0, 0x0, []⟩,
   ⟨0x180A4, 0x0, 1, 0x0, 0x0, 0x0, 0x0, 0x0, 0x0, []⟩,
   ⟨0x18200, 0x10, 64, 0x0, 0xFFFFFFC0, 0x0, 0x0, 0x0, 0x0, []⟩,
   ⟨0x18204, 0x10, 64, 0x2A0000, 0x3FFFF, 0x0, 0x0, 0x0, 0x0, [(3, 0, [(1, 12, 1)])]⟩] ++
  [⟨0x18208, 0x10, 64, 0x0, 0xFFF, 0x0, 0x0, 0x0, 0x0, []⟩,
   ⟨0x1820C, 0x10, 64, 0x0, 0x0, 0x0, 0x0, 0x0, 0x0, []⟩,
   ⟨0x18600, 0x10, 64, 0x0, 0xFFFFFFC0, 0x0, 0x0, 0x0, 0x0, []⟩,
   ⟨0x18604, 0x10, 64, 0x0, 0x7FFFFFFF, 0x0, 0x0, 0x0, 0x0, [(10, 0, [(1, 1025, 1)]), (23, 12, [(2, 4095, 1)])]⟩,
   ⟨0x18608, 0x10, 64, 0x0, 0x0, 0x0, 0x0, 0x0, 0x0, []⟩,
   ⟨0x1860C, 0x10, 64, 0x0, 0xFFF, 0x0, 0x0, 0x0, 0x0, []⟩,
   ⟨0x18A00, 0x10, 64, 0x0, 0xFFFFFFC0, 0x0, 0x0, 0x0, 0x0, []⟩,
   ⟨0x18A04, 0x10, 64, 0x0, 0x3F, 0x0, 0x0, 0x0, 0x0, [(3, 0, [(1, 12, 1)])]⟩,
   ⟨0x18A08, 0x10, 64, 0x0, 0x0, 0x0, 0x0, 0x0, 0x0, []⟩,
   ⟨0x18A0C, 0x10, 64, 0x0, 0xFFF, 0x0, 0x0, 0x0, 0x0, []⟩]

/-! ### SEC -/

def BLW_SECCTL.BPD : Fld := ⟨0x19000, 0x0, 5, 0⟩
def BLW_SECSTAT.PCTRWAIT : Fld := ⟨0x19004, 0x0, 0, 0⟩
def BLW_SECSTAT.EPOCHDUE : Fld := ⟨0x19004, 0x0, 1, 1⟩
def BLW_SECSTAT.MRERR : Fld := ⟨0x19004, 0x0, 2, 2⟩
def BLW_SECSTAT.STRERR : Fld := ⟨0x19004, 0x0, 3, 3⟩
def BLW_PCTR_L : Fld := ⟨0x19008, 0x0, 31, 0⟩
def BLW_PCTR_H : Fld := ⟨0x1900C, 0x0, 15, 0⟩
def BLW_KEYCMD.CMD : Fld := ⟨0x19010, 0x0, 1, 0⟩
def BLW_KEYCMD.SLOT : Fld := ⟨0x19010, 0x0, 7, 4⟩
def BLW_KEYSRC : Fld := ⟨0x19014, 0x0, 31, 4⟩
def BLW_KEYARG.EPOCH : Fld := ⟨0x19018, 0x0, 15, 0⟩
def BLW_KEYEB_L : Fld := ⟨0x1901C, 0x0, 31, 0⟩
def BLW_KEYEB_H : Fld := ⟨0x19020, 0x0, 15, 0⟩
def BLW_KEYRES.BUSY : Fld := ⟨0x19024, 0x0, 0, 0⟩
def BLW_KEYRES.ERR : Fld := ⟨0x19024, 0x0, 3, 1⟩
def BLW_MRIDX : Fld := ⟨0x19030, 0x0, 9, 0⟩
def BLW_MR_BASE : Fld := ⟨0x19034, 0x0, 31, 0⟩
def BLW_MR_LEN : Fld := ⟨0x19038, 0x0, 25, 0⟩
def BLW_MR_ATTR.VALID : Fld := ⟨0x1903C, 0x0, 0, 0⟩
def BLW_MR_ATTR.RD : Fld := ⟨0x1903C, 0x0, 1, 1⟩
def BLW_MR_ATTR.WR : Fld := ⟨0x1903C, 0x0, 2, 2⟩
def BLW_MR_ATTR.AT : Fld := ⟨0x1903C, 0x0, 3, 3⟩
def BLW_MR_ATTR.PD : Fld := ⟨0x1903C, 0x0, 9, 4⟩
def BLW_MR_ATTR.TRIG : Fld := ⟨0x1903C, 0x0, 15, 10⟩
def BLW_MR_ATTR.TEN : Fld := ⟨0x1903C, 0x0, 16, 16⟩
def BLW_MR_KEY : Fld := ⟨0x19040, 0x0, 31, 10⟩
def BLW_VIOL : Fld := ⟨0x19080, 0x0, 31, 0⟩
def BLW_RAV : Fld := ⟨0x19084, 0x0, 31, 0⟩
def BLW_AUTHFAIL : Fld := ⟨0x19088, 0x0, 31, 0⟩
def BLW_BADEPOCH : Fld := ⟨0x1908C, 0x0, 31, 0⟩
def BLW_KEYMISS : Fld := ⟨0x19090, 0x0, 31, 0⟩
def BLW_KEYBAD : Fld := ⟨0x19094, 0x0, 31, 0⟩
def BLW_BCNCFG : Fld := ⟨0x19098, 0x0, 31, 0⟩
def BLW_PCTRWAITN : Fld := ⟨0x1909C, 0x0, 31, 0⟩
def BLW_STRMISS : Fld := ⟨0x190A0, 0x0, 31, 0⟩
def BLW_PD.EN : Fld := ⟨0x19100, 0x4, 0, 0⟩
def BLW_PD.SECURE : Fld := ⟨0x19100, 0x4, 1, 1⟩
def BLW_PD.KSLOT : Fld := ⟨0x19100, 0x4, 5, 2⟩
def BLW_TRIG : Fld := ⟨0x19200, 0x4, 31, 0⟩
def BLW_RQX.PD : Fld := ⟨0x19300, 0x4, 5, 0⟩
def BLW_RQX.ANYPD : Fld := ⟨0x19300, 0x4, 6, 6⟩
def BLW_RQX.TRIG : Fld := ⟨0x19300, 0x4, 12, 7⟩
def BLW_RQX.TEN : Fld := ⟨0x19300, 0x4, 13, 13⟩
def BLW_KEYSLOT.EPOCH : Fld := ⟨0x19400, 0x10, 15, 0⟩
def BLW_KEYSLOT.VALID : Fld := ⟨0x19400, 0x10, 16, 16⟩
def BLW_KEYSLOT.REWIND : Fld := ⟨0x19400, 0x10, 17, 17⟩
def BLW_KEYSLOT.EXHAUST : Fld := ⟨0x19400, 0x10, 18, 18⟩
def BLW_KEYSLOT_EB_L : Fld := ⟨0x19404, 0x10, 31, 0⟩
def BLW_KEYSLOT_EB_H : Fld := ⟨0x19408, 0x10, 15, 0⟩
def BLW_VLOG : Fld := ⟨0x19600, 0x4, 31, 0⟩
def BLW_VLOGHEAD.IDX : Fld := ⟨0x19800, 0x0, 4, 0⟩
def BLW_VLOGHEAD.WRAP : Fld := ⟨0x19800, 0x0, 31, 31⟩

/-- Register rows of the SEC block (13). -/
def rowsSEC : List RegRow :=
  [⟨0x19000, 0x0, 1, 0x0, 0x3F, 0x0, 0x0, 0x0, 0x0, []⟩,
   ⟨0x19004, 0x0, 1, 0x0, 0x0, 0xF, 0x0, 0x0, 0x0, []⟩,
   ⟨0x19008, 0x0, 1, 0x0, 0x0, 0x0, 0x0, 0x0, 0x0, []⟩,
   ⟨0x1900C, 0x0, 1, 0x0, 0x0, 0x0, 0x0, 0x0, 0x0, []⟩,
   ⟨0x19010, 0x0, 1, 0x0, 0x0, 0x0, 0x0, 0x0, 0xF3, []⟩,
   ⟨0x19014, 0x0, 1, 0x0, 0xFFFFFFF0, 0x0, 0x0, 0x0, 0x0, []⟩,
   ⟨0x19018, 0x0, 1, 0x0, 0xFFFF, 0x0, 0x0, 0x0, 0x0, []⟩,
   ⟨0x1901C, 0x0, 1, 0x0, 0xFFFFFFFF, 0x0, 0x0, 0x0, 0x0, []⟩,
   ⟨0x19020, 0x0, 1, 0x0, 0xFFFF, 0x0, 0x0, 0x0, 0x0, []⟩,
   ⟨0x19024, 0x0, 1, 0x0, 0x0, 0x0, 0x0, 0xE, 0x0, []⟩,
   ⟨0x19030, 0x0, 1, 0x0, 0x3FF, 0x0, 0x0, 0x0, 0x0, []⟩,
   ⟨0x19034, 0x0, 1, 0x0, 0xFFFFFFFF, 0x0, 0x0, 0x0, 0x0, []⟩,
   ⟨0x19038, 0x0, 1, 0x0, 0x3FFFFFF, 0x0, 0x0, 0x0, 0x0, []⟩,
   ⟨0x1903C, 0x0, 1, 0x0, 0x1FFFF, 0x0, 0x0, 0x0, 0x0, []⟩,
   ⟨0x19040, 0x0, 1, 0x0, 0xFFFFFC00, 0x0, 0x0, 0x0, 0x0, []⟩,
   ⟨0x19080, 0x0, 1, 0x0, 0x0, 0x0, 0x0, 0xFFFFFFFF, 0x0, []⟩,
   ⟨0x19084, 0x0, 1, 0x0, 0x0, 0x0, 0x0, 0xFFFFFFFF, 0x0, []⟩,
   ⟨0x19088, 0x0, 1, 0x0, 0x0, 0x0, 0x0, 0xFFFFFFFF, 0x0, []⟩,
   ⟨0x1908C, 0x0, 1, 0x0, 0x0, 0x0, 0x0, 0xFFFFFFFF, 0x0, []⟩,
   ⟨0x19090, 0x0, 1, 0x0, 0x0, 0x0, 0x0, 0xFFFFFFFF, 0x0, []⟩,
   ⟨0x19094, 0x0, 1, 0x0, 0x0, 0x0, 0x0, 0xFFFFFFFF, 0x0, []⟩,
   ⟨0x19098, 0x0, 1, 0x0, 0x0, 0x0, 0x0, 0xFFFFFFFF, 0x0, []⟩,
   ⟨0x1909C, 0x0, 1, 0x0, 0x0, 0x0, 0x0, 0xFFFFFFFF, 0x0, []⟩,
   ⟨0x190A0, 0x0, 1, 0x0, 0x0, 0x0, 0x0, 0xFFFFFFFF, 0x0, []⟩,
   ⟨0x19100, 0x4, 64, 0x0, 0x3F, 0x0, 0x0, 0x0, 0x0, []⟩,
   ⟨0x19200, 0x4, 64, 0x0, 0xFFFFFFFF, 0x0, 0x0, 0x0, 0x0, []⟩,
   ⟨0x19300, 0x4, 64, 0x40, 0x3FFF, 0x0, 0x0, 0x0, 0x0, []⟩,
   ⟨0x19400, 0x10, 16, 0x0, 0x0, 0x0, 0x0, 0x0, 0x0, []⟩,
   ⟨0x19404, 0x10, 16, 0x0, 0x0, 0x0, 0x0, 0x0, 0x0, []⟩,
   ⟨0x19408, 0x10, 16, 0x0, 0x0, 0x0, 0x0, 0x0, 0x0, []⟩,
   ⟨0x1940C, 0x10, 16, 0x0, 0x0, 0x0, 0x0, 0x0, 0x0, []⟩,
   ⟨0x19600, 0x4, 128, 0x0, 0x0, 0x0, 0x0, 0x0, 0x0, []⟩,
   ⟨0x19800, 0x0, 1, 0x0, 0x0, 0x80000000, 0x0, 0x0, 0x0, []⟩]

/-! ### STR -/

def BLW_STR.EN : Fld := ⟨0x1A000, 0x20, 0, 0⟩
def BLW_STR.DIR : Fld := ⟨0x1A000, 0x20, 1, 1⟩
def BLW_STR.TYPE : Fld := ⟨0x1A000, 0x20, 3, 2⟩
def BLW_STR.CORE : Fld := ⟨0x1A000, 0x20, 7, 4⟩
def BLW_STR.DEPTH : Fld := ⟨0x1A000, 0x20, 13, 8⟩
def BLW_STR.PD : Fld := ⟨0x1A000, 0x20, 19, 14⟩
def BLW_STR.NODE : Fld := ⟨0x1A000, 0x20, 31, 20⟩
def BLW_STR_MASK : Fld := ⟨0x1A004, 0x20, 31, 0⟩
def BLW_STR_ADDR : Fld := ⟨0x1A008, 0x20, 31, 6⟩
def BLW_STR_RKEY : Fld := ⟨0x1A00C, 0x20, 31, 0⟩
def BLW_STR_LAT.LAT : Fld := ⟨0x1A010, 0x20, 12, 0⟩
def BLW_STR_LAT.BUMP : Fld := ⟨0x1A010, 0x20, 13, 13⟩
def BLW_STR_LAT.GAIN : Fld := ⟨0x1A010, 0x20, 31, 16⟩
def BLW_STR_MISS.MISS : Fld := ⟨0x1A014, 0x20, 15, 0⟩

/-- Register rows of the STR block (13). -/
def rowsSTR : List RegRow :=
  [⟨0x1A000, 0x20, 64, 0x200, 0xFFFFFFFF, 0x0, 0x0, 0x0, 0x0, [(3, 2, [(1, 3, 1)]), (13, 8, [(2, 63, 1)])]⟩,
   ⟨0x1A004, 0x20, 64, 0x0, 0xFFFFFFFF, 0x0, 0x0, 0x0, 0x0, []⟩,
   ⟨0x1A008, 0x20, 64, 0x0, 0xFFFFFFC0, 0x0, 0x0, 0x0, 0x0, []⟩,
   ⟨0x1A00C, 0x20, 64, 0x0, 0xFFFFFFFF, 0x0, 0x0, 0x0, 0x0, []⟩,
   ⟨0x1A010, 0x20, 64, 0x40, 0xFFFF3FFF, 0x0, 0x0, 0x0, 0x0, []⟩,
   ⟨0x1A014, 0x20, 64, 0x0, 0x0, 0x0, 0x0, 0xFFFF, 0x0, []⟩,
   ⟨0x1A018, 0x20, 64, 0x0, 0x0, 0x0, 0x0, 0x0, 0x0, []⟩,
   ⟨0x1A01C, 0x20, 64, 0x0, 0x0, 0x0, 0x0, 0x0, 0x0, []⟩]

/-! ### BEL -/

def BEL_STAT.MSTATE : Fld := ⟨0x1C000, 0x0, 1, 0⟩
def BEL_STAT.MREQ : Fld := ⟨0x1C000, 0x0, 7, 2⟩
def BEL_STAT.PLATADJ : Fld := ⟨0x1C000, 0x0, 8, 8⟩
def BEL_STAT.LINKERR : Fld := ⟨0x1C000, 0x0, 9, 9⟩
def BEL_STAT.DEPTHERR : Fld := ⟨0x1C000, 0x0, 10, 10⟩
def BEL_PLAT : Fld := ⟨0x1C004, 0x0, 9, 0⟩
def BEL_MUTE.HMUTE : Fld := ⟨0x1C008, 0x0, 0, 0⟩
def BEL_MUTE.RAMP : Fld := ⟨0x1C008, 0x0, 26, 16⟩
def BEL_RBTOL : Fld := ⟨0x1C00C, 0x0, 15, 0⟩
def BEL_COSTAT.COMPL : Fld := ⟨0x1C010, 0x0, 3, 0⟩
def BEL_UFL : Fld := ⟨0x1C020, 0x4, 31, 0⟩
def BEL_NUFL : Fld := ⟨0x1C040, 0x0, 31, 0⟩
def BEL_LATE : Fld := ⟨0x1C044, 0x0, 31, 0⟩
def BEL_NOVF : Fld := ⟨0x1C048, 0x0, 31, 0⟩
def BEL_CLIP : Fld := ⟨0x1C04C, 0x0, 31, 0⟩
def BEL_RBMIS : Fld := ⟨0x1C050, 0x0, 31, 0⟩
def BEL_COMPLN : Fld := ⟨0x1C054, 0x0, 31, 0⟩
def BEL_LINK_INADDR : Fld := ⟨0x1C100, 0x10, 31, 6⟩
def BEL_LINK_INMASK : Fld := ⟨0x1C104, 0x10, 31, 0⟩
def BEL_LINK_OUTADDR : Fld := ⟨0x1C108, 0x10, 31, 6⟩
def BEL_LINK_CFG.NOUT : Fld := ⟨0x1C10C, 0x10, 5, 0⟩
def BEL_LINK_CFG.DEPTH : Fld := ⟨0x1C10C, 0x10, 13, 8⟩
def BEL_LINK_CFG.EN : Fld := ⟨0x1C10C, 0x10, 16, 16⟩
def BEL_ROUTE.TYPE : Fld := ⟨0x1C400, 0x8, 1, 0⟩
def BEL_ROUTE.BUS : Fld := ⟨0x1C400, 0x8, 6, 2⟩
def BEL_ROUTE.CORE : Fld := ⟨0x1C400, 0x8, 11, 8⟩
def BEL_ROUTE.GAIN : Fld := ⟨0x1C400, 0x8, 31, 16⟩
def BEL_OSTATE.MST : Fld := ⟨0x1C404, 0x8, 1, 0⟩
def BEL_OSTATE.DST : Fld := ⟨0x1C404, 0x8, 3, 2⟩
def BEL_OSTATE.EST : Fld := ⟨0x1C404, 0x8, 5, 4⟩
def BEL_OSTATE.MONRET : Fld := ⟨0x1C404, 0x8, 6, 6⟩
def BEL_OSTATE.SHORT : Fld := ⟨0x1C404, 0x8, 7, 7⟩
def BEL_OSTATE.LOAD : Fld := ⟨0x1C404, 0x8, 8, 8⟩
def BEL_IROUTE.EN : Fld := ⟨0x1C800, 0x4, 0, 0⟩
def BEL_IROUTE.BUS : Fld := ⟨0x1C800, 0x4, 5, 1⟩
def BEL_IROUTE.GAIN : Fld := ⟨0x1C800, 0x4, 31, 16⟩

/-- Register rows of the BEL block (10). -/
def rowsBEL : List RegRow :=
  [⟨0x1C000, 0x0, 1, 0x6, 0x0, 0x700, 0x0, 0x0, 0x0, []⟩,
   ⟨0x1C004, 0x0, 1, 0x80, 0x3FF, 0x0, 0x0, 0x0, 0x0, []⟩,
   ⟨0x1C008, 0x0, 1, 0x400000, 0x7FF0001, 0x0, 0x0, 0x0, 0x0, [(26, 16, [(16, 1024, 1)])]⟩,
   ⟨0x1C00C, 0x0, 1, 0xC400, 0xFFFF, 0x0, 0x0, 0x0, 0x0, []⟩,
   ⟨0x1C010, 0x0, 1, 0x0, 0x0, 0xF, 0x0, 0x0, 0x0, []⟩,
   ⟨0x1C020, 0x4, 4, 0x0, 0x0, 0xFFFFFFFF, 0x0, 0x0, 0x0, []⟩,
   ⟨0x1C040, 0x0, 1, 0x0, 0x0, 0x0, 0x0, 0xFFFFFFFF, 0x0, []⟩,
   ⟨0x1C044, 0x0, 1, 0x0, 0x0, 0x0, 0x0, 0xFFFFFFFF, 0x0, []⟩,
   ⟨0x1C048, 0x0, 1, 0x0, 0x0, 0x0, 0x0, 0xFFFFFFFF, 0x0, []⟩,
   ⟨0x1C04C, 0x0, 1, 0x0, 0x0, 0x0, 0x0, 0xFFFFFFFF, 0x0, []⟩,
   ⟨0x1C050, 0x0, 1, 0x0, 0x0, 0x0, 0x0, 0xFFFFFFFF, 0x0, []⟩,
   ⟨0x1C054, 0x0, 1, 0x0, 0x0, 0x0, 0x0, 0xFFFFFFFF, 0x0, []⟩,
   ⟨0x1C100, 0x10, 16, 0x0, 0xFFFFFFC0, 0x0, 0x0, 0x0, 0x0, []⟩,
   ⟨0x1C104, 0x10, 16, 0x0, 0xFFFFFFFF, 0x0, 0x0, 0x0, 0x0, []⟩,
   ⟨0x1C108, 0x10, 16, 0x0, 0xFFFFFFC0, 0x0, 0x0, 0x0, 0x0, []⟩,
   ⟨0x1C10C, 0x10, 16, 0x200, 0x13F3F, 0x0, 0x0, 0x0, 0x0, [(5, 0, [(0, 32, 1)]), (13, 8, [(2, 32, 1)])]⟩,
   ⟨0x1C400, 0x8, 112, 0x0, 0xFFFF0F7F, 0x0, 0x0, 0x0, 0x0, [(1, 0, [(0, 2, 1)]), (31, 16, [(0, 6144, 1), (32768, 65535, 1)])]⟩,
   ⟨0x1C404, 0x8, 112, 0x0, 0x3, 0x0, 0x0, 0x0, 0x0, []⟩,
   ⟨0x1C800, 0x4, 96, 0x0, 0xFFFF003F, 0x0, 0x0, 0x0, 0x0, [(31, 16, [(0, 6144, 1), (32768, 65535, 1)])]⟩]

/-! ### SAP -/

def SAP_CTL.TXEN : Fld := ⟨0x1D000, 0x40, 0, 0⟩
def SAP_CTL.RXEN : Fld := ⟨0x1D000, 0x40, 1, 1⟩
def SAP_CTL.SLAVE : Fld := ⟨0x1D000, 0x40, 2, 2⟩
def SAP_CTL.FMT : Fld := ⟨0x1D000, 0x40, 3, 3⟩
def SAP_CTL.SLOTS : Fld := ⟨0x1D000, 0x40, 8, 4⟩
def SAP_CTL.DLY : Fld := ⟨0x1D000, 0x40, 9, 9⟩
def SAP_CTL.FSLONG : Fld := ⟨0x1D000, 0x40, 10, 10⟩
def SAP_CTL.FSINV : Fld := ⟨0x1D000, 0x40, 11, 11⟩
def SAP_CTL.BCINV : Fld := ⟨0x1D000, 0x40, 12, 12⟩
def SAP_STAT.CLKLOSS : Fld := ⟨0x1D004, 0x40, 0, 0⟩
def SAP_STAT.FRERR : Fld := ⟨0x1D004, 0x40, 1, 1⟩
def SAP_STAT.SLIP : Fld := ⟨0x1D004, 0x40, 2, 2⟩
def SAP_SLIP : Fld := ⟨0x1D008, 0x40, 31, 0⟩
def SAP_FRERR : Fld := ⟨0x1D00C, 0x40, 31, 0⟩
def SAP_MCLKCTL : Fld := ⟨0x1D100, 0x0, 1, 0⟩

/-- Register rows of the SAP block (10). -/
def rowsSAP : List RegRow :=
  [⟨0x1D000, 0x40, 4, 0x220, 0x1FFF, 0x0, 0x0, 0x0, 0x0, [(8, 4, [(2, 16, 1)])]⟩,
   ⟨0x1D004, 0x40, 4, 0x0, 0x0, 0x7, 0x0, 0x0, 0x0, []⟩,
   ⟨0x1D008, 0x40, 4, 0x0, 0x0, 0x0, 0x0, 0xFFFFFFFF, 0x0, []⟩,
   ⟨0x1D00C, 0x40, 4, 0x0, 0x0, 0x0, 0x0, 0xFFFFFFFF, 0x0, []⟩,
   ⟨0x1D100, 0x0, 1, 0x0, 0x3, 0x0, 0x0, 0x0, 0x0, [(1, 0, [(0, 2, 1)])]⟩]

/-! ### USB -/

def USB_CTL.EN : Fld := ⟨0x1E000, 0x0, 0, 0⟩
def USB_CTL.FSONLY : Fld := ⟨0x1E000, 0x0, 1, 1⟩
def USB_STAT.VBUS : Fld := ⟨0x1E004, 0x0, 0, 0⟩
def USB_STAT.CONN : Fld := ⟨0x1E004, 0x0, 1, 1⟩
def USB_STAT.SPEED : Fld := ⟨0x1E004, 0x0, 3, 2⟩
def USB_STAT.STATE : Fld := ⟨0x1E004, 0x0, 6, 4⟩
def USB_STAT.RWENA : Fld := ⟨0x1E004, 0x0, 7, 7⟩
def USB_STAT.AOUT : Fld := ⟨0x1E004, 0x0, 8, 8⟩
def USB_STAT.AIN : Fld := ⟨0x1E004, 0x0, 9, 9⟩
def USB_STAT.MALT : Fld := ⟨0x1E004, 0x0, 10, 10⟩
def USB_STAT.RWPEND : Fld := ⟨0x1E004, 0x0, 11, 11⟩
def USB_STAT.ACLAMP : Fld := ⟨0x1E004, 0x0, 12, 12⟩
def USB_ID.VID : Fld := ⟨0x1E008, 0x0, 15, 0⟩
def USB_ID.PID : Fld := ⟨0x1E008, 0x0, 31, 16⟩
def USB_ACFG.OUTCH : Fld := ⟨0x1E00C, 0x0, 5, 0⟩
def USB_ACFG.INCH : Fld := ⟨0x1E00C, 0x0, 13, 8⟩
def USB_ACFG.OUTLAT : Fld := ⟨0x1E00C, 0x0, 25, 16⟩
def USB_RWEN.NOTICE : Fld := ⟨0x1E010, 0x0, 0, 0⟩
def USB_RWEN.MIDI : Fld := ⟨0x1E010, 0x0, 1, 1⟩
def USB_RWEN.HWAKE : Fld := ⟨0x1E010, 0x0, 2, 2⟩
def USB_WAKE.REASON : Fld := ⟨0x1E014, 0x0, 3, 0⟩
def USB_FB : Fld := ⟨0x1E018, 0x0, 31, 0⟩
def USB_AFILL : Fld := ⟨0x1E01C, 0x0, 10, 0⟩
def USB_BUSRESET : Fld := ⟨0x1E040, 0x0, 31, 0⟩
def USB_SUSPENDS : Fld := ⟨0x1E044, 0x0, 31, 0⟩
def USB_RWAKE : Fld := ⟨0x1E048, 0x0, 31, 0⟩
def USB_WAKEMERGE : Fld := ⟨0x1E04C, 0x0, 31, 0⟩
def USB_AUNDER : Fld := ⟨0x1E050, 0x0, 31, 0⟩
def USB_AOVER : Fld := ⟨0x1E054, 0x0, 31, 0⟩
def USB_AFMT : Fld := ⟨0x1E058, 0x0, 31, 0⟩
def USB_RXERR : Fld := ⟨0x1E05C, 0x0, 31, 0⟩
def USB_MIDIERR : Fld := ⟨0x1E060, 0x0, 31, 0⟩
def USB_VCMDERR : Fld := ⟨0x1E064, 0x0, 31, 0⟩
def USB_NOTDROP : Fld := ⟨0x1E068, 0x0, 31, 0⟩
def UART_CTL.MODE : Fld := ⟨0x1E800, 0x40, 0, 0⟩
def UART_CTL.WAKEEN : Fld := ⟨0x1E800, 0x40, 1, 1⟩
def UART_CTL.DBITS : Fld := ⟨0x1E800, 0x40, 2, 2⟩
def UART_CTL.PAR : Fld := ⟨0x1E800, 0x40, 4, 3⟩
def UART_CTL.STOP : Fld := ⟨0x1E800, 0x40, 5, 5⟩
def UART_CTL.RXEN : Fld := ⟨0x1E800, 0x40, 6, 6⟩
def UART_CTL.TXEN : Fld := ⟨0x1E800, 0x40, 7, 7⟩
def UART_STAT.RXNE : Fld := ⟨0x1E804, 0x40, 0, 0⟩
def UART_STAT.TXNF : Fld := ⟨0x1E804, 0x40, 1, 1⟩
def UART_STAT.TXIDLE : Fld := ⟨0x1E804, 0x40, 2, 2⟩
def UART_STAT.FE : Fld := ⟨0x1E804, 0x40, 3, 3⟩
def UART_STAT.PE : Fld := ⟨0x1E804, 0x40, 4, 4⟩
def UART_STAT.OE : Fld := ⟨0x1E804, 0x40, 5, 5⟩
def UART_STAT.BRK : Fld := ⟨0x1E804, 0x40, 6, 6⟩
def UART_STAT.RXCNT : Fld := ⟨0x1E804, 0x40, 12, 8⟩
def UART_STAT.TXCNT : Fld := ⟨0x1E804, 0x40, 20, 16⟩
def UART_DATA : Fld := ⟨0x1E808, 0x40, 7, 0⟩
def UART_BAUD : Fld := ⟨0x1E80C, 0x40, 21, 0⟩
def UART_FECNT : Fld := ⟨0x1E810, 0x40, 31, 0⟩
def UART_PECNT : Fld := ⟨0x1E814, 0x40, 31, 0⟩
def UART_OECNT : Fld := ⟨0x1E818, 0x40, 31, 0⟩
def UART_WAKELOST : Fld := ⟨0x1E81C, 0x40, 31, 0⟩
def UART_TXDROP : Fld := ⟨0x1E820, 0x40, 31, 0⟩
def UART0_NOSTAT : Fld := ⟨0x1E824, 0x0, 31, 0⟩
def MIDI_SYX.ID0 : Fld := ⟨0x1E880, 0x0, 6, 0⟩
def MIDI_SYX.EN : Fld := ⟨0x1E880, 0x0, 7, 7⟩
def MIDI_SYX.ID1 : Fld := ⟨0x1E880, 0x0, 14, 8⟩
def MIDI_SYX.LONG : Fld := ⟨0x1E880, 0x0, 15, 15⟩
def MIDI_SYX.ID2 : Fld := ⟨0x1E880, 0x0, 22, 16⟩
def MIDI_SYX.DEVID : Fld := ⟨0x1E880, 0x0, 30, 24⟩
def MIDI_SYXERR : Fld := ⟨0x1E884, 0x0, 31, 0⟩

/-- Register rows of the USB block (14). -/
def rowsUSB : List RegRow :=
  [⟨0x1E000, 0x0, 1, 0x1, 0x3, 0x0, 0x0, 0x0, 0x0, []⟩,
   ⟨0x1E004, 0x0, 1, 0x0, 0x0, 0x1000, 0x0, 0x0, 0x0, []⟩,
   ⟨0x1E008, 0x0, 1, 0x0, 0xFFFFFFFF, 0x0, 0x0, 0x0, 0x0, []⟩,
   ⟨0x1E00C, 0x0, 1, 0x602020, 0x3FF3F3F, 0x0, 0x0, 0x0, 0x0, [(5, 0, [(0, 32, 1)]), (13, 8, [(0, 32, 1)]), (25, 16, [(16, 512, 1)])]⟩,
   ⟨0x1E010, 0x0, 1, 0x0, 0x7, 0x0, 0x0, 0x0, 0x0, []⟩,
   ⟨0x1E014, 0x0, 1, 0x0, 0x0, 0x0, 0x0, 0x0, 0x0, []⟩,
   ⟨0x1E018, 0x0, 1, 0x0, 0x0, 0x0, 0x0, 0x0, 0x0, []⟩,
   ⟨0x1E01C, 0x0, 1, 0x0, 0x0, 0x0, 0x0, 0x0, 0x0, []⟩,
   ⟨0x1E040, 0x0, 1, 0x0, 0x0, 0x0, 0x0, 0xFFFFFFFF, 0x0, []⟩,
   ⟨0x1E044, 0x0, 1, 0x0, 0x0, 0x0, 0x0, 0xFFFFFFFF, 0x0, []⟩,
   ⟨0x1E048, 0x0, 1, 0x0, 0x0, 0x0, 0x0, 0xFFFFFFFF, 0x0, []⟩,
   ⟨0x1E04C, 0x0, 1, 0x0, 0x0, 0x0, 0x0, 0xFFFFFFFF, 0x0, []⟩,
   ⟨0x1E050, 0x0, 1, 0x0, 0x0, 0x0, 0x0, 0xFFFFFFFF, 0x0, []⟩,
   ⟨0x1E054, 0x0, 1, 0x0, 0x0, 0x0, 0x0, 0xFFFFFFFF, 0x0, []⟩,
   ⟨0x1E058, 0x0, 1, 0x0, 0x0, 0x0, 0x0, 0xFFFFFFFF, 0x0, []⟩,
   ⟨0x1E05C, 0x0, 1, 0x0, 0x0, 0x0, 0x0, 0xFFFFFFFF, 0x0, []⟩,
   ⟨0x1E060, 0x0, 1, 0x0, 0x0, 0x0, 0x0, 0xFFFFFFFF, 0x0, []⟩,
   ⟨0x1E064, 0x0, 1, 0x0, 0x0, 0x0, 0x0, 0xFFFFFFFF, 0x0, []⟩,
   ⟨0x1E068, 0x0, 1, 0x0, 0x0, 0x0, 0x0, 0xFFFFFFFF, 0x0, []⟩,
   ⟨0x1E800, 0x40, 2, 0xC6, 0xFF, 0x0, 0x0, 0x0, 0x0, [(4, 3, [(0, 2, 1)])]⟩,
   ⟨0x1E804, 0x40, 2, 0x6, 0x0, 0x0, 0x0, 0x0, 0x0, []⟩,
   ⟨0x1E808, 0x40, 2, 0x0, 0x0, 0x0, 0x0, 0x0, 0x0, []⟩,
   ⟨0x1E80C, 0x40, 2, 0x7A12, 0x3FFFFF, 0x0, 0x0, 0x0, 0x0, [(21, 0, [(300, 3000000, 1)])]⟩,
   ⟨0x1E810, 0x40, 2, 0x0, 0x0, 0x0, 0x0, 0xFFFFFFFF, 0x0, []⟩,
   ⟨0x1E814, 0x40, 2, 0x0, 0x0, 0x0, 0x0, 0xFFFFFFFF, 0x0, []⟩,
   ⟨0x1E818, 0x40, 2, 0x0, 0x0, 0x0, 0x0, 0xFFFFFFFF, 0x0, []⟩,
   ⟨0x1E81C, 0x40, 2, 0x0, 0x0, 0x0, 0x0, 0xFFFFFFFF, 0x0, []⟩,
   ⟨0x1E820, 0x40, 2, 0x0, 0x0, 0x0, 0x0, 0xFFFFFFFF, 0x0, []⟩,
   ⟨0x1E824, 0x0, 1, 0x0, 0x0, 0x0, 0x0, 0xFFFFFFFF, 0x0, []⟩,
   ⟨0x1E880, 0x0, 1, 0x7D, 0x7F7FFFFF, 0x0, 0x0, 0x0, 0x0, [(30, 24, [(0, 126, 1)])]⟩,
   ⟨0x1E884, 0x0, 1, 0x0, 0x0, 0x0, 0x0, 0xFFFFFFFF, 0x0, []⟩]

/-! ### TIM -/

def TIM_CTL.EN : Fld := ⟨0x1F000, 0x20, 0, 0⟩
def TIM_CTL.ONESHOT : Fld := ⟨0x1F000, 0x20, 1, 1⟩
def TIM_CTL.CLKSRC : Fld := ⟨0x1F000, 0x20, 3, 2⟩
def TIM_CTL.CAPSEL : Fld := ⟨0x1F000, 0x20, 4, 4⟩
def TIM_CTL.CSRC : Fld := ⟨0x1F000, 0x20, 11, 8⟩
def TIM_CTL.MACT : Fld := ⟨0x1F000, 0x20, 13, 12⟩
def TIM_CTL.ZACT : Fld := ⟨0x1F000, 0x20, 15, 14⟩
def TIM_CTL.IOMODE : Fld := ⟨0x1F000, 0x20, 17, 16⟩
def TIM_CTL.IOINIT : Fld := ⟨0x1F000, 0x20, 18, 18⟩
def TIM_CTL.NZ : Fld := ⟨0x1F000, 0x20, 19, 19⟩
def TIM_CTL.NC : Fld := ⟨0x1F000, 0x20, 20, 20⟩
def TIM_CTL.PSC : Fld := ⟨0x1F000, 0x20, 31, 24⟩
def TIM_STAT.ZF : Fld := ⟨0x1F004, 0x20, 0, 0⟩
def TIM_STAT.MF : Fld := ⟨0x1F004, 0x20, 1, 1⟩
def TIM_STAT.CAPF : Fld := ⟨0x1F004, 0x20, 2, 2⟩
def TIM_STAT.OVR : Fld := ⟨0x1F004, 0x20, 3, 3⟩
def TIM_STAT.RUN : Fld := ⟨0x1F004, 0x20, 4, 4⟩
def TIM_STAT.IOLVL : Fld := ⟨0x1F004, 0x20, 5, 5⟩
def TIM_CNT : Fld := ⟨0x1F008, 0x20, 31, 0⟩
def TIM_RLD : Fld := ⟨0x1F00C, 0x20, 31, 0⟩
def TIM_MAT : Fld := ⟨0x1F010, 0x20, 31, 0⟩
def TIM_CAP : Fld := ⟨0x1F014, 0x20, 31, 0⟩
def TBASE_L : Fld := ⟨0x1F100, 0x0, 31, 0⟩
def TBASE_H : Fld := ⟨0x1F104, 0x0, 31, 0⟩
def WDT_CTL.EN : Fld := ⟨0x1F200, 0x0, 0, 0⟩
def WDT_CTL.LOCK : Fld := ⟨0x1F200, 0x0, 1, 1⟩
def WDT_CTL.ACT : Fld := ⟨0x1F200, 0x0, 2, 2⟩
def WDT_CTL.KSRC : Fld := ⟨0x1F200, 0x0, 3, 3⟩
def WDT_CTL.KCORE : Fld := ⟨0x1F200, 0x0, 7, 4⟩
def WDT_CTL.GRACE : Fld := ⟨0x1F200, 0x0, 15, 8⟩
def WDT_TMO.TMO : Fld := ⟨0x1F204, 0x0, 15, 0⟩
def WDT_KICK.KEY : Fld := ⟨0x1F208, 0x0, 31, 16⟩
def WDT_STAT.WARN : Fld := ⟨0x1F20C, 0x0, 0, 0⟩
def WDT_STAT.WRST : Fld := ⟨0x1F20C, 0x0, 1, 1⟩
def WDT_STAT.BADKEY : Fld := ⟨0x1F20C, 0x0, 2, 2⟩
def WDT_REM : Fld := ⟨0x1F210, 0x0, 31, 0⟩
def WDT_NBADKEY : Fld := ⟨0x1F214, 0x0, 31, 0⟩
def HRP_CTL.IRQEN : Fld := ⟨0x1F800, 0x0, 0, 0⟩
def HRP_STAT.APTRDY : Fld := ⟨0x1F804, 0x0, 0, 0⟩
def HRP_STAT.WCOL : Fld := ⟨0x1F804, 0x0, 1, 1⟩
def HRP_STAT.BDENY : Fld := ⟨0x1F804, 0x0, 2, 2⟩
def HRP_STAT.BECC : Fld := ⟨0x1F804, 0x0, 3, 3⟩
def HRP_STAT.UNMAP : Fld := ⟨0x1F804, 0x0, 4, 4⟩
def HRP_STAT.HALFDROP : Fld := ⟨0x1F804, 0x0, 5, 5⟩
def HRP_STAT.BUSERR : Fld := ⟨0x1F804, 0x0, 6, 6⟩
def HRP_STAT.WOVF : Fld := ⟨0x1F804, 0x0, 7, 7⟩
def HRP_STAT.WBCNT : Fld := ⟨0x1F804, 0x0, 12, 8⟩
def HRP_APBASE : Fld := ⟨0x1F808, 0x0, 31, 20⟩
def HRP_APCTL.REFRESH : Fld := ⟨0x1F80C, 0x0, 0, 0⟩
def HRP_APRES : Fld := ⟨0x1F810, 0x0, 31, 0⟩
def HRP_MBX : Fld := ⟨0x1F820, 0x4, 31, 0⟩
def HRP_MBXSTAT.COUNT : Fld := ⟨0x1F830, 0x0, 9, 0⟩
def HRP_MBXSTAT.FULL : Fld := ⟨0x1F830, 0x0, 10, 10⟩
def HRP_MBXSTAT.REFUSED : Fld := ⟨0x1F830, 0x0, 11, 11⟩
def HRP_NOT : Fld := ⟨0x1F840, 0x4, 31, 0⟩
def HRP_NOTCNT.COUNT : Fld := ⟨0x1F848, 0x0, 8, 0⟩
def HRP_NOTCNT.LOSTF : Fld := ⟨0x1F848, 0x0, 9, 9⟩
def HRP_NOTEN : Fld := ⟨0x1F84C, 0x0, 31, 1⟩
def HRP_WAKE.HSLEEP : Fld := ⟨0x1F850, 0x0, 0, 0⟩
def HRP_WAKE.NOTICE : Fld := ⟨0x1F850, 0x0, 1, 1⟩
def HRP_WAKE.MIDI : Fld := ⟨0x1F850, 0x0, 2, 2⟩
def HRP_WAKE.USB : Fld := ⟨0x1F850, 0x0, 3, 3⟩
def HRP_WAKE.REASON : Fld := ⟨0x1F850, 0x0, 7, 4⟩
def HRP_WAKE.DWAKE : Fld := ⟨0x1F850, 0x0, 8, 8⟩
def HRP_MBXREF : Fld := ⟨0x1F860, 0x0, 31, 0⟩
def HRP_NOTLOST : Fld := ⟨0x1F864, 0x0, 31, 0⟩
def HRP_DWAKES : Fld := ⟨0x1F868, 0x0, 31, 0⟩
def HRP_WAKEMERGE : Fld := ⟨0x1F86C, 0x0, 31, 0⟩
def HRP_RTEAR : Fld := ⟨0x1F870, 0x0, 31, 0⟩
def HRP_MTR : Fld := ⟨0x1F900, 0x4, 31, 0⟩
def HRP_MTRRES : Fld := ⟨0x1F980, 0x0, 31, 0⟩
def HRP_CXSEL.CORE : Fld := ⟨0x1FA00, 0x0, 3, 0⟩
def HRP_CX : Fld := ⟨0x1FA40, 0x4, 31, 0⟩
def HRP_CXRES : Fld := ⟨0x1FA80, 0x0, 31, 0⟩

/-- Register rows of the TIM block (15, 16). -/
def rowsTIM : List RegRow :=
  [⟨0x1F000, 0x20, 8, 0x0, 0xFF1FFF1F, 0x0, 0x0, 0x0, 0x0, [(3, 2, [(0, 1, 1)]), (11, 8, [(0, 13, 1)]), (17, 16, [(0, 2, 1)])]⟩,
   ⟨0x1F004, 0x20, 8, 0x0, 0x0, 0xB, 0x0, 0x0, 0x0, []⟩,
   ⟨0x1F008, 0x20, 8, 0x0, 0x0, 0x0, 0x0, 0x0, 0x0, []⟩,
   ⟨0x1F00C, 0x20, 8, 0x0, 0xFFFFFFFF, 0x0, 0x0, 0x0, 0x0, []⟩,
   ⟨0x1F010, 0x20, 8, 0x0, 0xFFFFFFFF, 0x0, 0x0, 0x0, 0x0, []⟩,
   ⟨0x1F014, 0x20, 8, 0x0, 0x0, 0x0, 0x0, 0x0, 0x0, []⟩,
   ⟨0x1F100, 0x0, 1, 0x0, 0x0, 0x0, 0x0, 0x0, 0x0, []⟩,
   ⟨0x1F104, 0x0, 1, 0x0, 0x0, 0x0, 0x0, 0x0, 0x0, []⟩,
   ⟨0x1F200, 0x0, 1, 0xA00, 0xFFFD, 0x0, 0x2, 0x0, 0x0, [(15, 8, [(1, 255, 1)])]⟩,
   ⟨0x1F204, 0x0, 1, 0x3E8, 0xFFFF, 0x0, 0x0, 0x0, 0x0, [(15, 0, [(1, 65535, 1)])]⟩,
   ⟨0x1F208, 0x0, 1, 0x0, 0x0, 0x0, 0x0, 0x0, 0xFFFF0000, []⟩,
   ⟨0x1F20C, 0x0, 1, 0x0, 0x0, 0x6, 0x0, 0x0, 0x0, []⟩,
   ⟨0x1F210, 0x0, 1, 0x0, 0x0, 0x0, 0x0, 0x0, 0x0, []⟩,
   ⟨0x1F214, 0x0, 1, 0x0, 0x0, 0x0, 0x0, 0xFFFFFFFF, 0x0, []⟩,
   ⟨0x1F800, 0x0, 1, 0x1, 0x1, 0x0, 0x0, 0x0, 0x0, []⟩,
   ⟨0x1F804, 0x0, 1, 0x0, 0x0, 0xFE, 0x0, 0x0, 0x0, []⟩,
   ⟨0x1F808, 0x0, 1, 0x0, 0xFFF00000, 0x0, 0x0, 0x0, 0x0, []⟩,
   ⟨0x1F80C, 0x0, 1, 0x0, 0x0, 0x0, 0x0, 0x0, 0x1, []⟩,
   ⟨0x1F810, 0x0, 1, 0x0, 0x0, 0x0, 0x0, 0x0, 0x0, []⟩,
   ⟨0x1F820, 0x4, 4, 0x0, 0x0, 0x0, 0x0, 0x0, 0xFFFFFFFF, []⟩,
   ⟨0x1F830, 0x0, 1, 0x0, 0x0, 0x800, 0x0, 0x0, 0x0, []⟩,
   ⟨0x1F840, 0x4, 2, 0x0, 0x0, 0x0, 0x0, 0x0, 0x0, []⟩,
   ⟨0x1F848, 0x0, 1, 0x0, 0x0, 0x200, 0x0, 0x0, 0x0, []⟩,
   ⟨0x1F84C, 0x0, 1, 0x0, 0xFFFFFFFE, 0x0, 0x0, 0x0, 0x0, []⟩,
   ⟨0x1F850, 0x0, 1, 0x0, 0xF, 0x0, 0x0, 0x0, 0x0, []⟩,
   ⟨0x1F860, 0x0, 1, 0x0, 0x0, 0x0, 0x0, 0xFFFFFFFF, 0x0, []⟩,
   ⟨0x1F864, 0x0, 1, 0x0, 0x0, 0x0, 0x0, 0xFFFFFFFF, 0x0, []⟩,
   ⟨0x1F868, 0x0, 1, 0x0, 0x0, 0x0, 0x0, 0xFFFFFFFF, 0x0, []⟩,
   ⟨0x1F86C, 0x0, 1, 0x0, 0x0, 0x0, 0x0, 0xFFFFFFFF, 0x0, []⟩,
   ⟨0x1F870, 0x0, 1, 0x0, 0x0, 0x0, 0x0, 0xFFFFFFFF, 0x0, []⟩,
   ⟨0x1F900, 0x4, 32, 0x0, 0x0, 0x0, 0x0, 0x0, 0x0, []⟩,
   ⟨0x1F980, 0x0, 1, 0x0, 0x0, 0x0, 0x0, 0x0, 0x0, []⟩,
   ⟨0x1FA00, 0x0, 1, 0x0, 0xF, 0x0, 0x0, 0x0, 0x0, []⟩,
   ⟨0x1FA40, 0x4, 16, 0x0, 0x0, 0x0, 0x0, 0x0, 0x0, []⟩,
   ⟨0x1FA80, 0x0, 1, 0x0, 0x0, 0x0, 0x0, 0x0, 0x0, []⟩]

/-! ### FLT -/

def FLT_CTL.NTRANS : Fld := ⟨0x20000, 0x0, 0, 0⟩
def FLT_STAT.SAFECAUSE : Fld := ⟨0x20004, 0x0, 3, 0⟩
def FLT_STAT.PLLDOWN : Fld := ⟨0x20004, 0x0, 4, 4⟩
def FLT_STAT.TESTS : Fld := ⟨0x20004, 0x0, 15, 8⟩
def FLT_RESTORE : Fld := ⟨0x20008, 0x0, 10, 0⟩
def FLT_SPLITLOG.UNIT : Fld := ⟨0x2000C, 0x0, 11, 0⟩
def FLT_SPLITLOG.DST : Fld := ⟨0x2000C, 0x0, 13, 12⟩
def FLT_SPLITLOG.MST : Fld := ⟨0x2000C, 0x0, 15, 14⟩
def FLT_SPLITLOG.VALID : Fld := ⟨0x2000C, 0x0, 31, 31⟩
def FLT_PMSPARE : Fld := ⟨0x20010, 0x0, 31, 0⟩
def FLT_SCSEL.CLASS : Fld := ⟨0x20014, 0x0, 3, 0⟩
def FLT_SCSEL.INDEX : Fld := ⟨0x20014, 0x0, 15, 8⟩
def FLT_SCORE : Fld := ⟨0x20018, 0x0, 7, 0⟩
def FLT_ST0 : Fld := ⟨0x20020, 0x0, 31, 0⟩
def FLT_ST1 : Fld := ⟨0x20024, 0x0, 31, 0⟩
def FLT_ST2 : Fld := ⟨0x20028, 0x0, 31, 0⟩
def FLT_STRES : Fld := ⟨0x2002C, 0x0, 31, 0⟩
def FLT_THR.LIMIT : Fld := ⟨0x20040, 0x4, 7, 0⟩
def FLT_THR.DECAY : Fld := ⟨0x20040, 0x4, 31, 16⟩
def FLT_LANEMST : Fld := ⟨0x20080, 0x4, 31, 0⟩
def FLT_LANEDST : Fld := ⟨0x20088, 0x4, 31, 0⟩
def FLT_LANEEST : Fld := ⟨0x20090, 0x4, 31, 0⟩
def FLT_NTRANS : Fld := ⟨0x200A0, 0x0, 31, 0⟩
def FLT_NLAST : Fld := ⟨0x200A4, 0x0, 31, 0⟩
def FLT_NSPLIT : Fld := ⟨0x200A8, 0x0, 31, 0⟩
def FLT_NSAFE : Fld := ⟨0x200AC, 0x0, 31, 0⟩
def FLT_FILLSKIP : Fld := ⟨0x200B0, 0x0, 31, 0⟩
def FLT_NABORT : Fld := ⟨0x200B4, 0x0, 31, 0⟩
def FLT_SELFECC : Fld := ⟨0x200B8, 0x0, 31, 0⟩
def FLT_NTESTS : Fld := ⟨0x200BC, 0x0, 31, 0⟩

/-- Register rows of the FLT block (18). -/
def rowsFLT : List RegRow :=
  [⟨0x20000, 0x0, 1, 0x1, 0x1, 0x0, 0x0, 0x0, 0x0, []⟩,
   ⟨0x20004, 0x0, 1, 0x0, 0x0, 0x0, 0x0, 0x0, 0x0, []⟩,
   ⟨0x20008, 0x0, 1, 0x0, 0x0, 0x0, 0x0, 0x0, 0x0, []⟩,
   ⟨0x2000C, 0x0, 1, 0x0, 0x0, 0x80000000, 0x0, 0x0, 0x0, []⟩,
   ⟨0x20010, 0x0, 1, 0x0, 0x0, 0x0, 0x0, 0x0, 0x0, []⟩,
   ⟨0x20014, 0x0, 1, 0x0, 0xFF0F, 0x0, 0x0, 0x0, 0x0, []⟩,
   ⟨0x20018, 0x0, 1, 0x0, 0x0, 0x0, 0x0, 0x0, 0x0, []⟩,
   ⟨0x20020, 0x0, 1, 0x0, 0x0, 0x0, 0x0, 0x0, 0x0, []⟩,
   ⟨0x20024, 0x0, 1, 0x0, 0x0, 0x0, 0x0, 0x0, 0x0, []⟩,
   ⟨0x20028, 0x0, 1, 0x0, 0x0, 0x0, 0x0, 0x0, 0x0, []⟩,
   ⟨0x2002C, 0x0, 1, 0x0, 0x0, 0x0, 0x0, 0x0, 0x0, []⟩,
   ⟨0x20040, 0x4, 9, 0xE100004, 0xFFFF00FF, 0x0, 0x0, 0x0, 0x0, [(31, 16, [(1, 65535, 1)])]⟩,
   ⟨0x20080, 0x4, 2, 0x0, 0xFFFFFFFF, 0x0, 0x0, 0x0, 0x0, []⟩,
   ⟨0x20088, 0x4, 2, 0x0, 0x0, 0x0, 0x0, 0x0, 0x0, []⟩,
   ⟨0x20090, 0x4, 2, 0x0, 0x0, 0x0, 0x0, 0x0, 0x0, []⟩,
   ⟨0x200A0, 0x0, 1, 0x0, 0x0, 0x0, 0x0, 0xFFFFFFFF, 0x0, []⟩,
   ⟨0x200A4, 0x0, 1, 0x0, 0x0, 0x0, 0x0, 0xFFFFFFFF, 0x0, []⟩,
   ⟨0x200A8, 0x0, 1, 0x0, 0x0, 0x0, 0x0, 0xFFFFFFFF, 0x0, []⟩,
   ⟨0x200AC, 0x0, 1, 0x0, 0x0, 0x0, 0x0, 0xFFFFFFFF, 0x0, []⟩,
   ⟨0x200B0, 0x0, 1, 0x0, 0x0, 0x0, 0x0, 0xFFFFFFFF, 0x0, []⟩,
   ⟨0x200B4, 0x0, 1, 0x0, 0x0, 0x0, 0x0, 0xFFFFFFFF, 0x0, []⟩,
   ⟨0x200B8, 0x0, 1, 0x0, 0x0, 0x0, 0x0, 0xFFFFFFFF, 0x0, []⟩,
   ⟨0x200BC, 0x0, 1, 0x0, 0x0, 0x0, 0x0, 0xFFFFFFFF, 0x0, []⟩]

/-! ### PWR -/

def PWR_CTL.REQ : Fld := ⟨0x21000, 0x0, 2, 0⟩
def PWR_CTL.RET : Fld := ⟨0x21000, 0x0, 4, 4⟩
def PWR_CTL.SUSPM : Fld := ⟨0x21000, 0x0, 6, 5⟩
def PWR_STAT.PRIOR : Fld := ⟨0x21004, 0x0, 2, 0⟩
def PWR_STAT.BUSY : Fld := ⟨0x21004, 0x0, 3, 3⟩
def PWR_STAT.RQERR : Fld := ⟨0x21004, 0x0, 7, 4⟩
def PWR_STAT.BOW : Fld := ⟨0x21004, 0x0, 8, 8⟩
def PWR_STAT.BOWSEEN : Fld := ⟨0x21004, 0x0, 9, 9⟩
def PWR_STAT.QIO33 : Fld := ⟨0x21004, 0x0, 10, 10⟩
def PWR_STAT.HOT : Fld := ⟨0x21004, 0x0, 11, 11⟩
def PWR_STAT.LWIGN : Fld := ⟨0x21004, 0x0, 12, 12⟩
def PWR_STAT.LOST : Fld := ⟨0x21004, 0x0, 13, 13⟩
def PWR_STAT.WREASON : Fld := ⟨0x21004, 0x0, 19, 16⟩
def PWR_WAKEEN.USB : Fld := ⟨0x21008, 0x0, 0, 0⟩
def PWR_WAKEEN.LINK : Fld := ⟨0x21008, 0x0, 4, 1⟩
def PWR_VID.AUTO : Fld := ⟨0x2100C, 0x0, 0, 0⟩
def PWR_VID.FIX : Fld := ⟨0x2100C, 0x0, 7, 4⟩
def PWR_VID.FLOOR : Fld := ⟨0x2100C, 0x0, 11, 8⟩
def PWR_VID.CEIL : Fld := ⟨0x2100C, 0x0, 15, 12⟩
def PWR_VID.CODE : Fld := ⟨0x2100C, 0x0, 19, 16⟩
def PWR_TEMP.TJ : Fld := ⟨0x21010, 0x0, 15, 0⟩
def PWR_TEMP.THOT : Fld := ⟨0x21010, 0x0, 23, 16⟩
def PWR_NIDLE : Fld := ⟨0x21040, 0x0, 31, 0⟩
def PWR_NDORM : Fld := ⟨0x21044, 0x0, 31, 0⟩
def PWR_ABORT : Fld := ⟨0x21048, 0x0, 31, 0⟩
def PWR_DISC : Fld := ⟨0x2104C, 0x0, 31, 0⟩
def PWR_VIDALM : Fld := ⟨0x21050, 0x0, 31, 0⟩
def PWR_NBOW : Fld := ⟨0x21054, 0x0, 31, 0⟩
def PWR_CTXERR : Fld := ⟨0x21058, 0x0, 31, 0⟩

/-- Register rows of the PWR block (17). -/
def rowsPWR : List RegRow :=
  [⟨0x21000, 0x0, 1, 0x10, 0x70, 0x0, 0x0, 0x0, 0x7, [(6, 5, [(0, 2, 1)])]⟩,
   ⟨0x21004, 0x0, 1, 0x0, 0x0, 0x3200, 0x0, 0xF0, 0x0, []⟩,
   ⟨0x21008, 0x0, 1, 0x1, 0x1F, 0x0, 0x0, 0x0, 0x0, []⟩,
   ⟨0x2100C, 0x0, 1, 0x40841, 0xFFF1, 0x0, 0x0, 0x0, 0x0, []⟩,
   ⟨0x21010, 0x0, 1, 0x6E0000, 0xFF0000, 0x0, 0x0, 0x0, 0x0, [(23, 16, [(85, 120, 1)])]⟩,
   ⟨0x21040, 0x0, 1, 0x0, 0x0, 0x0, 0x0, 0xFFFFFFFF, 0x0, []⟩,
   ⟨0x21044, 0x0, 1, 0x0, 0x0, 0x0, 0x0, 0xFFFFFFFF, 0x0, []⟩,
   ⟨0x21048, 0x0, 1, 0x0, 0x0, 0x0, 0x0, 0xFFFFFFFF, 0x0, []⟩,
   ⟨0x2104C, 0x0, 1, 0x0, 0x0, 0x0, 0x0, 0xFFFFFFFF, 0x0, []⟩,
   ⟨0x21050, 0x0, 1, 0x0, 0x0, 0x0, 0x0, 0xFFFFFFFF, 0x0, []⟩,
   ⟨0x21054, 0x0, 1, 0x0, 0x0, 0x0, 0x0, 0xFFFFFFFF, 0x0, []⟩,
   ⟨0x21058, 0x0, 1, 0x0, 0x0, 0x0, 0x0, 0xFFFFFFFF, 0x0, []⟩]

/-! ### LCK -/

def LCK_STAT.STATE : Fld := ⟨0x22000, 0x0, 1, 0⟩
def LCK_STAT.SCOPES : Fld := ⟨0x22000, 0x0, 6, 4⟩
def LCK_STAT.COUNT : Fld := ⟨0x22000, 0x0, 12, 8⟩
def LCK_STAT.BLOCKED : Fld := ⟨0x22000, 0x0, 13, 13⟩
def LCK_STAT.CARRIER : Fld := ⟨0x22000, 0x0, 15, 14⟩
def LCK_CTL.RELOCK : Fld := ⟨0x22004, 0x0, 0, 0⟩
def LCK_WAIT : Fld := ⟨0x22008, 0x0, 31, 0⟩
def LCK_SERIAL_L : Fld := ⟨0x2200C, 0x0, 31, 0⟩
def LCK_SERIAL_H : Fld := ⟨0x22010, 0x0, 31, 0⟩
def LCK_HCMD.LEN : Fld := ⟨0x22014, 0x0, 6, 0⟩
def LCK_HCMD.GO : Fld := ⟨0x22014, 0x0, 31, 31⟩
def LCK_HSTAT.BUSY : Fld := ⟨0x22018, 0x0, 0, 0⟩
def LCK_HSTAT.DONE : Fld := ⟨0x22018, 0x0, 1, 1⟩
def LCK_HSTAT.RLEN : Fld := ⟨0x22018, 0x0, 14, 8⟩
def LCK_OTPCMD.CMD : Fld := ⟨0x2201C, 0x0, 2, 0⟩
def LCK_OTPRES.BUSY : Fld := ⟨0x22020, 0x0, 0, 0⟩
def LCK_OTPRES.ERR : Fld := ⟨0x22020, 0x0, 3, 1⟩
def LCK_SVC.TEST : Fld := ⟨0x22024, 0x0, 0, 0⟩
def LCK_SVC.FLOGRD : Fld := ⟨0x22024, 0x0, 1, 1⟩
def LCK_SVC.SECT : Fld := ⟨0x22024, 0x0, 7, 4⟩
def LCK_SVC.UNIT : Fld := ⟨0x22024, 0x0, 19, 8⟩
def LCK_SVC.DONE : Fld := ⟨0x22024, 0x0, 31, 31⟩
def LCK_SVCADDR : Fld := ⟨0x22028, 0x0, 31, 0⟩
def LCK_FRAMEERR : Fld := ⟨0x2202C, 0x0, 31, 0⟩
def LCK_BUF : Fld := ⟨0x22100, 0x4, 31, 0⟩

/-- Register rows of the LCK block (19). -/
def rowsLCK : List RegRow :=
  [⟨0x22000, 0x0, 1, 0x70, 0x0, 0x0, 0x0, 0x0, 0x0, []⟩,
   ⟨0x22004, 0x0, 1, 0x0, 0x0, 0x0, 0x0, 0x0, 0x1, []⟩,
   ⟨0x22008, 0x0, 1, 0x0, 0x0, 0x0, 0x0, 0x0, 0x0, []⟩,
   ⟨0x2200C, 0x0, 1, 0x0, 0x0, 0x0, 0x0, 0x0, 0x0, []⟩,
   ⟨0x22010, 0x0, 1, 0x0, 0x0, 0x0, 0x0, 0x0, 0x0, []⟩,
   ⟨0x22014, 0x0, 1, 0x0, 0x7F, 0x0, 0x0, 0x0, 0x80000000, []⟩,
   ⟨0x22018, 0x0, 1, 0x0, 0x0, 0x2, 0x0, 0x0, 0x0, []⟩,
   ⟨0x2201C, 0x0, 1, 0x0, 0x0, 0x0, 0x0, 0x0, 0x7, []⟩,
   ⟨0x22020, 0x0, 1, 0x0, 0x0, 0x0, 0x0, 0xE, 0x0, []⟩,
   ⟨0x22024, 0x0, 1, 0x0, 0xFFFF0, 0x80000000, 0x0, 0x0, 0x3, []⟩,
   ⟨0x22028, 0x0, 1, 0x0, 0xFFFFFFFF, 0x0, 0x0, 0x0, 0x0, []⟩,
   ⟨0x2202C, 0x0, 1, 0x0, 0x0, 0x0, 0x0, 0xFFFFFFFF, 0x0, []⟩,
   ⟨0x22100, 0x4, 16, 0x0, 0xFFFFFFFF, 0x0, 0x0, 0x0, 0x0, []⟩]

/-- The rows of the block that holds an offset, by the host port map of chapter 20. -/
def rowsAt (off : Nat) : List RegRow :=
  if 0x8000 ≤ off ∧ off < 0x10000 then rowsCHN else
  match off / 0x1000 with
  | 0x0 => rowsSYS
  | 0x1 => rowsCFG
  | 0x2 => rowsBRT
  | 0x3 => rowsEVS
  | 0x4 => rowsVAL
  | 0x5 => rowsRDA
  | 0x10 => rowsBNK
  | 0x11 => rowsBNKN
  | 0x14 => rowsMAC
  | 0x18 => rowsBLW
  | 0x19 => rowsSEC
  | 0x1A => rowsSTR
  | 0x1C => rowsBEL
  | 0x1D => rowsSAP
  | 0x1E => rowsUSB
  | 0x1F => rowsTIM
  | 0x20 => rowsFLT
  | 0x21 => rowsPWR
  | 0x22 => rowsLCK
  | _ => []

/-- Does the row hold a register at this offset? -/
def RegRow.has (r : RegRow) (off : Nat) : Bool :=
  r.base ≤ off && (if r.stride = 0 then off = r.base
    else (off - r.base) % r.stride = 0 && (off - r.base) / r.stride < r.count)

/-- The register row at a host port offset; none where no table assigns the offset (R771). -/
def rowOf (off : Nat) : Option RegRow := (rowsAt off).find? (·.has off)

/-- The reset value of the register at an offset: its row's, or the index-dependent values of BNK_OWN126 and BNK_OWN127
(R356), UART1_BAUD (R604) and FLT_THR0, FLT_THR6, FLT_THR7, FLT_THR8 (chapter 18). -/
def resetOf (off : Nat) : Word :=
  if off = 0x117E0 ∨ off = 0x117F0 then 1
  else if off = 0x1E84C then 115200
  else if off = 0x20040 then 0x0E100010
  else if off = 0x20058 then 0x02580000
  else if off = 0x2005C then 0x003C0004
  else if off = 0x20060 then 0x0E100002
  else match rowOf off with
    | some r => r.reset
    | none => 0

end Sys2Proof.Machine
end

