-- ==== Sys2Proof/Machine/State.lean ====
section
/-!
DEFINITION. The state of the AS4096 as plain data: OTP, the TAP, the external flash, the pins, the device proper (every
register in one sparse file, and beside it the FIFOs, stores, tables, counters and engines that no register shows), and
the queue of commands that wait. `State.reset` is the machine right after reset. Also the closed lists of faults and
refusals. What each field's reset value rests on is in INVENTORY.md.
-/
namespace Sys2Proof.Machine

/-! ### What never resets: OTP and the flash fitted on the board -/

/-- One-time-programmable memory (R27, R745 to R750, R448, R562, R531). -/
structure Otp where
  /-- Programmed lock state, 0 OPEN to 3 SEALED (R745); effective from the next power-on (R750). -/
  lock     : BitVec 2
  salt     : Option (List Byte)
  pwHash   : Option (List Byte)
  key      : Option (List Byte)
  sigReq   : Bool
  pubKey   : List Byte
  wrapKey  : List Byte
  serial   : BitVec 64
  vid      : BitVec 16
  pid      : BitVec 16
  tgrade   : Bool
deriving DecidableEq, Repr

/-- What the QSPI pins find (R34 to R39). -/
inductive FlashKind where
  | absent
  | noSfdp
  | sfdp (size : Nat) (quad144 : Bool)
deriving DecidableEq, Repr

/-- The attached flash: bytes not listed read 0xFF (erased). -/
structure Flash where
  kind : FlashKind
  mem  : Sparse Byte
deriving DecidableEq, Repr

/-- IEEE 1149.1 test access port (R812 to R815): instruction code, selected data register, boundary update latches. -/
structure Tap where
  ir     : BitVec 5
  dr     : List Bool
  latch  : List Bool
deriving DecidableEq, Repr

/-- RESET_N, and whether the AON power-on detector has released (R26, R791). Every other pin that a rule reads or drives
follows from the state (`Machine/Pins.lean`). -/
structure Pins where
  resetN : Bool
  por    : Bool
deriving DecidableEq, Repr

/-! ### Events -/

/-- A Roari event word as its two 64-bit words (R120). -/
structure Roari where
  w0 : BitVec 64
  w1 : BitVec 64
deriving DecidableEq, Repr

/-- A word in the main store or a reserved ALL_OFF entry, with its intake data (R134, R135, R137). -/
structure Pend where
  word    : Roari
  /-- Full position it is ordered by and released at (R134, R135). -/
  at_     : Pos
  frac    : BitVec 16
  rank    : Nat
  seq     : Nat
  prio    : Nat
  late    : Bool
  offered : Bool
  spilled : Bool
  /-- Whole sample before which a deferred word is not released (R139); 0 when it was not deferred. -/
  notBefore : Nat
  /-- SEND source node of a word that came from the fabric (R548). -/
  node    : Option (BitVec 12)
deriving DecidableEq, Repr

/-- A jitter-reduction anchor (R129). -/
structure JrAnchor where
  valid  : Bool
  last   : BitVec 16
  u      : Nat
  anchor : Pos
  next   : Option Pos
deriving DecidableEq, Repr

/-- Kept bank and parameter selection of one input, group and channel (R127). -/
structure MidiSel where
  bankLsb : BitVec 7
  /-- 0 none, 1 RPN, 2 NRPN. -/
  kind    : Nat
  msb     : BitVec 7
  lsb     : BitVec 7
  data    : BitVec 7
deriving DecidableEq, Repr

/-- A word from the fabric that waits for intake: its SEND source, whether it is a spill entry, and the receive queue whose
TAIL advances by so many slots once it has been taken in (R132, R487). -/
structure FabWord where
  word  : Roari
  node  : Option (BitVec 12)
  spill : Bool
  adv   : Option (BitVec 6 × Nat)
deriving DecidableEq, Repr

/-- A work request descriptor as read (R479, R534). -/
structure Desc where
  op    : Nat
  flags : Nat
  tc    : BitVec 2
  dnode : BitVec 12
  len   : Nat
  laddr : Nat
  raddr : Nat
  rkey  : Nat
  rq    : BitVec 6
  opnd0 : BitVec 64
  opnd1 : BitVec 64
  ctr   : Nat
  thresh : Nat
  wrid  : BitVec 64
  /-- Holds a reserved value. -/
  bad   : Bool
deriving DecidableEq, Repr

/-- The scheduler (04). -/
structure Evs where
  store   : List Pend
  panic   : List Pend
  seq     : Nat
  /-- Words that wait for intake: rank 1 USB, rank 2 UART0, rank 3 fabric, rank 5 triggered. -/
  usbQ    : List Roari
  uartQ   : List Roari
  fabQ    : List FabWord
  /-- With the last word of a request, the queue and descriptor that end when it is taken in (R536). -/
  trigQ   : List (Roari × Option (BitVec 6 × Desc))
  /-- Ingress-window latches, one of 16 bytes per agent (R130). -/
  latchHost : List Byte
  latchUsb  : List Byte
  latchFab  : List Byte
  jr      : List JrAnchor
  sel     : Sparse MidiSel
  /-- Whole sample of the release count and words executed in it (R139). -/
  relPos  : Nat
  relCnt  : Nat
deriving DecidableEq, Repr

/-- The notice queue (R632 to R635). -/
structure Notices where
  q        : List (BitVec 64)
  lostNext : Bool
  /-- Notices raised at most once per block that this block has raised: source, code, unit. -/
  once     : List (Nat × Nat × Nat)
  hold     : BitVec 64
deriving DecidableEq, Repr

/-! ### Breath -/

/-- What the loop does when a mute ramp it waits for ends (R88, R89, R91). -/
inductive BrtMove where
  /-- Step forward by what the Breath is behind. -/
  | jump (by_ : Pos)
  | pause
  | rebase (by_ : Pos)
deriving DecidableEq, Repr

/-- The Breath counter, its source and the lock loop (03). -/
structure Brt where
  pos      : Pos
  /-- Exact part of the position below 1/65,536 sample. -/
  rem      : Nat
  tbase    : BitVec 64
  /-- 64-bit read snapshots of BRT_POS, BRT_EPOCH, EVS_MARKPOS and BLW_PCTR (R119). -/
  snapPos  : BitVec 64
  snapEpoch : BitVec 64
  snapMark : BitVec 64
  snapPctr : BitVec 64
  /-- TBASE of the last accepted source event. -/
  lastEdge : Option (BitVec 64)
  inRange  : Nat
  outRange : Nat
  vidBad   : Nat
  /-- Number of the last source event, counted from the reference event (frames, word-clock edges or SOFs). -/
  edgeNo   : Nat
  /-- Has the source's reference event a position (R75)? -/
  hasEpoch : Bool
  /-- HS edges since the last VS edge, and the captures of the frame: line and local position (R80). -/
  hsCount  : Nat
  hsBuf    : List (Nat × Pos)
  /-- Are HS edges being counted from a VS edge? -/
  hsOpen   : Bool
  /-- Last accepted interval of the source over its nominal one (R87). -/
  srcRatio : Rat
  /-- Frequency after each measurement of the last second, newest first, with its TBASE (R81). -/
  ferrLog  : List (BitVec 64 × Int)
  okRun    : Nat
  bigRun   : Nat
  outliers : Nat
  /-- Frequency offset from nominal in 0.001 ppm, and the recent values that give its mean. -/
  filtErr  : Int
  firstMeas : Bool
  acqFromFree : Bool
  /-- Is the rate of change limited: the loop has left HOLDOVER or FREE or changed its source (R85)? -/
  soft      : Bool
  holdStart : BitVec 64
  rebaseReq : Bool
  move     : Option BrtMove
  srcPend  : Option (BitVec 3)
  waitRelease : Option Pos
  /-- Path delays of the last 16 exchanges per plane (R93), newest first, and f1 − m1 of the last beacon per plane. -/
  delays   : List (List Int)
  gaps     : List (Option Int)
  /-- RSEQ of the last delay request per plane. -/
  reqs     : List (Option (BitVec 16))
  reqSeq   : BitVec 16
  bcnSeq   : BitVec 16
  /-- Has the device sent beacons since start-up (R98)? -/
  sentBcn  : Bool
  /-- The loop's filtered estimate of the phase error in nanoseconds (R95). -/
  phEst    : Int
  heardSeq : Option (BitVec 16 × BitVec 12)
  heardOutrank : Option (BitVec 64)
  outrankRun : Nat
  listenFrom : BitVec 64
  /-- What a beacon heard before the first own one gives for the fabric's position less the local one (R98). -/
  heardPos : Option Pos
  pllLocked : Bool
deriving DecidableEq, Repr

/-! ### Voices -/

/-- One envelope (R176, R177): stage 0 DELAY to 5 RELEASE, 6 done; progress within the stage. -/
structure EnvSt where
  stage : Nat
  x     : Rat
  from_ : Rat
  level : Rat
  peak  : Rat
deriving DecidableEq, Repr

/-- One LFO (R179). -/
structure LfoSt where
  phase : Rat
  out   : Rat
  held  : Rat
  prev  : Rat
deriving DecidableEq, Repr

/-- One oscillator (R154 to R167). -/
structure OscSt where
  phase : BitVec 32
  /-- Sample position, 32.32 frames (R154, R166), direction, and whether it has reached the loop (R167). -/
  pos   : BitVec 64
  back  : Bool
  inLoop : Bool
  start : BitVec 64
  /-- Silenced for the rest of the voice (R195); past the end of its data (R167). -/
  dead  : Bool
  ended : Bool
  /-- Output of the last sample, and the naive value last held. -/
  out   : Rat
  naive : Rat
  tri   : Rat
  /-- Second correction term owed to the next sample (R157). -/
  corr  : Rat
  /-- The four points of the last window (R169), and a prefetch that missed. -/
  window : List Rat
  miss  : Bool
deriving DecidableEq, Repr

/-- What an event does to a voice when it is rendered (R151, R152). -/
inductive VEvKind where
  | start
  | cont (nid : BitVec 16) (pitch : Rat) (vel : BitVec 16) (legato : Bool)
  | rel (vel : BitVec 16)
  | press (v : BitVec 32)
  | pnPitch (v : Rat)
  | pnCtl (index : Nat) (v : BitVec 16)
  | pnBend (v : BitVec 16)
  | pnReset
  | cut
deriving DecidableEq, Repr

/-- An event and the position at which it acts. -/
structure VEv where
  at_  : Pos
  kind : VEvKind
deriving DecidableEq, Repr

/-- A Part controller or bend that changes at a position: Part, key (bend: none) and value. -/
structure PartEv where
  at_  : Pos
  part : Nat
  key  : Option Nat
  val  : BitVec 32
deriving DecidableEq, Repr

/-- A gain ramp: rising or falling, its length and the samples done (R124, R192, R203, R219). -/
structure Ramp where
  up    : Bool
  total : Nat
  step  : Nat
deriving DecidableEq, Repr

/-- One voice (05, 06): what the allocator knows of it from stage S1, and what the Reed has rendered of it in S2. -/
structure Voice where
  part    : BitVec 6
  patchNo : BitVec 10
  nid     : BitVec 16
  startPos : Pos
  released : Bool
  relPos   : Pos
  sustained : Bool
  detached : Bool
  /-- Lease of a hosted spill (R229), and the origin whose return mix it feeds (R233). -/
  lease   : Option Nat
  retNode : Option (BitVec 12)
  /-- Events still to be rendered, in order. -/
  evs     : List VEv
  started : Bool
  /-- Note pitch n in semitones, its note-start value, and a glide: from, to, samples done (R153, R184, R185). -/
  pitch   : Rat
  pitch0  : Rat
  glide   : Option (Rat × Rat × Rat)
  vel     : BitVec 16
  relVel  : BitVec 16
  rreleased : Bool
  press   : BitVec 32
  bend    : BitVec 16
  pna     : List (BitVec 16)
  random  : Rat
  alt     : Bool
  env     : List EnvSt
  lfo     : List LfoSt
  osc     : List OscSt
  /-- ic1, ic2 of F1 stage 1, F1 stage 2, F2 stage 1, F2 stage 2 (R173 to R175); comb delay line, newest first. -/
  filt    : List Rat
  comb    : List Rat
  /-- Sums by destination and contributions by slot, of the previous sample (R183). -/
  mtx     : List Rat
  slots   : List Rat
  noise   : Rat
  pink    : Rat
  /-- Second correction term that the amplifier's envelope owes to the next sample (R157). -/
  ampCorr : Rat
  silent  : Nat
  age     : Nat
  elided  : Bool
  ramps   : List Ramp
  peak    : Rat
  peakLevel : BitVec 16
  /-- The patch record as read at the last block start (R189). -/
  patch   : List Byte
  hasPatch : Bool
  srcErr  : Bool
  lastOut : List (Nat × Rat)
  ended   : Bool
deriving DecidableEq, Repr

/-- A stolen voice: waiting for the new note's sample, or fading in a ghost slot (R219). -/
structure Ghost where
  voice : Voice
  reed  : Nat
  at_   : Pos
  total : Nat
  fading : Bool
deriving DecidableEq, Repr

/-- The Reed array (05). -/
structure Rda where
  voices  : List (Nat × Voice)
  ghosts  : List Ghost
  /-- Latched samples of R220: bus, value, samples left of 8. -/
  latches : List (Nat × Rat × Nat)
  /-- Samples rendered since step 7, and each Reed's LFSR with the sample it stands for (R170, R171). -/
  count   : Nat
  lfsr    : Sparse (BitVec 32 × Nat)
  /-- Oscillator phases (Reed × 3 + oscillator) and LFO phases and random values that a Reed last held (R156, R179). -/
  phase   : Sparse (BitVec 32)
  naive   : Sparse Rat
  lfo     : Sparse LfoSt
  sounded : List Nat
  /-- Number of the block that BLOCK_START last began. -/
  block   : Option Nat
  /-- Bus store: bus × 512 + position modulo 512 (R371), and the return mixes by origin node. -/
  bus     : Sparse Int
  ret     : Sparse Int
  plibPend : Option Nat
  /-- INVALIDATE and finished VALIDATE commands that act at the next block start: patch, bit (R190, R199). -/
  cmdPend : List (Nat × Bool)
  validating : Option (BitVec 10)
  /-- Parts whose next voice takes −1 as the alternate source. -/
  alt     : List Nat
  /-- Part controllers and bends as rendered, and their changes still to come. -/
  ctl     : Sparse (BitVec 32)
  bend    : Sparse (BitVec 32)
  partEvs : List PartEv
deriving DecidableEq, Repr

/-! ### Allocation and spill -/

/-- An entry of the origin's spill map (R230). -/
structure SpillEnt where
  part  : BitVec 6
  nid   : BitVec 16
  peer  : Nat
  lease : Nat
  tag   : Byte
  ret   : Bool
  lastTb : BitVec 64
deriving DecidableEq, Repr

/-- A spill claim in progress (R226, R227). -/
structure Claim where
  seq   : Nat
  part  : BitVec 6
  nid   : BitVec 16
  peer  : Nat
  tries : Nat
  word  : Nat
  bit   : Nat
  /-- 0 CAS under way, 1 record and entry posted, 2 releasing a won bit. -/
  stage : Nat
  tag   : Byte
  tried : List Nat
  deadline : Pos
deriving DecidableEq, Repr

/-- A lease that a peer holds here (R229, R232). -/
structure LeaseSt where
  lease : Nat
  lastTb : BitVec 64
  freeAt : Option Pos
  offDone : Bool
  started : Bool
deriving DecidableEq, Repr

/-- The allocator (06). -/
structure Val where
  /-- Part records in force, 8 words each; a register write enters at the next block start (R208). -/
  part    : Sparse Word
  partPend : List (Nat × Word)
  /-- Part controllers by part, kind and number (R822), pitch bends by part. -/
  ctl     : Sparse (BitVec 32)
  bend    : Sparse (BitVec 32)
  held    : Sparse (List (BitVec 16 × BitVec 16 × BitVec 16))
  /-- Consecutive blocks that each lane has been empty (R215); block numbers of the last 64 notes allocated (R216). -/
  laneEmpty : Sparse Nat
  predict : List Nat
  /-- Leases that this device's own allocator withholds (R225). -/
  withheld : List Nat
  map     : List SpillEnt
  claims  : List Claim
  cache   : Sparse (BitVec 64)
  skipTb  : Sparse (BitVec 64)
  lastPeer : Nat
  tagSeq  : Nat
  leases  : List LeaseSt
  retOk   : Bool
deriving DecidableEq, Repr

/-! ### Chanter cores -/

/-- A register write under way: it is seen by instructions `wait` and more ahead (R307). -/
structure Delayed where
  wait : Nat
  code : BitVec 8
  val  : BitVec 64
deriving DecidableEq, Repr

/-- A store-buffer entry (R273, R308). -/
structure SbEnt where
  ySpace : Bool
  addr   : BitVec 16
  wide   : Bool
  val    : BitVec 64
  /-- Internal address of a window store; none for local memory. -/
  ext    : Option Nat
deriving DecidableEq, Repr

/-- A word written to program memory that fetches do not yet see (R311). -/
structure PmPend where
  wait : Nat
  addr : BitVec 14
  val  : BitVec 48
deriving DecidableEq, Repr

/-- One Chanter core (07, 08). -/
structure Core where
  acc  : List (BitVec 72)
  x    : List (BitVec 64)
  y    : List (BitVec 64)
  p    : List (BitVec 16)
  n    : List (BitVec 16)
  m    : List (BitVec 16)
  lc   : List (BitVec 16)
  ls   : List (BitVec 14)
  le   : List (BitVec 14)
  mxv  : BitVec 32
  mnv  : BitVec 32
  mxi  : BitVec 16
  mni  : BitVec 16
  sidx : BitVec 16
  cst  : BitVec 32
  lr   : BitVec 14
  ipc  : BitVec 14
  icst : BitVec 32
  pc   : BitVec 14
  xwin : BitVec 32
  ywin : BitVec 32
  pm   : Sparse (BitVec 48)
  xm   : Sparse (BitVec 64)
  ym   : Sparse (BitVec 64)
  /-- Pipeline: delayed writes, accumulators before the last instruction, conditions two and one instructions ago. -/
  pend   : List Delayed
  accOld : List (BitVec 72)
  cond1  : BitVec 32
  cond2  : BitVec 32
  pmPend : List PmPend
  /-- Loop-register and LOPEN effects not yet seen by the loop-end comparison (R307): instructions left, what. -/
  loopPend : List Delayed
  /-- LOPEN not yet seen by the loop-end comparison: instructions left, levels and suspension before it. -/
  lopen  : Option (Nat × Nat × Bool)
  /-- Search registers before the last instruction: MXV, MNV, MXI, MNI, SIDX. -/
  mxOld  : List (BitVec 32)
  slots  : Nat
  slotTo : BitVec 14
  slotRti : Bool
  /-- Instructions still to issue before an interrupt can be accepted (R314, R316). -/
  noIrq  : Nat
  sb     : List SbEnt
  xline  : Option (Nat × List Byte)
  yline  : Option (Nat × List Byte)
  xmiss  : Option Nat
  ymiss  : Option Nat
  /-- A window access ended by timeout: the stalled instruction takes 0 or drops its store (R285). -/
  xdead  : Bool
  ydead  : Bool
  post   : List Roari
  /-- PM bytes held by each outside agent: agent number, slot, (byte number, byte) (R313). -/
  pmHeld : List (Nat × Nat × List (Nat × Byte))
  mst    : BitVec 2
  dst    : BitVec 2
  pwr    : Bool
  /-- Issuing instructions or waiting in WAITB; stalled in an instruction that waits for a window. -/
  run    : Bool
  stalled : Bool
  restart : Bool
  startpc : BitVec 14
  ien    : BitVec 4
  tsel   : BitVec 3
  ipend  : BitVec 4
  note   : BitVec 16
  ovr    : BitVec 8
  pstall : BitVec 16
  ecccor : BitVec 8
  cyc    : BitVec 20
  cycmax : BitVec 20
  /-- TBASE at the last block start. -/
  cycNow : BitVec 64
  waiting : Bool
  stopped : Bool
  pref   : Bool
  done   : Bool
  /-- DONE was set in WAITB since the last block start (R366). -/
  own    : Bool
  bsp    : Bool
  fcode  : BitVec 4
  fpc    : BitVec 14
  /-- Blocks this core has completed under R366, as block numbers. -/
  blocks : List Nat
  /-- A PM word failed its parity, and its program has not been reloaded (R294). -/
  pmBad  : Bool
deriving DecidableEq, Repr

/-! ### Banks -/

/-- A handover in progress (R337, R339). -/
structure Handover where
  bank  : Nat
  guest : Bool
  old   : Nat
deriving DecidableEq, Repr

/-- The 128 banks (09): bytes not listed read 0 (R342). -/
structure Banks where
  mem    : Sparse Byte
  poison : List Nat
  remaps : List (Nat × Nat × Nat)
  hand   : List Handover
  /-- Data at the requester after the last port operation of each input (R332). -/
  outOwner : List Byte
  outGuest : List Byte
  /-- Fetch misses by bank within the block (R355), and banks being salvaged. -/
  misses : Sparse Nat
deriving DecidableEq, Repr

/-! ### Bell -/

/-- One output channel (R357, R363, R374 to R376). -/
structure OutSt where
  /-- Fetched codes: position and code, oldest first. -/
  q     : List (Nat × Int)
  /-- Start of the next row to fetch; none until the first after a start, a move or a new BEL_PLAT. -/
  row   : Option Nat
  /-- Block whose rows are being fetched, with the route and link words it is fetched under (R363). -/
  lat   : Option (Nat × Word × List Word)
  /-- Value last presented, before the soft mute. -/
  last  : Rat
  /-- 0 normal; 1 underflow, `left` samples of the ramp to go; 2 recovery, `left` samples of 128 done, from gain `gain0`. -/
  ufl   : Nat
  left  : Nat
  gain0 : Rat
  /-- Is the underflow counted as an episode (R379)? -/
  counted : Bool
  /-- Samples of the DRAINING ramp done. -/
  drain : Nat
  /-- Code presented at the last queue exit. -/
  shown : Int
deriving DecidableEq, Repr

/-- The output block (10). -/
structure Bel where
  out    : Sparse OutSt
  /-- Gain of the soft mute. -/
  g      : Rat
  platPend : Option Nat
  /-- BEL_PLAT has been applied and no code fetched under it has left its queue yet (R373). -/
  platWait : Bool
  /-- A code has left its queue since start-up (R379). -/
  started : Bool
  /-- Breath sample whose queue exits were done last. -/
  exitAt : Option Nat
  /-- First position of the bus store that the last start or move left valid (R88, R91). -/
  busFrom : Nat
  /-- Received serial-port frames: port, position, samples by slot. -/
  sapIn  : List (Nat × Nat × List Int)
  /-- Position of each port's last master frame, and the slots of its last transmitted frame. -/
  sapAt  : List (Option Nat)
  sapSent : List (List Word)
  /-- Consecutive bad read-back windows per line output; step of a running read-back test. -/
  rbBad  : List Nat
  rbStep : List Nat
deriving DecidableEq, Repr

/-! ### Frame ports -/

/-- What a queued frame is, for the rules that tell frames apart (R424, R436, R444). -/
inductive TxKind where
  | beacon | delay | panic | krv | lldp
deriving DecidableEq, Repr

/-- A queued frame, before its tag, its stamp and its encryption (R422, R426, R521). -/
structure TxFrame where
  kind  : TxKind
  tc    : BitVec 2
  dst   : List Byte
  ety   : BitVec 16
  /-- Kreovouri header, or the whole LLDPDU. -/
  hdr   : List Byte
  /-- Security prefix of a secure packet, with its pair key. -/
  pre   : List Byte
  key   : Option (List Byte)
  body  : List Byte
  /-- SPOS is stamped at transmission (R426, R537). -/
  timed : Bool
deriving DecidableEq, Repr

/-- A complete frame in the receive buffer (R413 to R418). -/
structure RxFrame where
  bytes : List Byte
  ovs   : Bool
  tagged : Bool
  tc    : BitVec 2
  ety   : BitVec 16
  /-- Breath position of the start-of-frame delimiter, and of the end of reception. -/
  stamp : Pos
  endAt : Pos
  /-- Length with the FCS, as far as it is kept. -/
  len   : Nat
  /-- Bytes of the frame after the addresses, the tag and the EtherType. -/
  body  : List Byte
deriving DecidableEq, Repr

/-- The LLDP neighbour record (R433). -/
structure Nbr where
  ttl : Nat
  eee : Option (BitVec 16 × BitVec 16)
deriving DecidableEq, Repr

/-- One frame port (11). -/
structure Port where
  tx    : List TxFrame
  rx    : List RxFrame
  nbr   : Option Nbr
  /-- Good frames since the counter of R434 last fell. -/
  good  : Nat
  /-- TBASE of the last bad frames, and of the last frames lost to the buffer, newest first (R445, R447). -/
  crcAt : List (BitVec 64)
  eccAt : List (BitVec 64)
  /-- Last frame put on the line, and its stamp. -/
  line  : Option (List Byte × Pos)
  /-- Self-test: 0 none, 1 after a QUARANTINE, 2 otherwise. -/
  testing : Nat
  /-- A MODE or polarity write that waits for the end of the self-test (R442). -/
  modePend : Option Word
  gated : Bool
deriving DecidableEq, Repr

/-! ### Bellows -/

/-- Where a packet of a message stands at the initiator (R467, R468, R471). -/
structure PktSt where
  psn     : Nat
  plane   : Nat
  retries : Nat
  /-- 0 timer running, 1 waiting after NAK BUSY, 2 waiting after NAK COLLIDED. -/
  wait    : Nat
  /-- Last wait after NAK BUSY, in microseconds. -/
  busyUs  : Nat
deriving DecidableEq, Repr

/-- What posted a message (R480, R493, R546, R542). `own` names it: the claim's sequence, the peer, or the stream slot. -/
inductive MsgKind where
  | queue | hostAtomic | claimCas | leaseRecord | spillEntry | claimRelease | forward | stream
deriving DecidableEq, Repr

/-- A message the initiator holds under a tag (R480, R495). -/
structure Msg where
  tag   : BitVec 12
  wq    : Option (BitVec 6)
  desc  : Desc
  pd    : BitVec 6
  mtu   : Nat
  mpos  : Pos
  /-- Next packet not sent yet; READ: one more than the first packet of the last request, 0 before the first. -/
  next  : Nat
  acked : List Nat
  /-- Packets sent and not acknowledged; READ and atomics: the request. -/
  pkts  : List PktSt
  kind  : MsgKind
  own   : Nat
  /-- Data of a message that no LADDR names. -/
  data  : Option (List Byte)
  /-- Ended with a status, its tag held for completion space (R484). -/
  ended : Option Nat
deriving DecidableEq, Repr

/-- A message posted by a unit of the device (R479, R493). -/
structure Posted where
  wq   : BitVec 6
  desc : Desc
  kind : MsgKind
  own  : Nat
  data : Option (List Byte)
deriving DecidableEq, Repr

/-- A target's in-progress record (R461). -/
structure Rec where
  src  : BitVec 12
  tag  : BitVec 12
  mpos : Pos
  op   : Nat
  mlen : Nat
  /-- Header of the last packet placed, for the answer, and its plane. -/
  hdr  : List Byte
  plane : Nat
  placed : List Nat
  bytes : Nat
  /-- Packets placed since the last ACK. -/
  since : Nat
  slot : Nat
  sec  : Bool
  /-- Address of the message's first byte. -/
  addr0 : Nat
deriving DecidableEq, Repr

/-- A done entry (R462) with its number of packets, or an atomic result with the old value (R465). -/
structure DoneEnt where
  src  : BitVec 12
  tag  : BitVec 12
  mpos : Pos
  cnt  : Nat
  old  : BitVec 64
deriving DecidableEq, Repr

/-- A claim on a receive slot, in claim order (R485). -/
structure SlotClaim where
  rq   : BitVec 6
  slot : Nat
  done : Bool
deriving DecidableEq, Repr

/-- A packet taken in from a port, its header bytes and payload still as they came (R456). -/
structure Pkt where
  plane : Nat
  stamp : Pos
  hdr   : List Byte
  rest  : List Byte
deriving DecidableEq, Repr

/-- A memory region (R513). -/
structure Region where
  base : Word
  len  : Word
  attr : Word
  key  : Word
deriving DecidableEq, Repr

/-- Names of a pair key (R523): slot, epoch, NLO, NHI. -/
structure PairId where
  slot  : BitVec 4
  epoch : BitVec 16
  lo    : BitVec 12
  hi    : BitVec 12
deriving DecidableEq, Repr

/-- A frame to be sent, with the planes it goes on and the slot and nodes of its pair key. -/
structure SecFrame where
  planes : List Nat
  slot   : BitVec 4
  lo     : BitVec 12
  hi     : BitVec 12
  frame  : TxFrame
deriving DecidableEq, Repr

/-- A pair-key derivation and the packets that wait for it, received and to be sent (R523). -/
structure Derive where
  id : PairId
  rx : List Pkt
  tx : List (List Nat × TxFrame)
deriving DecidableEq, Repr

/-- The Bellows (12, 13). -/
structure Blw where
  inbox : List Pkt
  msgs  : List Msg
  posted : List Posted
  recs  : List Rec
  done  : List DoneEnt
  atom  : List DoneEnt
  slots : List SlotClaim
  epos  : Option Pos
  /-- Current credits of the smooth weighted round robin (R453). -/
  credit : List Int
  /-- Completion entries that wait for ring space, with the tag each holds (R484). -/
  cqWait : List (BitVec 6 × List Byte × Option (BitVec 12))
  pausedFull : Bool
  /-- WRITEs that ended otherwise than OK: queue, target, status (R489). -/
  bad   : List (BitVec 6 × BitVec 12 × Nat)
  /-- Event requests whose words have all been taken in (R536). -/
  evtDone : List (BitVec 6 × Desc)
  /-- Ends of spill operations not yet acted on: kind, owner, status, old value (R226). -/
  outcomes : List (MsgKind × Nat × Nat × BitVec 64)
  regions : Sparse Region
  keys  : List (Option (List Byte))
  /-- Derived pair keys, most recently used first. -/
  cache : List (PairId × List Byte)
  derive : List Derive
  pctr  : BitVec 48
  pctrWait : List SecFrame
  /-- Slots whose exhaustion, and whose due epoch, have been reported for their epoch (R525). -/
  toldEx  : List Nat
  toldDue : List Nat
  /-- READY bits: stream slot and entry (R543). -/
  ready : List (Nat × Nat)
  /-- First position of the next block that each transmit slot sends. -/
  strNext : Sparse Nat
  /-- TBASE of the last BLW_AUTH and BLW_BCNCFG notices (R529, R539). -/
  authAt : Option (BitVec 64)
  cfgAt  : Option (BitVec 64)
deriving DecidableEq, Repr

/-! ### USB, UARTs, host port -/

/-- The USB device port (14). -/
structure Usb where
  prior  : BitVec 3
  addr   : BitVec 7
  vidpid : BitVec 32
  outCh  : Nat
  inCh   : Nat
  fifo   : List (List Int)
  /-- Position of the oldest frame held; none while the next frame is placed as a first frame (R568). -/
  next   : Option Nat
  /-- Frames taken at their positions and not yet added into a bus (R362, R568). -/
  taken  : List (Nat × List Int)
  sof    : List Pos
  /-- Starts of frame captured since the feedback last restarted (R567). -/
  sofs   : Nat
  /-- Frames of the USB IN channels: collected since the last start of frame, ready for the next packet, last sent (R569). -/
  inFrames : List (List Int)
  inReady : List (List Int)
  inSent : List (List Int)
  notices : List (BitVec 64)
  ep0    : Option (List Byte)
  ep3    : List Word
  ep4    : List Byte
  ep5    : List (BitVec 64)
  syx    : Sparse (List Byte)
  altPend : List (Byte × Byte)
  rwReason : Option (BitVec 4)
  drivingK : Bool
deriving DecidableEq, Repr

/-- One UART (R585 to R592). -/
structure Uart where
  rx    : List Byte
  tx    : List Byte
  fe : Bool
  pe : Bool
  oe : Bool
  brk : Bool
  /-- Flags that the last STAT read returned and no DATA read has used (R588). -/
  seen  : BitVec 4
  last  : Byte
  status : Option Byte
  data  : List Byte
  syx   : Option (List Byte)
  /-- Console bytes of the frame being received, and the frame last transmitted byte by byte. -/
  frame : List Byte
  sent  : List Byte
deriving DecidableEq, Repr

/-- The copies and lock of one result group (R618 to R622). -/
structure GroupSt where
  words : List Word
  rdy   : Bool
  stale : Bool
  torn  : Bool
  rseq  : Byte
  extra : Word
  locked : Bool
  pend  : Option (List Word × Byte × Word)
  nlost : BitVec 16
  count : Byte
deriving DecidableEq, Repr

/-- A buffered aperture write (R629): address and its bytes. -/
structure ApWrite where
  addr : Nat
  data : List (Nat × Byte)
  /-- It entered the buffer after the running fill had started (R628). -/
  late : Bool
deriving DecidableEq, Repr

/-- The host register port (15). -/
structure Hrp where
  /-- Data driven on HD by the last read. -/
  hd    : BitVec 16
  snapTag : Option (BitVec 21)
  snap  : BitVec 16
  held  : Option (BitVec 21 × BitVec 16)
  mbxLatch : List Byte
  mbx   : List Roari
  line  : Option (Nat × List Byte)
  fill  : Option Nat
  /-- Bytes of the row being filled that were written since the fill started (R645): place in the row and value. -/
  fresh : List (Nat × Byte)
  wbuf  : List ApWrite
  groups : List GroupSt
  dwakePrep : Option (BitVec 4)
  /-- Value that the last read by another agent, or from outside a core, carried away. -/
  rdata : BitVec 64
deriving DecidableEq, Repr

/-! ### Timers, power, faults, start-up, lock -/

/-- One timer channel (16): TB cycles since the last tick, the level it drives, a match not yet acted on, and the level last
seen at its pad. -/
structure TimCh where
  psc : Nat
  io  : Bool
  matchDue : Bool
  pad : Bool
deriving DecidableEq, Repr

/-- Timers and watchdog (16). -/
structure Tim where
  ch    : List TimCh
  /-- Timebase periods gone of the watchdog's current millisecond; a bite whose fault-log entry waits for step 7 (R662). -/
  wdtSub : Nat
  wdtRst : Bool
deriving DecidableEq, Repr

/-- Modes and energy (17). -/
structure Pwr where
  /-- Mode being entered, the block of the request, and whether steps 1 to 5 of R680 are done. -/
  entering : Option (BitVec 3)
  reqBlk   : Nat
  entered  : Bool
  /-- Ports held for link wake (R684); a critical fault that takes effect at the wake (R700). -/
  held     : BitVec 4
  crit     : Option (BitVec 4)
  halved   : Bool
  lastAlarm : Option (BitVec 64)
deriving DecidableEq, Repr

/-- A running self-test (R708, R818). -/
structure Test where
  kind  : BitVec 4
  index : BitVec 8
  row   : BitVec 12
deriving DecidableEq, Repr

/-- Fault control (18). -/
structure Flt where
  /-- Scores by class × 256 + index, and the TBASE from which each one's next decay counts (R713). -/
  scores : Sparse Nat
  scoreAt : Sparse Nat
  tests  : List Test
  waiting : List Test
  /-- Latched splits by unit code (R707), each with the state that the unit's fault logic holds (R726 to R728). -/
  split  : List (Nat × Nat)
  /-- PM rows remapped: core, row, spare (R709); retired rows of internal tables: table, row. -/
  pmRows : List (Nat × Nat × Nat)
  tableRows : List (Nat × Nat)
deriving DecidableEq, Repr

/-- A fault-log entry waiting to be written (R65, R69). -/
structure LogEnt where
  ftype  : BitVec 16
  lfc    : Byte
  notice : BitVec 64
  stamp  : Pos
  detail : Word
deriving DecidableEq, Repr

/-- One flash operation of an update (R57, R61). -/
inductive FlashOp where
  | erase (addr : Nat)
  | prog (addr : Nat) (data : List Byte)
deriving DecidableEq, Repr

/-- An update in progress (R57 to R61). -/
structure Update where
  usb   : Bool
  /-- Last command completed without error, 0 none. -/
  last  : Nat
  /-- Command running and its flash operations. -/
  run   : Option Nat
  ops   : List FlashOp
  verr  : Bool
  digest : List Byte
  record : List Byte
deriving DecidableEq, Repr

/-- Start-up, image and fault log (02). -/
structure Boot where
  /-- Copy whose body is being read (true B), and the other copy when its record passed too. -/
  reading : Option Bool
  other   : Option Bool
  done    : Bool
  upd     : Option Update
  pend    : List LogEnt
  /-- Newest entry: FSEQ and slot number 0 to 2,047. -/
  newest  : Option (BitVec 32 × Nat)
  logAt   : Option Nat
  ctxErr  : Bool
deriving DecidableEq, Repr

/-- A challenge nonce (R752). -/
structure Nonce where
  bytes : List Byte
  car   : Carrier
  scope : Byte
deriving DecidableEq, Repr

/-- The lock agent (19). -/
structure Lck where
  /-- Lock state in force: it follows OTP only at power-on (R750). -/
  state : BitVec 2
  nonce : Option Nonce
  /-- Timebase periods of 10 ns left of the retry delay (R758). -/
  wait  : Nat
  reply : List Byte
  otpBad : Bool
  /-- The self-test that LCK_SVC.TEST started and that has not ended (R749). -/
  svc   : Option Test
deriving DecidableEq, Repr

/-- The device proper: everything but OTP, flash, TAP and pins. -/
structure Dev where
  /-- Every register, by host port offset; an unlisted one holds its reset value (R11, chapter 20). -/
  regs : Sparse Word
  not  : Notices
  brt  : Brt
  evs  : Evs
  val  : Val
  rda  : Rda
  chn  : List Core
  bnk  : Banks
  bel  : Bel
  mac  : List Port
  blw  : Blw
  usb  : Usb
  uart : List Uart
  hrp  : Hrp
  tim  : Tim
  pwr  : Pwr
  flt  : Flt
  boot : Boot
  lck  : Lck
  /-- Counter of free values drawn: the model's own field, not the spec's. -/
  free : Nat
deriving DecidableEq, Repr

/-- The whole state of the block, and the commands that wait, first in first out. -/
structure State where
  otp     : Otp
  tap     : Tap
  flash   : Flash
  pins    : Pins
  dev     : Dev
  pending : List Instr
deriving DecidableEq, Repr

/-! ### Outcomes -/

/-- Why the block stops. -/
inductive Fault where
  /-- Raised by BYPASS with a private instruction code while scopes DEBUG and TEST are both open: the spec says that the
  code is then not BYPASS and gives it no effect (R746, R812). Safe: the model stops where the hardware goes on. -/
  | privateInstruction
deriving DecidableEq, Repr

/-- Why a command has no meaning here. -/
inductive Refusal where
  /-- Raised by a command that has no meaning in the model yet, by its mnemonic. Safe. -/
  | notModelled (mnemonic : String)
deriving DecidableEq, Repr

/-! ### Reset -/

/-- A Chanter core after reset (R296, R328, CHN tables): not powered, DISABLED. -/
def Core.reset : Core where
  acc := List.replicate 8 0
  x := List.replicate 4 0
  y := List.replicate 4 0
  p := List.replicate 8 0
  n := List.replicate 8 0
  m := List.replicate 8 0
  lc := List.replicate 4 0
  ls := List.replicate 4 0
  le := List.replicate 4 0
  mxv := 0x80000000
  mnv := 0x7FFFFFFF
  mxi := 0
  mni := 0
  sidx := 0
  cst := 0
  lr := 0
  ipc := 0
  icst := 0
  pc := 0
  xwin := 0
  ywin := 0
  pm := []
  xm := []
  ym := []
  pend := []
  accOld := List.replicate 8 0
  cond1 := 0
  cond2 := 0
  pmPend := []
  loopPend := []
  lopen := none
  mxOld := [0x80000000, 0x7FFFFFFF, 0, 0, 0]
  slots := 0
  slotTo := 0
  slotRti := false
  noIrq := 0
  sb := []
  xline := none
  yline := none
  xmiss := none
  ymiss := none
  xdead := false
  ydead := false
  post := []
  pmHeld := []
  mst := 2
  dst := 2
  pwr := false
  run := false
  stalled := false
  restart := false
  startpc := 0
  ien := 0
  tsel := 0
  ipend := 0
  note := 0
  ovr := 0
  pstall := 0
  ecccor := 0
  cyc := 0
  cycmax := 0
  cycNow := 0
  waiting := false
  stopped := false
  pref := false
  done := true
  own := false
  bsp := false
  fcode := 0
  fpc := 0
  blocks := []
  pmBad := false

/-- A frame port after reset (R448). -/
def Port.reset : Port where
  tx := []
  rx := []
  nbr := none
  good := 0
  crcAt := []
  eccAt := []
  line := none
  testing := 0
  modePend := none
  gated := true

/-- A UART after reset (R604). -/
def Uart.reset : Uart where
  rx := []
  tx := []
  fe := false
  pe := false
  oe := false
  brk := false
  seen := 0
  last := 0
  status := none
  data := []
  syx := none
  frame := []
  sent := []

/-- A result group before its first result (R622), with `n` data words. -/
def GroupSt.reset (n : Nat) : GroupSt where
  words := List.replicate n 0
  rdy := false
  stale := false
  torn := false
  rseq := 0
  extra := 0
  locked := false
  pend := none
  nlost := 0
  count := 0

/-- The Breath and its loop after reset (R117). -/
def Brt.reset : Brt where
  pos := 0
  rem := 0
  tbase := 0
  snapPos := 0
  snapEpoch := 0
  snapMark := 0
  snapPctr := 0
  lastEdge := none
  inRange := 0
  outRange := 0
  vidBad := 0
  edgeNo := 0
  hasEpoch := false
  hsCount := 0
  hsBuf := []
  hsOpen := false
  srcRatio := 1
  ferrLog := []
  okRun := 0
  bigRun := 0
  outliers := 0
  filtErr := 0
  firstMeas := true
  acqFromFree := false
  soft := false
  holdStart := 0
  rebaseReq := false
  move := none
  srcPend := none
  waitRelease := none
  delays := List.replicate 4 []
  gaps := List.replicate 4 none
  reqs := List.replicate 4 none
  reqSeq := 0
  bcnSeq := 0
  sentBcn := false
  phEst := 0
  heardSeq := none
  heardOutrank := none
  outrankRun := 0
  listenFrom := 0
  heardPos := none
  pllLocked := false

/-- The device proper after reset. Registers are listed nowhere, so each reads its reset value. -/
def Dev.reset : Dev where
  regs := []
  not := ⟨[], false, [], 0⟩
  brt := Brt.reset
  evs := { store := [], panic := [], seq := 0, usbQ := [], uartQ := [], fabQ := [], trigQ := [],
           latchHost := List.replicate 16 0, latchUsb := List.replicate 16 0, latchFab := List.replicate 16 0,
           jr := List.replicate 16 ⟨false, 0, 0, 0, none⟩, sel := [], relPos := 0, relCnt := 0 }
  val := { part := [], partPend := [], ctl := [], bend := [], held := [], laneEmpty := [], predict := [],
           withheld := List.range 256, map := [], claims := [], cache := [], skipTb := [], lastPeer := 15, tagSeq := 0,
           leases := [], retOk := true }
  rda := { voices := [], ghosts := [], latches := [], count := 0, lfsr := [], phase := [], naive := [], lfo := [],
           sounded := [], block := none, bus := [], ret := [], plibPend := none, cmdPend := [], validating := none,
           alt := [], ctl := [], bend := [], partEvs := [] }
  chn := List.replicate 16 Core.reset
  bnk := { mem := [], poison := [], remaps := [], hand := [], outOwner := [], outGuest := [], misses := [] }
  bel := { out := [], g := 0, platPend := none, platWait := false, started := false, exitAt := none, busFrom := 0,
           sapIn := [], sapAt := List.replicate 4 none, sapSent := List.replicate 4 [],
           rbBad := List.replicate 8 0, rbStep := List.replicate 8 0 }
  mac := List.replicate 4 Port.reset
  blw := { inbox := [], msgs := [], posted := [], recs := [], done := [], atom := [], slots := [], epos := none,
           credit := List.replicate 4 0, cqWait := [], pausedFull := false, bad := [], evtDone := [], outcomes := [],
           regions := [], keys := List.replicate 16 none, cache := [], derive := [], pctr := 0, pctrWait := [],
           toldEx := [], toldDue := [], ready := [], strNext := [], authAt := none, cfgAt := none }
  usb := { prior := 0, addr := 0, vidpid := 0, outCh := 0, inCh := 0, fifo := [], next := none, taken := [], sof := [], sofs := 0,
           inFrames := [], inReady := [], inSent := [], notices := [], ep0 := none, ep3 := [], ep4 := [], ep5 := [], syx := [],
           altPend := [], rwReason := none, drivingK := false }
  uart := List.replicate 2 Uart.reset
  hrp := { hd := 0, snapTag := none, snap := 0, held := none, mbxLatch := List.replicate 16 0, mbx := [],
           line := none, fill := none, fresh := [], wbuf := [],
           groups := [GroupSt.reset 32, GroupSt.reset 16, GroupSt.reset 2, GroupSt.reset 16, GroupSt.reset 3],
           dwakePrep := none, rdata := 0 }
  tim := { ch := List.replicate 8 ⟨0, false, false, false⟩, wdtSub := 0, wdtRst := false }
  pwr := { entering := none, reqBlk := 0, entered := false, held := 0, crit := none, halved := false, lastAlarm := none }
  flt := { scores := [], scoreAt := [], tests := [], waiting := [], split := [], pmRows := [], tableRows := [] }
  boot := { reading := none, other := none, done := false, upd := none, pend := [],
            newest := none, logAt := none, ctxErr := false }
  lck := { state := 0, nonce := none, wait := 0, reply := [], otpBad := false, svc := none }
  free := 0

/-- OTP as a blank part leaves it: OPEN, no lock data, no signature required. -/
def Otp.blank : Otp where
  lock := 0
  salt := none
  pwHash := none
  key := none
  sigReq := false
  pubKey := []
  wrapKey := []
  serial := 0
  vid := 0
  pid := 0
  tgrade := false

/-- The machine right after reset: RESET_N still low, the AON power-on detector released, every register at its reset
value, no flash fitted, OTP blank, no command waiting. -/
def State.reset : State where
  otp := Otp.blank
  tap := { ir := 2, dr := [], latch := List.replicate 267 false }
  flash := { kind := .absent, mem := [] }
  pins := { resetN := false, por := true }
  dev := Dev.reset
  pending := []

end Sys2Proof.Machine
end

