-- ==== Sys2Proof/Machine/Ops.lean ====
section
/-!
DEFINITION. The named operations every family shares: sparse tables, registers and fields with their counters, byte and
bit helpers, serial comparison of Breath positions, the rate, free values, CRC-32, notices, the soft-mute request and the
fault log's waiting list.
-/
namespace Sys2Proof.Machine

/-- What a command answers. -/
abbrev Out := Host.Outcome State Fault Refusal

/-- A command whose whole effect is on the device proper: OTP, flash, TAP, pins and the queue stay as they are. -/
def onDev (f : Dev → Dev) (s : State) : Out := .next { s with dev := f s.dev }

/-! ### Sparse tables -/

/-- What key `k` reads as; `dflt` where it is not listed. -/
def sget {α : Type} (dflt : α) (k : Nat) : Sparse α → α
  | [] => dflt
  | (j, v) :: t => if j = k then v else sget dflt k t

/-- A table without key `k`. -/
def sdel {α : Type} (k : Nat) : Sparse α → Sparse α
  | [] => []
  | (j, u) :: t => if j = k then sdel k t else (j, u) :: sdel k t

/-- Enter a key before the first one above it. -/
def sins {α : Type} (k : Nat) (v : α) : Sparse α → Sparse α
  | [] => [(k, v)]
  | (j, u) :: t => if k < j then (k, v) :: (j, u) :: t else (j, u) :: sins k v t

/-- Write key `k`; writing what an unlisted key reads as removes the entry. -/
def sput {α : Type} [DecidableEq α] (dflt : α) (k : Nat) (v : α) (m : Sparse α) : Sparse α :=
  if v = dflt then sdel k m else sins k v (sdel k m)

/-- Every key of a table lies at or above a bound. -/
def sabove {α : Type} (b : Nat) : Sparse α → Bool
  | [] => true
  | (j, _) :: t => b ≤ j && sabove (j + 1) t

/-- The canonical form: keys strictly rising, no entry equal to what its key reads as when it is not listed. -/
def swf {α : Type} [DecidableEq α] (dflt : Nat → α) (m : Sparse α) : Bool :=
  sabove 0 m && m.all (fun e => e.2 ≠ dflt e.1)

/-! ### Bits and bytes -/

/-- Bits hi:lo of a number. -/
def bitsOf (n hi lo : Nat) : Nat := (n >>> lo) % 2 ^ (hi + 1 - lo)

/-- A word with bits hi:lo replaced by a number's low bits. -/
def putBits (w : Word) (hi lo v : Nat) : Word :=
  BitVec.ofNat 32 (w.toNat - bitsOf w.toNat hi lo * 2 ^ lo + (v % 2 ^ (hi + 1 - lo)) * 2 ^ lo)

/-- Bit `i` of a number. -/
def bit (n i : Nat) : Bool := n.testBit i

def b2n (b : Bool) : Nat := if b then 1 else 0

/-- Little-endian value of bytes (R3). -/
def leNat : List Byte → Nat
  | [] => 0
  | b :: t => b.toNat + 256 * leNat t

/-- The low `n` bytes of a number, little-endian (R3). -/
def leBytes : Nat → Nat → List Byte
  | 0, _ => []
  | n + 1, v => BitVec.ofNat 8 v :: leBytes n (v / 256)

/-- Big-endian forms, for the fields the spec names so (R41, R432, R522). -/
def beBytes (n v : Nat) : List Byte := (leBytes n v).reverse
def beNat (l : List Byte) : Nat := leNat l.reverse

/-- `n` bytes of a list from offset `o`; missing bytes read 0. -/
def slice (l : List Byte) (o n : Nat) : List Byte :=
  let t := (l.drop o).take n
  t ++ List.replicate (n - t.length) 0

/-- A little-endian field of a list of bytes. -/
def fieldAt (l : List Byte) (o n : Nat) : Nat := leNat (slice l o n)

/-- Replace element `i` of a list. -/
def setAt {α : Type} (l : List α) (i : Nat) (v : α) : List α := l.modify i (fun _ => v)

/-- Write bytes over a list from offset `o`, within its length. -/
def overlay (l : List Byte) (o : Nat) (data : List Byte) : List Byte :=
  l.take o ++ (data.take (l.length - o)) ++ l.drop (o + data.length)

/-- A signed reading of the low `w` bits of a number. -/
def signed (w n : Nat) : Int :=
  let m := n % 2 ^ w
  if m < 2 ^ (w - 1) then (m : Int) else (m : Int) - 2 ^ w

def clampI (lo hi v : Int) : Int := max lo (min hi v)
def clampQ (lo hi v : Rat) : Rat := max lo (min hi v)

/-- The quotient rounded to the nearest whole, halves up. -/
def divRound (a : Int) (b : Nat) : Int := (2 * a + b) / (2 * b)

/-- Update the first element that a test picks. -/
def updFirst {α : Type} (p : α → Bool) (f : α → α) : List α → List α
  | [] => []
  | a :: t => if p a then f a :: t else a :: updFirst p f t

/-- Insert a value after every element that it does not come before. -/
def insertBy {α : Type} (before : α → α → Bool) (a : α) : List α → List α
  | [] => [a]
  | b :: t => if before a b then a :: b :: t else b :: insertBy before a t

/-- The element that comes first. -/
def firstBy {α : Type} (before : α → α → Bool) : List α → Option α
  | [] => none
  | a :: t => match firstBy before t with
    | none => some a
    | some b => if before b a then some b else some a

/-! ### CRC-32 (R40) -/

/-- One bit of the reflected CRC-32. -/
def crcBit (c : Nat) : Nat := if c % 2 = 1 then (c / 2) ^^^ 0xEDB88320 else c / 2

def crcByte (c : Nat) (b : Byte) : Nat :=
  crcBit (crcBit (crcBit (crcBit (crcBit (crcBit (crcBit (crcBit (c ^^^ b.toNat))))))))

/-- CRC-32 of the IEEE 802.3 polynomial, reflected, initial and final 0xFFFF_FFFF (R40). -/
def crc32 (l : List Byte) : Nat := l.foldl crcByte 0xFFFFFFFF ^^^ 0xFFFFFFFF

/-! ### Registers and fields -/

/-- The stored value of the register at an offset. -/
def Dev.reg (d : Dev) (off : Nat) : Word := sget (resetOf off) off d.regs

def Dev.setReg (d : Dev) (off : Nat) (v : Word) : Dev :=
  { d with regs := sput (resetOf off) off v d.regs }

/-- Offset of element `i` of a field's register array. -/
def Fld.off (f : Fld) (i : Nat) : Nat := f.base + f.stride * i

/-- The stored value of a field, as a number. -/
def Dev.g (d : Dev) (f : Fld) (i : Nat := 0) : Nat := bitsOf (d.reg (f.off i)).toNat f.hi f.lo

/-- Store a field. -/
def Dev.s (d : Dev) (f : Fld) (v : Nat) (i : Nat := 0) : Dev :=
  d.setReg (f.off i) (putBits (d.reg (f.off i)) f.hi f.lo v)

/-- Is a field nonzero? -/
def Dev.on (d : Dev) (f : Fld) (i : Nat := 0) : Bool := d.g f i ≠ 0

/-- Advance a counter field by `n`, stopping at the field's largest value (R10). -/
def Dev.cnt (d : Dev) (f : Fld) (i : Nat := 0) (n : Nat := 1) : Dev :=
  d.s f (min (d.g f i + n) (2 ^ (f.hi + 1 - f.lo) - 1)) i

/-- Store a field when a condition holds. -/
def Dev.sIf (d : Dev) (c : Bool) (f : Fld) (v : Nat) (i : Nat := 0) : Dev := if c then d.s f v i else d

/-- Bit `i` of a register bank that spreads one flag a unit over words `stride` apart (BNK_RET, RDA_PVALID, BEL_UFL). -/
def Dev.flag (d : Dev) (f : Fld) (i : Nat) : Bool := (d.reg (f.off (i / 32))).getLsbD (i % 32)

def Dev.setFlag (d : Dev) (f : Fld) (i : Nat) (b : Bool) : Dev :=
  d.setReg (f.off (i / 32)) (putBits (d.reg (f.off (i / 32))) (i % 32) (i % 32) (b2n b))

/-! ### Breath positions -/

/-- The whole-sample part and the fraction of a position (R73). -/
def whole (p : Pos) : Nat := p.toNat / 65536
def fracOf (p : Pos) : BitVec 16 := BitVec.ofNat 16 p.toNat
def posOf (samples : Nat) : Pos := BitVec.ofNat 64 (samples * 65536)

/-- Position `a` is later than `b` (R74). -/
def later (a b : Pos) : Bool := let d := (a - b).toNat; 0 < d && d < 2 ^ 63
def earlier (a b : Pos) : Bool := a ≠ b && !later a b

/-- The signed distance a − b in 1/65,536 sample. -/
def distance (a b : Pos) : Int := (a - b).toInt

/-- `a` is newer than `b` by the serial rule on `w` bits (R52, R532). -/
def newerSeq (w a b : Nat) : Bool := let d := (a + 2 ^ w - b) % 2 ^ w; 0 < d && d < 2 ^ (w - 1)

/-- The first whole sample at or after a position (R134). -/
def ceilPos (p : Pos) : Pos := if fracOf p = 0 then p else posOf (whole p + 1)

/-- Nominal sample rate in Hz by BRT_CTL.FS; codes 6 and 7 are reserved and never stored. -/
def rateOf : Nat → Nat
  | 0 => 44100
  | 1 => 48000
  | 2 => 88200
  | 3 => 96000
  | 4 => 176400
  | _ => 192000

def Dev.fs (d : Dev) : Nat := rateOf (d.g BRT_CTL.FS)

/-- Rate class: 0 up to 48 kHz, 1 up to 96 kHz, 2 up to 192 kHz (R139, R149). -/
def Dev.rateClass (d : Dev) : Nat := d.g BRT_CTL.FS / 2

def Dev.blk (d : Dev) : Nat := d.g SYS_BLK.BLK
def Dev.mode (d : Dev) : Nat := d.g SYS_MODE.MODE
/-- Number of the block that contains the Breath position. -/
def Dev.blkNum (d : Dev) : Nat := whole d.brt.pos / d.blk

/-- Microseconds of Breath time as 1/65,536 samples. -/
def Dev.usPos (d : Dev) (us : Nat) : Nat := us * d.fs * 65536 / 1000000

/-- Modes by their code in SYS_MODE (chapter 20). -/
def mRESET : Nat := 0
def mBOOT : Nat := 1
def mRUN : Nat := 2
def mDEFAULTS : Nat := 3
def mSAFE : Nat := 4
def mIDLE : Nat := 5
def mDORMANT : Nat := 6
def mSERVICE : Nat := 7

/-- Is the device past step 7 and not asleep? -/
def Dev.running (d : Dev) : Bool :=
  d.mode = mRUN || d.mode = mDEFAULTS || d.mode = mSAFE || d.mode = mSERVICE

/-- The settings mode: RUN, or DEFAULTS when CFG_STAT.DEFAULTS is set (chapter 17). -/
def Dev.settingsMode (d : Dev) : Nat := if d.on CFG_STAT.DEFAULTS then mDEFAULTS else mRUN

/-! ### Free values -/

/-- Draw a free value of `w` bits. -/
def Dev.draw (d : Dev) (w : Nat) : BitVec w := Config.free w d.free
def Dev.drawn (d : Dev) : Dev := { d with free := d.free + 1 }

/-! ### Notices (R632 to R635, R778) -/

/-- A notice word: source, code, unit, LOST and stamp (R632). -/
def noticeWord (src code unit : Nat) (lost : Bool) (stamp : Nat) : BitVec 64 :=
  BitVec.ofNat 64 (src % 64 + (code % 256) * 2 ^ 8 + (unit % 4096) * 2 ^ 16 + b2n lost * 2 ^ 31
    + (stamp % 2 ^ 32) * 2 ^ 32)

/-- Would a notice of this source drive HIRQ_N low (R635)? -/
def Dev.irqSrc (d : Dev) (src : Nat) : Bool :=
  d.on HRP_CTL.IRQEN && src ≠ 0 && src < 32 && (d.reg HRP_NOTEN.base).getLsbD src

/-- A wake source of the host: with HSLEEP set and the source enabled the device prepares a wake (R637). -/
def Dev.prepDwake (d : Dev) (en : Fld) (reason : Nat) : Dev :=
  if d.on HRP_WAKE.HSLEEP && d.on en && !d.on HRP_WAKE.DWAKE && d.hrp.dwakePrep = none then
    { d with hrp := { d.hrp with dwakePrep := some (BitVec.ofNat 4 reason) } }
  else d

/-- A source of USB_RWEN occurs: while suspended with remote wake enabled the device prepares one (R582). -/
def Dev.prepRwake (d : Dev) (en : Fld) (reason : Nat) : Dev :=
  if d.g USB_STAT.STATE = 4 && d.on USB_STAT.RWENA && d.on en && d.usb.rwReason = none then
    { d with usb := { d.usb with rwReason := some (BitVec.ofNat 4 reason) } }.s USB_STAT.RWPEND 1
  else d

/-- Entries of the mailbox or the notice queue (tables 5 and 6) that a base leaves without their retired rows (R715). -/
def Dev.rowsLeft (d : Dev) (table base : Nat) : Nat :=
  base - Config.tableRow table * (d.flt.tableRows.filter (fun e => e.1 = table)).length

/-- A notice enters the queue, or is dropped at a full one (R633); one that enters is copied to the USB notice FIFO while
the configuration is set (R579), and wakes the host or the computer where that is enabled (R582, R637). -/
def Dev.raise (d : Dev) (src code unit : Nat) : Dev :=
  if d.not.q.length < d.rowsLeft 6 256 then
    let w := noticeWord src code unit d.not.lostNext (d.brt.pos.toNat / 65536)
    let d := { d with not := { d.not with q := d.not.q ++ [w], lostNext := false } }
    let configured := d.g USB_STAT.STATE = 3 || (d.g USB_STAT.STATE = 4 && d.usb.prior = 3)
    let d :=
      if configured then
        (if d.usb.notices.length < 64 then { d with usb := { d.usb with notices := d.usb.notices ++ [w] } }
         else d.cnt USB_NOTDROP)
      else d
    if d.irqSrc src then (d.prepDwake HRP_WAKE.NOTICE 1).prepRwake USB_RWEN.NOTICE 1 else d
  else
    ({ d with not := { d.not with lostNext := true } }.cnt HRP_NOTLOST).s HRP_NOTCNT.LOSTF 1

/-- A notice raised at most once per block for the key given (R195, R374, R517, R652, R657, R711). -/
def Dev.raiseOnce (d : Dev) (src code unit key : Nat) : Dev :=
  if (src, code, key) ∈ d.not.once then d
  else { d with not := { d.not with once := (src, code, key) :: d.not.once } }.raise src code unit

/-- Sources of notices (chapter 15). -/
def nSYS : Nat := 1
def nCFG : Nat := 2
def nBRT : Nat := 3
def nEVS : Nat := 4
def nVAL : Nat := 5
def nRDA : Nat := 6
def nCHN : Nat := 7
def nBNK : Nat := 8
def nMAC : Nat := 9
def nBLW : Nat := 10
def nBEL : Nat := 11
def nSAP : Nat := 12
def nUSB : Nat := 13
def nTIM : Nat := 15
def nHRP : Nat := 16
def nFLT : Nat := 17
def nPWR : Nat := 18
def nLCK : Nat := 19

/-- A change of SYS_MODE that a transition completes, with SYS_MODECHG where R779 raises it. -/
def Dev.setMode (d : Dev) (m : Nat) : Dev :=
  let old := d.mode
  let d := d.s SYS_MODE.MODE m
  if m = mRUN || m = mDEFAULTS || m = mSAFE || m = mSERVICE then d.raise nSYS 1 (m % 8 + (old % 8) * 16) else d

/-! ### Fault log (R65, R69, R701) -/

/-- Put an entry on the list of at most 8 that wait to be written; a further one, or one that a brown-out warning keeps
from being written, counts in CFG_SKIP.FLOG (R69, R701); with no fault log nothing is kept (R65, R723). -/
def Dev.logEntry (d : Dev) (ftype lfc : Nat) (notice : BitVec 64) (detail : Nat) : Dev :=
  if d.on CFG_STAT.FLOGNA then d
  else if d.boot.pend.length < 8 && !d.on PWR_STAT.BOW then
    { d with boot := { d.boot with pend := d.boot.pend ++
      [⟨BitVec.ofNat 16 ftype, BitVec.ofNat 8 lfc, notice, d.brt.pos, BitVec.ofNat 32 detail⟩] } }
  else d.cnt CFG_SKIP.FLOG

/-! ### The soft mute (R378, R379) -/

/-- Begin one of the requests of BEL_STAT.MREQ (0 start-up, 1 Breath, 2 PLL, 3 SAFE, 4 HMUTE, 5 BEL_PLAT change). -/
def Dev.muteReq (d : Dev) (k : Nat) : Dev :=
  let d := d.s BEL_STAT.MREQ (d.g BEL_STAT.MREQ ||| 2 ^ k)
  let m := d.g BEL_STAT.MSTATE
  if m = 0 ∨ m = 3 then d.s BEL_STAT.MSTATE 1 else d

/-- With no request active, a falling ramp turns round, and MUTED is left once the release conditions hold: the first code
has left its queue since start-up (R379), and the Breath's new position has been presented (R88). -/
def Dev.muteCheck (d : Dev) : Dev :=
  if d.g BEL_STAT.MREQ ≠ 0 then d
  else if d.g BEL_STAT.MSTATE = 1 then d.s BEL_STAT.MSTATE 3
  else if d.g BEL_STAT.MSTATE = 2 ∧ d.bel.started ∧ d.brt.waitRelease = none then d.s BEL_STAT.MSTATE 3
  else d

/-- End one of the requests. -/
def Dev.muteEnd (d : Dev) (k : Nat) : Dev :=
  let r := d.g BEL_STAT.MREQ
  (d.s BEL_STAT.MREQ (r - (if bit r k then 2 ^ k else 0))).muteCheck

/-! ### Levels (R816) and gains -/

/-- An amplitude in the format of R181 as a level in Q8.8 dB: 20 log10(a ÷ 2^27) to the nearest 1/256 dB, halves up,
saturated at 0x7FFF; below −128 dB, zero included, 0x8000 (R816). -/
def levelOf (a : Rat) : BitVec 16 :=
  if a ≤ 0 then 0x8000
  else
    let db := 20 * Config.log10 (a / 134217728)
    if db < -128 then 0x8000
    else BitVec.ofInt 16 (min 0x7FFF (Rat.floor (db * 256 + 1 / 2)))

/-- A real sample as an integer: itself where it is whole; else the rounding is the device's (notes/assumptions/7). -/
def roundQ (x : Rat) : Int := if x.den = 1 then x.num else Config.busRound x

/-- 10^(q ÷ 20) for a level q in Q8.8 dB; −32,768 is silence (R180, R361). -/
def gainOf (q : Nat) : Rat :=
  let s := signed 16 q
  if s = -32768 then 0 else if s = 0 then 1 else Config.pow10 ((s : Rat) / 256 / 20)

end Sys2Proof.Machine
end

