-- ==== Sys2Proof/Machine/Flags.lean ====
section
/-!
DEFINITION. The status of a Chanter core (chapter 07): the fields of CST, rounding and saturation on accumulator moves
(R260, R261), and the flags that an arithmetic result sets (R255, R258).
-/
namespace Sys2Proof.Machine

/-! ### CST (R253, R254) -/

def cGOV : Nat := 0
def cSAT : Nat := 1
def cAERR : Nat := 2
def cLSUSP : Nat := 6
def cIE : Nat := 7
def cZ : Nat := 12
def cN : Nat := 13
def cE : Nat := 14
/-- Bit of the condition words of a core (not of CST) that holds PREF. -/
def cPREF : Nat := 31

/-- Bits that a program writes freely, the sticky bits, the flags, and all defined bits. -/
def cstSticky : Nat := 0x7
def cstFlags : Nat := 0x7007
def cstAll : Nat := 0x77F7

def setBit (w : BitVec 32) (i : Nat) (b : Bool) : BitVec 32 := putBits w i i (b2n b)

def Core.st (k : Core) (i : Nat) : Bool := bit k.cst.toNat i
def Core.setSt (k : Core) (i : Nat) (b : Bool) : Core := { k with cst := setBit k.cst i b }
/-- Set a sticky bit when a condition holds. -/
def Core.stick (k : Core) (i : Nat) (b : Bool) : Core := if b then k.setSt i true else k
def Core.rnd (k : Core) : Nat := bitsOf k.cst.toNat 5 4
def Core.ll (k : Core) : Nat := bitsOf k.cst.toNat 10 8
def Core.setLl (k : Core) (n : Nat) : Core := { k with cst := putBits k.cst 10 8 n }

/-- CST with PREF beside it: what conditional branches test. -/
def Core.condNow (k : Core) : BitVec 32 := setBit k.cst cPREF k.pref

/-! ### Arithmetic results (R255, R256, R258) -/

/-- Do the guard bits [71:63] of a 72-bit value differ among themselves? -/
def guardsDiffer (v : BitVec 72) : Bool :=
  let g := bitsOf v.toNat 71 63
  g ≠ 0 && g ≠ 511

/-- Does an exact result lie outside the 72-bit range (R258)? -/
def outOf72 (v : Int) : Bool := v < -(2 ^ 71) || 2 ^ 71 ≤ v

/-- Z, N and E of a 72-bit result (R255). -/
def Core.flags (k : Core) (v : BitVec 72) : Core :=
  ((k.setSt cZ (v = 0)).setSt cN v.msb).setSt cE (guardsDiffer v)

/-- The signed value of an accumulator, and a Q1.31 half. -/
def Core.accInt (k : Core) (n : Nat) : Int := (k.acc.getD n 0).toInt
def halfOf (v : BitVec 64) (h : Nat) : BitVec 32 := BitVec.ofNat 32 (v.toNat >>> (32 * h))

/-- The product of two Q1.31 factors, shifted left by one bit (R256). -/
def prod31 (a b : BitVec 32) : Int := a.toInt * b.toInt * 2

/-! ### Rounding and saturation (R260, R261) -/

/-- The 72-bit value after the rounding that RND selects, exact. -/
def roundAcc (rnd : Nat) (v : BitVec 72) : Int :=
  if rnd = 1 then v.toInt + 2 ^ 31
  else if rnd = 2 then
    (if bitsOf v.toNat 31 0 = 0x80000000 && !bit v.toNat 32 then v.toInt else v.toInt + 2 ^ 31)
  else v.toInt

/-- A value saturated to Q1.63, and whether it was: bits [71:63] not all equal (R261). -/
def sat63 (v : Int) : BitVec 64 × Bool :=
  if v < -(2 ^ 63) then (0x8000000000000000, true)
  else if 2 ^ 63 ≤ v then (0x7FFFFFFFFFFFFFFF, true)
  else (BitVec.ofInt 64 v, false)

/-- Bits [63:32] of a rounded value, saturated to Q1.31, and whether it was. -/
def sat31 (v : Int) : BitVec 32 × Bool :=
  if v < -(2 ^ 63) then (0x80000000, true)
  else if 2 ^ 63 ≤ v then (0x7FFFFFFF, true)
  else (BitVec.ofInt 32 (v / 2 ^ 32), false)

/-! ### Branch conditions (R301, table of COND) -/

/-- Is a condition met by a condition word, and by a pending enabled interrupt? Codes 14 and 15 are reserved. -/
def condMet (cond : Nat) (w : Nat) (irq : Bool) : Bool :=
  match cond with
  | 0 => true
  | 1 => bit w cZ
  | 2 => !bit w cZ
  | 3 => bit w cN
  | 4 => !bit w cN
  | 5 => !bit w cN && !bit w cZ
  | 6 => bit w cN || bit w cZ
  | 7 => bit w cE
  | 8 => !bit w cE
  | 9 => bit w cSAT
  | 10 => bit w cGOV
  | 11 => bit w cAERR
  | 12 => bit w cPREF
  | 13 => irq
  | _ => false

end Sys2Proof.Machine
end

