-- ==== Sys2Proof/Machine/Operands.lean ====
section
/-!
DEFINITION. The operands of a Chanter core (chapters 07, 08): the register codes and what reading and writing each yields
(R259, R300, R301), delayed register writes (R307), pointer modes (R262, R263), and the core's run state (R324, R325).
-/
namespace Sys2Proof.Machine

/-! ### Register codes (R300) -/

/-- Is a code one of a 64-bit register? -/
def wideCode (code : Nat) : Bool := code < 8 || (32 ≤ code && code < 44)

/-- Codes that a move field, and that a control instruction, may name. -/
def moveCodeOk (code : Nat) : Bool := code < 62
def ctlCodeOk (code : Nat) : Bool := code < 62 || (64 ≤ code && code < 117)

/-- ACCn.H of a 72-bit value under a rounding mode, and whether it saturated. -/
def accH (rnd : Nat) (v : BitVec 72) : BitVec 32 × Bool := sat31 (roundAcc rnd v)

/-- Two halves as one 64-bit word, the low half first. -/
def joinHalves (lo hi : BitVec 32) : BitVec 64 := BitVec.ofNat 64 (lo.toNat + hi.toNat * 2 ^ 32)

/-- A loop register as a move reads it: a write is seen from the third instruction on (R272). -/
def Core.loopView (k : Core) (code : Nat) (v : Nat) : Nat :=
  match (k.loopPend.filter (fun e => e.code.toNat = code && e.wait ≤ 2)).getLast? with
  | some e => e.val.toNat
  | none => v

/-- CST as a move reads it: the sticky bits and flags as three instructions ago left them (R272). -/
def Core.cstView (k : Core) : BitVec 32 :=
  BitVec.ofNat 32 ((k.cst.toNat - (k.cst.toNat &&& cstFlags)) ||| (k.cond2.toNat &&& cstFlags))

/-- What a store or register copy reads from a code: the value in the low bits, and whether it saturated (R259, R301). -/
def Core.readCode (k : Core) (code : Nat) : BitVec 64 × Bool :=
  let accv : Nat → BitVec 72 := fun n => k.accOld.getD n 0
  let w32 : BitVec 32 → BitVec 64 × Bool := fun v => (v.setWidth 64, false)
  let n16 : Nat → BitVec 64 × Bool := fun v => (BitVec.ofNat 64 v, false)
  if code < 4 then (k.x.getD code 0, false)
  else if code < 8 then (k.y.getD (code - 4) 0, false)
  else if code < 16 then w32 (halfOf (k.x.getD ((code - 8) / 2) 0) (code % 2))
  else if code < 24 then w32 (halfOf (k.y.getD ((code - 16) / 2) 0) (code % 2))
  else if code < 32 then
    let r := accH k.rnd (accv (code - 24))
    (r.1.setWidth 64, r.2)
  else if code < 40 then sat63 (accv (code - 32)).toInt
  else if code < 44 then
    let lo := accH k.rnd (accv ((code - 40) * 2))
    let hi := accH k.rnd (accv ((code - 40) * 2 + 1))
    (joinHalves lo.1 hi.1, lo.2 || hi.2)
  else if code < 52 then w32 (BitVec.ofNat 32 (accv (code - 44)).toNat)
  else if code < 60 then w32 (BitVec.ofNat 32 ((accv (code - 52)).toNat >>> 32))
  else if code = 60 then w32 (k.mxOld.getD 0 0)
  else if code = 61 then w32 (k.mxOld.getD 1 0)
  else if code < 64 then w32 0
  else if code < 72 then w32 (BitVec.ofInt 32 (signed 8 ((accv (code - 64)).toNat >>> 64)))
  else if code < 80 then n16 (k.p.getD (code - 72) 0).toNat
  else if code < 88 then n16 (k.n.getD (code - 80) 0).toNat
  else if code < 96 then n16 (k.m.getD (code - 88) 0).toNat
  else if code < 100 then n16 (k.loopView code (k.lc.getD (code - 96) 0).toNat)
  else if code < 104 then n16 (k.loopView code (k.ls.getD (code - 100) 0).toNat)
  else if code < 108 then n16 (k.loopView code (k.le.getD (code - 104) 0).toNat)
  else if code < 111 then w32 (k.mxOld.getD (code - 106) 0)
  else if code = 111 then w32 k.cstView
  else if code = 112 then n16 k.lr.toNat
  else if code = 113 then n16 k.ipc.toNat
  else if code = 114 then w32 k.icst
  else if code = 115 then w32 k.xwin
  else if code = 116 then w32 k.ywin
  else w32 0

/-! ### Register writes (R259, R301) -/

/-- Replace one half of a 64-bit value. -/
def putHalf (v : BitVec 64) (h : Nat) (w : BitVec 32) : BitVec 64 :=
  if h = 0 then joinHalves w (halfOf v 1) else joinHalves (halfOf v 0) w

/-- Apply a partial or whole load to an accumulator: forms .H, .W, .RL, .RH and .RG. -/
def accLoad (form : Nat) (old : BitVec 72) (v : BitVec 64) : BitVec 72 :=
  match form with
  | 0 => BitVec.ofInt 72 ((BitVec.ofNat 32 v.toNat).toInt * 2 ^ 32)
  | 1 => BitVec.ofInt 72 v.toInt
  | 2 => BitVec.ofNat 72 (old.toNat / 2 ^ 32 * 2 ^ 32 + v.toNat % 2 ^ 32)
  | 3 => BitVec.ofNat 72 (old.toNat / 2 ^ 64 * 2 ^ 64 + v.toNat % 2 ^ 32 * 2 ^ 32 + old.toNat % 2 ^ 32)
  | _ => BitVec.ofNat 72 (v.toNat % 256 * 2 ^ 64 + old.toNat % 2 ^ 64)

def Core.loadAcc (k : Core) (form n : Nat) (v : BitVec 64) : Core :=
  { k with acc := k.acc.modify n (fun o => accLoad form o v), accOld := k.accOld.modify n (fun o => accLoad form o v) }

/-- Bits of a window register that hold an address (R251). -/
def winMask (v : Nat) : BitVec 32 := BitVec.ofNat 32 (v &&& 0x1FE0000)

/-- A delayed write lands in its register. A pair's load has become two loads of its accumulators before. -/
def Core.writeCode (k : Core) (code : Nat) (v : BitVec 64) : Core :=
  let w32 := BitVec.ofNat 32 v.toNat
  let h16 := BitVec.ofNat 16 v.toNat
  let a14 := BitVec.ofNat 14 v.toNat
  if code < 4 then { k with x := setAt k.x code v }
  else if code < 8 then { k with y := setAt k.y (code - 4) v }
  else if code < 16 then { k with x := k.x.modify ((code - 8) / 2) (fun o => putHalf o (code % 2) w32) }
  else if code < 24 then { k with y := k.y.modify ((code - 16) / 2) (fun o => putHalf o (code % 2) w32) }
  else if code < 32 then k.loadAcc 0 (code - 24) v
  else if code < 40 then k.loadAcc 1 (code - 32) v
  else if code < 44 then k
  else if code < 52 then k.loadAcc 2 (code - 44) v
  else if code < 60 then k.loadAcc 3 (code - 52) v
  else if code = 60 then { k with mxv := w32, mxOld := setAt k.mxOld 0 w32 }
  else if code = 61 then { k with mnv := w32, mxOld := setAt k.mxOld 1 w32 }
  else if code < 64 then k
  else if code < 72 then k.loadAcc 4 (code - 64) v
  else if code < 80 then { k with p := setAt k.p (code - 72) h16 }
  else if code < 88 then { k with n := setAt k.n (code - 80) h16 }
  else if code < 96 then { k with m := setAt k.m (code - 88) h16 }
  else if code < 100 then { k with lc := setAt k.lc (code - 96) h16 }
  else if code < 104 then { k with ls := setAt k.ls (code - 100) a14 }
  else if code < 108 then { k with le := setAt k.le (code - 104) a14 }
  else if code = 108 then { k with mxi := h16, mxOld := setAt k.mxOld 2 (h16.setWidth 32) }
  else if code = 109 then { k with mni := h16, mxOld := setAt k.mxOld 3 (h16.setWidth 32) }
  else if code = 110 then { k with sidx := h16, mxOld := setAt k.mxOld 4 (h16.setWidth 32) }
  else if code = 111 then
    let k := { k with cst := putBits k.cst 7 7 (bitsOf v.toNat 7 7) }
    if bitsOf v.toNat 5 4 = 3 then k else { k with cst := putBits k.cst 5 4 (bitsOf v.toNat 5 4) }
  else if code = 112 then { k with lr := a14 }
  else if code = 113 then { k with ipc := a14 }
  else if code = 114 then { k with icst := w32 &&& BitVec.ofNat 32 cstAll }
  else if code = 115 then { k with xwin := winMask v.toNat, xline := none }
  else if code = 116 then { k with ywin := winMask v.toNat, yline := none }
  else k

/-- Start a load, LDI or register copy into a code: it is seen from the third instruction on, loop registers by the
loop-end comparison from the fifth; a program clears sticky CST bits by writing 0 (R254, R307). -/
def Core.load (k : Core) (code : Nat) (v : BitVec 64) : Core :=
  let c := BitVec.ofNat 8 code
  if 40 ≤ code && code < 44 then
    { k with pend := k.pend ++ [⟨3, BitVec.ofNat 8 (24 + (code - 40) * 2), (halfOf v 0).setWidth 64⟩,
                                ⟨3, BitVec.ofNat 8 (25 + (code - 40) * 2), (halfOf v 1).setWidth 64⟩] }
  else if 96 ≤ code && code < 108 then { k with loopPend := k.loopPend ++ [⟨5, c, v⟩] }
  else if code = 111 then
    let gone := cstSticky - (v.toNat &&& cstSticky)
    { k with cst := BitVec.ofNat 32 (k.cst.toNat - (k.cst.toNat &&& gone)), pend := k.pend ++ [⟨3, c, v⟩],
             loopPend := k.loopPend ++ [⟨5, c, k.cst.setWidth 64⟩] }
  else { k with pend := k.pend ++ [⟨3, c, v⟩] }

/-- CST.IE as interrupt acceptance sees it (R307): a write counts from when it reaches stage W. -/
def Core.ieSeen (k : Core) : Bool :=
  match k.loopPend.find? (fun e => e.code = 111) with
  | some e => bit e.val.toNat cIE
  | none => k.st cIE

/-! ### The start of an instruction: what has become visible (R307) -/

def Delayed.tick (e : Delayed) : Delayed := { e with wait := e.wait - 1 }

def applyDelayed (k : Core) (l : List Delayed) : Core := l.foldl (fun (c : Core) (e : Delayed) => c.writeCode e.code.toNat e.val) k

def applyPm (k : Core) (l : List PmPend) : Core :=
  l.foldl (fun (c : Core) (e : PmPend) => { c with pm := sput 0 e.addr.toNat e.val c.pm }) k

/-- A core as the next instruction finds it: every delayed write is one instruction nearer, and RTI's copy of ICST takes
place at the fetch of the instruction at IPC (R316). -/
def Core.front (k : Core) : Core :=
  let pend := k.pend.map Delayed.tick
  let loop := k.loopPend.map Delayed.tick
  let pmp := k.pmPend.map (fun (e : PmPend) => { e with wait := e.wait - 1 })
  let k := applyDelayed k (pend.filter (·.wait = 0))
  let k := applyDelayed k (loop.filter (fun e => e.wait = 0 && e.code ≠ 111))
  let k := applyPm k (pmp.filter (·.wait = 0))
  let k := { k with pend := pend.filter (·.wait ≠ 0), loopPend := loop.filter (·.wait ≠ 0),
                    pmPend := pmp.filter (·.wait ≠ 0),
                    lopen := match k.lopen with
                      | some (w, l, s) => if w ≤ 1 then none else some (w - 1, l, s)
                      | none => none }
  if k.slotRti && k.slots = 0 then
    let cst := BitVec.ofNat 32 ((k.icst.toNat &&& (cstAll - cstSticky)) ||| (k.cst.toNat &&& cstSticky))
    let k := { k with cst := cst, slotRti := false }
    { k with cond1 := k.condNow, cond2 := k.condNow }
  else k

/-- Every instruction has retired: all delayed writes are done, and nothing is in flight (R312, R324). -/
def Core.retire (k : Core) : Core :=
  let k := applyPm (applyDelayed (applyDelayed k k.pend) (k.loopPend.filter (fun e => e.code ≠ 111))) k.pmPend
  let k := { k with pend := [], loopPend := [], pmPend := [], lopen := none, accOld := k.acc,
                    mxOld := [k.mxv, k.mnv, k.mxi.setWidth 32, k.mni.setWidth 32, k.sidx.setWidth 32] }
  { k with cond1 := k.condNow, cond2 := k.condNow }

/-! ### Address generation (R262, R263) -/

/-- Reverse-carry sum over 16 bits. -/
def revBits (v : BitVec 16) : BitVec 16 := v.reverse
def revAdd (a b : BitVec 16) : BitVec 16 := revBits (revBits a + revBits b)

/-- Least k with L ≤ 2^k, for L up to 16,384. -/
def ceilLog (l : Nat) : Nat := ((List.range 15).find? (fun k => l ≤ 2 ^ k)).getD 14

/-- A pointer after a step, as its M register says. -/
def stepPtr (m p : BitVec 16) (s : Int) : BitVec 16 :=
  let linear := BitVec.ofInt 16 ((p.toNat : Int) + s)
  let len := bitsOf m.toNat 13 0
  match bitsOf m.toNat 15 14 with
  | 1 =>
    if len = 1 then linear
    else
      let l := if len = 0 then 16384 else len
      let b := p.toNat / 2 ^ ceilLog l * 2 ^ ceilLog l
      BitVec.ofInt 16 ((b : Int) + (((p.toNat : Int) - b + s) % l))
  | 2 => revAdd p (BitVec.ofInt 16 s)
  | _ => linear

/-- Address used and pointer afterwards, for a pointer, a mode 0 to 4 and a width. -/
def Core.genAddr (k : Core) (pn mode : Nat) (wide : Bool) : BitVec 16 × Option (BitVec 16) :=
  let p := k.p.getD pn 0
  let n := k.n.getD pn 0
  let m := k.m.getD pn 0
  let w : Int := if wide then 2 else 1
  match mode with
  | 1 => (p, some (stepPtr m p w))
  | 2 => (p, some (stepPtr m p (-w)))
  | 3 => (p, some (stepPtr m p n.toInt))
  | 4 => (p + n, none)
  | _ => (p, none)

/-! ### Run state (R321, R324, R325) -/

/-- Effective state of a core (R724). -/
def Core.est (k : Core) : Nat := max k.mst.toNat k.dst.toNat

/-- What RESTART does when the core next runs (R325). -/
def Core.restarted (k : Core) : Core :=
  let k := { k with restart := false, pc := k.startpc, ipend := 0, done := true, own := false, bsp := false, stopped := false, fcode := 0,
                    slots := 0, slotRti := false, noIrq := 0, dst := if k.dst = 2 then 0 else k.dst }
  ((k.setLl 0).setSt cLSUSP false).setSt cIE false

/-- Follow a change of the states, of power or of RESTART: a core that leaves ENABLED stops issuing, one that enters it
resumes at PC, or at STARTPC when RESTART was written; one in DRAINING goes on as it was (R321, R324). -/
def Core.sync (k : Core) : Core :=
  if k.pwr && k.mst = 0 && k.dst = 0 then
    (if k.run then
      (if k.waiting && k.bsp then { k with waiting := false, bsp := false, pc := k.pc + 1 } else k)
    else
      let k := if k.restart then k.restarted else k
      { k with run := true, waiting := false, stalled := false, xmiss := none, ymiss := none })
  else if k.pwr && k.est = 1 then k
  else if k.run then { k.retire with run := false, waiting := false, stalled := false, xmiss := none, ymiss := none,
                                      xdead := false, ydead := false }
  else k

/-- What a management write does beside: with RESTART written, a core that a fault, STOP or power-up disabled runs again once
its management state is ENABLED (R295, R325). -/
def Core.managed (k : Core) : Core :=
  (if k.pwr && k.mst = 0 && k.restart && !k.run && k.dst = 2 then { k with dst := 0 } else k).sync

end Sys2Proof.Machine
end

