-- ==== Sys2Proof/Machine/Units.lean ====
section
/-!
DEFINITION. Units and their states (R707, R724 to R728), result groups (R618 to R622), the start of self-tests and the
scheduling of row tests (R708, R710, R818), and critical faults' record (R730).
-/
namespace Sys2Proof.Machine

/-! ### Unit kinds (R707) -/

def kRow : Nat := 1
def kBank : Nat := 2
def kLane : Nat := 3
def kCore : Nat := 4
def kPort : Nat := 5
def kOut : Nat := 6
def kMon : Nat := 7
def kPm : Nat := 8
def kWq : Nat := 9
def kPll : Nat := 10
def kTab : Nat := 11

/-- A unit's code in notices and results. -/
def unitCode (kind idx : Nat) : Nat := kind % 16 * 256 + idx % 256

def ENABLED : Nat := 0
def DRAINING : Nat := 1
def DISABLED : Nat := 2
def RETIRED : Nat := 3

/-- How many units of a kind there are. -/
def unitCount : Nat → Nat
  | 1 => 128
  | 2 => 128
  | 3 => 32
  | 4 => 16
  | 5 => 4
  | 6 => 112
  | 7 => 8
  | 8 => 16
  | 9 => 64
  | 10 => 1
  | 11 => 7
  | _ => 0

/-! ### Element access -/

def Dev.core (d : Dev) (c : Nat) : Core := d.chn.getD c Core.reset
def Dev.setCore (d : Dev) (c : Nat) (v : Core) : Dev := { d with chn := setAt d.chn c v }
def Dev.port (d : Dev) (n : Nat) : Port := d.mac.getD n Port.reset
def Dev.setPort (d : Dev) (n : Nat) (v : Port) : Dev := { d with mac := setAt d.mac n v }
def Dev.ser (d : Dev) (u : Nat) : Uart := d.uart.getD u Uart.reset
def Dev.setSer (d : Dev) (u : Nat) (v : Uart) : Dev := { d with uart := setAt d.uart u v }

/-! ### Management, data-path and effective states (R724) -/

/-- Management state of a unit. -/
def Dev.mst (d : Dev) (kind i : Nat) : Nat :=
  match kind with
  | 2 => d.g BNK_MODE.MST i
  | 3 => bitsOf (d.g FLT_LANEMST (i / 16)) (i % 16 * 2 + 1) (i % 16 * 2)
  | 4 => (d.core i).mst.toNat
  | 5 => d.g MAC_CTL.MST i
  | 6 => d.g BEL_OSTATE.MST i
  | 9 => d.g BLW_WQ_CFG.MST i
  | _ => 0

/-- Data-path state of a unit. -/
def Dev.dst (d : Dev) (kind i : Nat) : Nat :=
  match kind with
  | 2 => d.g BNK_MODE.DST i
  | 3 => bitsOf (d.g FLT_LANEDST (i / 16)) (i % 16 * 2 + 1) (i % 16 * 2)
  | 4 => (d.core i).dst.toNat
  | 5 => d.g MAC_STAT.DST i
  | 6 => d.g BEL_OSTATE.DST i
  | 9 => d.g BLW_WQ_CFG.DST i
  | _ => 0

/-- Effective state: the more restrictive of the two (R724). -/
def Dev.est (d : Dev) (kind i : Nat) : Nat := max (d.mst kind i) (d.dst kind i)

/-- Show the effective state in the field that holds it. -/
def Dev.showEst (d : Dev) (kind i : Nat) : Dev :=
  let e := d.est kind i
  match kind with
  | 2 => d.s BNK_MODE.EST e i
  | 3 => d.setReg (FLT_LANEEST.off (i / 16))
      (putBits (d.reg (FLT_LANEEST.off (i / 16))) (i % 16 * 2 + 1) (i % 16 * 2) e)
  | 5 => d.s MAC_STAT.EST e i
  | 6 => d.s BEL_OSTATE.EST e i
  | 9 => d.s BLW_WQ_CFG.EST e i
  | _ => d

/-- Store a unit's management state. -/
def Dev.putMst (d : Dev) (kind i v : Nat) : Dev :=
  (match kind with
  | 2 => d.s BNK_MODE.MST v i
  | 3 => d.setReg (FLT_LANEMST.off (i / 16))
      (putBits (d.reg (FLT_LANEMST.off (i / 16))) (i % 16 * 2 + 1) (i % 16 * 2) v)
  | 4 => d.setCore i ({ d.core i with mst := BitVec.ofNat 2 v }).managed
  | 5 => d.s MAC_CTL.MST v i
  | 6 => d.s BEL_OSTATE.MST v i
  | 9 => d.s BLW_WQ_CFG.MST v i
  | _ => d).showEst kind i

/-- Store a unit's data-path state. -/
def Dev.putDst (d : Dev) (kind i v : Nat) : Dev :=
  (match kind with
  | 2 => d.s BNK_MODE.DST v i
  | 3 => d.setReg (FLT_LANEDST.off (i / 16))
      (putBits (d.reg (FLT_LANEDST.off (i / 16))) (i % 16 * 2 + 1) (i % 16 * 2) v)
  | 4 => d.setCore i ({ d.core i with dst := BitVec.ofNat 2 v }).sync
  | 5 => d.s MAC_STAT.DST v i
  | 6 => d.s BEL_OSTATE.DST v i
  | 9 => d.s BLW_WQ_CFG.DST v i
  | _ => d).showEst kind i

/-- The unit's fault logic now holds a state: DST follows, but a retirement stays (R728), and a latched split keeps DST
from returning to a less restrictive state (R727). -/
def Dev.logicDst (d : Dev) (kind i v : Nat) : Dev :=
  let u := unitCode kind i
  match d.flt.split.lookup u with
  | some _ =>
    let d := { d with flt := { d.flt with split := d.flt.split.map (fun e => if e.1 = u then (u, v) else e) } }
    if d.dst kind i = RETIRED || v < d.dst kind i then d else d.putDst kind i v
  | none => if d.dst kind i = RETIRED then d else d.putDst kind i v

/-- A management write of a unit's state releases a latched split, and DST takes the state the fault logic holds (R728). No
fault logic restricts a work queue: its first management write takes DST from its reset value DISABLED to ENABLED (DEDUCED,
notes/assumptions/36). -/
def Dev.manage (d : Dev) (kind i v : Nat) : Dev :=
  let u := unitCode kind i
  let logic := if kind = kWq then some ENABLED else d.flt.split.lookup u
  let d := { d with flt := { d.flt with split := d.flt.split.filter (fun e => e.1 ≠ u) } }
  let d := match logic with
    | some l => if d.dst kind i = RETIRED then d else d.putDst kind i l
    | none => d
  d.putMst kind i v

/-! ### Result groups (R618 to R622) -/

def gMeters : Nat := 0
def gChanter : Nat := 1
def gAtomic : Nat := 2
def gAperture : Nat := 3
def gSelftest : Nat := 4

def Group.idx : Group → Nat
  | .meters => 0
  | .chanter => 1
  | .atomic => 2
  | .aperture => 3
  | .selftest => 4

def Dev.grp (d : Dev) (i : Nat) : GroupSt := d.hrp.groups.getD i (GroupSt.reset 0)
def Dev.setGrp (d : Dev) (i : Nat) (g : GroupSt) : Dev := { d with hrp := { d.hrp with groups := setAt d.hrp.groups i g } }

/-- Make a result the visible copy; one that was not consumed is lost (FLT_STRES.NLOST). -/
def GroupSt.publish (g : GroupSt) (r : List Word × Byte × Word) (torn : Bool) : GroupSt :=
  { g with words := r.1, rseq := r.2.1, extra := r.2.2, rdy := true, stale := false, torn := torn,
           nlost := if g.rdy && g.nlost ≠ 0xFFFF then g.nlost + 1 else g.nlost }

/-- A new result of a group: visible at once, or pending behind a lock (R619 to R621). -/
def GroupSt.place (g : GroupSt) (words : List Word) (extra : Word) : GroupSt :=
  let n := g.count + 1
  if g.locked then { g with count := n, pend := some (words, n, extra) }
  else { g with count := n }.publish (words, n, extra) false

/-- A lock ends; the pending result, if any, becomes visible, marked torn when the lock timed out (R621). -/
def GroupSt.unlock (g : GroupSt) (timeout : Bool) : GroupSt :=
  if !g.locked then g
  else match g.pend with
    | some r => { g with locked := false, pend := none }.publish r timeout
    | none => { g with locked := false }

def Dev.placeResult (d : Dev) (i : Nat) (words : List Word) (extra : Word := 0) : Dev :=
  d.setGrp i ((d.grp i).place words extra)

/-! ### Self-tests: start and scheduling (R708, R710, R818) -/

def isRowKind (k : Nat) : Bool := k = kRow || k = kCore || k = kPm || k = kTab

/-- Is a unit retired, so that it starts no test (R710)? -/
def Dev.unitRetired (d : Dev) (kind i row : Nat) : Bool :=
  if kind = kRow then d.est kBank i = RETIRED
  else if kind = kPm then d.est kCore i = RETIRED
  else if kind = kMon then d.on BEL_OSTATE.MONRET i || d.est kOut i = RETIRED
  else if kind = kTab then d.flt.tableRows.contains (i, row)
  else if kind = kPll then false
  else d.est kind i = RETIRED

def Test.of (kind i row : Nat) : Test := ⟨BitVec.ofNat 4 kind, BitVec.ofNat 8 i, BitVec.ofNat 12 row⟩

/-- Show the number of running tests in FLT_STAT.TESTS. -/
def Dev.showTests (d : Dev) : Dev := d.s FLT_STAT.TESTS (min d.flt.tests.length 255)

/-- Start a test now. -/
def Dev.beginTest (d : Dev) (t : Test) : Dev :=
  ({ d with flt := { d.flt with tests := d.flt.tests ++ [t] } }.cnt FLT_NTESTS).showTests

/-- Row tests running on the bank, core memory or table of a test. -/
def Dev.rowTests (d : Dev) (t : Test) : Nat :=
  (d.flt.tests.filter (fun u => u.kind = t.kind && u.index = t.index)).length

/-- A detected error starts the targeted self-test of its unit, joins one that runs or waits, or waits itself (R710,
R818). -/
def Dev.startTest (d : Dev) (kind i row : Nat) : Dev :=
  let t := Test.of kind i row
  if d.unitRetired kind i row || d.flt.tests.contains t || d.flt.waiting.contains t then d
  else if isRowKind kind && 4 ≤ d.rowTests t then
    (if (d.flt.waiting.filter (fun u => u.kind = t.kind && u.index = t.index)).length < 16 then
      { d with flt := { d.flt with waiting := d.flt.waiting ++ [t] } }
    else d)
  else d.beginTest t

/-- A test that LCK_SVC.TEST started has ended (R749). -/
def Dev.serviceDone (d : Dev) (t : Test) : Dev :=
  if d.lck.svc = some t then { d with lck := { d.lck with svc := none } }.s LCK_SVC.DONE 1 else d

/-- A test has ended: the first waiting test on the same memory starts (R818). -/
def Dev.endTest (d : Dev) (t : Test) : Dev :=
  let d := d.serviceDone t
  let d := { d with flt := { d.flt with tests := d.flt.tests.erase t } }.showTests
  match d.flt.waiting.find? (fun u => u.kind = t.kind && u.index = t.index) with
  | some u => { d with flt := { d.flt with waiting := d.flt.waiting.erase u } }.beginTest u
  | none => d

/-- Does a retired row of the protection tables hold entry `e` (0 to 1,023 regions, then 64 domains, 64 counters, 16 key
slots and 256 cache entries), so that it ignores writes and stays invalid (R558)? -/
def Dev.protDead (d : Dev) (e : Nat) : Bool := d.flt.tableRows.any (fun r => r.1 = 4 && (Config.protRow r.2).contains e)

/-- Is a self-test of the unit running (its row tests included)? -/
def Dev.testing (d : Dev) (kind i : Nat) : Bool :=
  d.flt.tests.any (fun t => t.index.toNat = i && (t.kind.toNat = kind || (kind = kBank && t.kind.toNat = kRow)
    || (kind = kCore && t.kind.toNat = kPm) || (kind = kOut && t.kind.toNat = kMon)))

end Sys2Proof.Machine
end

