-- ==== Sys2Proof/Machine/Banks.lean ====
section
/-!
DEFINITION. The memory banks (chapter 09): words and poison, who may use which input, denial, the port's operations and
collisions, handover, salvage and retirement. Every other unit reaches a bank through `Dev.bnkRead` and `Dev.bnkWrite`.
-/
namespace Sys2Proof

/-- The words that a request names, and whether it writes. -/
def BankOp.off : BankOp → Nat
  | .read o _ => o
  | .write o _ => o
  | .atomicAdd o _ _ => o
  | .cas o _ _ _ => o

def BankOp.len : BankOp → Nat
  | .read _ n => n
  | .write _ l => l.length
  | .atomicAdd _ w _ => if w then 8 else 4
  | .cas _ w _ _ => if w then 8 else 4

def BankOp.writes : BankOp → Bool
  | .read _ _ => false
  | _ => true

end Sys2Proof

namespace Sys2Proof.Machine

/-! ### Owner codes (R334) -/

def oReeds : Nat := 1
def oChn (c : Nat) : Nat := 2 + c
def oBlw : Nat := 18
def oHost : Nat := 19
def oUsb : Nat := 20
def oBell : Nat := 21

/-- Bank of an internal address, and the end of the banks (R331). -/
def bankOf (a : Nat) : Nat := a / 0x40000
def bankEnd : Nat := 0x2000000

/-- The guest code of an owner code (R335): Bellows 1, host port 2. -/
def guestCode (agent : Nat) : Nat := if agent = oBlw then 1 else if agent = oHost then 2 else 0

/-! ### Words, check bits and poison (R331, R342, R349, R350) -/

/-- `n` bytes stored from an internal address. -/
def memBytes (m : Sparse Byte) (a : Nat) : Nat → List Byte
  | 0 => []
  | n + 1 => sget 0 a m :: memBytes m (a + 1) n

/-- The canonical form of the banks' memory: addresses strictly rising, no entry equal to the 0 that an unlisted address
reads as (R342). -/
def Memory.wf (m : Sparse Byte) : Bool := swf (fun _ => 0) m

/-- Store bytes from an internal address. -/
def memPut (m : Sparse Byte) (a : Nat) : List Byte → Sparse Byte
  | [] => m
  | b :: t => memPut (sput 0 a b m) (a + 1) t

def Dev.putMem (d : Dev) (a : Nat) (data : List Byte) : Dev :=
  { d with bnk := { d.bnk with mem := memPut d.bnk.mem a data } }

/-- Words (64-bit, by internal address ÷ 8) that a range touches. -/
def wordsOf (a n : Nat) : List Nat := if n = 0 then [] else (List.range ((a + n - 1) / 8 + 1 - a / 8)).map (· + a / 8)

/-- Show the number of poisoned words of a bank. -/
def Dev.showPoison (d : Dev) (bank : Nat) : Dev :=
  d.s BNK_HEALTH.POISON (min 4095 (d.bnk.poison.filter (fun w => w / 32768 = bank)).length) bank

def Dev.poison (d : Dev) (w : Nat) : Dev :=
  if d.bnk.poison.contains w then d
  else { d with bnk := { d.bnk with poison := w :: d.bnk.poison } }.showPoison (w / 32768)

def Dev.unpoison (d : Dev) (w : Nat) : Dev :=
  if d.bnk.poison.contains w then { d with bnk := { d.bnk with poison := d.bnk.poison.erase w } }.showPoison (w / 32768)
  else d

/-- A single-bit error met by a read of a word: corrected, counted, the row tested (R349). -/
def Dev.eccSingle (d : Dev) (w : Nat) : Dev :=
  if d.bnk.poison.contains w then d
  else ((d.cnt BNK_ECCCOR).s BNK_HEALTH.LASTROW (w / 8 % 4096) (w / 32768)).startTest kRow (w / 32768) (w / 8 % 4096)

/-- A double-bit error met by a read of a word: the word reads as it now stands (a free value), is poisoned, counted and
reported, and its row is tested (R349). -/
def Dev.eccDouble (d : Dev) (w : Nat) : Dev :=
  if d.bnk.poison.contains w then d
  else
    let v := (d.draw 64).toNat
    let d := (d.drawn.putMem (w * 8) (leBytes 8 v)).poison w
    let d := (d.cnt BNK_ECCUNC).s BNK_HEALTH.LASTROW (w / 8 % 4096) (w / 32768)
    (d.raise nBNK 1 (unitCode kRow (w / 32768))).startTest kRow (w / 32768) (w / 8 % 4096)

/-- The errors a row read meets, among the words it reads. -/
def Dev.eccEvents (d : Dev) (a n : Nat) (ecc : List Ecc) : Dev :=
  ecc.foldl (fun d e => match e with
    | .single k => let w := a / 64 * 8 + k.toNat; if w ∈ wordsOf a n then d.eccSingle w else d
    | .double k => let w := a / 64 * 8 + k.toNat; if w ∈ wordsOf a n then d.eccDouble w else d) d

/-- Read bytes: each poisoned word read counts BNK_POISONRD and makes the data uncorrectable (R350). -/
def Dev.memRead (d : Dev) (a n : Nat) : Dev × List Byte × Bool :=
  let k := ((wordsOf a n).filter (d.bnk.poison.contains ·)).length
  (d.cnt BNK_POISONRD 0 k, memBytes d.bnk.mem a n, k ≠ 0)

/-- Write one word's bytes: a partial write of a poisoned word sets the bytes not written to 0; either clears the poison
(R350). -/
def Dev.wordWrite (d : Dev) (a : Nat) (data : List Byte) : Dev :=
  let w := a / 8
  let d := if d.bnk.poison.contains w && data.length < 8 then d.putMem (w * 8) (List.replicate 8 0) else d
  (d.putMem a data).unpoison w

/-- The parts of a list of bytes that fall in successive `k`-byte units, each with its address. -/
def pieces (k a : Nat) (data : List Byte) : Nat → List (Nat × List Byte)
  | 0 => []
  | fuel + 1 =>
    if data.isEmpty then []
    else let n := k - a % k
         (a, data.take n) :: pieces k (a + n) (data.drop n) fuel

/-- Write bytes, word by word. -/
def Dev.memWrite (d : Dev) (a : Nat) (data : List Byte) : Dev :=
  (pieces 8 a data (data.length + 1)).foldl (fun d p => d.wordWrite p.1 p.2) d

/-! ### Handover (R337, R339, R343) -/

/-- Step 2 of R337 on the owner input: the stores that the old owner had already presented for the bank are performed. -/
def Dev.drainOwner (d : Dev) (bank old : Nat) : Dev :=
  if 2 ≤ old && old < 18 then
    let c := d.core (old - 2)
    let mine : SbEnt → Bool := fun e => match e.ext with
      | some a => bankOf a = bank
      | none => false
    let d := (c.sb.filter mine).foldl (fun d e => d.memWrite (e.ext.getD 0) (leBytes (if e.wide then 8 else 4) e.val.toNat)) d
    let keep : Option (Nat × List Byte) → Option (Nat × List Byte) := fun l => match l with
      | some (a, b) => if bankOf a = bank then none else some (a, b)
      | none => none
    d.setCore (old - 2) { c with sb := c.sb.filter (fun e => !mine e), xline := keep c.xline, yline := keep c.yline }
  else if old = oHost then
    let d := (d.hrp.wbuf.filter (fun e => bankOf e.addr = bank)).foldl
      (fun d e => e.data.foldl (fun d p => d.memWrite p.1 [p.2]) d) d
    let line := match d.hrp.line with
      | some (a, b) => if bankOf a = bank then none else some (a, b)
      | none => none
    { d with hrp := { d.hrp with wbuf := d.hrp.wbuf.filter (fun e => bankOf e.addr ≠ bank), line := line } }
  else d

/-- Discard what the old owner still had presented, each as a denial (R343). -/
def Dev.deny (d : Dev) (bank agent : Nat) (wr : Bool) : Dev :=
  let d := (d.cnt BNK_DENY).s BNK_STAT.DENIED 1
  (((d.s BNK_DENYLOG.BANK bank).s BNK_DENYLOG.AGENT agent).s BNK_DENYLOG.WR (b2n wr)).s BNK_DENYLOG.VALID 1

def Dev.discardOwner (d : Dev) (bank old : Nat) : Dev :=
  if 2 ≤ old && old < 18 then
    let c := d.core (old - 2)
    let mine : SbEnt → Bool := fun e => match e.ext with
      | some a => bankOf a = bank
      | none => false
    let n := (c.sb.filter mine).length
    let cst := if n = 0 then c.cst else putBits c.cst 2 2 1
    let d := d.setCore (old - 2) { c with sb := c.sb.filter (fun e => !mine e), cst := cst }
    (List.range n).foldl (fun d _ => d.deny bank old true) d
  else if old = oHost then
    let n := (d.hrp.wbuf.filter (fun e => bankOf e.addr = bank)).length
    let d := { d with hrp := { d.hrp with wbuf := d.hrp.wbuf.filter (fun e => bankOf e.addr ≠ bank) } }
    (List.range n).foldl (fun d _ => d.deny bank old true) (d.sIf (n ≠ 0) HRP_STAT.BDENY 1)
  else d

/-- Step 3 of R337: the input opens to the new agent and BUSY clears. -/
def Dev.closeHandover (d : Dev) (bank : Nat) (guest : Bool) : Dev :=
  let d := { d with bnk := { d.bnk with hand := d.bnk.hand.filter (fun h => !(h.bank = bank && h.guest = guest)) } }
  if guest then d.s BNK_GUEST.BUSY 0 bank else d.s BNK_OWN.BUSY 0 bank

/-- Complete the handover in progress on one input of a bank: steps 2 and 3 of R337. -/
def Dev.settle (d : Dev) (bank : Nat) (guest : Bool) : Dev :=
  match d.bnk.hand.find? (fun h => h.bank = bank && h.guest = guest) with
  | some h => (if guest then d else d.drainOwner bank h.old).closeHandover bank guest
  | none => d

/-! ### Who may use a bank (R334, R335, R340, R354) -/

/-- May an agent perform an access of a bank? -/
def Dev.bankMay (d : Dev) (agent bank : Nat) (wr : Bool) : Bool :=
  let isOwner := d.g BNK_OWN.OWN bank = agent && agent ≠ 0
  let isGuest := !isOwner && guestCode agent ≠ 0 && d.g BNK_GUEST.GUEST bank = guestCode agent
  let e := d.est kBank bank
  (isOwner || (isGuest && !(wr && d.on BNK_GUEST.RDONLY bank))) && (e = ENABLED || (e = DRAINING && !wr))

/-- A request waits for the handover of its input, so it meets the bank as the handover leaves it (R337). -/
def Dev.settled (d : Dev) (bank : Nat) : Dev := (d.settle bank false).settle bank true

/-- What an access of a bank answered. -/
structure BnkRes where
  dev    : Dev
  data   : List Byte
  denied : Bool
  unc    : Bool

/-- One read of bytes within a row (R332, R340). -/
def Dev.bnkRow (d : Dev) (agent a n : Nat) : BnkRes :=
  let bank := bankOf a
  let d := d.settled bank
  if d.bankMay agent bank false then
    let r := d.memRead a n
    ⟨r.1, r.2.1, false, r.2.2⟩
  else ⟨d.deny bank agent false, List.replicate n 0, true, false⟩

/-- One write of bytes within a row. -/
def Dev.bnkRowWrite (d : Dev) (agent a : Nat) (data : List Byte) : BnkRes :=
  let bank := bankOf a
  let d := d.settled bank
  if d.bankMay agent bank true then ⟨d.memWrite a data, [], false, false⟩
  else ⟨d.deny bank agent true, [], true, false⟩

/-- Address and length of the row pieces of a range. -/
def rowPieces (a n : Nat) : List (Nat × Nat) :=
  (pieces 64 a (List.replicate n 0) (n + 1)).map (fun p => (p.1, p.2.length))

/-- Read a range row by row; the first denial ends it, and the bytes not read are 0. -/
def Dev.bnkRead (d : Dev) (agent a n : Nat) : BnkRes :=
  (rowPieces a n).foldl (fun r p =>
    if r.denied then { r with data := r.data ++ List.replicate p.2 0 }
    else let q := r.dev.bnkRow agent p.1 p.2
         ⟨q.dev, r.data ++ q.data, q.denied, r.unc || q.unc⟩) ⟨d, [], false, false⟩

/-- Write a range row by row; the first denial ends it. -/
def Dev.bnkWrite (d : Dev) (agent a : Nat) (data : List Byte) : BnkRes :=
  (pieces 64 a data (data.length + 1)).foldl (fun r p =>
    if r.denied then r else r.dev.bnkRowWrite agent p.1 p.2) ⟨d, [], false, false⟩

/-- The old value of a 32- or 64-bit cell and what an atomic writes there; none when a CAS does not match (R465). -/
def atomicNew (cas w64 : Bool) (old : Nat) (op0 op1 : BitVec 64) : Option Nat :=
  let m := if w64 then 2 ^ 64 else 2 ^ 32
  if cas then (if old = op0.toNat % m then some (op1.toNat % m) else none)
  else some ((old + op0.toNat) % m)

/-- One Bellows atomic at a bank port: read, then write, with nothing between (R332). A denied one changes nothing. -/
def Dev.bnkAtomic (d : Dev) (agent a : Nat) (cas w64 : Bool) (op0 op1 : BitVec 64) : BnkRes :=
  let bank := bankOf a
  let n := if w64 then 8 else 4
  let d := d.settled bank
  if d.bankMay agent bank true then
    let r := d.memRead a n
    let d := match atomicNew cas w64 (leNat r.2.1) op0 op1 with
      | some v => r.1.memWrite a (leBytes n v)
      | none => r.1
    ⟨d, r.2.1, false, r.2.2⟩
  else ⟨d.deny bank agent true, List.replicate n 0, true, false⟩

/-! ### Retirement (R353, R355) -/

/-- A lasting fault with no spare left puts the bank into DRAINING; the caller appends the log entry. -/
def Dev.bankDraining (d : Dev) (bank : Nat) : Dev :=
  if d.dst kBank bank = ENABLED then (d.logicDst kBank bank DRAINING).raise nBNK 3 bank else d

/-- The end of salvage: the bank is retired. -/
def Dev.bankRetire (d : Dev) (bank : Nat) : Dev :=
  let d := (d.logicDst kBank bank RETIRED).setFlag BNK_RET bank true
  (d.s BNK_CAP (d.g BNK_CAP - 1)).raise nBNK 4 bank

/-- Poison every word of a row (R353). -/
def Dev.poisonRow (d : Dev) (bank row : Nat) : Dev :=
  (List.range 8).foldl (fun d k => d.poison (bank * 32768 + row * 8 + k)) d

/-- A fetch miss on a bank: the eighth in one block starts the port test (R169, R355). -/
def Dev.fetchMiss (d : Dev) (bank : Nat) : Dev :=
  let n := sget 0 bank d.bnk.misses + 1
  let d := { (d.cnt RDA_FETCHMISS) with bnk := { d.bnk with misses := sput 0 bank n d.bnk.misses } }
  if n = 8 then d.startTest kBank bank 0 else d

/-! ### The commands -/

/-- Perform one request as an agent; the errors met are those of the words it reads. -/
def Dev.portOp (d : Dev) (bank agent : Nat) (op : BankOp) (ecc : List Ecc) : Dev × List Byte :=
  let a := bank * 0x40000 + op.off
  let d := if d.bankMay agent bank op.writes then
      (match op with
       | .write _ l => (pieces 8 a l (l.length + 1)).foldl
           (fun d p => if p.2.length < 8 then d.eccEvents p.1 1 ecc else d) d
       | _ => d.eccEvents a op.len ecc)
    else d
  match op with
  | .read _ n => let r := d.bnkRow agent a n; (r.dev, r.data)
  | .write _ l => ((d.bnkRowWrite agent a l).dev, [])
  | .atomicAdd _ w v => let r := d.bnkAtomic agent a false w v 0; (r.dev, r.data)
  | .cas _ w c v => let r := d.bnkAtomic agent a true w c v; (r.dev, r.data)

/-- Perform a request of the owner input, or of the guest input. -/
def Dev.ownerOp (d : Dev) (bank : Nat) (op : BankOp) (ecc : List Ecc) : Dev :=
  let r := d.portOp bank (d.g BNK_OWN.OWN bank) op ecc
  { r.1 with bnk := { r.1.bnk with outOwner := r.2 } }

def Dev.guestAgent (d : Dev) (bank : Nat) : Nat :=
  if d.g BNK_GUEST.GUEST bank = 1 then oBlw else oHost

def Dev.guestOp (d : Dev) (bank : Nat) (op : BankOp) (ecc : List Ecc) : Dev :=
  let r := d.portOp bank (d.guestAgent bank) op ecc
  { r.1 with bnk := { r.1.bnk with outGuest := r.2 } }

/-- A guest operation discarded under R345: counted, and the host told (R346). -/
def Dev.collide (d : Dev) (bank : Nat) : Dev :=
  (d.cnt BNK_COLL).sIf (d.g BNK_GUEST.GUEST bank = 2) HRP_STAT.WCOL 1

/-- Do two requests name a 64-bit word in common (R345)? -/
def BankOp.meets (a b : BankOp) : Bool := (wordsOf a.off a.len).any ((wordsOf b.off b.len).contains ·)

/-- One grant of a bank's array port (R332, R333, R345): a request on a closed input is not there. -/
def portGrant (d : Dev) (bank : Nat) (owner guest : Option BankOp) (guestDue : Bool) (ecc : List Ecc) : Dev :=
  let d := d.settled bank
  let own := d.g BNK_OWN.OWN bank
  let o := if own = 0 then none else owner
  let g := if d.g BNK_GUEST.GUEST bank = 0 || guestCode own = d.g BNK_GUEST.GUEST bank then none else guest
  match o, g with
  | none, none => d
  | some a, none => d.ownerOp bank a ecc
  | none, some b => d.guestOp bank b ecc
  | some a, some b =>
    if guestDue then d.guestOp bank b ecc
    else if BankOp.meets a b then
      (if a.writes && b.writes then (d.ownerOp bank a ecc).collide bank
       else (d.ownerOp bank a ecc).guestOp bank b ecc)
    else d.ownerOp bank a ecc

def execBankPortOperation (bank : BitVec 7) (owner guest : Option BankOp) (guestDue : Bool) (ecc : List Ecc)
    (s : State) : Out :=
  onDev (fun d => portGrant d bank.toNat owner guest guestDue ecc) s

/-- Effect of a write of an owner code (R337, R338, R353): a write that meets BUSY has no effect and sets HOERR; a
reserved code or the code already held changes nothing; a write of 0 ends the salvage of a DRAINING bank. -/
def Dev.writeOwn (d : Dev) (bank v : Nat) : Dev :=
  let new := v % 32
  let old := d.g BNK_OWN.OWN bank
  if d.on BNK_OWN.BUSY bank then d.s BNK_STAT.HOERR 1
  else if 22 ≤ new then d
  else
    let d := if new = 0 && d.dst kBank bank = DRAINING then d.bankRetire bank else d
    if new = old then d
    else
      let d := (d.s BNK_OWN.OWN new bank).s BNK_OWN.BUSY 1 bank
      { d with bnk := { d.bnk with hand := d.bnk.hand ++ [⟨bank, false, old⟩] } }

/-- Effect of a write of a guest grant (R335, R339). -/
def Dev.writeGuest (d : Dev) (bank v : Nat) : Dev :=
  if d.on BNK_GUEST.BUSY bank then d.s BNK_STAT.HOERR 1
  else
    let d := d.s BNK_GUEST.RDONLY (bitsOf v 2 2) bank
    let old := d.g BNK_GUEST.GUEST bank
    let new := v % 4
    if new = 3 || new = old then d
    else
      let d := (d.s BNK_GUEST.GUEST new bank).s BNK_GUEST.BUSY 1 bank
      { d with bnk := { d.bnk with hand := d.bnk.hand ++ [⟨bank, true, old⟩] } }

def execHandoverComplete (bank : BitVec 7) (s : State) : Out := onDev (fun d => d.settled bank.toNat) s

/-- A drain that has not ended after 8,192 cycles: the rest is discarded as denials (R343). -/
def execHandoverForced (bank : BitVec 7) (s : State) : Out :=
  onDev (fun d => match d.bnk.hand.find? (fun h => h.bank = bank.toNat) with
    | some h => ((if h.guest then d else d.discardOwner bank.toNat h.old).cnt BNK_FORCED).settle bank.toNat h.guest
    | none => d) s

/-- SALV milliseconds have elapsed since the bank entered DRAINING (R353). -/
def execSalvageEnd (bank : BitVec 7) (s : State) : Out :=
  onDev (fun d => if d.dst kBank bank.toNat = DRAINING then d.bankRetire bank.toNat else d) s

end Sys2Proof.Machine
end

