-- ==== Sys2Proof/Machine/Events.lean ====
section
/-!
DEFINITION. The event scheduler (chapter 04): the fields of a Roari event word, intake and its judgement, the main store and
the reserved entries, the order of release, deferral, the judgement after a jump or rebase, and the ingress window.
-/
namespace Sys2Proof.Machine

/-! ### The event word (R120, R121) -/

def Roari.op (w : Roari) : Nat := bitsOf w.w1.toNat 63 56
def Roari.part (w : Roari) : Nat := bitsOf w.w1.toNat 55 50
def Roari.strict (w : Roari) : Bool := bit w.w1.toNat 49
def Roari.rel (w : Roari) : Bool := bit w.w1.toNat 48
def Roari.nid (w : Roari) : Nat := bitsOf w.w1.toNat 47 32
def Roari.vala (w : Roari) : Nat := bitsOf w.w1.toNat 31 16
def Roari.valb (w : Roari) : Nat := bitsOf w.w1.toNat 15 0

/-- VALA and VALB as one 32-bit value, for the opcodes whose value spans both (R123). -/
def Roari.val32 (w : Roari) : Nat := bitsOf w.w1.toNat 31 0

def opNOTE_ON : Nat := 1
def opNOTE_OFF : Nat := 2
def opPOLY_PRESS : Nat := 3
def opCONTROL : Nat := 4
def opPITCH_BEND : Nat := 5
def opPROGRAM : Nat := 6
def opPER_NOTE : Nat := 7
def opPART_MODE : Nat := 8
def opALL_OFF : Nat := 9
def opSPILL_NOTE : Nat := 10
def opMARK : Nat := 11

/-- Build word 1. -/
def roariOf (target op part nid vala valb : Nat) : Roari :=
  ⟨BitVec.ofNat 64 target,
   BitVec.ofNat 64 (op % 256 * 2 ^ 56 + part % 64 * 2 ^ 50 + nid % 65536 * 2 ^ 32 + vala % 65536 * 2 ^ 16 + valb % 65536)⟩

/-- A word from 16 bytes, little-endian. -/
def roariBytes (l : List Byte) : Roari := ⟨BitVec.ofNat 64 (fieldAt l 0 8), BitVec.ofNat 64 (fieldAt l 8 8)⟩
def Roari.bytes (w : Roari) : List Byte := leBytes 8 w.w0.toNat ++ leBytes 8 w.w1.toNat

/-- ALL_OFF flags (R123, R124): with NID nonzero ALLP counts as 0. -/
def Roari.allp (w : Roari) : Bool := bit w.vala 0 && w.nid = 0
def Roari.cut (w : Roari) : Bool := bit w.vala 1
def Roari.flush (w : Roari) : Bool := bit w.vala 2

/-- Does an id in an event word match a voice's (R121)? A nonzero index matches only the same id; an index of 0 matches
every voice with the same note number. -/
def nidMatch (ev voice : Nat) : Bool := if ev % 512 ≠ 0 then ev = voice else ev / 512 = voice / 512

/-! ### The stores (R137) -/

/-- Show PEND, PANIC and FULL, and follow WASFULL and the high-water mark. -/
def Dev.showEvs (d : Dev) : Dev :=
  let n := d.evs.store.length
  let d := (d.s EVS_STAT.PEND n).s EVS_STAT.PANIC d.evs.panic.length
  let d := d.s EVS_STAT.FULL (b2n (d.g EVS_CAP ≤ n))
  (d.sIf (d.g EVS_CAP ≤ n) EVS_STAT.WASFULL 1).s EVS_HWM (max n (d.g EVS_HWM))

def Dev.room (d : Dev) : Bool := d.evs.store.length < d.g EVS_CAP

/-- Order of release: full target position, source rank, intake sequence (R135). -/
def Pend.before (a b : Pend) : Bool :=
  earlier a.at_ b.at_ || (a.at_ = b.at_ && (a.rank < b.rank || (a.rank = b.rank && a.seq < b.seq)))

/-- Part record word `k` of a Part, as in force (R206 to R208). -/
def Dev.partWord (d : Dev) (p k : Nat) : Word := sget 0 (p * 8 + k) d.val.part

/-- The merge of a new ALL_OFF into a pending one when every entry is occupied (R138). -/
def mergePanic (old new : Pend) : Pend :=
  let (a, b) := (old.word, new.word)
  let both := a.part = b.part && !bit a.vala 0 && !bit b.vala 0
  let nid := if both && a.nid = b.nid then a.nid else 0
  let allp := a.part ≠ b.part || bit a.vala 0 || bit b.vala 0
  let vala := b2n allp + 2 * b2n (a.cut || b.cut) + 4 * b2n (a.flush || b.flush)
  let first := if earlier new.at_ old.at_ then new else old
  { old with word := roariOf first.word.w0.toNat opALL_OFF a.part nid vala (a.valb), at_ := first.at_,
             frac := first.frac, rank := first.rank, seq := first.seq }

/-- Put a judged word into a reserved entry or the main store, or merge it (R137, R138). -/
def Dev.enter (d : Dev) (p : Pend) : Dev :=
  if p.word.op = opALL_OFF then
   (if d.evs.panic.length < 16 then { d with evs := { d.evs with panic := d.evs.panic ++ [p] } }
     else if d.room then { d with evs := { d.evs with store := d.evs.store ++ [p] } }
     else
       match firstBy Pend.before (d.evs.panic ++ d.evs.store.filter (fun (q : Pend) => q.word.op = opALL_OFF)) with
       | some q =>
         let f : List Pend → List Pend := updFirst (fun r => r.seq = q.seq) (fun r => mergePanic r p)
         { d with evs := { d.evs with
             panic := if d.evs.panic.contains q then f d.evs.panic else d.evs.panic,
             store := if d.evs.panic.contains q then d.evs.store else f d.evs.store } }.cnt EVS_PANICMERGE
       | none => d).showEvs
  else { d with evs := { d.evs with store := d.evs.store ++ [p] } }.showEvs

/-! ### Intake (R134) -/

/-- Priority of a Part as the Part table holds it: byte 0x0A of its record (R206). -/
def Dev.partPrio (d : Dev) (p : Nat) : Nat := bitsOf (d.partWord p 2).toNat 23 16

/-- How a target is judged against a position: `none` discards; else the position and fraction at which it executes, and
whether it is late (R103, R104, R134). -/
inductive Verdict where
  | onTime (at_ : Pos) (frac : BitVec 16)
  | late (at_ : Pos)
  | stale
  | far
deriving DecidableEq, Repr

/-- Judge a word against the position `n`, given its absolute target. -/
def judge (latewin : Nat) (w : Roari) (n t : Pos) : Verdict :=
  if earlier t n then
    (if w.op ≠ opALL_OFF && (w.strict || distance n t > (latewin : Int) * 65536) then .stale else .late (ceilPos n))
  else if distance t n > 2 ^ 31 * 65536 then .far
  else .onTime t (fracOf t)

/-- Take a word in from a source: discards are counted, the rest enter the stores (R123, R134, R147). -/
def Dev.intake (d : Dev) (w : Roari) (rank : Nat) (node : Option (BitVec 12)) (spill : Bool) : Dev :=
  let n := d.brt.pos
  let d := { d with evs := { d.evs with seq := d.evs.seq + 1 } }
  let pend : Pos → BitVec 16 → Bool → Pend := fun at_ f late =>
    { word := w, at_ := at_, frac := f, rank := rank, seq := d.evs.seq, prio := d.partPrio w.part, late := late,
      offered := false, spilled := false, notBefore := 0, node := node }
  if w.op = 0 || 11 < w.op then d.cnt EVS_BADOP
  else if w.op = opSPILL_NOTE && !spill then d.cnt EVS_BADARG
  else if w.w0 = 0 then d.enter (pend (ceilPos n) 0 false)
  else match judge (d.g BRT_LATEWIN) w n (if w.rel then n + w.w0 else w.w0) with
    | .onTime t f => d.enter (pend t f false)
    | .late t => (d.cnt EVS_LATE).enter (pend t 0 true)
    | .stale => d.cnt EVS_STALE
    | .far =>
      if w.op = opALL_OFF then (d.cnt EVS_FAR).enter (pend (ceilPos n) 0 false) else d.cnt EVS_FAR

/-- Can the scheduler take this word now: does it need no entry of the main store, or is there room (R140)? -/
def Dev.canTake (d : Dev) (w : Roari) : Bool := d.room || w.op = opALL_OFF || w.op = 0 || 11 < w.op

/-- The head of a source's queue, by rank; the Chanter source offers the post queue of core `c` (R133). -/
def Dev.sourceHead (d : Dev) (c rank : Nat) : Option (Roari × Option (BitVec 12) × Bool) :=
  match rank with
  | 0 => d.hrp.mbx.head?.map (fun w => (w, none, false))
  | 1 => d.evs.usbQ.head?.map (fun w => (w, none, false))
  | 2 => d.evs.uartQ.head?.map (fun w => (w, none, false))
  | 3 => d.evs.fabQ.head?.map (fun w => (w.word, w.node, w.spill))
  | 4 => (d.core c).post.head?.map (fun w => (w, none, false))
  | 5 => d.evs.trigQ.head?.map (fun w => (w.1, none, false))
  | _ => none

/-- Show the mailbox fill (R625). -/
def Dev.showMbx (d : Dev) : Dev :=
  (d.s HRP_MBXSTAT.COUNT d.hrp.mbx.length).s HRP_MBXSTAT.FULL (b2n (d.rowsLeft 5 512 ≤ d.hrp.mbx.length || d.mode = mBOOT))

/-- The scheduler advances the TAIL of a receive queue that it consumes (R487). -/
def Dev.rqSkip (d : Dev) (rq k : Nat) : Dev :=
  let n := d.g BLW_RQ_CFG.NSLOT rq
  if n = 0 then d else d.s BLW_RQ_TAIL ((d.g BLW_RQ_TAIL rq + k) % n) rq

/-- Remove the head of a source's queue. -/
def Dev.dropHead (d : Dev) (c rank : Nat) : Dev :=
  match rank with
  | 0 => { d with hrp := { d.hrp with mbx := d.hrp.mbx.tail } }.showMbx
  | 1 => { d with evs := { d.evs with usbQ := d.evs.usbQ.tail } }
  | 2 => { d with evs := { d.evs with uartQ := d.evs.uartQ.tail } }
  | 3 =>
    let e := { d with evs := { d.evs with fabQ := d.evs.fabQ.tail } }
    match d.evs.fabQ.head?.bind (·.adv) with
    | some (rq, k) => e.rqSkip rq.toNat k
    | none => e
  | 4 =>
    let k := d.core c
    d.setCore c { k with post := k.post.tail, ipend := if k.post.length = 8 then k.ipend ||| 4 else k.ipend }
  | 5 =>
    let e := { d with evs := { d.evs with trigQ := d.evs.trigQ.tail } }
    match d.evs.trigQ.head?.bind (·.2) with
    | some x => { e with blw := { e.blw with evtDone := e.blw.evtDone ++ [x] } }
    | none => e
  | _ => d

/-- The waiting source of lowest rank whose head the scheduler can take (R141). -/
def Dev.waiting (d : Dev) (c : Nat) : Option (Nat × Roari × Option (BitVec 12) × Bool) :=
  [0, 1, 2, 3, 4, 5].findSome? (fun r => match d.sourceHead c r with
    | some (w, nd, sp) => if d.canTake w then some (r, w, nd, sp) else none
    | none => none)

/-- Event intake: nothing is taken in before step 7 (R147). -/
def takeIn (d : Dev) (c : Nat) : Dev :=
  if !d.on BRT_STAT.RUNNING || !d.running then d
  else match d.waiting c with
    | some (r, w, nd, sp) => (d.dropHead c r).intake w r nd sp
    | none => d

/-! ### Release (R135, R139, R145) -/

/-- Words executed in one whole sample at most (R139). -/
def Dev.relLimit (d : Dev) : Nat := 2048 / 2 ^ d.rateClass

/-- Has the Breath reached the sample boundary at or below a word's position (R17, R101)? -/
def Pend.due (p : Pend) (pos : Pos) : Bool := !later (posOf (whole p.at_)) pos && p.notBefore ≤ whole pos

/-- The next word to be released (R135). -/
def Dev.nextDue (d : Dev) : Option Pend :=
  if !d.on BRT_STAT.RUNNING then none
  else firstBy Pend.before ((d.evs.panic ++ d.evs.store).filter (·.due d.brt.pos))

/-- Take a word out of the stores. -/
def Dev.remove (d : Dev) (p : Pend) : Dev :=
  { d with evs := { d.evs with store := d.evs.store.filter (fun q => q.seq ≠ p.seq),
                               panic := d.evs.panic.filter (fun q => q.seq ≠ p.seq) } }.showEvs

/-- Words released in the current whole sample. -/
def Dev.relCount (d : Dev) : Nat := if d.evs.relPos = whole d.brt.pos then d.evs.relCnt else 0

/-- Defer every due word but ALL_OFF to the next sample, fraction 0, keeping their order (R139, R145). -/
def Dev.deferDue (d : Dev) : Dev :=
  let now := whole d.brt.pos
  let isOver : Pend → Bool := fun p => p.due d.brt.pos && p.word.op ≠ opALL_OFF
  let k := (d.evs.store.filter isOver).length
  { d with evs := { d.evs with store := d.evs.store.map (fun p =>
      if isOver p then { p with frac := 0, notBefore := now + 1 } else p) } }.cnt EVS_DEFER 0 k

/-- Release the next due word when it has the opcode asked for: the device without the word, and the word. -/
def Dev.release (d : Dev) (op : Nat) : Option (Dev × Pend) :=
  match d.nextDue with
  | none => none
  | some p =>
    if p.word.op ≠ op then none
    else if op = opALL_OFF then some (d.remove p, p)
    else if d.relLimit ≤ d.relCount then none
    else
      let n := d.relCount + 1
      let d := d.remove p
      let d := { d with evs := { d.evs with relPos := whole d.brt.pos, relCnt := n } }
      some (if d.relLimit ≤ n then d.deferDue else d, p)

/-! ### Judgement after a jump or rebase (R111, R143) -/

/-- One pending word judged again: none when it is discarded; and what is counted (late, stale). -/
def Dev.rejudgeOne (d : Dev) (p : Pend) : Option Pend × Nat × Nat :=
  if earlier p.at_ d.brt.pos then
    match judge (d.g BRT_LATEWIN) p.word d.brt.pos p.at_ with
    | .stale => (none, 0, 1)
    | _ => (some { p with at_ := ceilPos d.brt.pos, frac := 0, late := true, notBefore := 0 }, b2n !p.late, 0)
  else (some { p with notBefore := 0 }, 0, 0)

def Dev.rejudge (d : Dev) : Dev :=
  let f : List Pend → List Pend := fun l => l.filterMap (fun p => (d.rejudgeOne p).1)
  let k : List Pend → Nat × Nat := fun l => l.foldl (fun a p => let r := d.rejudgeOne p
                                                     (a.1 + r.2.1, a.2 + r.2.2)) (0, 0)
  let (l, s) := k (d.evs.store ++ d.evs.panic)
  (({ d with evs := { d.evs with store := f d.evs.store, panic := f d.evs.panic } }.cnt EVS_LATE 0 l).cnt EVS_STALE 0 s).showEvs

/-! ### Mailbox and ingress window (R16, R130, R625, R626) -/

/-- Submit one word to the host mailbox (R625). -/
def Dev.submit (d : Dev) (w : Roari) : Dev :=
  if d.hrp.mbx.length < d.rowsLeft 5 512 && d.mode ≠ mBOOT && d.mode ≠ mRESET then
    { d with hrp := { d.hrp with mbx := d.hrp.mbx ++ [w] } }.showMbx
  else (d.s HRP_MBXSTAT.REFUSED 1).cnt HRP_MBXREF

/-- A word injected through the window counts as its agent's source. -/
def Dev.inject (d : Dev) (ag : Agent) (w : Roari) : Dev :=
  match ag with
  | .host => d.submit w
  | .usb => { d with evs := { d.evs with usbQ := d.evs.usbQ ++ [w] } }
  | .mgmt => { d with evs := { d.evs with fabQ := d.evs.fabQ ++ [⟨w, none, false, none⟩] } }
  | _ => d

def Dev.latch (d : Dev) : Agent → List Byte
  | .host => d.evs.latchHost
  | .usb => d.evs.latchUsb
  | .mgmt => d.evs.latchFab
  | _ => []

def Dev.setLatch (d : Dev) (ag : Agent) (l : List Byte) : Dev :=
  match ag with
  | .host => { d with evs := { d.evs with latchHost := l } }
  | .usb => { d with evs := { d.evs with latchUsb := l } }
  | .mgmt => { d with evs := { d.evs with latchFab := l } }
  | _ => d

/-- An agent writes bytes into the window: each byte goes into its latch, and byte 15 of a slot injects the word. -/
def Dev.windowWrite (d : Dev) (ag : Agent) (off : Nat) : List Byte → Dev
  | [] => d
  | b :: t =>
    let l := setAt (d.latch ag) (off % 16) b
    let d := d.setLatch ag l
    let d := if off % 16 = 15 then d.inject ag (roariBytes l) else d
    d.windowWrite ag (off + 1) t

/-- The host, the USB engine and the Bellows reach the window; no other agent does (R16). -/
def execIngressWindowWrite (ag : Agent) (off : BitVec 12) (data : List Byte) (s : State) : Out :=
  onDev (fun d => if d.running then d.windowWrite ag off.toNat data else d) s

end Sys2Proof.Machine
end

