-- ==== Sys2Proof/Machine/Voice.lean ====
section
/-!
DEFINITION. What one Reed computes in one sample (chapter 05, R151 to R186, R820, R821), in exact arithmetic over the
equations' own functions: pitch, oscillators with their band-limiting corrections, wavetable and sample reading, noise,
filters, envelopes, LFOs, the matrix, the amplifier, ramps and elision. Each advance from a sample to the next is computed
at the end of the earlier one, so that the first correction term of a step between them falls on the earlier sample.
-/
namespace Sys2Proof.Machine

/-! ### The patch record (R187, R820) -/

abbrev Patch := List Byte

def u8 (p : Patch) (o : Nat) : Nat := fieldAt p o 1
def u16 (p : Patch) (o : Nat) : Nat := fieldAt p o 2
def u32 (p : Patch) (o : Nat) : Nat := fieldAt p o 4
def s16 (p : Patch) (o : Nat) : Int := signed 16 (u16 p o)
/-- Signed Q8.8, unsigned Q8.8, signed Q16.16, unsigned Q0.16 and signed Q1.15 fields. -/
def q88 (p : Patch) (o : Nat) : Rat := (s16 p o : Rat) / 256
def uq88 (p : Patch) (o : Nat) : Rat := (u16 p o : Rat) / 256
def q1616 (p : Patch) (o : Nat) : Rat := (signed 32 (u32 p o) : Rat) / 65536
def q016 (p : Patch) (o : Nat) : Rat := (u16 p o : Rat) / 65536
def q115 (p : Patch) (o : Nat) : Rat := (s16 p o : Rat) / 32768

def oscBase (i : Nat) : Nat := 0x20 + 0x20 * i
def envBase (i : Nat) : Nat := 0xB0 + 24 * i
def lfoBase (i : Nat) : Nat := 0x110 + 16 * i
def slotBase (i : Nat) : Nat := 0x160 + 8 * i
def noiseBase : Nat := 0x80
def f1Base : Nat := 0x88
def f2Base : Nat := 0x98
def ampBase : Nat := 0x140

/-- A level in Q8.8 dB plus contributions, as a factor; −32,768 is silence (R180). -/
def levelGain (p : Patch) (o : Nat) (c : Rat) : Rat :=
  if s16 p o = -32768 then 0 else Config.pow10 ((q88 p o + c) / 20)

/-- Seconds of a time code before key tracking and modulation (R177). -/
def codeSecs (c : Nat) : Rat := if c = 0 then 0 else Config.pow2 (((c : Rat) - 40960) / 2048)

/-! ### Pitch and phase (R153, R154) -/

def hzOf (p : Rat) : Rat := 440 * Config.pow2 ((p - 69) / 12)

/-- Phase increment of a frequency (R154). -/
def incOf (f : Rat) (fs : Nat) : Nat :=
  min (2 ^ 31 - 1) (Rat.floor (f / fs * 4294967296 + 1 / 2)).toNat

/-- A phase in cycles, and the fractional part of a number of cycles. -/
def cyc (ph : BitVec 32) : Rat := (ph.toNat : Rat) / 4294967296
def fracQ (u : Rat) : Rat := u - (Rat.floor u : Rat)

/-- Correction terms of a step of height h with e left to the next sample: to the sample before and to the next (R157). -/
def blep1 (h e : Rat) : Rat := h * e * e / 2
def blep2 (h e : Rat) : Rat := -(h * (1 - e) * (1 - e) / 2)

/-! ### Interpolation (R164) -/

/-- Four-point Catmull-Rom at offset x from the second point. -/
def catmull (w : List Rat) (x : Rat) : Rat :=
  let (ym, y0, y1, y2) := (w.getD 0 0, w.getD 1 0, w.getD 2 0, w.getD 3 0)
  let c1 := (y1 - ym) / 2
  let c2 := ym - 5 / 2 * y0 + 2 * y1 - y2 / 2
  let c3 := (y2 - ym) / 2 + 3 / 2 * (y0 - y1)
  ((c3 * x + c2) * x + c1) * x + y0

/-! ### What a Reed reads from the banks -/

/-- The memory a Reed sees while a block is rendered: bytes, poisoned words, and whether it may read a bank. -/
structure WaveMem where
  mem    : Sparse Byte
  poison : List Nat
  may    : Nat → Bool

/-- May every byte of a range be read? -/
def WaveMem.ok (m : WaveMem) (a n : Nat) : Bool :=
  a + n ≤ bankEnd && m.may (bankOf a) && m.may (bankOf (a + n - 1))

def WaveMem.bad (m : WaveMem) (a n : Nat) : Bool := (wordsOf a n).any (m.poison.contains ·)

def WaveMem.bytes (m : WaveMem) (a n : Nat) : List Byte := memBytes m.mem a n

/-- A signed PCM value of 2 or 3 bytes, −1 to +1. -/
def WaveMem.pcm (m : WaveMem) (wide : Bool) (a : Nat) : Rat :=
  if wide then (signed 24 (leNat (m.bytes a 3)) : Rat) / 8388608 else (signed 16 (leNat (m.bytes a 2)) : Rat) / 32768

/-- Does a burst for the points at some addresses, `n` bytes each, fall in a bank that the Reed array may not read (R168)? -/
def WaveMem.gone (m : WaveMem) (n : Nat) (l : List Nat) : Bool := l.any (fun a => !m.ok a n)

/-- Bank of the burst that spoils a window: one that holds a poisoned word (R202), or the first, when the prefetch missed. -/
def WaveMem.spoilt (m : WaveMem) (n : Nat) (miss : Bool) (l : List Nat) : Option Nat :=
  match l.find? (fun a => m.bad a n) with
  | some a => some (bankOf a)
  | none => if miss then some (bankOf (l.headD 0)) else none

/-- A wavetable header that R162 and R195 accept: frames, mip levels, data address. -/
def WaveMem.wavetable (m : WaveMem) (a : Nat) : Option (Nat × Nat × Nat) :=
  if a % 16 ≠ 0 || !m.ok a 16 || m.bad a 16 then none
  else
    let h := m.bytes a 16
    let (nf, nm, dat) := (fieldAt h 0 2, fieldAt h 2 1, fieldAt h 4 4)
    if 1 ≤ nf && nf ≤ 256 && 1 ≤ nm && nm ≤ 11 && dat % 64 = 0 then some (nf, nm, dat) else none

/-- A sample header that R165 and R195 accept. -/
structure SampleHdr where
  wide   : Bool
  loop   : Nat
  dat    : Nat
  len    : Nat
  lstart : Nat
  lend   : Nat
  srate  : Nat
  root   : Rat

def WaveMem.sample (m : WaveMem) (a : Nat) : Option SampleHdr :=
  if a % 32 ≠ 0 || !m.ok a 32 || m.bad a 32 then none
  else
    let h := m.bytes a 32
    let fmt := fieldAt h 0 1
    let r : SampleHdr := ⟨fmt = 1, fieldAt h 1 1, fieldAt h 4 4, fieldAt h 8 4, fieldAt h 12 4, fieldAt h 16 4,
                          fieldAt h 20 4, (signed 32 (fieldAt h 24 4) : Rat) / 65536⟩
    if fmt ≤ 1 && r.loop ≤ 2 && 4 ≤ r.len && (r.loop = 0 || (r.lstart + 4 ≤ r.lend && r.lend ≤ r.len)) then some r else none

/-- Bytes of a frame, and the address of one. -/
def SampleHdr.width (h : SampleHdr) : Nat := if h.wide then 3 else 2
def SampleHdr.addr (h : SampleHdr) (k : Nat) : Nat := h.dat + h.width * k

/-! ### Wavetables (R163, R164) -/

/-- Lowest level with no harmonic above half the rate (R163). -/
def mipLevel (nm : Nat) (f : Rat) (fs : Nat) : Nat :=
  ((List.range nm).find? (fun m => ((1024 >>> m : Nat) : Rat) * f * 2 < fs)).getD (nm - 1)

/-- Address of the table of frame `j`, level `m`. -/
def tableAddr (nf dat m j : Nat) : Nat := dat + (m * nf + j) * 4096

/-- Addresses of the points that the value at phase t and frame position fr is interpolated from, four in one frame or four
in each of two; the offset in the window, and between the frames (R164). -/
def tablePoints (hdr : Nat × Nat × Nat) (f : Rat) (fs : Nat) (fr t : Rat) : List Nat × Rat × Rat :=
  let (nf, nm, dat) := hdr
  let fr := clampQ 0 ((nf : Rat) - 1) fr
  let j := (Rat.floor fr).toNat
  let lv := mipLevel nm f fs
  let i := fracQ t * 2048
  let k := (Rat.floor i).toNat
  let pts : Nat → List Nat := fun j => (List.range 4).map (fun q => tableAddr nf dat lv j + 2 * ((k + q + 2047) % 2048))
  (if fr = (j : Rat) then pts j else pts j ++ pts (j + 1), i - (k : Rat), fr - (j : Rat))

/-- The value of such points. -/
def tableMix (w : List Rat) (x b : Rat) : Rat :=
  let a := catmull w x
  if b = 0 then a else a + (catmull (if w.length < 8 then w else w.drop 4) x - a) * b

/-- The wavetable's value at phase t and frame position fr (R164). -/
def WaveMem.tableValue (m : WaveMem) (hdr : Nat × Nat × Nat) (f : Rat) (fs : Nat) (fr t : Rat) : Rat :=
  let r := tablePoints hdr f fs fr t
  tableMix (r.1.map (m.pcm false)) r.2.1 r.2.2

/-! ### Samples (R166, R167) -/

/-- Frame that the window reads at index `i` (which may lie before 0), by the loop rules; none reads 0. -/
def windowFrame (h : SampleHdr) (inLoop : Bool) (i : Int) : Option Nat :=
  match h.loop with
  | 0 => if i < 0 then some 0 else if i ≥ h.len then none else some i.toNat
  | 1 =>
    if i < 0 then some 0
    else if i ≥ h.lend then some (h.lstart + (i.toNat - h.lstart) % (h.lend - h.lstart)) else some i.toNat
  | _ =>
    let i := if inLoop && i < h.lstart then 2 * (h.lstart : Int) - i else i
    let i := if i > (h.lend : Int) - 1 then 2 * ((h.lend : Int) - 1) - i else i
    if i < 0 then some 0 else some i.toNat

/-- The loop rule applied until the position lies within the loop: position, direction, in the loop, number of wraps. The
position is in 2^−32 frames. -/
def loopRule (h : SampleHdr) : Nat → Int → Bool → Bool → Nat → Int × Bool × Bool × Nat
  | 0, p, back, inl, w => (p, back, inl, w)
  | fuel + 1, p, back, inl, w =>
    let fr : Int := 4294967296
    match h.loop with
    | 1 => if p ≥ h.lend * fr then loopRule h fuel (p - ((h.lend : Int) - h.lstart) * fr) back true (w + 1) else (p, back, inl, w)
    | 2 =>
      let inl := inl || p ≥ h.lstart * fr
      if !back && p > ((h.lend : Int) - 1) * fr then loopRule h fuel (2 * ((h.lend : Int) - 1) * fr - p) true inl (w + 1)
      else if back && p < h.lstart * fr then loopRule h fuel (2 * h.lstart * fr - p) false inl (w + 1)
      else (p, back, inl, w)
    | _ => (p, back, inl, w)

/-- Enough steps for any advance: one position in 32.32 frames holds at most 2^32 frames, a loop at least 4. -/
def loopFuel (p : Int) : Nat := (p.natAbs / 4294967296) + 2

/-- Advance a sample position by a distance in 2^−32 frames; also the wraps met. -/
def advanceSample (h : SampleHdr) (o : OscSt) (by_ : Int) : OscSt × Nat :=
  let p : Int := (o.pos.toNat : Int)
  let p' := if o.back then p - by_ else p + by_
  let r := loopRule h (loopFuel p') p' o.back o.inLoop 0
  ({ o with pos := BitVec.ofInt 64 r.1, back := r.2.1, inLoop := r.2.2.1,
            ended := o.ended || (h.loop = 0 && r.1 ≥ (h.len : Int) * 4294967296) }, r.2.2.2)

/-- The increment of a sample oscillator in 2^−32 frames, clamped to 64 frames (R166). -/
def sampleInc (h : SampleHdr) (p : Rat) (fs : Nat) : Int :=
  Rat.floor (clampQ 0 64 (Config.pow2 ((p - h.root) / 12) * h.srate / fs) * 4294967296 + 1 / 2)

/-- Start position of a voice (R166): the sample-start value × LENGTH, clamped, then the loop rule. -/
def startSample (h : SampleHdr) (o : OscSt) (st : Rat) : OscSt :=
  let p := Rat.floor (clampQ 0 ((h.len : Rat) - 1) (clampQ 0 1 st * h.len) * 4294967296)
  let r := loopRule h (loopFuel p) p false false 0
  { o with pos := BitVec.ofInt 64 r.1, back := r.2.1, inLoop := r.2.2.1, ended := false, start := BitVec.ofInt 64 p }

/-- Frames of the window at the position (none reads 0), and its four points. -/
def SampleHdr.window (h : SampleHdr) (o : OscSt) : List (Option Nat) :=
  (List.range 4).map (fun q => windowFrame h o.inLoop ((o.pos.toNat / 4294967296 : Nat) - 1 + (q : Int)))

def WaveMem.points (m : WaveMem) (h : SampleHdr) (l : List (Option Nat)) : List Rat :=
  l.map (fun f => match f with
    | some i => m.pcm h.wide (h.addr i)
    | none => 0)

/-! ### One oscillator (R155 to R161) -/

/-- Everything an oscillator's sample depends on, beside its state. -/
structure OscIn where
  p      : Patch
  base   : Nat
  pitch  : Rat
  fs     : Nat
  pw     : Rat
  /-- PM offset in cycles. -/
  off    : Rat
  frame  : Rat
  /-- Instants in (0, 1] after this sample at which the phase is reset: syncs, in order. -/
  syncs  : List Rat
  mem    : WaveMem

def OscIn.type (i : OscIn) : Nat := u8 i.p i.base
def OscIn.invert (i : OscIn) (y : Rat) : Rat := if bit (u8 i.p (i.base + 1)) 1 then -y else y
/-- PHASE0 as a 32-bit phase. -/
def OscIn.phase0 (i : OscIn) : BitVec 32 := BitVec.ofNat 32 (u16 i.p (i.base + 0x16) * 65536)

/-- The waveform's value at a read phase (R155); a triangle's is that of its 50 % pulse. -/
def OscIn.wave (i : OscIn) (u : Rat) : Rat :=
  let t := fracQ u
  match i.type with
  | 1 => 2 * t - 1
  | 2 => if t < clampQ (1 / 256) (255 / 256) i.pw then 1 else -1
  | 3 => if t < 1 / 2 then 1 else -1
  | 4 => Config.sinCycle t
  | 5 => match i.mem.wavetable (u32 i.p (i.base + 0x10)) with
    | some h => i.mem.tableValue h (hzOf i.pitch) i.fs i.frame t
    | none => 0
  | _ => 0

/-- The steps that a waveform has at fixed read phases: phase and height. -/
def OscIn.edges (i : OscIn) : List (Rat × Rat) :=
  match i.type with
  | 1 => [(0, -2)]
  | 2 => [(0, 2), (clampQ (1 / 256) (255 / 256) i.pw, -2)]
  | 3 => [(0, 2), (1 / 2, -2)]
  | _ => []

/-- Advance a phase from instant τ0 to τ1 (in samples after this one): the correction sums to this and the next sample, and
the instants at which the phase itself wraps. The read phase is the phase plus the PM offset (R160). -/
def OscIn.span (i : OscIn) (inc : Rat) (c τ0 τ1 : Rat) : Rat × Rat × List Rat :=
  let c1 := c + inc * (τ1 - τ0)
  let hits := i.edges.filterMap (fun e =>
    let x1 := Rat.floor (c1 + i.off - e.1)
    if Rat.floor (c + i.off - e.1) < x1 then some (τ0 + ((x1 : Rat) + e.1 - i.off - c) / inc, e.2) else none)
  let wraps := if Rat.floor c < Rat.floor c1 then [τ0 + ((Rat.floor c1 : Rat) - c) / inc] else []
  (hits.foldl (fun a h => a + blep1 h.2 (1 - h.1)) 0, hits.foldl (fun a h => a + blep2 h.2 (1 - h.1)) 0, wraps)

/-- Resets to PHASE0 at the sync instants, one after another: phase, instant, first and second correction sums, wraps. -/
def OscIn.syncRun (i : OscIn) (inc : Rat) : List Rat → Rat × Rat × Rat × Rat × List Rat → Rat × Rat × Rat × Rat × List Rat
  | [], acc => acc
  | r :: rest, (c, τ, a, b, w) =>
    let s := i.span inc c τ r
    let h := i.wave (cyc i.phase0 + i.off) - i.wave (c + inc * (r - τ) + i.off)
    i.syncRun inc rest (cyc i.phase0, r, a + s.1 + blep1 h (1 - r), b + s.2.1 + blep2 h (1 - r), w ++ s.2.2)

/-- One sample of an oscillator of types 0 to 5: its new state with `out`, the wraps of its phase before the next sample, and
the bank of a missed window. -/
def OscIn.tickPhase (i : OscIn) (o : OscSt) : OscSt × List Rat × Option Nat :=
  let inc := incOf (hzOf i.pitch) i.fs
  let q : Rat := (inc : Rat) / 4294967296
  let src : Option (List Nat × Rat × Rat) :=
    (i.mem.wavetable (u32 i.p (i.base + 0x10))).map (fun h => tablePoints h (hzOf i.pitch) i.fs i.frame (cyc o.phase + i.off))
  let tab := src.getD ([], 0, 0)
  let dead := o.dead || (i.type = 5 && (src.isNone || i.mem.gone 2 tab.1))
  let missed := if i.type = 5 && !dead then i.mem.spoilt 2 o.miss tab.1 else none
  let win := if missed.isSome then o.window else tab.1.map (i.mem.pcm false)
  let naive := if i.type = 5 then (if dead then 0 else tableMix win tab.2.1 tab.2.2) else i.wave (cyc o.phase + i.off)
  let (c, τ, a, b, w) := i.syncRun q i.syncs (cyc o.phase, 0, 0, 0, [])
  let s := i.span q c τ 1
  let ph := if i.syncs.isEmpty then o.phase + BitVec.ofNat 32 inc
            else BitVec.ofNat 32 ((Rat.floor (c * 4294967296 + 1 / 2)).toNat + (Rat.floor ((inc : Rat) * (1 - τ) + 1 / 2)).toNat)
  let y := naive + o.corr + a + s.1
  let tri := (1 - 1 / 4096) * o.tri + 4 * q * y
  let off := dead || i.type = 0
  let y := if off then 0 else if i.type = 3 then tri else y
  ({ o with phase := ph, naive := naive, tri := if i.type = 3 then tri else o.tri, dead := dead, miss := false,
            window := if i.type = 5 then win else o.window, corr := if off then 0 else b + s.2.1, out := i.invert y },
   w ++ s.2.2, missed)

/-- One sample of a sample oscillator (R159, R166 to R169): state, wraps, and the bank of a missed window. -/
def OscIn.tickSample (i : OscIn) (o : OscSt) : OscSt × List Rat × Option Nat :=
  let mute : OscSt × List Rat × Option Nat := ({ o with out := 0, corr := 0, naive := 0, dead := true }, [], none)
  match i.mem.sample (u32 i.p (i.base + 0x10)) with
  | none => mute
  | some h =>
    let fr := if o.ended then [] else h.window o
    let at_ := (fr.filterMap (fun f => f)).map h.addr
    if o.dead || i.mem.gone h.width at_ then mute else
    let missed := if o.ended then none else i.mem.spoilt h.width o.miss at_
    let w := if missed.isSome then o.window else i.mem.points h fr
    let x := fracQ ((o.pos.toNat : Rat) / 4294967296)
    let naive := if o.ended then 0 else catmull w x
    let inc := sampleInc h i.pitch i.fs
    match i.syncs.getLast? with
    | none =>
      let r := advanceSample h o inc
      let wraps := if r.2 = 0 then [] else
        let left : Rat := if o.back then (o.pos.toNat : Rat) - (h.lstart : Rat) * 4294967296
          else (if h.loop = 1 then (h.lend : Rat) else (h.lend : Rat) - 1) * 4294967296 - (o.pos.toNat : Rat)
        [clampQ 0 1 (left / inc)]
      ({ r.1 with naive := naive, out := i.invert (naive + o.corr), corr := 0, window := w, miss := false }, wraps, missed)
    | some r =>
      -- a sync event resets the position to the start position, advances it by the increment × e, corrects the step
      let pre := (advanceSample h o (Rat.floor ((inc : Rat) * r + 1 / 2))).1
      let o0 := startSample h o ((o.start.toNat : Rat) / 4294967296 / h.len)
      let val : OscSt → Rat := fun q =>
        if q.ended then 0 else catmull (i.mem.points h (h.window q)) (fracQ ((q.pos.toNat : Rat) / 4294967296))
      let hgt := val o0 - val pre
      let r1 := advanceSample h o0 (Rat.floor ((inc : Rat) * (1 - r) + 1 / 2))
      ({ r1.1 with naive := naive, out := i.invert (naive + o.corr + blep1 hgt (1 - r)), corr := blep2 hgt (1 - r),
                   window := w, miss := false }, [], missed)

/-- The analytic advance of an elided voice's oscillator (R191). -/
def OscIn.skip (i : OscIn) (o : OscSt) : OscSt :=
  if i.type = 6 then
    match i.mem.sample (u32 i.p (i.base + 0x10)) with
    | none => o
    | some h => { (advanceSample h o (sampleInc h i.pitch i.fs)).1 with corr := 0, miss := false }
  else { o with phase := o.phase + BitVec.ofNat 32 (incOf (hzOf i.pitch) i.fs), corr := 0 }

/-! ### Noise (R170, R171) -/

/-- One shift of the Galois LFSR. -/
def lfsrStep (s : BitVec 32) : BitVec 32 := if s.getLsbD 0 then (s >>> 1) ^^^ 0x80200003#32 else s >>> 1

def lfsrJump : Nat → BitVec 32 → BitVec 32
  | 0, s => s
  | n + 1, s => lfsrJump n (lfsrStep s)

/-- Seed of a Reed at reset. -/
def lfsrSeed (n : Nat) : BitVec 32 :=
  let s := 0x1F35A7C3#32 ^^^ BitVec.ofNat 32 (n * 0x9E3779B9)
  if s = 0 then 1 else s

def lfsrVal (s : BitVec 32) : Rat := (s.toInt : Rat) / 2147483648

/-! ### Filters (R173 to R175) -/

/-- One stage: output of a mode (0 pass, 1 low, 2 band, 3 high, 4 notch) and new ic1, ic2. -/
def svf (mode : Nat) (g k v0 ic1 ic2 : Rat) : Rat × Rat × Rat :=
  let a1 := 1 / (1 + g * (g + k))
  let a2 := g * a1
  let a3 := g * a2
  let v3 := v0 - ic2
  let v1 := a1 * ic1 + a2 * v3
  let v2 := ic2 + a2 * ic1 + a3 * v3
  (match mode with
   | 1 => v2
   | 2 => v1
   | 3 => v0 - k * v1 - v2
   | 4 => v0 - k * v1
   | _ => v0,
   2 * v1 - ic1, 2 * v2 - ic2)

/-- Frequency of a cutoff, no higher than 0.49 of the rate. -/
def cutoffHz (pc : Rat) (fs : Nat) : Rat := min (hzOf pc) (49 / 100 * fs)
def svfG (f : Rat) (fs : Nat) : Rat := Config.tanHalf (f / fs)
def svfK (res : Rat) : Rat := 2 * (1 - 99 / 100 * res)

/-- First and second centres of the vowels A, E, I, O, U. -/
def vowelHz : List (Rat × Rat) := [(730, 1090), (530, 1840), (270, 2290), (570, 840), (300, 870)]

/-- F1 (R173, R174): output and its four state values. -/
def filter1 (p : Patch) (fs : Nat) (n : Rat) (c : Nat → Rat) (st : List Rat) (x : Rat) : Rat × List Rat :=
  let mode := u8 p f1Base
  let pc := q1616 p (f1Base + 4) + q88 p (f1Base + 8) * (n - 60) + c 21 + c 62
  let res := clampQ 0 (65535 / 65536) (q016 p (f1Base + 2) + c 22)
  let drive := clampQ 0 24 (q88 p (f1Base + 0xA) + c 23)
  let x := if drive > 0 then Config.tanh (Config.pow10 (drive / 20) * x) else x
  let g := svfG (cutoffHz pc fs) fs
  if u8 p (f1Base + 1) % 2 = 1 then
    let a := svf mode g Config.sqrt2 x (st.getD 0 0) (st.getD 1 0)
    let b := svf mode g (svfK res) a.1 (st.getD 2 0) (st.getD 3 0)
    (b.1, [a.2.1, a.2.2, b.2.1, b.2.2])
  else
    let b := svf mode g (svfK res) x (st.getD 0 0) (st.getD 1 0)
    (b.1, [b.2.1, b.2.2, st.getD 2 0, st.getD 3 0])

/-- F2 (R173, R175): output, its four state values and the comb line. -/
def filter2 (p : Patch) (fs : Nat) (n : Rat) (c : Nat → Rat) (st comb : List Rat) (x : Rat) : Rat × List Rat × List Rat :=
  let mode := u8 p f2Base
  let pc := q1616 p (f2Base + 4) + q88 p (f2Base + 8) * (n - 60) + c 24 + c 62
  let res := clampQ 0 (65535 / 65536) (q016 p (f2Base + 2) + c 25)
  let fc := cutoffHz pc fs
  if mode = 5 || mode = 6 then
    let del := clampQ 1 127 ((fs : Rat) / fc)
    let k := (Rat.floor del).toNat
    let old := comb.getD (k - 1) 0 * (1 - fracQ del) + comb.getD k 0 * fracQ del
    let y := if mode = 5 then x + 999 / 1000 * res * old else x - 999 / 1000 * res * old
    (y, st, (y :: comb).take 128)
  else if mode = 7 then
    let v := clampQ 0 4 (uq88 p (f2Base + 0xA) + c 26)
    let i := (Rat.floor v).toNat
    let lo := vowelHz.getD i (0, 0)
    let hi := vowelHz.getD (min (i + 1) 4) (0, 0)
    let m := Config.pow2 ((pc - 60) / 12)
    let f1 := min ((lo.1 + (hi.1 - lo.1) * fracQ v) * m) (49 / 100 * fs)
    let f2 := min ((lo.2 + (hi.2 - lo.2) * fracQ v) * m) (49 / 100 * fs)
    let a := svf 2 (svfG f1 fs) (svfK res) x (st.getD 0 0) (st.getD 1 0)
    let b := svf 2 (svfG f2 fs) (svfK res) x (st.getD 2 0) (st.getD 3 0)
    (a.1 + b.1, [a.2.1, a.2.2, b.2.1, b.2.2], comb)
  else
    let b := svf mode (svfG fc fs) (svfK res) x (st.getD 0 0) (st.getD 1 0)
    (b.1, [b.2.1, b.2.2, st.getD 2 0, st.getD 3 0], comb)

/-! ### Envelopes (R176 to R178) -/

/-- The curve s(x) of a stage with curvature byte C. -/
def curve (cb : Int) (x : Rat) : Rat :=
  if cb = 0 then x
  else
    let κ : Rat := (cb : Rat) / 16
    (1 - Config.expE (-(κ * x))) / (1 - Config.expE (-κ))

/-- What an envelope's stages take now: lengths in samples by stage 0 to 5 (R177), curvatures, sustain level. -/
structure EnvPar where
  len : Nat → Rat
  cur : Nat → Int
  sus : Rat

def envPar (p : Patch) (i fs : Nat) (n : Rat) (c : Nat → Rat) : EnvPar :=
  let b := envBase i
  let key := Config.pow2 (-((s16 p (b + 0x14) : Rat) / 256 * (n - 60) / 12))
  let secs : Nat → Rat → Rat := fun o m => codeSecs (u16 p (b + o)) * key * Config.pow2 (8 * clampQ (-1) 1 m) * fs
  { len := fun st => match st with
      | 0 => secs 2 (c 63)
      | 1 => secs 4 (c (27 + i) + c 63)
      | 2 => secs 6 (c 63)
      | 3 => secs 8 (c (31 + i) + c 63)
      | 5 => secs 0xC (c (35 + i) + c 63)
      | _ => 0
    cur := fun st => match st with
      | 1 => signed 8 (u8 p (b + 0xE))
      | 3 => signed 8 (u8 p (b + 0xF))
      | _ => signed 8 (u8 p (b + 0x10))
    sus := clampQ 0 1 (q016 p (b + 0xA) + c (39 + i)) }

/-- Level at which a stage ends. -/
def EnvPar.goal (q : EnvPar) (e : EnvSt) : Rat :=
  match e.stage with
  | 0 => e.from_
  | 1 => e.peak
  | 2 => e.peak
  | 3 => q.sus * e.peak
  | 4 => q.sus * e.peak
  | _ => 0

/-- Advance an envelope by `dt` samples, starting `τ` after this sample: also the zero-time steps met, instant and height. -/
def EnvPar.advance (q : EnvPar) : Nat → EnvSt → Rat → Rat → List (Rat × Rat) → EnvSt × List (Rat × Rat)
  | 0, e, _, _, acc => (e, acc)
  | fuel + 1, e, dt, τ, acc =>
    if e.stage = 4 then ({ e with level := q.goal e }, acc)
    else if 6 ≤ e.stage then ({ e with level := 0 }, acc)
    else
      let len := q.len e.stage
      let goal := q.goal e
      let next := { e with stage := e.stage + 1, x := 0, from_ := goal, level := goal }
      if len ≤ 0 then
        q.advance fuel next dt τ (if goal = e.level then acc else acc ++ [(τ, goal - e.level)])
      else
        let left := (1 - e.x) * len
        if left ≤ dt then q.advance fuel next (dt - left) (τ + left) acc
        else
          let x := e.x + dt / len
          ({ e with x := x, level := e.from_ + (goal - e.from_) * (if e.stage = 0 || e.stage = 2 then 1 else curve (q.cur e.stage) x) }, acc)

/-- Gate an envelope: DELAY from its current level, with the peak of a velocity (R176, R178). -/
def envGate (p : Patch) (i : Nat) (vel : BitVec 16) (e : EnvSt) : EnvSt :=
  { e with stage := 0, x := 0, from_ := e.level,
           peak := 1 - q016 p (envBase i + 0x12) * (1 - (vel.toNat : Rat) / 65535) }

/-- Release an envelope from any stage. -/
def envRelease (e : EnvSt) : EnvSt := { e with stage := 5, x := 0, from_ := e.level }

/-! ### LFOs (R179) -/

/-- A new cycle draws the white noise of its sample; while the voice is elided the last value repeats. -/
def lfoCycle (l : LfoSt) (white : Rat) (frozen : Bool) : LfoSt :=
  if frozen then l else { l with held := white, prev := l.held }

/-- The output of a shape at a phase. -/
def lfoShape (l : LfoSt) (shape : Nat) : Rat :=
  let t := l.phase
  match shape with
  | 0 => Config.sinCycle t
  | 1 => Config.lfoTriangle t
  | 2 => 2 * t - 1
  | 3 => 1 - 2 * t
  | 4 => if t < 1 / 2 then 1 else -1
  | 5 => l.held
  | _ => l.prev + (l.held - l.prev) * (1 - Config.sinCycle (t / 2 + 1 / 4)) / 2

/-! ### The matrix (R182, R183) -/

/-- Full scale of a destination. -/
def fullScale (dst : Nat) : Rat :=
  if dst = 0 then 0
  else if dst ≤ 4 then 48
  else if dst ≤ 7 then 96
  else if dst ≤ 10 then 1 / 2
  else if dst ≤ 13 then 256
  else if dst ≤ 19 then 1
  else if dst = 20 || dst = 21 then 96
  else if dst = 22 then 1
  else if dst = 23 then 24
  else if dst = 24 then 96
  else if dst = 25 then 1
  else if dst = 26 then 4
  else if dst ≤ 42 then 1
  else if dst ≤ 45 then 8
  else if dst ≤ 48 then 1
  else if dst = 49 then 96
  else if dst = 50 then 1
  else if dst ≤ 52 then 96
  else if dst ≤ 60 then 1
  else if dst = 61 then 8
  else if dst = 62 then 96
  else 1

def bipolar (src : Nat) : Bool := (5 ≤ src && src ≤ 7) || src = 10 || src = 13 || src = 14 || (26 ≤ src && src ≤ 30)

/-- Evaluate the 16 slots in order: the contributions by slot, a later slot seeing this sample's depth contributions. -/
def slotRun (p : Patch) (src : Nat → Rat) : List Nat → List Rat → List Rat
  | [], acc => acc
  | i :: rest, acc =>
    let b := slotBase i
    let s := u8 p b
    let via := u8 p (b + 1)
    let dst := u8 p (b + 2)
    let x := if bit (u8 p (b + 3)) 0 && bipolar s then (src s + 1) / 2 else src s
    let dc : Rat := if i < 8 then
        clampQ (-1) 1 ((List.range 16).foldl (fun a q => if u8 p (slotBase q + 2) = 53 + i then a + acc.getD q 0 else a) 0)
      else 0
    let depth := clampQ (-1) (32767 / 32768) (q115 p (b + 4) + dc)
    let v := if dst = 0 || s = 0 then 0 else x * (if via = 0 then 1 else src via) * depth * fullScale dst
    slotRun p src rest (setAt acc i v)

/-- Sum of the contributions to each destination, clamped to its full scale. -/
def destSums (p : Patch) (slots : List Rat) : List Rat :=
  (List.range 64).map (fun dst =>
    clampQ (-(fullScale dst)) (fullScale dst)
      ((List.range 16).foldl (fun a q => if u8 p (slotBase q + 2) = dst then a + slots.getD q 0 else a) 0))

/-! ### Part values as a voice sees them -/

/-- Part controllers, channel pressure and bend in force at a sample. -/
structure PartView where
  cc    : Nat → Rat
  press : Rat
  bend  : Rat

/-- Values of the matrix sources (R182): unipolar values by their largest code, bends by their centre
(notes/assumptions/13). -/
def Voice.source (v : Voice) (pv : PartView) (p : Patch) (code : Nat) : Rat :=
  let uni : Nat → Rat := fun n => (n : Rat) / 65535
  if code = 0 then 0
  else if code ≤ 4 then (v.env.getD (code - 1) ⟨6, 0, 0, 0, 0⟩).level
  else if code ≤ 7 then (v.lfo.getD (code - 5) ⟨0, 0, 0, 0⟩).out
  else match code with
  | 8 => uni v.vel.toNat
  | 9 => uni v.relVel.toNat
  | 10 => clampQ (-1) 1 ((v.pitch - 60) / 64)
  | 11 => (v.press.toNat : Rat) / 4294967295
  | 12 => pv.press
  | 13 => pv.bend
  | 14 => ((v.bend.toNat : Rat) - 32768) / 32768
  | 15 => pv.cc 1
  | 16 => pv.cc 2
  | 17 => pv.cc 11
  | 18 => pv.cc 64
  | 19 => pv.cc 74
  | 20 => uni (v.pna.getD 0 0).toNat
  | 21 => uni (v.pna.getD 1 0).toNat
  | 22 => uni (v.pna.getD 2 0).toNat
  | 23 => pv.cc (u8 p 0x19)
  | 24 => pv.cc (u8 p 0x1A)
  | 25 => v.random
  | 26 => if v.alt then -1 else 1
  | 27 => v.noise
  | 28 => (v.osc.getD 0 ⟨0, 0, false, false, 0, false, false, 0, 0, 0, 0, [], false⟩).out
  | 29 => (v.osc.getD 1 ⟨0, 0, false, false, 0, false, false, 0, 0, 0, 0, [], false⟩).out
  | 30 => (v.osc.getD 2 ⟨0, 0, false, false, 0, false, false, 0, 0, 0, 0, [], false⟩).out
  | 31 => 1
  | _ => 0

/-! ### Ramps (R124, R192, R203, R219) -/

def Ramp.gain (r : Ramp) : Rat :=
  if r.up then ((r.step : Rat) + 1) / r.total else 1 - (r.step : Rat) / r.total

/-- All ramps' product, the ramps after this sample, and whether a falling one has ended. -/
def rampRun (l : List Ramp) : Rat × List Ramp × Bool :=
  (l.foldl (fun a r => a * max 0 (r.gain)) 1,
   (l.map (fun r => { r with step := r.step + 1 })).filter (fun r => r.step < r.total),
   l.any (fun r => !r.up && r.total ≤ r.step + 1))

end Sys2Proof.Machine
end

