-- ==== Sys2Proof/Machine/Reeds.lean ====
section
/-!
DEFINITION. The Reed array (chapter 05): one voice over a sample and over a block, the sum into the mix buses, stolen voices,
silent-voice elision, the patch library with INVALIDATE and VALIDATE, prefetch, and the RDA snapshot of a Reed.
-/
namespace Sys2Proof.Machine

/-! ### Starting values of a voice -/

def LfoSt.zero : LfoSt := ⟨0, 0, 0, 0⟩
def EnvSt.zero : EnvSt := ⟨6, 0, 0, 0, 0⟩
def OscSt.zero : OscSt where
  phase := 0
  pos := 0
  back := false
  inLoop := false
  start := 0
  dead := false
  ended := false
  out := 0
  naive := 0
  tri := 0
  corr := 0
  window := []
  miss := false

/-- A voice bound to a Reed and not yet rendered (R822). -/
def Voice.new (part : BitVec 6) (patch : BitVec 10) (nid vel : BitVec 16) (pitch : Rat) (at_ : Pos) : Voice where
  part := part
  patchNo := patch
  nid := nid
  startPos := at_
  released := false
  relPos := 0
  sustained := false
  detached := false
  lease := none
  retNode := none
  evs := [⟨at_, .start⟩]
  started := false
  pitch := pitch
  pitch0 := pitch
  glide := none
  vel := vel
  relVel := 0
  rreleased := false
  press := 0
  bend := 0x8000
  pna := [0, 0, 0]
  random := 0
  alt := false
  env := List.replicate 4 EnvSt.zero
  lfo := List.replicate 3 LfoSt.zero
  osc := List.replicate 3 OscSt.zero
  filt := List.replicate 8 0
  comb := []
  mtx := List.replicate 64 0
  slots := List.replicate 16 0
  noise := 0
  pink := 0
  ampCorr := 0
  silent := 0
  age := 0
  elided := false
  ramps := []
  peak := 0
  peakLevel := 0x8000
  patch := []
  hasPatch := false
  srcErr := false
  lastOut := []
  ended := false

/-! ### One voice, one sample -/

/-- What the rendering of a block gives every voice. -/
structure Ctx where
  fs   : Nat
  elen : Bool
  mem  : WaveMem
  /-- Part values at a sample. -/
  view : Nat → Nat → PartView

/-- What rendering has counted: banks of missed bursts, voices with an unreachable source, voices entering elision. -/
structure Tally where
  misses : List Nat
  srcErr : Nat
  elides : Nat

def Voice.envAt (v : Voice) (i : Nat) : EnvSt := v.env.getD i EnvSt.zero
def Voice.oscAt (v : Voice) (i : Nat) : OscSt := v.osc.getD i OscSt.zero
def Voice.lfoAt (v : Voice) (i : Nat) : LfoSt := v.lfo.getD i LfoSt.zero

/-- An event's effect on a voice's values and gates; the phases of a start are set by the oscillators themselves. -/
def Voice.event (fs : Nat) (φ : Rat) (v : Voice) (e : VEvKind) : Voice :=
  let p := v.patch
  match e with
  | .start =>
    { v with
      started := true
      env := (List.range 4).map (fun i => envGate p i v.vel { EnvSt.zero with stage := 0 })
      lfo := (List.range 3).map (fun i =>
        if u8 p (lfoBase i + 1) = 1 then { v.lfoAt i with phase := q016 p (lfoBase i + 8) } else v.lfoAt i) }
  | .cont nid pitch vel legato =>
    let gl := codeSecs (u16 p 0x12) * fs * Config.pow2 (v.mtx.getD 61 0)
    { v with
      nid := nid
      vel := vel
      pitch := if gl ≤ 0 then pitch else v.pitch
      pitch0 := pitch
      glide := if gl ≤ 0 then none else some (v.pitch, pitch, -φ)
      env := (List.range 4).map (fun i =>
        if legato && bit (u8 p (envBase i)) 0 then v.envAt i else envGate p i vel (v.envAt i)) }
  | .rel vel =>
    if v.rreleased then v else { v with rreleased := true, relVel := vel, env := v.env.map envRelease }
  | .press x => { v with press := x }
  | .pnPitch x => { v with pitch := x, glide := none }
  | .pnCtl i x => { v with pna := (List.range 3).map (fun q => if u8 p (0x16 + q) = i then x else v.pna.getD q 0) }
  | .pnBend x => { v with bend := x }
  | .pnReset => { v with bend := 0x8000, pna := [0, 0, 0], pitch := v.pitch0, glide := none }
  | .cut => { v with ramps := v.ramps ++ [⟨false, 64, 0⟩] }

/-- Advance every envelope by `dt` from instant τ: the envelopes, and the steps of the amplifier's. -/
def Voice.envRun (v : Voice) (par : Nat → EnvPar) (ampi : Nat) (dt τ : Rat) : List EnvSt × List (Rat × Rat) :=
  let r := (List.range 4).map (fun i => (par i).advance 8 (v.envAt i) dt τ [])
  (r.map (·.1), (r.getD ampi (EnvSt.zero, [])).2)

/-- The events at fractions above 0, in order, with the envelopes run from fraction to fraction (R151, R152, R197). -/
def Voice.midEvents (fs : Nat) (par : Nat → EnvPar) (ampi : Nat) :
    List (Rat × VEvKind) → Voice → Rat → List (Rat × Rat) → Voice × Rat × List (Rat × Rat)
  | [], v, cur, acc => (v, cur, acc)
  | (φ, e) :: rest, v, cur, acc =>
    let r := v.envRun par ampi (φ - cur) cur
    let v := ({ v with env := r.1 }).event fs φ e
    let z := v.envRun par ampi 0 φ
    Voice.midEvents fs par ampi rest { v with env := z.1 } φ (acc ++ r.2 ++ z.2)

/-- What oscillator `i` computes from, `os` being the three as they stand; its syncs are set apart. -/
def Voice.oscIn (fs : Nat) (mem : WaveMem) (v : Voice) (pv : PartView) (con : Nat → Rat) (os : List OscSt) (i : Nat) : OscIn :=
  let p := v.patch
  let b := oscBase i
  let bend := (pv.bend + ((v.bend.toNat : Rat) - 32768) / 32768) * uq88 p 0x14
  let pm := u8 p (b + 3)
  let y := if pm = 0 || pm = i + 1 || 3 < pm then 0 else (os.getD (pm - 1) OscSt.zero).out
  { p := p, base := b, fs := fs, mem := mem, syncs := []
    pitch := clampQ (-48) 144 (60 + q88 p (b + 8) * (v.pitch - 60) + q1616 p (b + 4) + bend + con (1 + i) + con 4)
    pw := q016 p (b + 0xC) + con (8 + i)
    off := 8 * clampQ (-1) 1 (q115 p (b + 0xE) + con (14 + i)) * y
    frame := uq88 p (b + 0x14) + con (11 + i) }

/-- The oscillators in the order A, B, C (R161): states, wraps by oscillator, banks of missed windows. -/
def Voice.oscRun (c : Ctx) (v : Voice) (pv : PartView) (con : Nat → Rat) (startAt : Option Rat) :
    List Nat → List OscSt → List (List Rat) → List Nat → List OscSt × List Nat
  | [], os, _, miss => (os, miss)
  | i :: rest, os, wr, miss =>
    let p := v.patch
    let b := oscBase i
    let o := os.getD i OscSt.zero
    let ty := u8 p b
    let sy := u8 p (b + 2)
    let syncs := if sy = 0 || sy = i + 1 || 3 < sy then [] else (wr.getD (sy - 1) []).filter (fun t => 0 < t && t ≤ 1)
    let fresh := startAt.isSome && (ty = 6 || bit (u8 p (b + 1)) 0)
    let syncs := match startAt with
      | some φ => if fresh && 0 < φ && ty ≠ 6 then insertBy (fun a b => a < b) φ (syncs.filter (· ≠ φ)) else syncs
      | none => syncs
    let inp : OscIn := { v.oscIn c.fs c.mem pv con os i with syncs := syncs }
    -- a reset at fraction 0 steps exactly at this sample
    let o := if fresh && startAt = some 0 && ty ≠ 6 then
        { o with phase := inp.phase0, corr := o.corr - (inp.wave (cyc inp.phase0 + inp.off) - o.naive) / 2 }
      else o
    if v.elided then Voice.oscRun c v pv con startAt rest (setAt os i (inp.skip o)) wr miss
    else if ty = 6 then
      match c.mem.sample (u32 p (b + 0x10)) with
      | some h =>
        if fresh then
          let o1 := startSample h o (con (17 + i))
          let φ := startAt.getD 0
          if φ = 0 then
            let r := inp.tickSample o1
            Voice.oscRun c v pv con startAt rest (setAt os i r.1) (setAt wr i r.2.1) (r.2.2.toList ++ miss)
          else
            let o2 := (advanceSample h o1 (Rat.floor ((sampleInc h inp.pitch c.fs : Rat) * (1 - φ) + 1 / 2))).1
            Voice.oscRun c v pv con startAt rest (setAt os i { o2 with out := inp.invert o.naive }) (setAt wr i []) miss
        else
          let r := inp.tickSample o
          Voice.oscRun c v pv con startAt rest (setAt os i r.1) (setAt wr i r.2.1) (r.2.2.toList ++ miss)
      | none => Voice.oscRun c v pv con startAt rest (setAt os i { o with out := 0, corr := 0, dead := true }) (setAt wr i []) miss
    else
      let r := inp.tickPhase o
      Voice.oscRun c v pv con startAt rest (setAt os i r.1) (setAt wr i r.2.1) (r.2.2.toList ++ miss)

/-- The gain of a route into F1, F2 or the amplifier (R172). -/
def routeTo (route dest : Nat) : Bool :=
  match dest with
  | 1 => route = 0 || route = 2
  | 2 => route = 1 || route = 2
  | _ => route = 3

/-- One sample of a voice at sample `k`: the new voice, what it adds by bus, and the banks of missed windows. `evs` are the
events of the sample with their fractions; `rng` is the Reed's LFSR after this sample's shift. -/
def Voice.sample (c : Ctx) (k : Nat) (rng : BitVec 32) (v : Voice) (evs : List (Rat × VEvKind)) :
    Voice × List (Nat × Rat) × List Nat :=
  let p := v.patch
  let ampi := u8 p (ampBase + 0xE) % 4
  let con0 : Nat → Rat := fun i => v.mtx.getD i 0
  let par0 : Nat → EnvPar := fun i => envPar p i c.fs v.pitch con0
  -- events at the sample itself
  let now := (evs.filter (fun e => e.1 = 0)).map (·.2)
  let mid := evs.filter (fun e => e.1 ≠ 0)
  let startAt : Option Rat := (evs.find? (fun e => e.2 = .start)).map (·.1)
  let (v, pre) := now.foldl (fun (a : Voice × List (Rat × Rat)) e =>
    let w := a.1.event c.fs 0 e
    let z := w.envRun par0 ampi 0 0
    ({ w with env := z.1 }, a.2 ++ z.2)) (v, [])
  -- glide (R185)
  let v := match v.glide with
    | none => v
    | some (a, b, done) =>
      let len := codeSecs (u16 p 0x12) * c.fs * Config.pow2 (con0 61)
      let done := done + 1
      if len ≤ done then { v with pitch := b, glide := none }
      else { v with pitch := a + (b - a) * done / len, glide := some (a, b, done) }
  let pv := c.view v.part.toNat k
  let white := lfsrVal rng
  -- LFO outputs
  let lfos := (List.range 3).map (fun i =>
    let b := lfoBase i
    let l := v.lfoAt i
    let l := if u8 p (b + 1) = 2 then
        let ph := fracQ ((k : Rat) * 65536 / (max 65536 (u32 p (b + 4)) : Nat) + q016 p (b + 8))
        { (if ph < l.phase then lfoCycle l white v.elided else l) with phase := ph }
      else l
    let dl := codeSecs (u16 p (b + 0xA)) * c.fs
    let fade : Rat := if dl ≤ 0 then 1 else min 1 ((v.age : Rat) / dl)
    { l with out := lfoShape l (u8 p b) * clampQ 0 2 (1 + con0 (46 + i)) * fade })
  let v := { v with lfo := lfos }
  -- matrix
  let slots := slotRun p (v.source pv p) (List.range 16) v.slots
  let mtx := destSums p slots
  let con : Nat → Rat := fun i => mtx.getD i 0
  let v := { v with slots := slots, mtx := mtx }
  -- oscillators
  let (os, miss) := v.oscRun c pv con startAt (List.range 3) v.osc [[], [], []] []
  let lvl : Nat → Rat := fun i => if u8 p (oscBase i) = 0 then 0 else levelGain p (oscBase i + 0xA) (con (5 + i))
  let nlvl := levelGain p (noiseBase + 2) (con 20)
  let pink := if v.elided then v.pink else Config.pink v.pink white
  let noise := if v.elided then v.noise else if u8 p noiseBase = 1 then pink else white
  let feed : Nat → Rat := fun dest =>
    (List.range 3).foldl (fun a i =>
      if routeTo (u8 p (oscBase i + 0x18)) dest then a + (os.getD i OscSt.zero).out * lvl i else a) 0
      + (if routeTo (u8 p (noiseBase + 1)) dest then noise * nlvl else 0)
  -- filters (R172)
  let r1 := filter1 p c.fs v.pitch con (v.filt.take 4) (feed 1)
  let series := u8 p (f2Base + 1) = 0
  let r2 := filter2 p c.fs v.pitch con (v.filt.drop 4) v.comb (if series then feed 2 + r1.1 else feed 2)
  let x := (if series then r2.1 else r1.1 + r2.1) + feed 3
  -- envelopes from this sample to the next, with the events between
  let level := (v.envAt ampi).level
  let par : Nat → EnvPar := fun i => envPar p i c.fs v.pitch con
  let started := v.started
  let (v, cur, post) := Voice.midEvents c.fs par ampi mid v 0 []
  let fin := v.envRun par ampi (1 - cur) cur
  let v := { v with env := fin.1 }
  let post := post ++ fin.2
  let eamp := level + v.ampCorr - pre.foldl (fun a h => a + h.2 / 2) 0
    + post.foldl (fun a h => a + blep1 h.2 (1 - h.1)) 0
  let corr := post.foldl (fun a h => a + blep2 h.2 (1 - h.1)) 0
  -- amplifier (R180)
  let g := levelGain p ampBase (con 49) * (1 - q016 p (ampBase + 0xC) * (1 - (v.vel.toNat : Rat) / 65535))
  let pan := (clampQ (-1) 1 (q115 p (ampBase + 2) + con 50) + 1) / 8
  let gl := Config.sinCycle (pan + 1 / 4)
  let gr := Config.sinCycle pan
  let sg1 := levelGain p (ampBase + 8) (con 51)
  let sg2 := levelGain p (ampBase + 0xA) (con 52)
  let presend := bit (u8 p (ampBase + 7)) 0
  let (xg, ramps, cutEnd) := rampRun v.ramps
  let post_ := x * eamp * g * xg
  let dry := if presend then x * g * xg else post_
  let full := ((List.range 3).foldl (fun a i => a + lvl i) 0) + nlvl
  let bound := full * g * xg * max (|eamp| * max gl (max gr (max sg1 sg2))) (if presend then max sg1 sg2 else 0)
  let pk := if v.elided then 0 else max (max |post_ * gl| |post_ * gr|) (max |dry * sg1| |dry * sg2|)
  let heard : Rat := if v.elided then bound else pk
  let low : Bool := heard < 1 / 1000000
  let mix : List (Nat × Rat) := if v.elided || !started then [] else
    let bp := u8 p (ampBase + 4) % 16
    [(2 * bp, post_ * gl), (2 * bp + 1, post_ * gr), (u8 p (ampBase + 5) % 32, dry * sg1), (u8 p (ampBase + 6) % 32, dry * sg2)]
  -- elision and end (R186, R191, R192)
  let resume : Bool := v.elided && 1 / 1000000 ≤ bound
  let silent := if low then v.silent + 1 else 0
  let age := v.age + 1
  let enter : Bool := c.elen && !v.elided && !v.rreleased && 256 < age && 256 ≤ silent
  let frozen := v.elided
  let done : Bool := cutEnd || (v.rreleased && (6 ≤ (v.envAt ampi).stage || 256 ≤ silent))
  let next := lfsrVal (lfsrStep rng)
  let lfos := (List.range 3).map (fun i =>
    let b := lfoBase i
    let l := v.lfoAt i
    if u8 p (b + 1) = 2 then l
    else
      let ph := l.phase + uq88 p (b + 2) * Config.pow2 (con (43 + i)) / c.fs
      if 1 ≤ ph then lfoCycle { l with phase := fracQ ph } next v.elided else { l with phase := ph })
  ({ v with
      osc := os, lfo := lfos, noise := noise, pink := pink, ampCorr := corr,
      filt := if frozen then v.filt else r1.2 ++ r2.2.1
      comb := if frozen then v.comb else r2.2.2
      ramps := if resume then ramps ++ [⟨true, 32, 0⟩] else ramps
      elided := (v.elided && !resume) || enter
      silent := silent, age := age, peak := max v.peak pk, lastOut := mix, ended := done },
   mix, miss)

/-! ### One voice over a block -/

/-- The events due by sample `k` with their fractions (an event before it acts at once), and the rest. -/
def splitEvs (k : Nat) (evs : List VEv) : List (Rat × VEvKind) × List VEv :=
  let due := evs.filter (fun e => whole e.at_ ≤ k)
  (due.map (fun e => (if whole e.at_ < k then 0 else ((fracOf e.at_).toNat : Rat) / 65536, e.kind)),
   evs.filter (fun e => k < whole e.at_))

/-- Running sums of a block: by bus and sample, and by origin for return mixes; and the counts. -/
structure Mix where
  bus   : Sparse Rat
  ret   : Sparse Rat
  tally : Tally

/-- Key of a bus sample in the bus store (R371), and of a return-mix sample. -/
def busKey (bus pos : Nat) : Nat := bus * 512 + pos % 512
def retKey (node bus pos : Nat) : Nat := node * 16384 + busKey bus pos

def addAt (m : Sparse Rat) (k : Nat) (x : Rat) : Sparse Rat := sput 0 k (sget 0 k m + x) m

/-- Add a sample's output to the buses, or to the origin's return mix (R181, R233). -/
def Mix.add (m : Mix) (node : Option (BitVec 12)) (k : Nat) (out : List (Nat × Rat)) : Mix :=
  out.foldl (fun m e => match node with
    | none => { m with bus := addAt m.bus (busKey e.1 k) e.2 }
    | some n => { m with ret := addAt m.ret (retKey n.toNat e.1 k) e.2 }) m

/-- One sample of a bound voice within a block; the Reed's LFSR is given for its sample. -/
def voiceStep (c : Ctx) (rng : Nat → BitVec 32) (k cnt : Nat) (v : Voice) (m : Mix) : Voice × Mix :=
  if v.ended then (v, m)
  else
    let (evs, rest) := splitEvs k v.evs
    let v := { v with evs := rest }
    if !v.started && !(evs.any (fun e => e.2 = .start)) then (v, m)
    else
      let r := v.sample c k (rng cnt) evs
      let w := r.1
      let deadNow : Bool := !v.srcErr && w.osc.any (·.dead)
      let t := m.tally
      ({ w with srcErr := v.srcErr || deadNow },
       { (m.add v.retNode k r.2.1) with
          tally := { misses := r.2.2 ++ t.misses, srcErr := t.srcErr + b2n deadNow,
                     elides := t.elides + b2n (w.elided && !v.elided) } })

/-! ### The array over a block -/

/-- Part values at a sample: the controllers in force with the changes that act by then (R151, R822). -/
def Dev.partView (d : Dev) (part k : Nat) : PartView :=
  let evs := d.rda.partEvs.filter (fun e => e.part = part && !later (ceilPos e.at_) (posOf k))
  let val : Option Nat → BitVec 32 → BitVec 32 := fun key base =>
    evs.foldl (fun a e => if e.key = key then e.val else a) base
  { cc := fun n => ((val (some n) (sget 0 (part * 65536 + n) d.rda.ctl)).toNat : Rat) / 65535
    press := ((val (some 49152) (sget 0 (part * 65536 + 49152) d.rda.ctl)).toNat : Rat) / 65535
    bend := ((val none (sget 0x80000000 part d.rda.bend)).toNat - 2147483648 : Rat) / 2147483648 }

/-- Part changes that a block has rendered enter the values in force. -/
def Dev.commitParts (d : Dev) (endPos : Nat) : Dev :=
  let done := d.rda.partEvs.filter (fun e => !later (ceilPos e.at_) (posOf endPos))
  let rest := d.rda.partEvs.filter (fun e => later (ceilPos e.at_) (posOf endPos))
  let r := done.foldl (fun (r : Rda) e => match e.key with
    | some n => { r with ctl := sput 0 (e.part * 65536 + n) e.val r.ctl }
    | none => { r with bend := sput 0x80000000 e.part e.val r.bend }) d.rda
  { d with rda := { r with partEvs := rest } }

/-- The LFSR of a Reed after the shift of sample number `cnt` (R170, R171). -/
def Dev.lfsrAt (d : Dev) (reed cnt : Nat) : BitVec 32 :=
  let e := sget (lfsrSeed reed, 0) reed d.rda.lfsr
  lfsrJump (cnt + 1 - e.2) e.1

/-- Keep a Reed's LFSR, phases and LFOs as its voice leaves them; while elided the noise is frozen (R191). -/
def Dev.keepReed (d : Dev) (reed cnt : Nat) (v : Voice) : Dev :=
  let s := if v.elided then (sget (lfsrSeed reed, 0) reed d.rda.lfsr).1 else d.lfsrAt reed cnt
  { d with rda := { d.rda with
      lfsr := sput (lfsrSeed reed, 0) reed (s, cnt + 1) d.rda.lfsr
      phase := (List.range 3).foldl (fun m i => sput 0 (reed * 3 + i) (v.oscAt i).phase m) d.rda.phase
      naive := (List.range 3).foldl (fun m i => sput 0 (reed * 3 + i) (v.oscAt i).naive m) d.rda.naive
      lfo := (List.range 3).foldl (fun m i => sput LfoSt.zero (reed * 3 + i) (v.lfoAt i) m) d.rda.lfo } }

/-- A voice that starts takes the phases the Reed last held (R154, R156, R179); a Reed's first voice after reset passes
its output through the 32-sample ramp (R203). -/
def Dev.loadReed (d : Dev) (reed : Nat) (v : Voice) : Dev × Voice :=
  if v.started then (d, v)
  else
    let first := !d.rda.sounded.contains reed
    ({ d with rda := { d.rda with sounded := if first then reed :: d.rda.sounded else d.rda.sounded } },
     { v with
        osc := (List.range 3).map (fun i =>
          { OscSt.zero with phase := sget 0 (reed * 3 + i) d.rda.phase, naive := sget 0 (reed * 3 + i) d.rda.naive })
        lfo := (List.range 3).map (fun i => sget LfoSt.zero (reed * 3 + i) d.rda.lfo)
        ramps := if first then [⟨true, 32, 0⟩] else [] })

/-- Render one bound voice over samples b to b + n − 1. -/
def Dev.renderVoice (d : Dev) (c : Ctx) (b n : Nat) (reed : Nat) (v : Voice) (m : Mix) : Dev × Voice × Mix :=
  let starts := !v.started && v.evs.any (fun e => e.kind = .start && whole e.at_ < b + n)
  let (d, v) := if starts then d.loadReed reed v else (d, v)
  let cnt := d.rda.count
  let r := (List.range n).foldl (fun (a : Voice × Mix) i => voiceStep c (d.lfsrAt reed) (b + i) (cnt + i) a.1 a.2) (v, m)
  let w := { r.1 with peakLevel := levelOf (r.1.peak * 134217728), peak := 0 }
  (if w.started then d.keepReed reed (cnt + n - 1) w else d, w, r.2)

/-- Render a stolen voice over a block: up to the new note's sample as bound, then in a ghost slot, cut or freed (R219 to
R221). `busy` counts the ghost slots in use. -/
def Dev.renderGhost (d : Dev) (c : Ctx) (b n busy : Nat) (g : Ghost) (m : Mix) : Dev × Option Ghost × Mix × Nat :=
  let cnt := d.rda.count
  let step := fun (a : Dev × Ghost × Mix × Nat × Bool) (i : Nat) =>
    let (d, g, m, busy, gone) := a
    if gone then a
    else
      let k := b + i
      if !g.fading && whole g.at_ ≤ k then
        let d := d.keepReed g.reed (cnt + i - 1) g.voice
        if g.voice.elided || g.voice.ended || !g.voice.started then (d, g, m, busy, true)
        else if busy < 128 then
          let g := { g with fading := true, voice := { g.voice with ramps := g.voice.ramps ++ [Ramp.mk false g.total 0] } }
          let r := voiceStep c (d.lfsrAt g.reed) k (cnt + i) g.voice m
          (d, { g with voice := r.1 }, r.2, busy + 1, r.1.ended)
        else
          let d := { d with rda := { d.rda with latches := d.rda.latches ++ g.voice.lastOut.map (fun (e : Nat × Rat) => (e.1, e.2, 8)) } }
          (d.cnt VAL_HARDCUT, g, m, busy, true)
      else
        let r := voiceStep c (d.lfsrAt g.reed) k (cnt + i) g.voice m
        (d, { g with voice := r.1 }, r.2, if g.fading && r.1.ended then busy - 1 else busy, r.1.ended && g.fading)
  let r := (List.range n).foldl step (d, g, m, busy, false)
  (r.1, if r.2.2.2.2 then none else some r.2.1, r.2.2.1, r.2.2.2.1)

/-- The latched samples of R220 over a block: each ramps linearly to 0 over 8 samples. -/
def latchRun (b n : Nat) (l : List (Nat × Rat × Nat)) (m : Mix) : List (Nat × Rat × Nat) × Mix :=
  (List.range n).foldl (fun a i =>
    (a.1.filterMap (fun e => if e.2.2 ≤ 1 then none else some (e.1, e.2.1, e.2.2 - 1)),
     a.1.foldl (fun m e => { m with bus := addAt m.bus (busKey e.1 (b + i)) (e.2.1 * e.2.2 / 8) }) a.2)) (l, m)

/-- May the Reed array read a bank (R195)? -/
def Dev.reedMay (d : Dev) (bank : Nat) : Bool := bank < 128 && d.bankMay oReeds bank false

/-- Address of a patch record (R187). -/
def Dev.patchAddr (d : Dev) (n : Nat) : Nat := d.g RDA_PLIB.BANK * 0x40000 + n * 512

/-- Read a voice's patch record for the block (R189, R190, R202): a record that cannot be read keeps the last copy; a voice
with no copy does not start. -/
def Dev.readPatch (d : Dev) (v : Voice) : Dev × Voice :=
  let n := v.patchNo.toNat
  if !d.flag RDA_PVALID n then (d, if v.hasPatch then v else { v with ended := true })
  else
    let r := d.bnkRead oReeds (d.patchAddr n) 512
    if r.denied then (r.dev, if v.hasPatch then v else { v with ended := true })
    else if r.unc then
      (if v.hasPatch then (r.dev, v) else ((r.dev.setFlag RDA_PVALID n false).cnt RDA_NOPATCH, { v with ended := true }))
    else (r.dev, { v with patch := r.data, hasPatch := true })

/-- The bus sample of a sum: scaled to ±2^27 full scale, saturated at ±(2^31 − 1) (R181). -/
def busSample (x : Rat) : Int × Bool :=
  let n := roundQ (x * 134217728)
  (clampI (-2147483647) 2147483647 n, n < -2147483647 || 2147483647 < n)

/-- Show the number of Reeds holding a voice and of those elided, and of ghost slots in use. -/
def Dev.showRda (d : Dev) : Dev :=
  let d := d.s RDA_STAT.ACTIVE d.rda.voices.length
  let d := d.s RDA_STAT.ELIDED (d.rda.voices.filter (·.2.elided)).length
  d.s VAL_STAT.GHOSTS (d.rda.ghosts.filter (·.fading)).length

/-- Stage S2: render the block of `n` samples from position `b` into the bus store (R17, R151, R181). -/
def Dev.renderBlock (d : Dev) (b n : Nat) : Dev :=
  let d : Dev × List (Nat × Voice) := (d.rda.voices.foldl (fun (a : Dev × List (Nat × Voice)) e =>
    let r := a.1.readPatch e.2
    (r.1, a.2 ++ [(e.1, r.2)])) (d, []))
  let vs := d.2
  let d := d.1
  let c : Ctx := { fs := d.fs, elen := d.on RDA_CTL.ELEN, mem := ⟨d.bnk.mem, d.bnk.poison, d.reedMay⟩, view := d.partView }
  let m : Mix := ⟨[], [], ⟨[], 0, 0⟩⟩
  -- stolen voices first, so that a new voice finds the phases its Reed holds
  let busy := (d.rda.ghosts.filter (·.fading)).length
  let g := d.rda.ghosts.foldl (fun (a : Dev × List Ghost × Mix × Nat) (g : Ghost) =>
    let r := a.1.renderGhost c b n a.2.2.2 g a.2.2.1
    (r.1, a.2.1 ++ r.2.1.toList, r.2.2.1, r.2.2.2)) (d, [], m, busy)
  let (d, ghosts, m, _) := g
  let r := vs.foldl (fun (a : Dev × List (Nat × Voice) × Mix) (e : Nat × Voice) =>
    let q := a.1.renderVoice c b n e.1 e.2 a.2.2
    (q.1, a.2.1 ++ [(e.1, q.2.1)], q.2.2)) (d, [], m)
  let (d, vs, m) := r
  let l : List (Nat × Rat × Nat) × Mix := latchRun b n d.rda.latches m
  let m : Mix := l.2
  let live := vs.filter (fun (e : Nat × Voice) => !e.2.ended)
  -- write the block's samples of every bus
  let keys := (List.range 32).flatMap (fun bus => (List.range n).map (fun i => busKey bus (b + i)))
  let bus := keys.foldl (fun a k => sput 0 k (busSample (sget 0 k m.bus)).1 a) d.rda.bus
  let sat := (keys.filter (fun k => (busSample (sget 0 k m.bus)).2)).length
  let fresh : Nat → Bool := fun key => (key + 512 - b % 512) % 512 < n
  let kept : Sparse Int := d.rda.ret.filter (fun (e : Nat × Int) => !fresh e.1)
  let ret := m.ret.foldl (fun a e => sput 0 e.1 (busSample e.2).1 a) kept
  let d := { d with rda := { d.rda with voices := live, ghosts := ghosts, latches := l.1, bus := bus, ret := ret,
                                        count := d.rda.count + n } }
  let d := ((d.cnt RDA_BUSSAT 0 sat).cnt RDA_ELIDES 0 m.tally.elides).cnt RDA_SRCERR 0 m.tally.srcErr
  let d := if m.tally.srcErr = 0 then d else d.raiseOnce nRDA 1 0 0
  let d := m.tally.misses.foldl (fun d b => d.fetchMiss b) d
  (d.commitParts (b + n - 1)).showRda

/-! ### Patches (R188, R190, R204) -/

/-- Is every field with a set of values or a range within it (R188)? -/
def patchFieldsOk (p : Patch) : Bool :=
  let osc := (List.range 3).all (fun i => let b := oscBase i
    u8 p b ≤ 6 && u8 p (b + 2) ≤ 3 && u8 p (b + 3) ≤ 3 && u8 p (b + 0x18) ≤ 3)
  let lfo := (List.range 3).all (fun i => let b := lfoBase i
    u8 p b ≤ 6 && u8 p (b + 1) ≤ 2 && 65536 ≤ u32 p (b + 4))
  let slot := (List.range 16).all (fun i => let b := slotBase i
    u8 p b ≤ 31 && u8 p (b + 1) ≤ 31 && u8 p (b + 2) ≤ 63)
  osc && lfo && slot && u8 p noiseBase ≤ 1 && u8 p (noiseBase + 1) ≤ 3
    && u8 p f1Base ≤ 4 && u8 p (f1Base + 1) ≤ 1 && 0 ≤ s16 p (f1Base + 0xA) && s16 p (f1Base + 0xA) ≤ 6144
    && u8 p f2Base ≤ 7 && u8 p (f2Base + 1) ≤ 1 && u16 p (f2Base + 0xA) ≤ 1024
    && u8 p 0x19 ≤ 127 && u8 p 0x1A ≤ 127
    && u8 p (ampBase + 4) ≤ 15 && u8 p (ampBase + 5) ≤ 31 && u8 p (ampBase + 6) ≤ 31 && u8 p (ampBase + 0xE) ≤ 3

/-- The check of a patch record: RDA_PSTAT.RES, the first failing check in the order of R188. -/
def Dev.checkPatch (d : Dev) (n : Nat) : Nat :=
  let bank := d.g RDA_PLIB.BANK
  if !(d.reedMay bank && d.reedMay (bank + 1)) then 4
  else
    let p := memBytes d.bnk.mem (d.patchAddr n) 512
    if u8 p 0x10 ≠ 1 then 1
    else if crc32 (p.take 508) ≠ fieldAt p 508 4 then 2
    else if !patchFieldsOk p then 3
    else 0

/-- Is a command of RDA_PCMD accepted: VALIDATE is not running (RDA_PSTAT)? -/
def Dev.patchCmd (d : Dev) (op num : Nat) : Dev :=
  if d.on RDA_PSTAT.BUSY then d
  else if op = 1 then
    { d with rda := { d.rda with cmdPend := d.rda.cmdPend ++ [(num, false)] } }.s RDA_PSTAT.NUM num
  else if op = 2 then
    ({ d with rda := { d.rda with validating := some (BitVec.ofNat 10 num) } }.s RDA_PSTAT.NUM num).s RDA_PSTAT.BUSY 1
  else d

def execInvalidate (num : BitVec 10) (s : State) : Out := onDev (fun d => d.patchCmd 1 num.toNat) s
def execValidate (num : BitVec 10) (s : State) : Out := onDev (fun d => d.patchCmd 2 num.toNat) s

/-- The end of a VALIDATE: RES is recorded, and the valid bit follows the outcome; an INVALIDATE that waits for the block
start is overtaken by it (R188, R190, R199). -/
def validateDone (d : Dev) : Dev :=
  match d.rda.validating with
  | none => d
  | some n =>
    let res := d.checkPatch n.toNat
    let d := (d.s RDA_PSTAT.RES res).s RDA_PSTAT.BUSY 0
    let pend := d.rda.cmdPend.filter (fun e => e.1 ≠ n.toNat)
    { d with rda := { d.rda with validating := none, cmdPend := pend } }.setFlag RDA_PVALID n.toNat (res = 0)

def execValidateDone (s : State) : Out := onDev validateDone s

/-- A library move and the INVALIDATE commands act at the block start (R190, R204). -/
def Dev.patchBlockStart (d : Dev) : Dev :=
  let d := match d.rda.plibPend with
    | some b =>
      let d := { d with rda := { d.rda with plibPend := none } }.s RDA_PLIB.BANK b
      (List.range 32).foldl (fun (d : Dev) j => d.setReg (RDA_PVALID.off j) 0) d
    | none => d
  let d := d.rda.cmdPend.foldl (fun (d : Dev) e => d.setFlag RDA_PVALID e.1 e.2) d
  { d with rda := { d.rda with cmdPend := [] } }

/-- A write of RDA_PLIB.BANK: odd values are reserved (R7); it acts at the next block start (R204). -/
def Dev.writePlib (d : Dev) (v : Nat) : Dev :=
  let b := v % 128
  if b % 2 = 1 then d else { d with rda := { d.rda with plibPend := some b } }

/-- Does a Reed exist at the rate (R149)? -/
def Dev.reedExists (d : Dev) (n : Nat) : Bool := n % 128 < 128 / 2 ^ d.rateClass

/-- The snapshot of a Reed's state in RDA_RINFO0 and RDA_RINFO1 (R205). -/
def Dev.writeRsel (d : Dev) (n : Nat) : Dev :=
  let d := d.s RDA_RSEL.N n
  let gone := !d.reedExists n || bit (d.g RDA_LANERET) (n / 128)
  let (st, part, patch, nid, pk) : Nat × Nat × Nat × Nat × Nat := match d.rda.voices.lookup n with
    | none => (0, 0, 0, 0, 0x8000)
    | some v => (if v.elided then 3 else if v.released then 2 else 1, v.part.toNat, v.patchNo.toNat, v.nid.toNat, v.peakLevel.toNat)
  let st := if gone then 4 else st
  let d := ((d.s RDA_RINFO0.STATE st).s RDA_RINFO0.PART part).s RDA_RINFO0.PATCH patch
  (d.s RDA_RINFO1.NID nid).s RDA_RINFO1.PEAK pk

/-! ### Prefetch (R168, R169, R202) -/

/-- Mark a Reed's next window as missed. -/
def Dev.missWindow (d : Dev) (reed i : Nat) : Dev :=
  { d with rda := { d.rda with voices := d.rda.voices.map (fun e =>
      if e.1 = reed then (e.1, { e.2 with osc := setAt e.2.osc i { e.2.oscAt i with miss := true } }) else e) } }

/-- A prefetch of the next window: granted, or granted at the retry, the window is there; a miss, or a word found
uncorrectable, makes the next sample use the window before it, and is counted when that sample is rendered. -/
def prefetch (d : Dev) (reed i : Nat) (b : Burst) : Dev :=
  match d.rda.voices.lookup reed with
  | none => d
  | some v =>
    let ty := u8 v.patch (oscBase i)
    if !v.started || v.elided || (ty ≠ 5 && ty ≠ 6) || 3 ≤ i then d
    else
      let m : WaveMem := ⟨d.bnk.mem, d.bnk.poison, d.reedMay⟩
      match b with
      | .granted => d
      | .retried => d
      | .missed => d.missWindow reed i
      | .uncorrectable =>
        let con : Nat → Rat := fun i => v.mtx.getD i 0
        let inp := v.oscIn d.fs m (d.partView v.part.toNat (whole d.brt.pos)) con v.osc i
        let o := v.oscAt i
        let src := u32 v.patch (oscBase i + 0x10)
        let pts : List Nat := if ty = 5 then
            ((m.wavetable src).map (fun h => (tablePoints h (hzOf inp.pitch) d.fs inp.frame (cyc o.phase + inp.off)).1)).getD []
          else ((m.sample src).map (fun h => ((h.window o).filterMap (fun f => f)).map h.addr)).getD []
        let a := pts.headD bankEnd
        if a < bankEnd then (d.eccDouble (a / 8)).missWindow reed i else d

def execReedPrefetch (reed : BitVec 12) (osc : BitVec 2) (burst : Burst) (s : State) : Out :=
  onDev (fun d => prefetch d reed.toNat osc.toNat burst) s

end Sys2Proof.Machine
end

