-- ==== Sys2Proof/Machine/Alloc.lean ====
section
/-!
DEFINITION. The voice allocator (chapter 06) without the spill exchange: Part records, availability and reserves, lane
packing and lane power, stealing, note ids, and what each released event word does.
-/
namespace Sys2Proof.Machine

/-! ### Part records (R206, R208) -/

/-- A field of a Part's record in force: byte offset and width. -/
def Dev.partField (d : Dev) (p o n : Nat) : Nat := (d.partWord p (o / 4)).toNat / 2 ^ (o % 4 * 8) % 2 ^ (8 * n)

def Dev.pFlags (d : Dev) (p : Nat) : Nat := d.partField p 0 1
def Dev.pVoicing (d : Dev) (p : Nat) : Nat := bitsOf (d.pFlags p) 3 2
def Dev.pMute (d : Dev) (p : Nat) : Bool := bit (d.pFlags p) 1
def Dev.pSustain (d : Dev) (p : Nat) : Bool := bit (d.pFlags p) 4
def Dev.pPatch (d : Dev) (p : Nat) : Nat := d.partField p 4 2
def Dev.pLimit (d : Dev) (p : Nat) : Nat := d.partField p 6 2
def Dev.pReserve (d : Dev) (p : Nat) : Nat := d.partField p 8 2
def Dev.pPrio (d : Dev) (p : Nat) : Nat := d.partField p 10 1
def Dev.pCrit (d : Dev) (p i : Nat) : Nat := d.partField p (12 + i) 1
def Dev.pRamp (d : Dev) (p : Nat) : Nat := d.partField p 16 2
def Dev.pSpillPol (d : Dev) (p : Nat) : Nat := d.partField p 18 1
def Dev.pSpillOut (d : Dev) (p : Nat) : Nat := d.partField p 19 1
def Dev.pPeers (d : Dev) (p : Nat) : Nat := d.partField p 20 2
def Dev.pSpillMax (d : Dev) (p : Nat) : Nat := d.partField p 22 2

/-- Does the record hold no reserved value and nothing outside its range (R208)? -/
def Dev.partOk (d : Dev) (p : Nat) : Bool :=
  d.pVoicing p ≠ 3 && d.partField p 2 1 ≤ 16 && d.partField p 3 1 ≤ 16 && d.pPatch p ≤ 1023 && d.pLimit p ≤ 4096
    && d.pReserve p ≤ 4096 && d.pPrio p ≤ 7 && (List.range 4).all (fun i => d.pCrit p i ≤ 5)
    && 16 ≤ d.pRamp p && d.pRamp p ≤ 512 && d.pSpillPol p ≤ 2 && d.pSpillOut p ≤ 1 && d.pSpillMax p ≤ 1024

/-- Is a Part used: its USED flag set and its record sound? -/
def Dev.partUsed (d : Dev) (p : Nat) : Bool := bit (d.pFlags p) 0 && d.partOk p

/-- A Part that claims to be used with an unsound record sets PARTERR. -/
def Dev.partErr (d : Dev) (p : Nat) : Dev := d.sIf (bit (d.pFlags p) 0 && !d.partOk p) VAL_STAT.PARTERR 1

/-- Replace a field of a Part's record, in force and in its register. -/
def Dev.setPart (d : Dev) (p o hi lo v : Nat) : Dev :=
  let k := p * 8 + o / 4
  let w := putBits (sget 0 k d.val.part) hi lo v
  (({ d with val := { d.val with part := sput 0 k w d.val.part } }.setReg (VAL_PART.off k)
    (putBits (d.reg (VAL_PART.off k)) hi lo v))).partErr p

/-- Staged Part record writes enter at a block start, unless HOLD holds them (R208). -/
def Dev.partsBlockStart (d : Dev) : Dev :=
  if d.on VAL_CTL.HOLD then d
  else
    let pend := d.val.partPend
    let part := pend.foldl (fun m e => sput 0 e.1 e.2 m) d.val.part
    let d := { d with val := { d.val with part := part, partPend := [] } }
    pend.foldl (fun (d : Dev) e => d.partErr (e.1 / 8)) d

/-! ### Lanes (R149, R214 to R216, R725) -/

def Dev.perLane (d : Dev) : Nat := 128 / 2 ^ d.rateClass
def Dev.lanePowered (d : Dev) (l : Nat) : Bool := bit (d.g RDA_LANEPWR) l
def Dev.setLane (d : Dev) (l : Nat) (on : Bool) : Dev := d.setFlag RDA_LANEPWR l on
def Dev.laneBusy (d : Dev) (l : Nat) : Nat := (d.rda.voices.filter (fun e => e.1 / 128 = l)).length
/-- May lane packing use a lane: ENABLED and not under its built-in test (R201, R725)? -/
def Dev.placeable (d : Dev) (l : Nat) : Bool := d.est kLane l = ENABLED && !d.testing kLane l

/-- Free existing Reeds, of all lanes or of the powered ones. -/
def Dev.freeReeds (d : Dev) (powered : Bool) : Nat :=
  (List.range 32).foldl (fun n l =>
    if d.placeable l && (!powered || d.lanePowered l) then n + (d.perLane - d.laneBusy l) else n) 0

/-- Lowest-numbered free existing Reed of a lane. -/
def Dev.freeIn (d : Dev) (l : Nat) : Option Nat :=
  ((List.range d.perLane).map (· + 128 * l)).find? (fun n => (d.rda.voices.lookup n).isNone)

/-- The Reed that lane packing chooses, and whether its lane must be powered (R214). -/
def Dev.packReed (d : Dev) : Option (Nat × Bool) :=
  match (List.range 32).findSome? (fun l => if d.placeable l && d.lanePowered l then d.freeIn l else none) with
  | some n => some (n, false)
  | none =>
    ((List.range 32).findSome? (fun l => if d.placeable l && !d.lanePowered l then d.freeIn l else none)).map (·, true)

/-- Show RDA_CAP and RDA_LANERET: existing Reeds less those of retired lanes (R725). -/
def Dev.showLanes (d : Dev) : Dev :=
  let ret := (List.range 32).filter (fun l => d.est kLane l = RETIRED)
  (d.s RDA_CAP ((32 - ret.length) * d.perLane)).s RDA_LANERET (ret.foldl (fun a l => a + 2 ^ l) 0)

/-- Headroom H of R216. -/
def Dev.headroom (d : Dev) : Nat :=
  let mf := d.g VAL_LANE.MINFREE
  if d.val.predict.length < 64 then mf
  else
    let most := d.val.predict.foldl (fun a b => max a (d.val.predict.filter (· = b)).length) 0
    min 4095 (max mf (2 * most))

/-- Book a NOTE_ON allocated in the current block (R216). -/
def Dev.bookNote (d : Dev) : Dev :=
  let d := { d with val := { d.val with predict := (d.blkNum :: d.val.predict).take 64 } }
  (d.s VAL_PREDICT.NSEEN d.val.predict.length).s VAL_PREDICT.HEADROOM d.headroom

/-- Power lanes in ascending order until H free Reeds are powered (R216). -/
def Dev.wakeLanes (d : Dev) : List Nat → Dev
  | [] => d
  | l :: rest =>
    if d.headroom ≤ d.freeReeds true then d
    else if d.placeable l && !d.lanePowered l then ((d.setLane l true).cnt VAL_LANEWAKE).wakeLanes rest
    else d.wakeLanes rest

/-! ### Moving a lane's voices (R201, R240, R725) -/

/-- A voice left without a Reed fades as a stolen victim. -/
def Dev.toGhost (d : Dev) (reed : Nat) (v : Voice) (at_ : Pos) : Dev :=
  { d with rda := { d.rda with
      voices := d.rda.voices.filter (fun e => e.1 ≠ reed)
      ghosts := d.rda.ghosts ++ [⟨v, reed, at_, d.pRamp v.part.toNat, false⟩] } }

/-- Move every voice of a lane: ascending PRIO of their Parts, then ascending Reed number. -/
def Dev.moveLane (d : Dev) (l : Nat) : Dev :=
  let mine := d.rda.voices.filter (fun e => e.1 / 128 = l)
  let ord := mine.foldl (fun acc e => insertBy (fun a b =>
    d.pPrio a.2.part.toNat < d.pPrio b.2.part.toNat || (d.pPrio a.2.part.toNat = d.pPrio b.2.part.toNat && a.1 < b.1)) e acc) []
  ord.foldl (fun (d : Dev) e =>
    let free := (List.range 32).filter (· ≠ l)
    let pick := match free.findSome? (fun q => if d.placeable q && d.lanePowered q then d.freeIn q else none) with
      | some n => some (n, false)
      | none => (free.findSome? (fun q => if d.placeable q && !d.lanePowered q then d.freeIn q else none)).map (·, true)
    match pick with
    | some (n, wake) =>
      let d := if wake then d.setLane (n / 128) true else d
      { d with rda := { d.rda with voices := d.rda.voices.map (fun x => if x.1 = e.1 then (n, x.2) else x) } }
    | none => (d.toGhost e.1 e.2 d.brt.pos).cnt VAL_DISPLACED) d

/-- A lane parity error: its voices move with their full state, and the lane's built-in test runs (R201). -/
def Dev.laneParity (d : Dev) (l : Nat) : Dev := (d.moveLane l).startTest kLane l 0

/-- The lanes' work at a block start: voices of a DISABLED or RETIRED lane move, empty lanes are gated after IDLE blocks,
the first MINON usable lanes stay powered, and the predictor wakes lanes. -/
def Dev.lanesBlockStart (d : Dev) : Dev :=
  let d := (List.range 32).foldl (fun (d : Dev) l =>
    if DISABLED ≤ d.est kLane l && d.laneBusy l ≠ 0 then d.moveLane l else d) d
  let keep := ((List.range 32).filter (fun l => d.est kLane l = ENABLED)).take (d.g VAL_LANE.MINON)
  let d := (List.range 32).foldl (fun (d : Dev) l =>
    let n := if d.laneBusy l = 0 then sget 0 l d.val.laneEmpty + 1 else 0
    let d := { d with val := { d.val with laneEmpty := sput 0 l n d.val.laneEmpty } }
    if l ∈ keep then d.setLane l true
    else if d.est kLane l ≠ ENABLED && d.laneBusy l = 0 then d.setLane l false
    else if d.lanePowered l && d.g VAL_LANE.IDLE ≤ n && d.headroom ≤ d.freeReeds true - d.perLane then d.setLane l false
    else d) d
  (d.wakeLanes (List.range 32)).showLanes

/-! ### Availability, stealing (R210, R211, R217, R218) -/

/-- Local voices of a Part. -/
def Dev.local_ (d : Dev) (p : Nat) : Nat := (d.rda.voices.filter (fun e => e.2.part.toNat = p)).length

/-- Used Parts by ascending PRIO, then number, with their honoured reserves (R211). -/
def Dev.reserves (d : Dev) : List (Nat × Nat) :=
  let used := (List.range 64).filter d.partUsed
  let ord := used.foldl (fun acc p => insertBy (fun a b => d.pPrio a < d.pPrio b || (d.pPrio a = d.pPrio b && a < b)) p acc) []
  (ord.foldl (fun (a : Nat × List (Nat × Nat)) p =>
    let r := min (d.pReserve p) (d.g RDA_CAP - a.1)
    (a.1 + r, a.2 ++ [(p, r)])) (0, [])).2

/-- Do the reserves exceed the capacity (VAL_STAT.RSVCUT)? -/
def Dev.showRsvcut (d : Dev) : Dev :=
  let sum := ((List.range 64).filter d.partUsed).foldl (fun a p => a + d.pReserve p) 0
  d.s VAL_STAT.RSVCUT (b2n (d.g RDA_CAP < sum))

/-- May Part `p` take one more free Reed (R211)? `pending` counts notes kept local and not yet released (R223). -/
def Dev.available (d : Dev) (p pending : Nat) : Bool :=
  let u := d.reserves.foldl (fun a e => if e.1 = p then a else a + (e.2 - d.local_ e.1)) 0
  u + 1 + pending ≤ d.freeReeds false

/-- A voice's key under a stealing criterion, smaller is better (R218). -/
def Dev.critKey (d : Dev) (p nid : Nat) (crit : Nat) (e : Nat × Voice) : Int :=
  let v := e.2
  match crit with
  | 1 => if v.released then (v.relPos.toNat : Int) else 2 ^ 64
  | 2 => v.peakLevel.toInt / 256
  | 3 => (v.startPos.toNat : Int)
  | 4 => -(d.pPrio v.part.toNat : Int)
  | 5 => if v.part.toNat = p && v.nid.toNat / 512 = nid / 512 then 0 else 1
  | _ => 0

/-- The candidates with the best key. -/
def Dev.narrow (d : Dev) (p nid crit : Nat) (l : List (Nat × Voice)) : List (Nat × Voice) :=
  l.filter (fun e => l.all (fun f => d.critKey p nid crit e ≤ d.critKey p nid crit f))

/-- The victim for a new note of Part `p` (R217, R218). -/
def Dev.victim (d : Dev) (p nid prio : Nat) : Option (Nat × Voice) :=
  let others := d.local_ p < d.pLimit p
  let cand := d.rda.voices.filter (fun e =>
    d.placeable (e.1 / 128) &&
    (e.2.part.toNat = p || (others && prio ≤ d.pPrio e.2.part.toNat
      && d.pReserve e.2.part.toNat < d.local_ e.2.part.toNat)))
  let best := (List.range 4).foldl (fun l i => if d.pCrit p i = 0 then l else d.narrow p nid (d.pCrit p i) l) cand
  firstBy (fun a b => a.1 < b.1) best

/-! ### Where an event acts -/

/-- Position at which a released word acts on the Reed: its whole sample and fraction, or the sample it was deferred to
(R101, R139). -/
def Pend.pos (p : Pend) : Pos :=
  if p.notBefore ≠ 0 then posOf p.notBefore else posOf (whole p.at_) + p.frac.zeroExtend 64

/-- Put an event on a voice's list. -/
def Voice.post (v : Voice) (at_ : Pos) (k : VEvKind) : Voice := { v with evs := v.evs ++ [⟨at_, k⟩] }

/-- Change every voice, ghosts included, that a test picks. -/
def Dev.mapVoices (d : Dev) (p : Voice → Bool) (f : Voice → Voice) : Dev :=
  { d with rda := { d.rda with
      voices := d.rda.voices.map (fun e => if p e.2 then (e.1, f e.2) else e)
      ghosts := d.rda.ghosts.map (fun g => if p g.voice then { g with voice := f g.voice } else g) } }

def Dev.anyVoice (d : Dev) (p : Voice → Bool) : Bool :=
  d.rda.voices.any (fun e => p e.2) || d.rda.ghosts.any (fun g => p g.voice)

/-- Enter the release stage (R176). -/
def Voice.release (v : Voice) (at_ : Pos) (vel : Nat) : Voice :=
  { v with released := true, sustained := false, relPos := at_ }.post at_ (.rel (BitVec.ofNat 16 vel))

/-- Do a word's and a voice's note ids match: on the host Part while HOSTEN is 1 only equal ids do (R222). -/
def Dev.matches (d : Dev) (part nid : Nat) (v : Voice) : Bool :=
  v.part.toNat = part &&
    (if d.on VAL_CTL.HOSTEN && part = d.g VAL_SPILL.HOSTPART then nid = v.nid.toNat else nidMatch nid v.nid.toNat)

/-- The note pitch of VALB, in semitones (R122). -/
def pitchOf (valb : Nat) : Rat := (valb : Rat) / 512

/-! ### Starting and continuing voices (R178, R210, R212, R219) -/

/-- Bind a new voice to a Reed: its random value is free, its alternate value the Part's next (R182). -/
def Dev.bindVoice (d : Dev) (reed : Nat) (v : Voice) : Dev :=
  let p := v.part.toNat
  let v := { v with random := ((d.draw 16).toNat : Rat) / 65535, alt := d.rda.alt.contains p }
  let d := d.drawn
  { d with rda := { d.rda with
      voices := d.rda.voices ++ [(reed, v)]
      alt := if d.rda.alt.contains p then d.rda.alt.filter (· ≠ p) else p :: d.rda.alt } }

/-- Allocate a voice for Part `p`: a free Reed, a stolen one, or a refusal (R210 steps 3 to 5). -/
def Dev.allocate (d : Dev) (p prio : Nat) (v : Voice) (at_ : Pos) : Dev :=
  let pick := if d.local_ p < d.pLimit p && d.available p 0 then d.packReed else none
  match pick with
  | some (n, wake) => ((if wake then d.setLane (n / 128) true else d).bindVoice n v).bookNote
  | none =>
    match d.victim p v.nid.toNat prio with
    | some (n, old) => (((d.toGhost n old at_).cnt VAL_STEALS).bindVoice n v).bookNote
    | none => d.cnt VAL_REFUSED

/-- The Part's sounding voice in mono and legato mono voicing: the one not released that started last. -/
def Dev.sounding (d : Dev) (p : Nat) : Option (Nat × Voice) :=
  firstBy (fun a b => later a.2.startPos b.2.startPos) (d.rda.voices.filter (fun e => e.2.part.toNat = p && !e.2.released))

/-- Continue a voice at a new note (R178, R185). -/
def Dev.continue_ (d : Dev) (reed p nid valb vel : Nat) (at_ : Pos) : Dev :=
  let k := VEvKind.cont (BitVec.ofNat 16 nid) (pitchOf valb) (BitVec.ofNat 16 vel) (d.pVoicing p = 2)
  { d with rda := { d.rda with voices := d.rda.voices.map (fun e =>
      if e.1 = reed then (e.1, { e.2 with nid := BitVec.ofNat 16 nid, sustained := false }.post at_ k) else e) } }

/-- Push a held note on a Part's stack of 16 (R212). -/
def Dev.pushHeld (d : Dev) (p nid valb vel : Nat) : Dev :=
  let l := (sget [] p d.val.held).filter (fun e => e.1.toNat ≠ nid)
  let l := ((BitVec.ofNat 16 nid, BitVec.ofNat 16 valb, BitVec.ofNat 16 vel) :: l).take 16
  { d with val := { d.val with held := sput [] p l d.val.held } }

/-- Is a Part's patch loaded? If not the note starts no voice and is counted (R190). -/
def Dev.patchLoaded (d : Dev) (p : Nat) : Bool := d.flag RDA_PVALID (d.pPatch p)

/-- A word for an unused Part is discarded at execution (R123); a MARK is for no Part, and an ALL_OFF is never discarded
(R138). -/
def Dev.argOk (d : Dev) (w : Roari) : Bool := d.partUsed w.part || w.op = opALL_OFF || w.op = opMARK

/-- Does a released word on the host Part name a lease that a peer holds (R229)? Set by the spill chapter's check. -/
def Dev.hostWord (d : Dev) (w : Roari) : Bool := d.on VAL_CTL.HOSTEN && w.part = d.g VAL_SPILL.HOSTPART

/-- NOTE_ON (R210). In SAFE every note is refused and counted (R679). -/
def Dev.noteOn (d : Dev) (x : Pend) : Dev :=
  let w := x.word
  let p := w.part
  if d.mode = mSAFE then d.cnt VAL_REFUSED
  else if d.pMute p || x.spilled then d
  else
    let v := Voice.new (BitVec.ofNat 6 p) (BitVec.ofNat 10 (d.pPatch p)) (BitVec.ofNat 16 w.nid) (BitVec.ofNat 16 w.vala)
      (pitchOf w.valb) x.pos
    if d.pVoicing p ≠ 0 then
      let d := d.pushHeld p w.nid w.valb w.vala
      match d.sounding p with
      | some (n, _) => d.continue_ n p w.nid w.valb w.vala x.pos
      | none => if d.patchLoaded p then d.allocate p x.prio v x.pos else d.cnt RDA_NOPATCH
    else if d.patchLoaded p then d.allocate p x.prio v x.pos
    else d.cnt RDA_NOPATCH

/-- NOTE_OFF (R212, R213, R222). -/
def Dev.noteOff (d : Dev) (x : Pend) : Dev :=
  let w := x.word
  let p := w.part
  let hit : Voice → Bool := fun v => d.matches p w.nid v && !v.released && !v.sustained
  let stack := sget [] p d.val.held
  let rest := stack.filter (fun e => !nidMatch w.nid e.1.toNat)
  let wasHeld : Bool := rest.length < stack.length
  let found := d.anyVoice (d.matches p w.nid) || wasHeld || x.spilled
  let e := { d with val := { d.val with held := sput [] p rest d.val.held } }
  let e := if found then e else e.cnt VAL_ORPHAN
  let mono := d.pVoicing p ≠ 0
  match (if mono then d.sounding p else none), rest with
  | some (n, v), (nid, valb, vel) :: _ =>
    if hit v then e.continue_ n p nid.toNat valb.toNat vel.toNat x.pos
    else e.mapVoices hit (fun v => v.release x.pos w.vala)
  | _, _ =>
    let hold : Bool := d.pSustain p && 0x8000 ≤ (sget 0 (p * 65536 + 64) d.val.ctl).toNat
    if hold then e.mapVoices hit (fun v => { v with sustained := true })
    else e.mapVoices hit (fun v => v.release x.pos w.vala)

/-- A word on every matching voice, released ones and ghosts included, except detached ones (R184, R222). -/
def Dev.onNote (d : Dev) (x : Pend) (f : Voice → Voice) : Dev :=
  let w := x.word
  let d := if d.anyVoice (d.matches w.part w.nid) || x.spilled then d else d.cnt VAL_ORPHAN
  d.mapVoices (fun v => d.matches w.part w.nid v && !v.detached) f

/-- POLY_PRESS (R123). -/
def Dev.polyPress (d : Dev) (x : Pend) : Dev :=
  d.onNote x (fun v => v.post x.pos (.press (BitVec.ofNat 32 x.word.val32)))

/-- PER_NOTE by kind (R184). -/
def Dev.perNote (d : Dev) (x : Pend) : Dev :=
  let w := x.word
  let i := w.valb % 256
  d.onNote x (fun v =>
    match w.valb / 16384 with
    | 0 => if i = 3 then v.post x.pos (.pnPitch (pitchOf w.vala)) else v
    | 1 => v.post x.pos (.pnCtl i (BitVec.ofNat 16 w.vala))
    | 2 => v.post x.pos (.pnBend (BitVec.ofNat 16 w.vala))
    | _ =>
      let v := if bit i 1 then v.post x.pos .pnReset else v
      { v with detached := v.detached || bit i 0 })

/-- Record a Part controller or bend (R151, R822). -/
def Dev.partChange (d : Dev) (p : Nat) (key : Option Nat) (v : BitVec 32) (at_ : Pos) : Dev :=
  let val := match key with
    | some n => { d.val with ctl := sput 0 (p * 65536 + n) v d.val.ctl }
    | none => { d.val with bend := sput 0x80000000 p v d.val.bend }
  { d with val := val, rda := { d.rda with partEvs := d.rda.partEvs ++ [⟨at_, p, key, v⟩] } }

/-- CONTROL: a controller, RPN, NRPN or channel pressure; the sustain pedal lifted releases sustained voices (R123, R213). -/
def Dev.control (d : Dev) (x : Pend) : Dev :=
  let w := x.word
  let key := if w.valb / 16384 = 3 then 49152 else w.valb
  let old := (sget 0 (w.part * 65536 + 64) d.val.ctl).toNat
  let d := d.partChange w.part (some key) (BitVec.ofNat 32 w.vala) x.pos
  if key = 64 && 0x8000 ≤ old && w.vala < 0x8000 then
    d.mapVoices (fun v => v.part.toNat = w.part && v.sustained) (fun v => v.release x.pos 0)
  else d

/-- PROGRAM: a patch that is not loaded discards the word (R123, R209). -/
def Dev.program (d : Dev) (x : Pend) : Dev :=
  let n := x.word.vala
  if n ≤ 1023 && d.flag RDA_PVALID n then d.setPart x.word.part 4 15 0 n else d.cnt EVS_BADARG

/-- PART_MODE by parameter id (R123, R209). -/
def Dev.partMode (d : Dev) (x : Pend) : Dev :=
  let (p, a) := (x.word.part, x.word.vala)
  match x.word.valb with
  | 0 => d.setPart p 0 3 2 a
  | 1 => d.setPart p 4 31 16 a
  | 2 => d.setPart p 8 15 0 a
  | 3 => d.setPart p 8 23 16 a
  | 4 => d.setPart p 0 1 1 a
  | _ => d.cnt EVS_BADARG

/-- Does an ALL_OFF address a voice or word of a Part and note id (R124)? -/
def offHits (w : Roari) (part nid : Nat) : Bool := if w.nid = 0 then w.allp || part = w.part else part = w.part && nid = w.nid

/-- Does FLUSH discard a pending word (R124)? No ALL_OFF, and no MARK, which is no Part's event; with a note id only words
whose NID field is a note id (R123). -/
def flushHits (w q : Roari) : Bool :=
  q.op ≠ opALL_OFF && q.op ≠ opMARK && offHits w q.part q.nid &&
    (w.nid = 0 || q.op = opNOTE_ON || q.op = opNOTE_OFF || q.op = opPOLY_PRESS || q.op = opPER_NOTE || q.op = opSPILL_NOTE)

/-- ALL_OFF (R124, R144): release or cut, and FLUSH discards the pending words addressed. -/
def Dev.allOff (d : Dev) (x : Pend) : Dev :=
  let w := x.word
  let hit : Voice → Bool := fun v => offHits w v.part.toNat v.nid.toNat
  let cutOff : Voice → Voice := fun v =>
    let at_ := if v.released then v.relPos else x.pos
    { v with released := true, sustained := false, relPos := at_ }.post x.pos .cut
  let d := if w.cut then d.mapVoices hit cutOff
    else d.mapVoices (fun v => hit v && !v.released) (fun v => v.release x.pos 0)
  let held := d.val.held.filterMap (fun e =>
    let l := e.2.filter (fun h => !offHits w e.1 h.1.toNat)
    if l.isEmpty then none else some (e.1, l))
  let d := { d with val := { d.val with held := held } }
  if w.flush then
    let gone : Pend → Bool := fun q => flushHits w q.word
    let n := (d.evs.store.filter gone).length
    ({ d with evs := { d.evs with store := d.evs.store.filter (fun q => !gone q) } }.cnt EVS_FLUSHED 0 n).showEvs
  else d

/-- MARK: latch the position and the values, and raise EVS_MARK (R123). -/
def Dev.mark (d : Dev) (x : Pend) : Dev :=
  let n := x.at_.toNat
  let d := (d.s EVS_MARKPOS_L (n % 2 ^ 32)).s EVS_MARKPOS_H (n / 2 ^ 32)
  ((d.s EVS_MARKVAL.VALA x.word.vala).s EVS_MARKVAL.VALB x.word.valb).raise nEVS 1 0

end Sys2Proof.Machine
end

