-- ==== Sys2Proof/Machine/Mac.lean ====
section
/-!
DEFINITION. The frame ports (chapter 11): link state, frame reception, the address filter, classes and delivery, the
foreign-frame ring, transmission, low-power idle, the LLDP agent, the link error counter and quarantine.
-/
namespace Sys2Proof.Machine

/-! ### Addresses and modes (R407, R430, R449) -/

def Dev.macAddr (d : Dev) (n : Nat) : List Byte := leBytes 4 (d.g MAC_ADDR_L n) ++ leBytes 2 (d.g MAC_ADDR_H n)
def Dev.fabMc (d : Dev) (n : Nat) : List Byte := leBytes 4 (d.g MAC_FABMC_L n) ++ leBytes 2 (d.g MAC_FABMC_H n)
def lldpAddr : List Byte := [0x01, 0x80, 0xC2, 0x00, 0x00, 0x0E]
def broadcastAddr : List Byte := List.replicate 6 0xFF

/-- TWMIN and TWMAX of a mode in microseconds (R430). -/
def twOf : Nat → Nat × Nat
  | 2 => (8, 24)
  | 3 => (6, 20)
  | 4 => (4, 16)
  | _ => (0, 0)

def Dev.macMode (d : Dev) (n : Nat) : Nat := d.g MAC_CTL.MODE n

/-- The current transmit wait (R431). -/
def Dev.twTx (d : Dev) (n : Nat) : Nat :=
  let (lo, hi) := twOf (d.macMode n)
  match (d.port n).nbr.bind (·.eee) with
  | some (_, rx) => if lo = 0 then 0 else max lo rx.toNat
  | none => hi

/-- Show the fields that follow the mode and the neighbour record: TWMAX, TWTX, EEEOK and MACn_LLDP. -/
def Dev.showMac (d : Dev) (n : Nat) : Dev :=
  let eee := (d.port n).nbr.bind (·.eee)
  let d := (d.s MAC_EEE.TWMAX (twOf (d.macMode n)).2 n).s MAC_EEE.TWTX (min 255 (d.twTx n)) n
  let d := d.s MAC_STAT.EEEOK (b2n (eee.isSome && (twOf (d.macMode n)).2 ≠ 0)) n
  match (d.port n).nbr with
  | some r => ((d.s MAC_LLDP.VALID 1 n).s MAC_LLDP.TTL (min 32767 r.ttl) n).s MAC_LLDP.PRX ((r.eee.map (·.2.toNat)).getD 0) n
  | none => ((d.s MAC_LLDP.VALID 0 n).s MAC_LLDP.TTL 0 n).s MAC_LLDP.PRX 0 n

/-- Does the port carry frames: a mode, link up, not DISABLED or RETIRED? -/
def Dev.portUp (d : Dev) (n : Nat) : Bool := d.macMode n ≠ 0 && d.on MAC_STAT.LINK n && d.est kPort n ≤ DRAINING

/-! ### Transmission (R422 to R426) -/

/-- The bytes of a frame on the line, without the FCS: tag, stamp, encryption and padding. -/
def Dev.lineBytes (d : Dev) (n : Nat) (f : TxFrame) : List Byte :=
  let hdr := if f.timed then overlay f.hdr 0x10 (leBytes 8 d.brt.pos.toNat) else f.hdr
  let pcp := bitsOf (d.reg (MAC_TAG.VID.off n)).toNat (18 + 3 * f.tc.toNat) (16 + 3 * f.tc.toNat)
  let tag := if d.on MAC_TAG.TAGEN n && f.kind ≠ .lldp then beBytes 2 0x8100 ++ beBytes 2 (pcp * 8192 + d.g MAC_TAG.VID n) else []
  let body := match f.key with
    | some k =>
      let iv := slice f.hdr 4 2 ++ slice f.pre 0 6 ++ List.replicate 4 0
      Config.gcmSeal k iv (hdr ++ f.pre) f.body
    | none => f.body
  let l := f.dst ++ d.macAddr n ++ tag ++ beBytes 2 f.ety.toNat ++ hdr ++ f.pre ++ body
  l ++ List.replicate (60 - l.length) 0

/-- Put a frame on the line. -/
def Dev.sendFrame (d : Dev) (n : Nat) (f : TxFrame) : Dev :=
  let l := d.lineBytes n f
  (d.setPort n { d.port n with line := some (l, d.brt.pos) }).cnt MAC_TXOK n

/-- Queue a frame on a port. -/
def Dev.enqueue (d : Dev) (n : Nat) (f : TxFrame) : Dev :=
  d.setPort n { d.port n with tx := (d.port n).tx ++ [f] }

/-- Queue a copy of a beacon or panic frame on every port that R424 names. -/
def Dev.enqueueAll (d : Dev) (f : Nat → TxFrame) : Dev :=
  (List.range 4).foldl (fun d n => if d.portUp n then d.enqueue n (f n) else d) d

/-- The head of the lowest-numbered non-empty class that the port may send (R423, R437). -/
def Dev.txHead (d : Dev) (n : Nat) : Option TxFrame :=
  let l := (d.port n).tx
  let tcs : List Nat := if d.est kPort n = ENABLED then [0, 1, 2, 3] else [0]
  tcs.findSome? (fun t => l.find? (fun f => f.tc.toNat = t))

/-- Send the head frame. A port under self-test or in low-power idle starts none. -/
def transmit (d : Dev) (n : Nat) : Dev :=
  if !d.portUp n || (d.port n).testing ≠ 0 || d.on MAC_STAT.LPITX n then d
  else match d.txHead n with
    | some f => (d.setPort n { d.port n with tx := (d.port n).tx.erase f }).sendFrame n f
    | none => d

def execFrameTransmit (port : BitVec 2) (s : State) : Out := onDev (fun d => transmit d port.toNat) s

/-- Discard the queued frames that a test picks, counting each (R409, R436). -/
def Dev.txDiscard (d : Dev) (n : Nat) (p : TxFrame → Bool) : Dev :=
  let k := ((d.port n).tx.filter p).length
  (d.setPort n { d.port n with tx := (d.port n).tx.filter (fun f => !p f) }).cnt MAC_TXDISC n k

/-! ### Low-power idle (R429, R431) -/

def lpiEntry (d : Dev) (n : Nat) : Dev :=
  let partner := ((d.port n).nbr.bind (·.eee)).map (·.2.toNat)
  if d.portUp n && d.on MAC_CTL.EEEEN n && 2 ≤ d.macMode n && (d.port n).tx.isEmpty && !d.on MAC_STAT.LPITX n
      && (d.port n).testing = 0 && partner.getD 0 ≤ 255 then
    (d.s MAC_STAT.LPITX 1 n).cnt MAC_LPIENT n
  else d

def execLpiEntry (port : BitVec 2) (s : State) : Out := onDev (fun d => lpiEntry d port.toNat) s

/-- A queued frame wakes the transmitter, which starts the frame after TWTX. -/
def execLpiExit (port : BitVec 2) (s : State) : Out :=
  onDev (fun d =>
    if d.on MAC_STAT.LPITX port.toNat && !(d.port port.toNat).tx.isEmpty then
      transmit (d.s MAC_STAT.LPITX 0 port.toNat) port.toNat
    else d) s

/-- The receiver follows the partner's low-power idle in modes 2 to 4. -/
def execPartnerLowPowerIdle (port : BitVec 2) (enter : Bool) (s : State) : Out :=
  onDev (fun d => if d.portUp port.toNat && 2 ≤ d.macMode port.toNat then d.s MAC_STAT.LPIRX (b2n enter) port.toNat else d) s

/-! ### Link error counter and quarantine (R434 to R436, R445) -/

def lecLevel (v : Nat) : Nat := if v < 256 then 0 else if v < 640 then 1 else if v < 1000 then 2 else 3

/-- Steps 1 to 5 of R436, and the start of the port self-test; `why` 1 QUARANTINE, 2 a burst. -/
def Dev.quarantine (d : Dev) (n why : Nat) : Dev :=
  if (d.port n).testing ≠ 0 then d
  else
    let d := ((d.logicDst kPort n DRAINING).cnt MAC_QUAR n).raise nMAC 7 n
    let d := match (d.port n).tx.find? (fun f => f.tc = 0) with
      | some f => if d.on MAC_STAT.LINK n then
          ((d.setPort n { d.port n with tx := (d.port n).tx.erase f }).s MAC_STAT.LPITX 0 n).sendFrame n f else d
      | none => d
    let d := d.txDiscard n (fun f => f.tc ≠ 0)
    let keep := (d.port n).tx.filter (fun f => f.kind ≠ .beacon && f.kind ≠ .delay)
    let d := (d.setPort n { d.port n with tx := keep, testing := why }).s MAC_STAT.TEST 1 n
    d.startTest kPort n 0

/-- Set the counter and act on the levels it rises into (R435). -/
def Dev.setLec (d : Dev) (n v : Nat) : Dev :=
  let old := d.g MAC_STAT.LECLVL n
  let new := lecLevel v
  let d := (d.s MAC_LEC.VALUE v n).s MAC_STAT.LECLVL new n
  let d := if old < 1 ∧ 1 ≤ new then d.raise nMAC 5 n else d
  let d := if old < 2 ∧ 2 ≤ new then d.raise nMAC 6 n else d
  if old < 3 ∧ 3 ≤ new then d.quarantine n 1 else d

def Dev.lecAdd (d : Dev) (n k : Nat) : Dev := d.setLec n (min 1023 (d.g MAC_LEC.VALUE n + k))
def Dev.lecSub (d : Dev) (n : Nat) : Dev := d.setLec n (d.g MAC_LEC.VALUE n - 1)

/-- Record a time and say whether `k` of them, this one included, lie within `ticks`. -/
def burst (l : List (BitVec 64)) (now : BitVec 64) (k ticks : Nat) : List (BitVec 64) × Bool :=
  let l := (now :: l.filter (fun t => (now - t).toNat ≤ ticks)).take k
  (l, l.length = k)

/-- A PCS block error (R434). -/
def execPcsBlockError (port : BitVec 2) (s : State) : Out :=
  onDev (fun d =>
    let n := port.toNat
    if d.macMode n ≠ 0 && d.est kPort n ≤ DRAINING && (d.port n).testing = 0 then (d.cnt MAC_PCSERR n).lecAdd n 4 else d) s

/-- A write of 1 to MACn_LEC.CLR; no effect during the self-test. -/
def Dev.writeLecClr (d : Dev) (n : Nat) : Dev := if (d.port n).testing ≠ 0 then d else d.setLec n 0

/-! ### The LLDP agent (R432, R433) -/

/-- An LLDPDU of a port with a time to live. -/
def Dev.lldpdu (d : Dev) (n ttl : Nat) : List Byte :=
  let tlv : Nat → List Byte → List Byte := fun t v => beBytes 2 (t * 512 + v.length) ++ v
  let echo : Nat × Nat := match (d.port n).nbr.bind (·.eee) with
    | some (tx, rx) => (tx.toNat, rx.toNat)
    | none => (0, 0)
  let lo := (twOf (d.macMode n)).1
  let eee := if 2 ≤ d.macMode n then
      tlv 127 ([0x00, 0x12, 0x0F, 0x05] ++ beBytes 2 (d.twTx n) ++ beBytes 2 lo ++ beBytes 2 lo ++ beBytes 2 echo.1
        ++ beBytes 2 echo.2)
    else []
  tlv 1 (0x04 :: d.macAddr 0) ++ tlv 2 (0x03 :: d.macAddr n) ++ tlv 3 (beBytes 2 ttl) ++ eee ++ [0, 0]

def Dev.lldpFrame (d : Dev) (n ttl : Nat) : TxFrame :=
  { kind := .lldp, tc := 0, dst := lldpAddr, ety := 0x88CC, hdr := d.lldpdu n ttl, pre := [], key := none, body := [],
    timed := false }

/-- The agent sends an LLDPDU; when it is due is a matter of time alone. In IDLE the agent sends nothing (R681). -/
def execLldpTransmit (port : BitVec 2) (s : State) : Out :=
  onDev (fun d => if d.running && d.portUp port.toNat && d.on MAC_CTL.LLDPEN port.toNat then
      d.enqueue port.toNat (d.lldpFrame port.toNat 120)
    else d) s

/-- The TLVs of an LLDPDU up to its End TLV; none when it runs out before one. -/
def tlvs (l : List Byte) : Nat → Option (List (Nat × List Byte))
  | 0 => none
  | fuel + 1 =>
    if l.length < 2 then none
    else
      let h := beNat (l.take 2)
      let n := h % 512
      let t := h / 512
      if l.length < 2 + n then none
      else if t = 0 then (if n = 0 then some [] else none)
      else (tlvs (l.drop (2 + n)) fuel).map ((t, (l.drop 2).take n) :: ·)

/-- Read an LLDPDU: its time to live and its EEE values; none when it is malformed. -/
def readLldp (l : List Byte) : Option (Nat × Option (BitVec 16 × BitVec 16)) :=
  match tlvs l (l.length + 1) with
  | some ((1, _) :: (2, _) :: (3, ttl) :: rest) =>
    if ttl.length < 2 then none
    else
      let e := rest.find? (fun t => t.1 = 127 && 14 ≤ t.2.length && t.2.take 4 = [0x00, 0x12, 0x0F, 0x05])
      some (beNat (ttl.take 2), e.map (fun t =>
        (BitVec.ofNat 16 (beNat (slice t.2 4 2)), BitVec.ofNat 16 (beNat (slice t.2 6 2)))))
  | _ => none

/-- Replace the neighbour record; MAC_LLDP when it appears, changes its EEE values or is dropped. -/
def Dev.setNbr (d : Dev) (n : Nat) (r : Option Nbr) : Dev :=
  let old := (d.port n).nbr
  let d := (d.setPort n { d.port n with nbr := r }).showMac n
  if old.isSome = r.isSome && old.bind (·.eee) = r.bind (·.eee) then d else d.raise nMAC 4 n

/-- The agent takes an LLDPDU. -/
def Dev.takeLldp (d : Dev) (n : Nat) (body : List Byte) : Dev :=
  match readLldp body with
  | none => d.cnt MAC_LLDPERR n
  | some (ttl, eee) => d.setNbr n (if ttl = 0 then none else some ⟨ttl, eee⟩)

def execLldpTtlExpiry (port : BitVec 2) (s : State) : Out :=
  onDev (fun d => if (d.port port.toNat).nbr.isSome then d.setNbr port.toNat none else d) s

/-! ### Link state (R408 to R410) -/

def linkUp (d : Dev) (n : Nat) : Dev :=
  if d.macMode n = 0 || d.on MAC_STAT.LINK n || DISABLED ≤ d.est kPort n then d
  else
    let d := (d.s MAC_STAT.LINK 1 n).raise nMAC 1 n
    if d.on MAC_CTL.LLDPEN n && d.running then d.enqueue n (d.lldpFrame n 120) else d

/-- The link goes down: queued frames are discarded and the neighbour record dropped. -/
def Dev.linkDown (d : Dev) (n : Nat) : Dev :=
  if !d.on MAC_STAT.LINK n then d
  else
    let d := ((((d.s MAC_STAT.LINK 0 n).s MAC_STAT.LPITX 0 n).s MAC_STAT.LPIRX 0 n).raise nMAC 2 n).cnt MAC_LINKDN n
    (d.txDiscard n (fun _ => true)).setNbr n none

def execLinkUp (port : BitVec 2) (s : State) : Out := onDev (fun d => linkUp d port.toNat) s
def execLinkDown (port : BitVec 2) (s : State) : Out := onDev (fun d => d.linkDown port.toNat) s

/-- Negotiation failed: the flag is set, the link stays down, and negotiation restarts (R408). -/
def execAutoNegotiationFail (port : BitVec 2) (s : State) : Out :=
  onDev (fun d => if d.macMode port.toNat = 1 && d.on MAC_CTL.ANEN port.toNat && !d.on MAC_STAT.LINK port.toNat
    then d.s MAC_STAT.ANFAIL 1 port.toNat else d) s

/-- The MODE and polarity bits of a MACn_CTL write take effect: a change takes the link down (R410, R442). -/
def Dev.applyMode (d : Dev) (n : Nat) (v : Word) : Dev :=
  let change : Bool := bitsOf v.toNat 4 2 ≠ d.macMode n || bitsOf v.toNat 10 9 ≠ bitsOf (d.reg (MAC_CTL.MODE.off n)).toNat 10 9
  if !change then d
  else
    let d := if bitsOf v.toNat 4 2 = 0 && d.portUp n && d.on MAC_CTL.LLDPEN n then d.sendFrame n (d.lldpFrame n 0) else d
    let d := d.linkDown n
    let w := putBits (putBits (d.reg (MAC_CTL.MODE.off n)) 4 2 (bitsOf v.toNat 4 2)) 10 9 (bitsOf v.toNat 10 9)
    let d := d.setReg (MAC_CTL.MODE.off n) w
    let d := d.setPort n { d.port n with modePend := none, gated := bitsOf v.toNat 4 2 = 0 || d.est kPort n = RETIRED }
    (d.setNbr n none).showMac n

/-- Effect of a write of MACn_CTL (a reserved MODE has been put back by the register rule). -/
def Dev.writeMacCtl (d : Dev) (n : Nat) (v : Word) : Dev :=
  let d := if d.on MAC_CTL.LLDPEN n && !bit v.toNat 7 && d.portUp n then d.sendFrame n (d.lldpFrame n 0) else d
  let d := d.manage kPort n (v.toNat % 4)
  let d := ((d.s MAC_CTL.ANEN (bitsOf v.toNat 5 5) n).s MAC_CTL.EEEEN (bitsOf v.toNat 6 6) n).s MAC_CTL.LLDPEN
    (bitsOf v.toNat 7 7) n
  let d := d.s MAC_CTL.PROMISC (bitsOf v.toNat 8 8) n
  if (d.port n).testing ≠ 0 then d.setPort n { d.port n with modePend := some v } else d.applyMode n v

/-! ### Reception (R412 to R420, R434, R445, R447) -/

/-- Buffer space that the complete frames hold. -/
def Dev.rxUsed (d : Dev) (n : Nat) : Nat := (d.port n).rx.foldl (fun a f => a + f.len) 0

/-- Does the address filter accept a destination (R417)? -/
def Dev.accepts (d : Dev) (n : Nat) (dst : List Byte) : Bool :=
  dst = d.macAddr n || dst = broadcastAddr || dst = lldpAddr || dst = d.fabMc n || d.on MAC_CTL.PROMISC n

/-- Split a frame after its addresses: tag control information, EtherType and what follows. -/
def splitFrame (l : List Byte) : Option Nat × Nat × List Byte :=
  let e := beNat (slice l 12 2)
  if e = 0x8100 then (some (beNat (slice l 14 2)), beNat (slice l 16 2), l.drop 18) else (none, e, l.drop 14)

/-- A frame lost to a double-bit error of the buffer; eight within 1 s start the self-test (R447). -/
def Dev.rxLost (d : Dev) (n : Nat) : Dev :=
  let (l, b) := burst (d.port n).eccAt d.brt.tbase 8 100000000
  let d := (d.setPort n { d.port n with eccAt := if b then [] else l }).cnt MAC_RXECC n
  if b then d.quarantine n 2 else d

/-- Sort an accepted frame (R418, R420, R421). -/
def Dev.sortFrame (d : Dev) (n : Nat) (kept : List Byte) (ovs : Bool) (len : Nat) : Dev :=
  let (tci, ety, body) := splitFrame kept
  let tagTc : Nat → Nat := fun t => d.g MAC_PCPMAP.MAP n / 4 ^ (t / 8192) % 4
  let put : Nat → Dev := fun tc =>
    d.setPort n { d.port n with rx := (d.port n).rx ++
      [⟨kept, ovs, tci.isSome, BitVec.ofNat 2 tc, BitVec.ofNat 16 ety, d.brt.pos, d.brt.pos, len, body⟩] }
  if ety = 0x8808 then
    let op := beNat (slice body 0 2)
    if op = 1 ∨ op = 0x101 then d.cnt MAC_RXPAUSE n else d
  else if ety = 0x88CC then (if ovs then d else d.takeLldp n body)
  else if ety = d.g BLW_ETYPE then put (match tci with
    | some t => tagTc t
    | none => (fieldAt body 2 1) % 4)
  else put (match tci with
    | some t => tagTc t
    | none => 3)

/-- In IDLE only BEACON and DELAY_RESP packets are taken, and nothing is counted (R681). -/
def Dev.idleKeeps (d : Dev) (f : Frame) : Bool :=
  let (_, ety, body) := splitFrame f.bytes
  ety = d.g BLW_ETYPE && fieldAt body 1 1 = 6 && (fieldAt body 0xF 1 = 0 || fieldAt body 0xF 1 = 2)

/-- A frame arrives from the line. -/
def receive (d : Dev) (n : Nat) (f : Frame) : Dev :=
  let len := f.bytes.length + 4
  let maxf := d.g MAC_MAXFRM n
  if !d.portUp n || (d.port n).testing ≠ 0 || d.mode = mDORMANT then d
  else if d.mode = mIDLE && (!d.idleKeeps f || bit d.pwr.held.toNat n) then d
  else if 32768 < d.rxUsed n + maxf then d.cnt MAC_RXDROP n
  else if len < 64 then d.cnt MAC_RXRUNT n
  else if maxf < len then
    let (d, tail) := if f.fcsOk then (d, leBytes 4 (crc32 f.bytes)) else (d.drawn, leBytes 4 (d.draw 32).toNat)
    let d := d.cnt MAC_RXOVS n
    if d.accepts n (f.bytes.take 6) then
      (if f.lost then d.rxLost n else d.sortFrame n ((f.bytes ++ tail).take maxf) true maxf)
    else d.cnt MAC_RXFILT n
  else if !f.fcsOk then
    let (l, b) := burst (d.port n).crcAt d.brt.tbase 16 100000
    let d := (d.setPort n { d.port n with crcAt := if b then [] else l }).cnt MAC_RXFCS n
    let d := d.lecAdd n 8
    if b then d.quarantine n 2 else d
  else
    let good := (d.port n).good + 1
    let d := (d.setPort n { d.port n with good := good % 1000 }).cnt MAC_RXOK n
    let d := if good = 1000 then d.lecSub n else d
    if !d.accepts n (f.bytes.take 6) then d.cnt MAC_RXFILT n
    else if f.lost then d.rxLost n
    else d.sortFrame n f.bytes false len

def execFrameReceive (port : BitVec 2) (frame : Frame) (s : State) : Out := onDev (fun d => receive d port.toNat frame) s

/-! ### Delivery (R416, R427, R428) -/

/-- Store a foreign frame in the ring, or drop it. -/
def Dev.foreign (d : Dev) (n : Nat) (f : RxFrame) : Dev :=
  let base := d.g MAC_FFQ_BASE n * 64
  let slot := d.g MAC_FFQ_CFG.SLOT n * 64
  let num := d.g MAC_FFQ_CFG.NSLOT n
  let head := d.g MAC_FFQ_HEAD n
  let tail := d.g MAC_FFQ_TAIL n
  let bank := bankOf base
  if slot = 0 || num < 2 || bankEnd ≤ base || bankOf (base + slot * num - 1) ≠ bank || d.g BNK_OWN.OWN bank ≠ oHost
      || slot < 16 + f.bytes.length || (head + 1) % num = tail then d.cnt MAC_FFDROP n
  else
    let data := leBytes 2 f.bytes.length ++ [BitVec.ofNat 8 (b2n f.ovs + 2 * b2n f.tagged), BitVec.ofNat 8 f.tc.toNat]
      ++ List.replicate 4 0 ++ leBytes 8 f.endAt.toNat ++ f.bytes
    let r := d.bnkWrite oHost (base + head * slot) data
    if r.denied then r.dev.cnt MAC_FFDROP n
    else
      let d := r.dev.s MAC_FFQ_HEAD ((head + 1) % num) n
      if head = tail then d.raise nMAC 3 n else d

/-- Deliver the next complete frame: lowest class first, in arrival order within one. -/
def deliver (d : Dev) (n : Nat) : Dev :=
  let l := (d.port n).rx
  match [0, 1, 2, 3].findSome? (fun t => l.find? (fun f => f.tc.toNat = t)) with
  | none => d
  | some f =>
    let d := d.setPort n { d.port n with rx := l.erase f }
    if f.ety.toNat = d.g BLW_ETYPE then
      (if f.ovs then d
       else { d with blw := { d.blw with inbox := d.blw.inbox ++ [⟨n, f.stamp, f.body.take 48, f.body.drop 48⟩] } })
    else d.foreign n f

def execFrameDelivery (port : BitVec 2) (s : State) : Out := onDev (fun d => deliver d port.toNat) s

end Sys2Proof.Machine
end

