-- ==== Sys2Proof/Machine/Messages.lean ====
section
/-!
DEFINITION. Messages of the transport as they begin and end (chapter 12): completion entries and their rings, tags, the end
of a message at the initiator, receive slots and their delivery, records ended at the target, and the flush that a Breath
discontinuity, a disabled queue or a disabled transport makes. Packets are in Machine/Transport.lean.
-/
namespace Sys2Proof.Machine

/-! ### Completion status (chapter 12) -/

def stOK : Nat := 0
def stRETRY : Nat := 1
def stTIMEOUT : Nat := 2
def stRAV : Nat := 3
def stBUSY : Nat := 4
def stINVREQ : Nat := 5
def stNOQ : Nat := 6
def stTOOLONG : Nat := 7
def stBNKERR : Nat := 8
def stLOCALERR : Nat := 9
def stFLUSHED : Nat := 10

/-- Operations (R458). -/
def xWRITE : Nat := 1
def xREAD : Nat := 2
def xSEND : Nat := 3
def xADD : Nat := 4
def xCAS : Nat := 5
def xBEACON : Nat := 6
def xMGMT : Nat := 7
def xACK : Nat := 8
def xNAK : Nat := 9
def xRESP : Nat := 10

def Desc.w64 (x : Desc) : Bool := bit x.flags 0
def Desc.fence (x : Desc) : Bool := bit x.flags 1
def Desc.signal (x : Desc) : Bool := bit x.flags 3
def Desc.panic (x : Desc) : Bool := bit x.flags 4
def Desc.trig (x : Desc) : Bool := bit x.flags 5
def Desc.isAtomic (x : Desc) : Bool := x.op = xADD || x.op = xCAS
def Desc.width (x : Desc) : Nat := if x.w64 then 8 else 4

/-- Message length as the header carries it: an atomic's is the length of its operands. -/
def Desc.mlen (x : Desc) : Nat := if x.op = xADD then x.width else if x.op = xCAS then 2 * x.width else x.len

/-- Traffic class of a message: a PANIC SEND goes on TC0 (R482). -/
def Desc.class (x : Desc) : BitVec 2 := if x.op = xSEND && x.panic then 0 else x.tc

/-- Path MTU by its code (R458). -/
def mtuOf (c : Nat) : Nat := 256 * 2 ^ (c % 4)

/-- Number of packets of a message (R460). -/
def pktCount (mlen mtu : Nat) : Nat := (mlen + mtu - 1) / mtu
def Msg.count (m : Msg) : Nat := if m.desc.isAtomic then 1 else pktCount m.desc.len m.mtu

/-- Length of packet `k`. -/
def pktLen (mlen mtu k : Nat) : Nat := min mtu (mlen - k * mtu)

/-! ### Tags (R495) -/

def Dev.msg (d : Dev) (tag : BitVec 12) : Option Msg := d.blw.msgs.find? (fun m => m.tag = tag)

/-- Show the tags, records, cache and done entries in use. -/
def Dev.showBlw (d : Dev) : Dev :=
  let d := (d.s BLW_STAT.TAGS d.blw.msgs.length).s BLW_STAT.RECS d.blw.recs.length
  let d := d.s BLW_STAT.TAGFULL (b2n (4096 ≤ d.blw.msgs.length))
  (d.s BLW_STAT2.ATOM d.blw.atom.length).s BLW_STAT2.DONE d.blw.done.length

def Dev.setMsg (d : Dev) (m : Msg) : Dev :=
  { d with blw := { d.blw with msgs := d.blw.msgs.map (fun x => if x.tag = m.tag then m else x) } }

def Dev.freeTag (d : Dev) (tag : BitVec 12) : Dev :=
  { d with blw := { d.blw with msgs := d.blw.msgs.filter (fun m => m.tag ≠ tag), pausedFull := false } }.showBlw

/-- A free tag: the device takes the lowest (notes/assumptions/20). -/
def Dev.newTag (d : Dev) : Option (BitVec 12) :=
  if 4096 ≤ d.blw.msgs.length then none
  else ((List.range 4096).find? (fun t => d.blw.msgs.all (fun m => m.tag.toNat ≠ t))).map (BitVec.ofNat 12)

/-! ### Completion queues (R484) -/

def Dev.cqSize (d : Dev) (c : Nat) : Nat := 2 ^ d.g BLW_CQ_CFG.DEPTH c

/-- Has a completion ring room for one more entry: no unread entry is overwritten. -/
def Dev.cqRoom (d : Dev) (c : Nat) : Bool := (d.g BLW_CQ_PI c + 1) % d.cqSize c ≠ d.g BLW_CQ_CI c % d.cqSize c

/-- Write an entry at PI; BLW_CQ when PI moves away from CI. -/
def Dev.cqWrite (d : Dev) (c : Nat) (e : List Byte) : Dev :=
  let pi := d.g BLW_CQ_PI c
  let away : Bool := pi = d.g BLW_CQ_CI c
  let d := (d.bnkWrite oBlw (d.g BLW_CQ_BASE c * 64 + pi * 32) e).dev
  let d := d.s BLW_CQ_PI ((pi + 1) % d.cqSize c) c
  if away && d.on BLW_CQ_CFG.NOTIFY c then d.raise nBLW 2 c else d

/-- A completion entry is due: a disabled queue takes none, a full ring makes it wait. -/
def Dev.complete (d : Dev) (c : BitVec 6) (e : List Byte) (tag : Option (BitVec 12)) : Dev :=
  let free : Dev → Dev := fun d => match tag with
    | some t => d.freeTag t
    | none => d
  if !d.on BLW_CQ_CFG.EN c.toNat || d.g BLW_CQ_CFG.DEPTH c.toNat = 0 then free d
  else if d.cqRoom c.toNat && d.blw.cqWait.all (fun w => w.1 ≠ c) then free (d.cqWrite c.toNat e)
  else { d with blw := { d.blw with cqWait := d.blw.cqWait ++ [(c, e, tag)] } }.s BLW_STAT.CQWAIT 1

/-- Write the entries that waited for a ring, as far as it has room. -/
def Dev.cqDrain (d : Dev) (c : BitVec 6) : Nat → Dev
  | 0 => d
  | n + 1 =>
    match d.blw.cqWait.find? (fun w => w.1 = c) with
    | some w =>
      if d.cqRoom c.toNat then
        let d := { d with blw := { d.blw with cqWait := d.blw.cqWait.erase w } }.cqWrite c.toNat w.2.1
        (match w.2.2 with
          | some t => d.freeTag t
          | none => d).cqDrain c n
      else d
    | none => d

/-- Ring space has freed for a completion queue. -/
def execCompletionSpaceWaitEnd (cq : BitVec 6) (s : State) : Out :=
  onDev (fun d => d.cqDrain cq d.blw.cqWait.length) s

/-- A completion entry (R484). -/
def Dev.cqEntry (d : Dev) (wrid : BitVec 64) (status op q flags len : Nat) (result : BitVec 64) : List Byte :=
  leBytes 8 wrid.toNat ++ [BitVec.ofNat 8 status, BitVec.ofNat 8 op, BitVec.ofNat 8 q, BitVec.ofNat 8 flags]
    ++ leBytes 4 len ++ leBytes 8 result.toNat ++ leBytes 8 d.brt.pos.toNat

/-- The completion of a descriptor of a work queue: an entry if SIGNAL is 1 or the status is not OK. -/
def Dev.descEnd (d : Dev) (q : BitVec 6) (x : Desc) (status len : Nat) (result : BitVec 64) (tag : Option (BitVec 12)) : Dev :=
  if x.signal || status ≠ stOK then
    d.complete (BitVec.ofNat 6 (d.g BLW_WQ_CFG.CQ q.toNat)) (d.cqEntry x.wrid status x.op q.toNat 0 len result) tag
  else match tag with
    | some t => d.freeTag t
    | none => d

/-! ### The end of a message at the initiator -/

/-- Bytes that a message has moved. -/
def Msg.moved (m : Msg) : Nat :=
  if m.desc.isAtomic then (if m.acked.isEmpty then 0 else m.desc.width)
  else m.acked.foldl (fun a k => a + pktLen m.desc.len m.mtu k) 0

/-- End a message with a status and, for an atomic, its old value. -/
def Dev.endMsg (d : Dev) (m : Msg) (status : Nat) (result : BitVec 64) : Dev :=
  let d := if status = stRETRY ∨ status = stTIMEOUT then d.cnt BLW_FAILED else d
  let d := if status = stRETRY then d.raise nBLW 1 m.desc.dnode.toNat else d
  let d := d.setMsg { m with ended := some status, pkts := [] }
  match m.kind with
  | .queue =>
    let q := m.wq.getD 0
    let d := if m.desc.op = xWRITE && status ≠ stOK then
        { d with blw := { d.blw with bad := d.blw.bad ++ [(q, m.desc.dnode, status)] } } else d
    d.descEnd q m.desc status m.moved result (some m.tag)
  | .hostAtomic =>
    let w := [BitVec.ofNat 32 (result.toNat % 2 ^ 32), BitVec.ofNat 32 (result.toNat / 2 ^ 32)]
    (d.placeResult gAtomic w (BitVec.ofNat 32 status)).freeTag m.tag
  | .stream => d.freeTag m.tag
  | k => { d with blw := { d.blw with outcomes := d.blw.outcomes ++ [(k, m.own, status, result)] } }.freeTag m.tag

/-- End every message in flight that a test picks with FLUSHED. -/
def Dev.flushMsgs (d : Dev) (p : Msg → Bool) : Dev :=
  (d.blw.msgs.filter (fun m => m.ended.isNone && p m)).foldl (fun (d : Dev) m => d.endMsg m stFLUSHED 0) d

/-! ### Receive slots (R132, R485 to R487) -/

def Dev.slotSize (d : Dev) (r : Nat) : Nat := 64 * d.g BLW_RQ_CFG.SLOT r
def Dev.slotAddr (d : Dev) (r i : Nat) : Nat := d.g BLW_RQ_BASE r * 64 + i * d.slotSize r

/-- Claims on a queue whose slots HEAD has not passed. -/
def Dev.claims (d : Dev) (r : Nat) : List SlotClaim := d.blw.slots.filter (fun c => c.rq.toNat = r)

/-- The slot that a new SEND claims; none when the ring is full. -/
def Dev.freeSlot (d : Dev) (r : Nat) : Option Nat :=
  let n := d.g BLW_RQ_CFG.NSLOT r
  let k := d.g BLW_RQ_HEAD r + (d.claims r).length
  if n = 0 || (k + 1) % n = d.g BLW_RQ_TAIL r then none else some (k % n)

/-- A slot that the scheduler consumes has no word for it: TAIL follows once the words before it are taken in. -/
def Dev.consumeNone (d : Dev) (r : Nat) : Dev :=
  match d.evs.fabQ.reverse.findIdx? (fun w => (w.adv.map (·.1.toNat)) = some r) with
  | some i =>
    let l := d.evs.fabQ.reverse.modify i (fun w => { w with adv := w.adv.map (fun a => (a.1, a.2 + 1)) })
    { d with evs := { d.evs with fabQ := l.reverse } }
  | none => d.rqSkip r 1

/-- The words that a delivered slot yields to the scheduler, when EVS_QSEL names its queue (R132, R547, R548). -/
def Dev.consume (d : Dev) (r slot : Nat) : Dev :=
  let ev : Bool := d.on EVS_QSEL.EVQEN && d.g EVS_QSEL.EVQ = r
  let sp : Bool := !ev && d.on EVS_QSEL.SPQEN && d.g EVS_QSEL.SPQ = r
  if !ev && !sp then d
  else
    let a := d.slotAddr r slot
    let h := d.bnkRead oBlw a 16
    let d := h.dev
    let len := fieldAt h.data 0 4
    let src : BitVec 12 := BitVec.ofNat 12 (fieldAt h.data 4 2)
    if bit (fieldAt h.data 7 1) 1 then d.consumeNone r
    else if len % 16 ≠ 0 then (d.cnt EVS_BADWIN).consumeNone r
    else
      let p := d.bnkRead oBlw (a + 16) len
      let d := p.dev
      let ws := (List.range (len / 16)).map (fun i => roariBytes (slice p.data (16 * i) 16))
      let bad := if sp then (ws.filter (fun w => w.op ≠ opSPILL_NOTE)).length else 0
      let d := d.cnt VAL_LEASEBAD 0 bad
      let ws := if sp then (ws.filter (fun w => w.op = opSPILL_NOTE)).map (fun w =>
          { w with w1 := BitVec.ofNat 64 (w.w1.toNat - w.part * 2 ^ 50 + d.g VAL_SPILL.HOSTPART * 2 ^ 50) }) else ws
      match ws.reverse with
      | [] => d.consumeNone r
      | last :: front =>
        let q := front.reverse.map (fun w => FabWord.mk w (some src) sp none)
          ++ [FabWord.mk last (some src) sp (some (BitVec.ofNat 6 r, 1))]
        { d with evs := { d.evs with fabQ := d.evs.fabQ ++ q } }

/-- HEAD passes the slots that are delivered, in order; the scheduler takes those of its queues. -/
def Dev.advanceHead (d : Dev) (r : Nat) : Nat → Dev
  | 0 => d
  | fuel + 1 =>
    match d.claims r with
    | c :: _ =>
      if c.done then
        let d := { d with blw := { d.blw with slots := d.blw.slots.erase c } }
        let d := d.s BLW_RQ_HEAD ((c.slot + 1) % max 1 (d.g BLW_RQ_CFG.NSLOT r)) r
        (d.consume r c.slot).advanceHead r fuel
      else d
    | [] => d

/-- Deliver a claimed slot: its header is written, HEAD advances, and a receive entry goes to the completion queue. -/
def Dev.deliverSlot (d : Dev) (x : Rec) (void : Bool) : Dev :=
  let r := fieldAt x.hdr 0xF 1 % 64
  let len := if void then 0 else x.mlen
  let hdr := leBytes 4 len ++ leBytes 2 x.src.toNat ++ [BitVec.ofNat 8 (fieldAt x.hdr 2 1 % 4),
    BitVec.ofNat 8 (b2n x.sec + 2 * b2n void)] ++ leBytes 8 x.mpos.toNat
  let d := (d.bnkWrite oBlw (d.slotAddr r x.slot) hdr).dev
  let d := { d with blw := { d.blw with slots := d.blw.slots.map (fun (c : SlotClaim) =>
    if c.rq.toNat = r && c.slot = x.slot then { c with done := true } else c) } }
  let d := if d.on BLW_RQ_CFG.CQEN r then
      d.complete (BitVec.ofNat 6 (d.g BLW_RQ_CFG.CQ r))
        (d.cqEntry 0 (if void then 2 else 0) 0x83 r 1 len (BitVec.ofNat 64 (x.src.toNat + x.slot * 65536))) none
    else d
  d.advanceHead r (d.blw.slots.length + 1)

/-! ### Records ended at the target (R472, R475, R505) -/

def Dev.dropRec (d : Dev) (x : Rec) : Dev := { d with blw := { d.blw with recs := d.blw.recs.erase x } }.showBlw

/-- End a record without its message: a SEND's slot is delivered VOID. -/
def Dev.endRec (d : Dev) (x : Rec) : Dev :=
  let d := d.dropRec x
  if x.op = xSEND then d.deliverSlot x true else d

/-- A record freed at the end of its life, or replaced, has been abandoned. -/
def Dev.abandon (d : Dev) (x : Rec) : Dev := (d.endRec x).cnt BLW_ABANDON

/-- What a Breath discontinuity does to the transport when it begins (R505): messages flushed, records abandoned, the done
table and the atomic cache emptied. -/
def Dev.flushAll (d : Dev) : Dev :=
  let d := d.flushMsgs (fun _ => true)
  let d := d.blw.recs.foldl (fun (d : Dev) x => d.abandon x) d
  { d with blw := { d.blw with done := [], atom := [] } }.showBlw

/-- EPOS follows the Breath while the transport is enabled. -/
def Dev.setEpos (d : Dev) : Dev :=
  if d.on BLW_CTL.EN then { d with blw := { d.blw with epos := some d.brt.pos } } else d

/-- What a write of 0 to BLW_CTL.EN does to the messages and tables (R506): every record and entry is freed. -/
def Dev.stopTransport (d : Dev) : Dev :=
  let d := d.flushMsgs (fun _ => true)
  let d := (d.blw.recs.filter (fun x => x.op = xSEND)).foldl (fun (d : Dev) x => d.deliverSlot x true) d
  { d with blw := { d.blw with recs := [], done := [], atom := [], epos := none } }.showBlw

/-! ### Posting (R479, R493) -/

/-- Post a message of a unit of the device on a work queue. -/
def Dev.post (d : Dev) (q : Nat) (x : Desc) (k : MsgKind) (own : Nat) (data : Option (List Byte)) : Dev :=
  { d with blw := { d.blw with posted := d.blw.posted ++ [⟨BitVec.ofNat 6 q, x, k, own, data⟩] } }

def Desc.zero : Desc where
  op := 0
  flags := 0
  tc := 0
  dnode := 0
  len := 0
  laddr := 0
  raddr := 0
  rkey := 0
  rq := 0
  opnd0 := 0
  opnd1 := 0
  ctr := 0
  thresh := 0
  wrid := 0
  bad := false

/-- An event request ends with OK once the scheduler has taken in its last word (R536). -/
def Dev.endEvents (d : Dev) : Dev :=
  let l := d.blw.evtDone
  l.foldl (fun (d : Dev) e => d.descEnd e.1 e.2 stOK e.2.len 0 none) { d with blw := { d.blw with evtDone := [] } }

end Sys2Proof.Machine
end

