-- ==== Sys2Proof/Machine/Spill.lean ====
section
/-!
DEFINITION. The spill exchange of the voice allocator (chapters 06 and 13): the offer of notes to peers, claims, forwarding,
leases held for peers and the ledger they stand in; and the release of each event word from the scheduler.
-/
namespace Sys2Proof.Machine

/-! ### The ledger and the leases (R224, R225, R229, R232) -/

def Dev.ledger (d : Dev) : Nat := d.g VAL_LEDGER * 64

/-- The four ledger words as they stand in memory; a ledger outside the banks reads 0. -/
def Dev.ledgerWord (d : Dev) (j : Nat) : Nat :=
  if bankEnd ≤ d.ledger then 0 else leNat (memBytes d.bnk.mem (d.ledger + 8 * j) 8)

def Dev.leaseBit (d : Dev) (l : Nat) : Bool := bit (d.ledgerWord (l / 64)) (l % 64)

/-- Leases claimed by peers: their bit is 1 and the host does not withhold it. -/
def Dev.claimed (d : Dev) : List Nat := (List.range 256).filter (fun l => d.leaseBit l && !d.val.withheld.contains l)

/-- A field of a lease record. -/
def Dev.leaseField (d : Dev) (l o n : Nat) : Nat := leNat (memBytes d.bnk.mem (d.ledger + 0x20 + 16 * l + o) n)

/-- Follow the ledger: a bit that a peer has set begins a lease, one that is clear has none. -/
def Dev.syncLeases (d : Dev) : Dev :=
  if !d.on VAL_CTL.HOSTEN then d
  else
    let c := d.claimed
    let keep := d.val.leases.filter (fun e => c.contains e.lease)
    let new := (c.filter (fun l => keep.all (fun e => e.lease ≠ l))).map (fun l => LeaseSt.mk l d.brt.tbase none false false)
    { d with val := { d.val with leases := keep ++ new } }.s VAL_STAT.LEASES (keep.length + new.length)

def Dev.mapLease (d : Dev) (l : Nat) (f : LeaseSt → LeaseSt) : Dev :=
  { d with val := { d.val with leases := d.val.leases.map (fun e => if e.lease = l then f e else e) } }

/-- BLW_MPL as a Breath distance. -/
def Dev.mpl (d : Dev) : Nat := d.usPos (d.g BLW_MPL)

/-- A lease whose voice has ended and whose note has been ended is freed BLW_MPL later. -/
def Dev.leaseScan (d : Dev) : Dev :=
  { d with val := { d.val with leases := d.val.leases.map (fun e =>
      if e.freeAt.isNone && e.offDone && !d.anyVoice (fun v => v.lease = some e.lease) then
        { e with freeAt := some (d.brt.pos + BitVec.ofNat 64 d.mpl) } else e) } }

/-- Write one ledger word through the Bellows owner input. -/
def Dev.putLedger (d : Dev) (j v : Nat) : Dev :=
  if bankEnd ≤ d.ledger then d else (d.bnkWrite oBlw (d.ledger + 8 * j) (leBytes 8 v)).dev

/-- Free the leases whose time has come: bit and record. -/
def leaseFree (d : Dev) : Dev :=
  let d := (d.syncLeases).leaseScan
  let due := d.val.leases.filter (fun e => match e.freeAt with
    | some p => !later p d.brt.pos
    | none => false)
  let d := due.foldl (fun (d : Dev) e =>
    let w := d.ledgerWord (e.lease / 64)
    d.putLedger (e.lease / 64) (w - (if bit w (e.lease % 64) then 2 ^ (e.lease % 64) else 0))) d
  d.syncLeases

def execLeaseFree (s : State) : Out := onDev leaseFree s

/-- Set the bits of what is not offered, clear those of what is: at most OFFER leases, and none that would leave fewer than
KEEP free existing Reeds (R225). -/
def offerUpdate (d : Dev) : Dev :=
  let d := d.syncLeases
  let c := d.claimed
  let n := if d.on VAL_CTL.HOSTEN then
      min (d.g VAL_SPILL.OFFER - c.length) (d.freeReeds false - d.g VAL_SPILL.KEEP) else 0
  let offered := ((List.range 256).filter (fun l => !c.contains l)).take n
  let d := { d with val := { d.val with withheld := (List.range 256).filter (fun l => !c.contains l && !offered.contains l) } }
  (List.range 4).foldl (fun (d : Dev) j =>
    let v := ((List.range 64).filter (fun i => !offered.contains (64 * j + i))).foldl (fun a i => a + 2 ^ i) 0
    if d.ledgerWord j = v then d else d.putLedger j v) d

def execLedgerOfferUpdate (s : State) : Out := onDev offerUpdate s

/-- LEASEMAX without a word for a lease: its voice is released and the lease is freed BLW_MPL later (R232). -/
def leaseExpiry (d : Dev) : Dev :=
  let d := d.syncLeases
  let due := d.val.leases.filter (fun e => e.freeAt.isNone && d.g VAL_LEASEMAX * 100000 ≤ (d.brt.tbase - e.lastTb).toNat)
  due.foldl (fun (d : Dev) e =>
    let d := d.mapVoices (fun v => v.lease = some e.lease && !v.released) (fun v => v.release d.brt.pos 0)
    (d.mapLease e.lease (fun x => { x with freeAt := some (d.brt.pos + BitVec.ofNat 64 d.mpl) })).cnt VAL_LEASEEXP) d

def execLeaseExpiry (s : State) : Out := onDev leaseExpiry s

/-- May a word for a lease act: is the lease claimed, does its TAG match, and does its SEND source (R229, R548)? -/
def Dev.leaseOk (d : Dev) (w : Roari) (node : Option (BitVec 12)) : Bool :=
  let l := w.nid % 256
  d.claimed.contains l && d.leaseField l 2 1 = w.nid / 256
    && (match node with
      | some n => n.toNat = d.leaseField l 0 2 % 4096
      | none => true)

/-- A word for a lease has arrived: it stays alive. -/
def Dev.leaseSeen (d : Dev) (w : Roari) : Dev :=
  if d.hostWord w then (d.syncLeases).mapLease (w.nid % 256) (fun e => { e with lastTb := d.brt.tbase }) else d

/-- Does the released word stand for a lease's note, so that R229 checks it? -/
def Dev.leaseWord (d : Dev) (w : Roari) : Bool :=
  d.hostWord w && (w.op = opNOTE_OFF || w.op = opPOLY_PRESS || w.op = opPER_NOTE || (w.op = opALL_OFF && w.nid ≠ 0))

/-! ### The origin: bounds and targets (R227, R236, R237) -/

def Dev.retlat (d : Dev) : Nat := d.g VAL_SPILL2.RETBLK * d.blk

/-- Does a RETLAT lie within both bounds? -/
def Dev.retBounds (d : Dev) (retblk guard : Nat) : Bool :=
  2 * d.blk ≤ retblk * d.blk && retblk * d.blk + guard + d.blk ≤ d.g BRT_LEAD

/-- Judge the bounds again: RETERR follows, with VAL_SPILLERR once when it sets. -/
def Dev.judgeRet (d : Dev) : Dev :=
  let ok := d.retBounds (d.g VAL_SPILL2.RETBLK) (d.g VAL_SPILL2.GUARD)
  if ok then d.s VAL_STAT.RETERR 0
  else if d.on VAL_STAT.RETERR then d
  else (d.s VAL_STAT.RETERR 1).raise nVAL 1 0xFFF

/-- Effect of a write of VAL_SPILL2 with the values it would hold: one that breaks a bound changes nothing (R236). -/
def Dev.writeSpill2 (d : Dev) (w : Word) : Dev :=
  if d.retBounds (bitsOf w.toNat 3 0) (bitsOf w.toNat 19 8) then (d.setReg VAL_SPILL2.RETBLK.base w).judgeRet else d

/-- How far before a note's target the peer is to play it. -/
def Dev.spillShift (d : Dev) (p : Nat) : Nat := if d.pSpillOut p = 1 then d.retlat else 0

/-- The send deadline of a word of Part `p` with a target. -/
def Dev.deadline (d : Dev) (p : Nat) (t : Pos) : Pos := t - posOf (d.spillShift p + d.g VAL_SPILL2.GUARD)

/-! ### Posting spill operations (R226, R546, R547) -/

/-- A descriptor to peer `k`. -/
def Dev.peerDesc (d : Dev) (k op flags : Nat) : Desc :=
  { Desc.zero with op := op, flags := flags, tc := 1, dnode := BitVec.ofNat 12 (d.g VAL_PEER.NODE k),
                   rkey := d.g VAL_PEER_RKEY k }

def Dev.postSpill (d : Dev) (x : Desc) (k : MsgKind) (own : Nat) (data : Option (List Byte)) : Dev :=
  d.post (d.g VAL_SPILL2.WQ) x k own data

/-- A CAS on ledger word `j` of peer `k`. -/
def Dev.postCas (d : Dev) (k j : Nat) (cmp swap : BitVec 64) (kind : MsgKind) (own : Nat) : Dev :=
  d.postSpill { d.peerDesc k xCAS 1 with raddr := d.g VAL_PEER_LEDGER k + 8 * j, opnd0 := cmp, opnd1 := swap } kind own none

def Dev.setClaim (d : Dev) (c : Claim) : Dev :=
  { d with val := { d.val with claims := d.val.claims.map (fun x => if x.seq = c.seq then c else x) } }

def Dev.dropClaim (d : Dev) (seq : Nat) : Dev :=
  { d with val := { d.val with claims := d.val.claims.filter (fun x => x.seq ≠ seq) } }

/-- Change the pending word of an intake sequence number. -/
def Dev.mapPend (d : Dev) (seq : Nat) (f : Pend → Pend) : Dev :=
  { d with evs := { d.evs with store := d.evs.store.map (fun p => if p.seq = seq then f p else p)
                               panic := d.evs.panic.map (fun p => if p.seq = seq then f p else p) } }

def Dev.cacheWord (d : Dev) (k j : Nat) : BitVec 64 := sget 0 (4 * k + j) d.val.cache

def Dev.setCache (d : Dev) (k j : Nat) (v : BitVec 64) : Dev :=
  { d with val := { d.val with cache := sput 0 (4 * k + j) v d.val.cache } }

/-- The lowest free bit in the cached ledger of a peer: word and bit. -/
def Dev.cachedFree (d : Dev) (k : Nat) : Option (Nat × Nat) :=
  (List.range 4).findSome? (fun j =>
    ((List.range 64).find? (fun i => !(d.cacheWord k j).getLsbD i)).map (fun i => (j, i)))

/-- Try the next CAS of a claim at its peer; none when the cached ledger shows no free bit. -/
def Dev.tryCas (d : Dev) (c : Claim) : Option Dev :=
  (d.cachedFree c.peer).map (fun (j, i) =>
    let old := d.cacheWord c.peer j
    (d.setClaim { c with tries := c.tries + 1, word := j, bit := i }).postCas c.peer j old (old ||| BitVec.ofNat 64 (2 ^ i))
      .claimCas c.seq)

/-- Peers that a claim may still try, in rotation after the peer last used. -/
def Dev.peerOrder (d : Dev) (c : Claim) (mask : Nat) : List Nat :=
  ((List.range 16).map (fun i => (d.val.lastPeer + 1 + i) % 16)).filter (fun k =>
    bit mask k && d.on VAL_PEER.EN k && !c.tried.contains k &&
    (match d.val.skipTb.lookup k with
      | some t => 1000000 ≤ (d.brt.tbase - BitVec.ofNat 64 (t.toNat - 1)).toNat
      | none => true))

/-- Move a claim to its next peer; the attempt fails when every peer has been tried. -/
def Dev.nextPeer (d : Dev) (c : Claim) : List Nat → Dev
  | [] => (d.dropClaim c.seq).cnt VAL_SPILLFAIL
  | k :: rest =>
    let c := { c with peer := k, tries := 0, tried := k :: c.tried, stage := 0 }
    let d := { d with val := { d.val with lastPeer := k } }
    match d.tryCas c with
    | some d => d
    | none =>
      let d := { d with val := { d.val with skipTb := sput 0 k (d.brt.tbase + 1) d.val.skipTb } }
      d.nextPeer c rest

/-- Part of a claim's note. -/
def Dev.claimPend (d : Dev) (seq : Nat) : Option Pend := d.evs.store.find? (fun p => p.seq = seq)

/-- The claim moves on, or ends, its note kept local. -/
def Dev.moveOn (d : Dev) (c : Claim) : Dev :=
  match d.claimPend c.seq with
  | some p => d.nextPeer c (d.peerOrder c (d.pPeers p.word.part))
  | none => (d.dropClaim c.seq).cnt VAL_SPILLFAIL

/-- The origin abandons a spill at its deadline: the note stays local (R227). -/
def Dev.abandonClaim (d : Dev) (c : Claim) : Dev := (d.setClaim { c with stage := 3 }).cnt VAL_SPILLLATE

/-- Clear a won bit with a CAS. -/
def Dev.releaseBit (d : Dev) (c : Claim) : Dev :=
  let old := d.cacheWord c.peer c.word
  if !old.getLsbD c.bit || d.g VAL_SPILL2.TRIES ≤ c.tries then d.dropClaim c.seq
  else (d.setClaim { c with stage := 2, tries := c.tries + 1 }).postCas c.peer c.word old
    (old &&& ~~~(BitVec.ofNat 64 (2 ^ c.bit))) .claimRelease c.seq

/-- A lease is won: post the lease record and the spill entry, if the deadline has not passed. -/
def Dev.won (d : Dev) (c : Claim) : Dev :=
  let d := d.setCache c.peer c.word (d.cacheWord c.peer c.word ||| BitVec.ofNat 64 (2 ^ c.bit))
  match d.claimPend c.seq with
  | none => d.releaseBit { c with tries := 0 }
  | some p =>
    if c.stage = 3 then d.releaseBit { c with tries := 0 }
    else if later d.brt.pos c.deadline then (d.abandonClaim c).releaseBit { c with tries := 0 }
    else
      let part := p.word.part
      let l := 64 * c.word + c.bit
      let tag := d.val.tagSeq % 255 + 1
      let d := { d with val := { d.val with tagSeq := tag } }
      let rec_ := leBytes 2 (d.g BLW_NODE) ++ [BitVec.ofNat 8 tag, BitVec.ofNat 8 (d.pSpillOut part)]
        ++ leBytes 2 (d.pPatch part) ++ [BitVec.ofNat 8 part] ++ List.replicate 9 0
      let t := p.pos - posOf (d.spillShift part)
      let w := roariOf t.toNat opSPILL_NOTE (d.g VAL_SPILL.HOSTPART) (tag * 256 + l) p.word.vala p.word.valb
      let w := { w with w1 := w.w1 ||| BitVec.ofNat 64 (2 ^ 49) }
      let d := d.postSpill { d.peerDesc c.peer xWRITE 0 with raddr := d.g VAL_PEER_LEDGER c.peer + 0x20 + 16 * l, len := 16 }
        .leaseRecord c.seq (some rec_)
      let d := d.postSpill { d.peerDesc c.peer xSEND 2 with rq := BitVec.ofNat 6 (d.g VAL_PEER.SPQ c.peer), len := 16 }
        .spillEntry c.seq (some w.bytes)
      (d.setClaim { c with stage := 1, tag := BitVec.ofNat 8 tag }).mapPend c.seq (fun p => { p with spilled := true })

/-! ### The spill map (R230, R245) -/

/-- Show the number of entries. -/
def Dev.showMap (d : Dev) : Dev := d.s VAL_STAT.SPMAP d.val.map.length

/-- A note has been spilled. -/
def Dev.spilled (d : Dev) (c : Claim) : Dev :=
  match d.val.claims.find? (fun x => x.seq = c.seq) with
  | none => d
  | some c =>
    let (part, nid) := (c.part, c.nid)
    let e : SpillEnt := ⟨part, nid, c.peer, 64 * c.word + c.bit, c.tag, d.pSpillOut part.toNat = 1, d.brt.tbase⟩
    ({ d with val := { d.val with map := d.val.map ++ [e] } }.dropClaim c.seq).showMap.cnt VAL_SPILLS

/-- A peer refused a spill operation by its protection (R244). -/
def Dev.peerRefused (d : Dev) (k : Nat) : Dev := (d.s VAL_PEER.EN 0 k).raise nVAL 1 k

/-- Act on the end of one spill operation. -/
def Dev.outcome (d : Dev) (o : MsgKind × Nat × Nat × BitVec 64) : Dev :=
  let (kind, own, status, old) := o
  match kind with
  | .forward =>
    if status = stOK then d
    else
      let d := if status = stRAV then d.s VAL_PEER.EN 0 own else d
      (({ d with val := { d.val with map := d.val.map.filter (fun e => e.peer ≠ own) } }.showMap).raise nVAL 1 own).cnt
        VAL_SPILLFAIL
  | _ =>
    match d.val.claims.find? (fun c => c.seq = own) with
    | none => d
    | some c =>
      let d := if status = stRAV then d.peerRefused c.peer else d
      match kind with
      | .claimCas =>
        if status ≠ stOK then (if c.stage = 3 then d.dropClaim c.seq else d.moveOn c)
        else if old = d.cacheWord c.peer c.word then d.won c
        else
          let d := d.setCache c.peer c.word old
          if c.stage = 3 then d.dropClaim c.seq
          else if c.tries < d.g VAL_SPILL2.TRIES then
            (match d.tryCas c with
              | some d => d
              | none => { d with val := { d.val with skipTb := sput 0 c.peer (d.brt.tbase + 1) d.val.skipTb } }.moveOn c)
          else d.moveOn c
      | .spillEntry =>
        if status = stOK then d.spilled c
        else
          let d := d.mapPend c.seq (fun p => { p with spilled := false })
          if later d.brt.pos c.deadline then (d.dropClaim c.seq).cnt VAL_SPILLLATE else d.moveOn c
      | .claimRelease =>
        if status = stOK && old = d.cacheWord c.peer c.word then
          (d.setCache c.peer c.word (old &&& ~~~(BitVec.ofNat 64 (2 ^ c.bit)))).dropClaim c.seq
        else if status = stOK then (d.setCache c.peer c.word old).releaseBit c
        else d.dropClaim c.seq
      | _ => d

/-- Act on every spill operation that has ended. -/
def Dev.spillSteps (d : Dev) : Dev :=
  let l := d.blw.outcomes
  l.foldl (fun (d : Dev) o => d.outcome o) { d with blw := { d.blw with outcomes := [] } }

/-! ### The offer (R136, R223, R230, R242) -/

/-- Does the spill map hold a note that a word acts on? -/
def Dev.actsOn (w : Roari) (part nid : Nat) : Bool :=
  if w.op = opALL_OFF then offHits w part nid
  else (w.op = opNOTE_OFF || w.op = opPOLY_PRESS || w.op = opPER_NOTE) && w.part = part && nidMatch w.nid nid

/-- Forward a word for one spilled note. -/
def Dev.forward (d : Dev) (e : SpillEnt) (op vala valb : Nat) (t : Pos) : Dev :=
  let shift := if e.ret then d.retlat else 0
  let nid := e.tag.toNat * 256 + e.lease
  let w := roariOf (if t = 0 then 0 else (t - posOf shift).toNat) op (d.g VAL_SPILL.HOSTPART) nid vala valb
  let late : Bool := t ≠ 0 && later d.brt.pos (t - posOf (shift + d.g VAL_SPILL2.GUARD))
  let d := d.postSpill { d.peerDesc e.peer xSEND 0 with rq := BitVec.ofNat 6 (d.g VAL_PEER.EVQ e.peer), len := 16 }
    .forward e.peer (some w.bytes)
  let d := if late then d.cnt VAL_FWDLATE else d
  let gone : Bool := op = opNOTE_OFF || op = opALL_OFF
  let map := if gone then d.val.map.erase e
    else d.val.map.map (fun x => if x = e then { x with lastTb := d.brt.tbase } else x)
  { d with val := { d.val with map := map } }.showMap

/-- Offer a word that acts on spilled notes: it is forwarded for each. -/
def Dev.offerWord (d : Dev) (p : Pend) : Dev :=
  let w := p.word
  let hits := d.val.map.filter (fun e => Dev.actsOn w e.part.toNat e.nid.toNat)
  let vala := if w.op = opALL_OFF then 2 * b2n w.cut else w.vala
  let d := hits.foldl (fun (d : Dev) e => d.forward e w.op vala w.valb p.pos) d
  d.mapPend p.seq (fun q => { q with offered := true, spilled := q.spilled || !hits.isEmpty })

/-- Offer a NOTE_ON (R223, R234, R237). -/
def Dev.offerNote (d : Dev) (p : Pend) : Dev :=
  let part := p.word.part
  let d := d.mapPend p.seq (fun q => { q with offered := true })
  let pending := d.evs.store.filter (fun q => q.seq ≠ p.seq && q.offered && !q.spilled && q.word.op = opNOTE_ON)
  let own := (pending.filter (fun q => q.word.part = part)).length
  let need : Bool := d.pSpillPol part = 2 ||
    (d.pSpillPol part = 1 && (d.pLimit part ≤ d.local_ part + own || !d.available part pending.length))
  let peers : Bool := (List.range 16).any (fun k => bit (d.pPeers part) k && d.on VAL_PEER.EN k)
  let mine := (d.val.map.filter (fun e => e.part.toNat = part)).length
  if !need || !d.on VAL_CTL.SPILLEN || !peers || d.on VAL_STAT.RETERR || d.pSpillMax part ≤ mine || 1024 ≤ d.val.map.length then d
  else if 64 ≤ d.val.claims.length then d.cnt VAL_SPILLFAIL
  else
    let c : Claim := { seq := p.seq, part := BitVec.ofNat 6 part, nid := BitVec.ofNat 16 p.word.nid, peer := 0, tries := 0,
                       word := 0, bit := 0, stage := 0, tag := 0, tried := [], deadline := d.deadline part p.pos }
    if later d.brt.pos c.deadline then d.cnt VAL_SPILLLATE
    else { d with val := { d.val with claims := d.val.claims ++ [c] } }.moveOn c

/-- Is a pending word due to be offered: BRT_LEAD before its target, for a NOTE_ON of a Part that may spill, or for a word on
a spilled note whose claim is not still under way (R242)? -/
def Dev.offerDue (d : Dev) (p : Pend) : Bool :=
  let w := p.word
  !p.offered && !later (p.at_ - posOf (d.g BRT_LEAD)) d.brt.pos &&
    (if w.op = opNOTE_ON then d.partUsed w.part && d.pSpillPol w.part ≠ 0
     else d.val.map.any (fun e => Dev.actsOn w e.part.toNat e.nid.toNat)
       && !d.val.claims.any (fun c => c.stage < 2 && Dev.actsOn w c.part.toNat c.nid.toNat))

/-- The scheduler offers the next word to the allocator. -/
def spillOffer (d : Dev) : Dev :=
  let d := d.spillSteps
  if !d.on BRT_STAT.RUNNING then d
  else match firstBy Pend.before ((d.evs.panic ++ d.evs.store).filter d.offerDue) with
    | some p => if p.word.op = opNOTE_ON then d.offerNote p else d.offerWord p
    | none => d

def execSpillOffer (s : State) : Out := onDev spillOffer s

/-- Claims still without a posted entry at their deadline are abandoned (R227). -/
def spillDeadline (d : Dev) : Dev :=
  let d := d.spillSteps
  (d.val.claims.filter (fun c => c.stage = 0 && later d.brt.pos c.deadline)).foldl (fun (d : Dev) c => d.abandonClaim c) d

def execSpillDeadline (s : State) : Out := onDev spillDeadline s

/-- Keep alive the notes for which no word has been forwarded for a quarter of LEASEMAX (R231). -/
def keepalive (d : Dev) : Dev :=
  let due := d.val.map.filter (fun e => d.g VAL_LEASEMAX * 25000 ≤ (d.brt.tbase - e.lastTb).toNat)
  due.foldl (fun (d : Dev) e => d.forward e opPER_NOTE 0 (3 * 16384) 0) d

def execLeaseKeepalive (s : State) : Out := onDev keepalive s

/-- Taking in a word keeps its lease alive. -/
def intakeStep (d : Dev) (c : Nat) : Dev :=
  let e := match d.waiting c with
    | some (_, w, _, _) => if d.on BRT_STAT.RUNNING && d.running then d.leaseSeen w else d
    | none => d
  (takeIn e c).endEvents

/-- Rows of the main store, and of the mailbox, among the rows of the scheduler's table: the device's own placing. -/
def Dev.storeErr (d : Dev) (err : StoreErr) : Dev :=
  match err with
  | .single => d.cnt EVS_ECCCOR
  | .double k => match d.evs.store[k]? with
    | some p => (((d.remove p).cnt EVS_LOST).raise nEVS 2 0).drawn.startTest kTab 0 (d.draw 12).toNat
    | none => d
  | .mailbox =>
    if d.hrp.mbx.isEmpty then d
    else (({ d with hrp := { d.hrp with mbx := d.hrp.mbx.tail } }.showMbx.cnt EVS_LOST).raise nHRP 2 0).drawn.startTest kTab 5
        (d.draw 12).toNat

/-- EVENT_INTAKE: the next waiting word is taken in; a read of the stores may meet an upset first (R146, R646). -/
def execEventIntake (c : BitVec 4) (err : Option StoreErr) (s : State) : Out :=
  onDev (fun d => match err with
    | some e => intakeStep (d.storeErr e) c.toNat
    | none => intakeStep d c.toNat) s

/-! ### The release of each word (R123, R135, R229) -/

/-- Release the next due word if it has this opcode: an unused Part discards it, a word for a lease is checked, and then its
action follows. -/
def releaseRow (op : Nat) (act : Dev → Pend → Dev) (d : Dev) : Dev :=
  if !d.running then d
  else match d.release op with
    | none => d
    | some (d, p) =>
      if !d.argOk p.word then d.cnt EVS_BADARG
      else if d.leaseWord p.word && !d.leaseOk p.word p.node then d.cnt VAL_LEASEBAD
      else act d p

/-- A NOTE_OFF or ALL_OFF for a lease has executed. -/
def Dev.leaseOff (d : Dev) (p : Pend) : Dev :=
  let w := p.word
  let hit : Nat → Bool := fun l => d.hostWord w && w.nid % 256 = l ||
    (w.op = opALL_OFF && w.nid = 0 && offHits w (d.g VAL_SPILL.HOSTPART) 0)
  { d with val := { d.val with leases := d.val.leases.map (fun (e : LeaseSt) => if hit e.lease then { e with offDone := true } else e) } }.leaseScan

/-- A spill entry starts a voice on the host Part with the patch that its lease record names (R229, R233, R550). -/
def spillNote (d : Dev) (x : Pend) : Dev :=
  let w := x.word
  let p := d.g VAL_SPILL.HOSTPART
  let l := w.nid % 256
  let mode := d.leaseField l 3 1
  let origin := d.leaseField l 0 2 % 4096
  let patch := d.leaseField l 4 2 % 1024
  let ret : Bool := (List.range 64).any (fun s => d.on BLW_STR.EN s && !d.on BLW_STR.DIR s && d.g BLW_STR.TYPE s = 3
    && d.g BLW_STR.NODE s = origin)
  if !d.on VAL_CTL.HOSTEN || !d.leaseOk w x.node || (mode = 1 && !ret) then d.cnt VAL_LEASEBAD
  else if d.mode = mSAFE then d.cnt VAL_REFUSED
  else if d.pMute p then d
  else if !d.flag RDA_PVALID patch then d.cnt RDA_NOPATCH
  else
    let d := (d.syncLeases).mapLease l (fun e => { e with started := true })
    let v := Voice.new (BitVec.ofNat 6 p) (BitVec.ofNat 10 patch) (BitVec.ofNat 16 w.nid) (BitVec.ofNat 16 w.vala)
      (pitchOf w.valb) x.pos
    d.allocate p x.prio { v with lease := some l, retNode := if mode = 1 then some (BitVec.ofNat 12 origin) else none } x.pos

/-! ### SAFE and critical faults (R678, R700, R730) -/

/-- In SAFE, once the mute is MUTED, every voice and ghost slot is freed as an ALL_OFF with CUT would, and the spill map is
cleared (R678). -/
def Dev.safeClear (d : Dev) : Dev :=
  let d := d.mapVoices (fun _ => true) (fun v =>
    let at_ := if v.released then v.relPos else d.brt.pos
    { v with released := true, sustained := false, relPos := at_ }.post d.brt.pos .cut)
  { d with val := { d.val with map := [] } }.showMap

/-- Enter SAFE: the mute request, TC1 to TC3 flushed, and, at a mute that is MUTED already, the voices freed. -/
def Dev.enterSafe (d : Dev) : Dev :=
  let d := (d.muteReq 3).flushMsgs (fun m => m.desc.tc ≠ 0)
  let d := d.setMode mSAFE
  if d.g BEL_STAT.MSTATE = 2 then d.safeClear else d

/-- Record a critical fault: notice FLT_SAFE with its cause, a fault-log entry of FTYPE 1 that holds it, SAFECAUSE and the
count; then SAFE. An entry to IDLE or DORMANT ends; in those modes the fault takes effect at the wake. -/
def Dev.critical (d : Dev) (cause : Nat) : Dev :=
  let w := noticeWord nFLT 4 cause d.not.lostNext (whole d.brt.pos)
  let d := (d.raise nFLT 4 cause).logEntry 1 (d.g LCK_STAT.COUNT) w 0
  let d := ((d.s FLT_STAT.SAFECAUSE cause).cnt FLT_NSAFE).sIf (cause = 1) FLT_STAT.PLLDOWN 1
  if d.mode = mIDLE || d.mode = mDORMANT then
    { d with pwr := { d.pwr with crit := some (BitVec.ofNat 4 cause) } }
  else if d.mode = mRUN || d.mode = mDEFAULTS || d.mode = mSERVICE then
    let wasIn := d.pwr.entered
    let d := ({ d with pwr := { d.pwr with entering := none, entered := false } }.s PWR_STAT.BUSY 0).enterSafe
    if wasIn then d.setEpos else d
  else if d.on PWR_STAT.BUSY then
    let wasIn := d.pwr.entered
    let d := { d with pwr := { d.pwr with entering := none, entered := false } }.s PWR_STAT.BUSY 0
    if wasIn then d.setEpos else d
  else d

def execNoteOn (s : State) : Out := onDev (releaseRow opNOTE_ON Dev.noteOn) s
def execNoteOff (s : State) : Out := onDev (releaseRow opNOTE_OFF (fun d p => (d.noteOff p).leaseOff p)) s
def execPolyPress (s : State) : Out := onDev (releaseRow opPOLY_PRESS Dev.polyPress) s
def execControl (s : State) : Out := onDev (releaseRow opCONTROL Dev.control) s
/-- PITCH_BEND: the Part's bend, VALA and VALB as one value (R123). -/
def execPitchBend (s : State) : Out :=
  onDev (releaseRow opPITCH_BEND (fun d p => d.partChange p.word.part none (BitVec.ofNat 32 p.word.val32) p.pos)) s
def execProgram (s : State) : Out := onDev (releaseRow opPROGRAM Dev.program) s
def execPerNote (s : State) : Out := onDev (releaseRow opPER_NOTE Dev.perNote) s
def execPartMode (s : State) : Out := onDev (releaseRow opPART_MODE Dev.partMode) s
/-- ALL_OFF; when both copies of a reserved entry fail their parity in the read, its word is lost and the fault is critical
(R146, R730). -/
def execAllOff (bothBad : Bool) (s : State) : Out :=
  onDev (fun d =>
    if bothBad then
      (match firstBy Pend.before d.evs.panic with
       | some p => (d.remove p).critical 5
       | none => d)
    else releaseRow opALL_OFF (fun d p => (d.allOff p).leaseOff p) d) s
def execSpillNote (s : State) : Out := onDev (releaseRow opSPILL_NOTE spillNote) s
def execMark (s : State) : Out := onDev (releaseRow opMARK Dev.mark) s

end Sys2Proof.Machine
end

