-- ==== Sys2Proof/Machine/Breath.lean ====
section
/-!
DEFINITION. The Breath and its lock loop (chapter 03): sources and their intervals, validity and loss, the positions of
source events, phase measurement, the transitions of R81, the large-error rule, the moves under the soft mute, source and
rebase writes, and loss of lock of the audio PLL. Beacons are in Machine/Beacon.lean.
-/
namespace Sys2Proof.Machine

/-! ### States and sources (R78, R81) -/

def sACQUIRE : Nat := 0
def sTRACK : Nat := 1
def sHOLDOVER : Nat := 2
def sFREE : Nat := 3

def srcFREE : Nat := 0
def srcVIDEO : Nat := 1
def srcWCLK : Nat := 2
def srcFABRIC : Nat := 3
def srcUSB : Nat := 4

def Dev.brtState (d : Dev) : Nat := d.g BRT_STAT.STATE
def Dev.brtSrc (d : Dev) : Nat := d.g BRT_CTL.SRC

/-- Samples between two events of a source (R78). -/
def Dev.srcSamples (d : Dev) (src : Nat) : Rat :=
  match src with
  | 1 => (d.g BRT_SPF_NUM : Rat) / (d.g BRT_SPF_DEN : Rat)
  | 2 => (2 ^ d.g BRT_CTL.WCDIV : Nat)
  | 3 => (d.fs : Rat) / 1000
  | 4 => (d.fs : Rat) / (if d.g USB_STAT.SPEED = 2 then 8000 else 1000)
  | _ => 1

/-- Nominal interval of a source in timebase periods of 10 ns. -/
def Dev.srcTicks (d : Dev) (src : Nat) : Rat := d.srcSamples src / d.fs * 100000000

/-- Show the frequency offset. -/
def Dev.setFerr (d : Dev) (v : Int) : Dev :=
  { d with brt := { d.brt with filtErr := v } }.s BRT_FERR (BitVec.ofInt 32 v).toNat

/-! ### Moves: jump, pause and rebase (R88, R89, R91) -/

/-- Discard every block in stages S2 to S4: rendered blocks, completed core blocks and fetched codes. A block in those stages
lies before the one that holds the new position, or, at a rebase, is discarded wherever it lies (R88, R91). -/
def Dev.discardBlocks (d : Dev) (dest : Pos) : Dev :=
  { d with
    bel := { d.bel with
      out := d.bel.out.map (fun (e : Nat × OutSt) => (e.1, { e.2 with q := [], row := none, lat := none }))
      exitAt := none
      busFrom := whole dest }
    rda := { d.rda with block := none }
    chn := d.chn.map (fun (c : Core) => { c with blocks := [] }) }

/-- What begins with every jump, pause and rebase: the transport's flush (R505) and an empty USB OUT FIFO (R598). -/
def Dev.discontinuity (d : Dev) : Dev :=
  let d := d.flushAll.spillSteps
  { d with usb := { d.usb with fifo := [], next := none, sof := [], sofs := 0 } }.s USB_AFILL 0

/-- Every valid key slot is rewound (R526). -/
def Dev.rewindKeys (d : Dev) : Dev :=
  (List.range 16).foldl (fun (d : Dev) k => if d.on BLW_KEYSLOT.VALID k then d.s BLW_KEYSLOT.REWIND 1 k else d) d

/-- Set the Breath to a position in a step: blocks discarded, pending words judged again, the mute held until the first
sample at or after the position is presented (R88, R91). -/
def Dev.stepBreath (d : Dev) (dest : Pos) : Dev :=
  let back := earlier dest d.brt.pos
  let d := { d with brt := { d.brt with pos := dest, rem := 0, move := none, waitRelease := some dest, rebaseReq := false } }
  let d := ((d.s BRT_STAT.JUMPED 1).cnt BRT_NJUMP).discardBlocks dest
  let d := if back then d.rewindKeys else d
  d.rejudge.setEpos

/-- Carry out the move that waited for the end of the mute ramp. -/
def Dev.doMove (d : Dev) : Dev :=
  match d.brt.move with
  | some (.jump by_) => (d.stepBreath (d.brt.pos + by_)).raise nBRT 4 0
  | some .pause => ({ d with brt := { d.brt with move := none } }.s BRT_STAT.PAUSE 1).setEpos
  | some (.rebase by_) => d.stepBreath (d.brt.pos + by_)
  | none => d

/-- Begin a move: request the soft mute; at a ramp that has already ended the move follows at once. -/
def Dev.startMove (d : Dev) (m : BrtMove) : Dev :=
  let d := { d.discontinuity with brt := { d.brt with move := some m } }.muteReq 1
  if d.g BEL_STAT.MSTATE = 2 then d.doMove else d

/-- Is a move under way, up to the release of its mute? -/
def Dev.moving (d : Dev) : Bool := d.brt.move.isSome || d.brt.waitRelease.isSome || d.on BRT_STAT.PAUSE

/-! ### Transitions of R81 -/

/-- Enter ACQUIRE. -/
def Dev.toAcquire (d : Dev) (fromFree : Bool) : Dev :=
  { (d.s BRT_STAT.STATE sACQUIRE) with
      brt := { d.brt with soft := d.brt.soft || d.brtState ≠ sTRACK, okRun := 0, bigRun := 0, firstMeas := true, acqFromFree := fromFree, outliers := 0 } }

/-- Enter FREE from HOLDOVER (notice BRT_FREE). -/
def Dev.toFree (d : Dev) : Dev := (d.s BRT_STAT.STATE sFREE).raise nBRT 3 0

/-- Enter HOLDOVER: the holdover timer starts; a BRT_HOLDMAX of 0 passes on to FREE at once (R107). -/
def Dev.toHoldover (d : Dev) : Dev :=
  let d := ({ d with brt := { d.brt with holdStart := d.brt.tbase } }.s BRT_STAT.STATE sHOLDOVER).s BRT_STAT.SLEW 0
  if d.g BRT_HOLDMAX = 0 then d.toFree else d

/-- The mean of the frequency over the last second, to the nearest 0.001 ppm (R81; notes/assumptions/12). -/
def Dev.meanFerr (d : Dev) : Int :=
  let l := d.brt.ferrLog.filter (fun e => (d.brt.tbase - e.1).toNat ≤ 100000000)
  if l.isEmpty then d.brt.filtErr else divRound (l.foldl (fun a e => a + e.2) 0) l.length

/-- The source is lost (R78, R81, R105). -/
def Dev.srcLost (d : Dev) : Dev :=
  let st := d.brtState
  let d := { (d.s BRT_STAT.SRCOK 0) with brt := { d.brt with inRange := 0, outRange := 0, vidBad := 0, hsBuf := [] } }
  let d := if d.brtSrc = srcFABRIC && !d.on BRT_STAT.MASTER then d.s BRT_FMASTER.VALID 0 else d
  if st = sACQUIRE then ((d.cnt BRT_NLOSS).raise nBRT 2 0).toHoldover
  else if st = sTRACK then (((d.setFerr d.meanFerr).cnt BRT_NLOSS).raise nBRT 2 0).toHoldover
  else d

/-- HOLDOVER or FREE to ACQUIRE once the source is valid and not refused. -/
def Dev.tryAcquire (d : Dev) : Dev :=
  if d.on BRT_STAT.SRCOK && !d.on BRT_STAT.BACKWARD && d.brtSrc ≠ srcFREE
      && (d.brtState = sHOLDOVER || d.brtState = sFREE) then d.toAcquire (d.brtState = sFREE)
  else d

/-- The refusal of a source (R81, R90). -/
def Dev.refuse (d : Dev) : Dev :=
  let d := (d.s BRT_STAT.BACKWARD 1).raise nBRT 5 0
  let d := (d.s BRT_STAT.SLEW 0).s BRT_STAT.FIRST 0
  if d.brt.acqFromFree then d.s BRT_STAT.STATE sFREE else d.toHoldover

/-! ### Phase measurement (R81, R82, R85 to R87) -/

/-- A phase error in 1/65,536 sample as nanoseconds, saturating as BRT_PHERR does. -/
def Dev.errNs (d : Dev) (e : Int) : Int := clampI (-2147483647) 2147483647 (divRound (e * 1000000000) (65536 * d.fs))

/-- Loop bandwidth in mHz: 20 Hz in ACQUIRE, BW in TRACK, never above one twentieth of the event rate (R82). -/
def Dev.loopBw (d : Dev) : Nat :=
  let base := if d.brtState = sACQUIRE then 20000 else
    match d.g BRT_CTL.BW with
    | 0 => 100
    | 1 => 1000
    | 2 => 4000
    | _ => 10000
  let lines := if d.brtSrc = srcVIDEO && d.on BRT_CTL.HSEN then d.g BRT_VID.VLINES else 1
  let rate : Rat := (d.fs : Rat) / d.srcSamples d.brtSrc * lines
  min base (rate * 1000 / 20).floor.toNat

/-- The loop filter's step: within ±1,000 ppm of nominal (R83); while it slews, within 100 ppm of the source's rate (R87);
and, in an acquisition after HOLDOVER, FREE or a change of source, no faster than 100 ppm per second (R85). -/
def Dev.filterStep (d : Dev) (ns : Int) : Dev :=
  let old := d.brt.filtErr
  let src := Config.sourceRate d.brt.srcRatio
  let free := Config.loopFilter d.loopBw old ns
  let want := clampI (-1000000) 1000000 (if d.on BRT_STAT.SLEW then clampI (src - 100000) (src + 100000) free else free)
  let dt : Int := match d.brt.ferrLog.head? with
    | some e => ((d.brt.tbase - e.1).toNat : Int) / 1000
    | none => 0
  let new := if d.brtState = sACQUIRE && d.brt.soft then clampI (old - dt) (old + dt) want else want
  let d := d.setFerr new
  let log := (d.brt.tbase, new) :: d.brt.ferrLog.filter (fun e => (d.brt.tbase - e.1).toNat ≤ 100000000)
  { d with brt := { d.brt with ferrLog := log } }

/-- The large-error rule for an error of more than 1 ms (R86); `behind` is the distance the local Breath lags. -/
def Dev.largeError (d : Dev) (behind : Int) : Dev :=
  if d.on BRT_STAT.FIRST then d.startMove (.rebase (BitVec.ofInt 64 behind))
  else if behind < 0 ∧ -behind > (d.fs * 65536 : Nat) then d.refuse
  else if !d.on BRT_CTL.JUMP then d.s BRT_STAT.SLEW 1
  else if behind > 0 then d.startMove (.jump (BitVec.ofInt 64 behind))
  else d.startMove .pause

/-- Apply the large-error rule; where it slews, the loop filter steps too. -/
def Dev.large (d : Dev) (behind ns : Int) : Dev :=
  let d := d.largeError behind
  if d.brtState = sACQUIRE && !d.moving then d.filterStep ns else d

/-- One phase measurement: the source event's position against the local position at its capture. -/
def Dev.measure (d : Dev) (src loc : Pos) : Dev :=
  if d.moving then d
  else
    let e := distance src loc
    let ns := d.errNs e
    let big : Bool := e.natAbs * 1000 > d.fs * 65536
    let inTol : Bool := ns.natAbs ≤ d.g BRT_LOCKTOL
    let d := d.s BRT_PHERR (BitVec.ofInt 32 ns).toNat
    let d := { d with brt := { d.brt with phEst := if d.brt.firstMeas then ns else Config.phaseEstimate d.loopBw d.brt.phEst ns } }
    let st := d.brtState
    if st = sACQUIRE then
      if d.brt.rebaseReq then
        { d with brt := { d.brt with firstMeas := false } }.startMove (.rebase (BitVec.ofInt 64 e))
      else if d.brt.firstMeas && big then { d with brt := { d.brt with firstMeas := false } }.large e ns
      else
        let d := { d with brt := { d.brt with firstMeas := false, okRun := if inTol then d.brt.okRun + 1 else 0 } }
        let d := (d.s BRT_STAT.SLEW (b2n !inTol)).filterStep ns
        if d.brt.okRun = 256 then
          (({ d with brt := { d.brt with soft := false } }.s BRT_STAT.STATE sTRACK).s BRT_STAT.FIRST 0).raise nBRT 1 0
        else d
    else if st = sTRACK then
      let d := { d with brt := { d.brt with bigRun := if big then d.brt.bigRun + 1 else 0 } }
      if d.brt.bigRun = 16 then { (d.toAcquire false) with brt := { (d.toAcquire false).brt with firstMeas := false } }.large e ns
      else d.filterStep ns
    else d

/-! ### Source events (R75, R79, R80, R105, R106) -/

/-- The position that a source assigns to its event `k`, line `l` of `L`, from the epoch: the quotient in exact integer
arithmetic, the fraction rounded to the nearest 1/65,536 sample, halves up (R79). -/
def Dev.eventPos (d : Dev) (k l : Nat) : Pos :=
  let e : Nat := d.g BRT_EPOCH_H * 2 ^ 32 + d.g BRT_EPOCH_L
  let (num, den) := match d.brtSrc with
    | 1 => ((k * d.g BRT_SPF_NUM * d.g BRT_VID.VLINES + l * d.g BRT_SPF_NUM), d.g BRT_SPF_DEN * d.g BRT_VID.VLINES)
    | 2 => (k * 2 ^ d.g BRT_CTL.WCDIV, 1)
    | 4 => (k * d.fs, if d.g USB_STAT.SPEED = 2 then 8000 else 1000)
    | _ => (0, 1)
  BitVec.ofNat 64 (e + (2 * num * 65536 + den) / (2 * den))

/-- Assign a position to the reference event (R75, R98). -/
def Dev.setEpoch (d : Dev) (p : Pos) : Dev :=
  (({ d with brt := { d.brt with hasEpoch := true, edgeNo := 0 } }.s BRT_EPOCH_L (p.toNat % 2 ^ 32)).s BRT_EPOCH_H
    (p.toNat / 2 ^ 32))

/-- A source event's interval over the nominal one; none for the first event. -/
def Dev.edgeRatio (d : Dev) : Option Rat :=
  d.brt.lastEdge.map (fun t => ((d.brt.tbase - t).toNat : Rat) / d.srcTicks d.brtSrc)

/-- How a source event's interval is judged: ignored as a glitch (R106), else in range or not (R78), with how many
nominal intervals have passed. -/
def Dev.judgeEdge (d : Dev) : Bool × Bool × Nat :=
  match d.edgeRatio with
  | none => (false, false, 0)
  | some x => (x * 2 < 1, 999 / 1000 ≤ x ∧ x ≤ 1001 / 1000, max 1 (Rat.floor (x + 1 / 2)).toNat)

/-- Book an accepted event: the runs in and out of range, validity after 16, loss after 16 out of range (R78, R105). -/
def Dev.bookEdge (d : Dev) (first inRange : Bool) (n : Nat) : Dev :=
  let b := d.brt
  let inr := if inRange then b.inRange + 1 else 0
  let out := if inRange || first then 0 else b.outRange + 1
  let ratio := d.edgeRatio.getD 1 / (max 1 n : Nat)
  let d := { d with brt := { b with lastEdge := some b.tbase, edgeNo := if b.hasEpoch then b.edgeNo + n else 0, inRange := inr, outRange := out,
                                    srcRatio := ratio } }
  if out = 16 then (d.s BRT_STAT.RANGE 1).srcLost
  else (d.sIf (16 ≤ inr) BRT_STAT.SRCOK 1).tryAcquire

/-- A captured event is used for phase: the first of a source without an epoch becomes its reference (R75, R98). -/
def Dev.useEvent (d : Dev) (line : Nat) (loc : Pos) : Dev :=
  if d.brtState = sACQUIRE || d.brtState = sTRACK then
    let d := if d.brt.hasEpoch then d else
      (match d.brt.heardPos with
        | some p => { d with brt := { d.brt with heardPos := none } }.setEpoch (loc + p)
        | none => d.setEpoch loc)
    d.measure (d.eventPos d.brt.edgeNo line) loc
  else d

/-- An event of the source in use arrives now; `use` says what its capture is used for. -/
def Dev.sourceEvent (d : Dev) (use : Dev → Dev) : Dev :=
  let (glitch, inRange, n) := d.judgeEdge
  if glitch then (d.s BRT_STAT.GLITCH 1).cnt BRT_NGLITCH
  else
    let first := d.brt.lastEdge.isNone
    use (d.bookEdge first inRange n)

/-- At a VS edge with HSEN set, the frame that ends is used for phase only when its HS count is right (R80). -/
def Dev.frameEnd (d : Dev) : Dev :=
  let buf := d.brt.hsBuf.reverse
  let here := d.brt.pos
  if !d.brt.hsOpen then { d with brt := { d.brt with hsOpen := true, hsCount := 0, hsBuf := [(0, here)] } }
  else
    let good : Bool := d.brt.hsCount = d.g BRT_VID.VLINES
    let d :=
      if good then
        -- the frame that ended is one frame before the edge just booked
        let k := d.brt.edgeNo
        let d := { d with brt := { d.brt with edgeNo := k - 1, vidBad := 0 } }
        let d := buf.foldl (fun d e => d.useEvent e.1 e.2) d
        { d with brt := { d.brt with edgeNo := d.brt.edgeNo + 1 } }
      else
        let d : Dev := { (d.s BRT_STAT.VIDFMT 1) with brt := { d.brt with vidBad := d.brt.vidBad + 1 } }
        if d.brt.vidBad = 4 then d.srcLost else d
    { d with brt := { d.brt with hsCount := 0, hsBuf := [(0, here)] } }

/-- A VS active edge (R79, R80, R106). -/
def vsEdge (d : Dev) : Dev :=
  if !d.on BRT_STAT.RUNNING || d.brtSrc ≠ srcVIDEO then d
  else d.sourceEvent (fun d => if d.on BRT_CTL.HSEN then d.frameEnd else
    { d with brt := { d.brt with hsOpen := false, hsBuf := [] } }.useEvent 0 d.brt.pos)

/-- An HS active edge (R80): the k-th after a VS edge begins line k. -/
def hsEdge (d : Dev) : Dev :=
  if !d.on BRT_STAT.RUNNING || d.brtSrc ≠ srcVIDEO || !d.on BRT_CTL.HSEN then d
  else
    let k := d.brt.hsCount + 1
    let buf := if k < d.g BRT_VID.VLINES && d.brt.hsOpen then (k, d.brt.pos) :: d.brt.hsBuf else d.brt.hsBuf
    { d with brt := { d.brt with hsCount := k, hsBuf := buf } }

/-- A rising edge on BTH_WC (R78). -/
def wcEdge (d : Dev) : Dev :=
  if !d.on BRT_STAT.RUNNING || d.brtSrc ≠ srcWCLK then d else d.sourceEvent (fun d => d.useEvent 0 d.brt.pos)

/-- A start of frame as the Breath's source (R78). -/
def Dev.sofSource (d : Dev) : Dev :=
  if !d.on BRT_STAT.RUNNING || d.brtSrc ≠ srcUSB then d else d.sourceEvent (fun d => d.useEvent 0 d.brt.pos)

def execBthVsEdge (s : State) : Out := onDev vsEdge s
def execBthHsEdge (s : State) : Out := onDev hsEdge s
def execBthWcEdge (s : State) : Out := onDev wcEdge s

/-- The loss timeout of the source has expired (R78, R81); FREE is never lost. -/
def execSourceLost (s : State) : Out :=
  onDev (fun d => if d.on BRT_STAT.RUNNING && d.brtSrc ≠ srcFREE then d.srcLost else d) s

/-- BRT_HOLDMAX has elapsed in HOLDOVER (R81); a source valid in the same measurement wins (R109). -/
def execHoldmaxExpiry (s : State) : Out :=
  onDev (fun d => if d.brtState = sHOLDOVER then
      (if d.on BRT_STAT.SRCOK && !d.on BRT_STAT.BACKWARD then d.tryAcquire else d.toFree)
    else d) s

/-! ### Writes (R81, R91, R110) -/

/-- The source changes (R81); before step 7 the loop does not run and only the field is set. -/
def Dev.switchSrc (d : Dev) (v : Nat) : Dev :=
  let d := d.s BRT_CTL.SRC v
  if !d.on BRT_STAT.RUNNING then d
  else
    let d := (d.s BRT_STAT.BACKWARD 0).s BRT_STAT.SRCOK 0
    let d := { d with brt := { d.brt with lastEdge := none, inRange := 0, outRange := 0, vidBad := 0, edgeNo := 0,
                                          hasEpoch := false, hsCount := 0, hsBuf := [], hsOpen := false, rebaseReq := false } }
    if v = srcFREE then ((d.s BRT_STAT.STATE sFREE).s BRT_STAT.SLEW 0).s BRT_STAT.SRCOK 1 else
      let d := d.toAcquire (d.brtState = sFREE)
      { d with brt := { d.brt with soft := true } }

/-- A write of BRT_CTL.SRC: a reserved or equal value changes nothing; during a move it waits for the mute (R7, R110). -/
def Dev.writeSrc (d : Dev) (v : Nat) : Dev :=
  if 5 ≤ v then d
  else if d.moving then { d with brt := { d.brt with srcPend := some (BitVec.ofNat 3 v) } }
  else if v = d.brtSrc then d
  else d.switchSrc v

/-- A write of 1 to BRT_CTL.REBASE (R81, R91). -/
def Dev.writeRebase (d : Dev) : Dev :=
  if d.on BRT_STAT.BACKWARD then
    let d := d.s BRT_STAT.BACKWARD 0
    if d.brtState = sHOLDOVER || d.brtState = sFREE then
      let d := d.toAcquire (d.brtState = sFREE)
      { d with brt := { d.brt with rebaseReq := true } }
    else { d with brt := { d.brt with rebaseReq := true } }
  else d

/-- With no move under way, a source write that waited for one takes effect (R110). -/
def Dev.srcWaited (d : Dev) : Dev :=
  match d.brt.srcPend with
  | some v =>
    if d.moving then d
    else
      let d := { d with brt := { d.brt with srcPend := none } }
      if v.toNat = d.brtSrc then d else d.switchSrc v.toNat
  | none => d

/-- The mute of a move has been released (R88); HS captures from before it are used for no phase. -/
def Dev.moveReleased (d : Dev) : Dev :=
  ({ d with brt := { d.brt with waitRelease := none, hsBuf := [] } }.muteEnd 1).srcWaited

/-- The source has reached the held position (R89): the count resumes, and the mute is released as after a jump. -/
def execPauseResume (s : State) : Out :=
  onDev (fun d => if d.on BRT_STAT.PAUSE then
      { (d.s BRT_STAT.PAUSE 0) with brt := { d.brt with waitRelease := some d.brt.pos } }
    else d) s

/-! ### The audio PLL (R113, R115, R731) -/

/-- Loss of lock: the mute, the flag and notice, and the relock test; a move under way is dropped and the large-error rule
applies afresh to the next measurement. -/
def pllUnlock (d : Dev) : Dev :=
  let d := { (((d.muteReq 2).s BRT_STAT.PLLUNL 1).raise nBRT 6 0) with brt := { d.brt with pllLocked := false } }
  let d := if d.moving || d.on BRT_STAT.SLEW then
      ({ ((d.s BRT_STAT.PAUSE 0).s BRT_STAT.SLEW 0) with
          brt := { d.brt with move := none, waitRelease := none, firstMeas := true, hsBuf := [] } }).muteEnd 1
    else d
  d.startTest kPll 0 0

def execPllUnlock (s : State) : Out :=
  onDev (fun d => if d.on BRT_STAT.RUNNING && d.brt.pllLocked then pllUnlock d else d) s

/-- In SAFE with PLLDOWN set the relock is tried every 100 ms; one that locks ends the PLL mute request (R731). -/
def execPllRelockRetry (locked : Bool) (s : State) : Out :=
  onDev (fun d => if d.mode = mSAFE && d.on FLT_STAT.PLLDOWN && locked then
      { (d.s FLT_STAT.PLLDOWN 0) with brt := { d.brt with pllLocked := true } }.muteEnd 2 |>.srcWaited
    else d) s

end Sys2Proof.Machine
end

