-- ==== Sys2Proof/Machine/Bell.lean ====
section
/-!
DEFINITION. The Bell (chapter 10): channels, routes and links, the fetch of rows, queue exit with underflow and the soft
mute, the latency BEL_PLAT, line and current output supervision, and the serial audio ports. The bus exchange and the input
routes, which belong to a block's stage S2, are in Machine/Block.lean.
-/
namespace Sys2Proof.Machine

/-! ### Channels (R357 to R359) -/

def OutSt.zero : OutSt where
  q := []
  row := none
  lat := none
  last := 0
  ufl := 0
  left := 0
  gain0 := 0
  counted := false
  drain := 0
  shown := 0

def Dev.outCh (d : Dev) (n : Nat) : OutSt := sget OutSt.zero n d.bel.out
def Dev.setOut (d : Dev) (n : Nat) (o : OutSt) : Dev := { d with bel := { d.bel with out := sput OutSt.zero n o d.bel.out } }

/-- Does a slot of a serial port exist in a direction? -/
def Dev.sapSlot (d : Dev) (p s : Nat) (dir : Fld) : Bool := d.on dir p && s < d.g SAP_CTL.SLOTS p

def Dev.usbIn (d : Dev) : Bool := d.on USB_STAT.AIN && d.g USB_STAT.STATE = 3
def Dev.usbOut (d : Dev) : Bool := d.on USB_STAT.AOUT && d.g USB_STAT.STATE = 3

/-- Does an output channel exist? -/
def Dev.outExists (d : Dev) (n : Nat) : Bool :=
  if n < 12 then true
  else if n < 16 then false
  else if n < 80 then d.sapSlot ((n - 16) / 16) ((n - 16) % 16) SAP_CTL.TXEN
  else n < 112 && d.usbIn && n - 80 < d.usb.inCh

/-- Is an output channel a transmit slot of a slave serial port? -/
def Dev.slaveOut (d : Dev) (n : Nat) : Bool := 16 ≤ n && n < 80 && d.on SAP_CTL.SLAVE ((n - 16) / 16)

/-! ### Codes (R360, R361) -/

/-- Saturate a code. -/
def codeClip (v : Int) : Int := clampI (-134217728) 134217727 v

/-- A source sample with a route's gain, saturated; and whether it was clipped. -/
def routeCode (gain : Nat) (v : Int) : Int × Bool :=
  let x := roundQ ((v : Rat) * gainOf gain)
  (codeClip x, codeClip x ≠ x)

/-- What a code drives: the 24-bit DAC of a line output, the 20-bit driver of a current output, a 32-bit slot. -/
def lineDac (v : Int) : BitVec 24 := BitVec.ofInt 24 (v / 16)
def currentDac (v : Int) : BitVec 20 := BitVec.ofInt 20 (v / 256)
def slotWord (v : Int) : Word := BitVec.ofInt 32 (v * 16)
/-- A received 32-bit value as a code. -/
def slotCode (w : Word) : Int := w.toInt / 16

/-! ### Links (R364, R365, R372, R393) -/

/-- Does a ring of `n` bytes lie within one bank that core `c` owns? -/
def Dev.ringOk (d : Dev) (c a n : Nat) : Bool :=
  a < bankEnd && (n = 0 || bankOf (a + n - 1) = bankOf a) && d.g BNK_OWN.OWN (bankOf a) = oChn c

/-- The four words of a link. -/
def Dev.linkWords (d : Dev) (c : Nat) : List Word := (List.range 4).map (fun i => d.reg (0x1C100 + 16 * c + 4 * i))

def linkOut (l : List Word) : Nat := (l.getD 2 0).toNat / 64 * 64
def linkIn (l : List Word) : Nat := (l.getD 0 0).toNat / 64 * 64
def linkMask (l : List Word) : Nat := (l.getD 1 0).toNat
def linkNout (l : List Word) : Nat := bitsOf (l.getD 3 0).toNat 5 0
def linkDepth (l : List Word) : Nat := bitsOf (l.getD 3 0).toNat 13 8
def linkEn (l : List Word) : Bool := bit (l.getD 3 0).toNat 16

/-- The buses of a mask, ascending. -/
def busesOf (mask : Nat) : List Nat := (List.range 32).filter (bit mask)

/-- Do both rings of a link lie within banks of its core? -/
def Dev.ringsOk (d : Dev) (c : Nat) (l : List Word) : Bool :=
  d.ringOk c (linkIn l) (2 * (busesOf (linkMask l)).length * d.blk * 4)
    && d.ringOk c (linkOut l) (linkDepth l * linkNout l * d.blk * 4)

/-! ### Row fetch (R363, R366, R369, R371, R375, R377, R403) -/

/-- Whether a row is there: it waits, it will never be there, or these are its samples. -/
inductive RowState where
  | waits
  | missing
  | ready (v : List Int)

/-- A row of 16 samples of a mix bus at position `r`: rendered, and among the last 512. -/
def Dev.busRow (d : Dev) (bus r : Nat) : RowState :=
  match d.rda.block with
  | none => .waits
  | some cur =>
    if cur * d.blk < r + 16 then .waits
    else if r < d.bel.busFrom || r + 512 < cur * d.blk then .missing
    else .ready ((List.range 16).map (fun i => sget 0 (busKey bus (r + i)) d.rda.bus))

/-- A row of 16 samples of output bus `j` of core `c` at position `r`, read from its output ring. -/
def Dev.coreRow (d : Dev) (c j r : Nat) (l : List Word) : Dev × RowState :=
  let b := d.blk
  let k := r / b
  if !linkEn l || linkNout l ≤ j || !d.ringsOk c l then (d.s BEL_STAT.LINKERR 1, .missing)
  else if (linkDepth l + 1) * b + 63 < d.g BEL_PLAT then (d.s BEL_STAT.DEPTHERR 1, .missing)
  else if (d.core c).blocks.contains k then
    let a := linkOut l + ((k % linkDepth l * linkNout l + j) * b + r % b) * 4
    let q := d.bnkRow (oChn c) a 64
    let v := (List.range 16).map (fun i =>
      if q.denied || d.bnk.poison.contains ((a + 4 * i) / 8) then 0 else signed 32 (fieldAt q.data (4 * i) 4))
    (q.dev, .ready v)
  else match d.rda.block with
    | some cur => if k + 3 ≤ cur then (d, .missing) else (d, .waits)
    | none => (d, .waits)

/-- Put the codes of a row into a queue: late ones are discarded, and so are those that meet a full queue. -/
def Dev.arrive (d : Dev) (n p : Nat) (v : Int) : Dev :=
  let exit := p + d.g BEL_PLAT
  let o := d.outCh n
  let passed : Bool := exit < whole d.brt.pos || (match d.bel.exitAt with
    | some m => exit ≤ m
    | none => false)
  if passed && !d.slaveOut n then d.cnt BEL_LATE
  else if 64 ≤ o.q.length then d.cnt BEL_NOVF
  else d.setOut n { o with q := o.q ++ [(p, v)] }

/-- The route and link that a block is fetched under: as they stand when its first row is fetched (R363, R394). -/
def Dev.latched (d : Dev) (n k : Nat) : Word × List Word :=
  match (d.outCh n).lat with
  | some (k', w, l) => if k' = k then (w, l) else fresh
  | none => fresh
  where fresh : Word × List Word :=
    let w := d.reg (BEL_ROUTE.TYPE.off n)
    (w, d.linkWords (bitsOf w.toNat 11 8))

/-- Fetch the next row of a channel that is there; rows that will never be there are passed over. -/
def Dev.fetchRow (d : Dev) (n : Nat) : Nat → Dev
  | 0 => d
  | fuel + 1 =>
    let o := d.outCh n
    let plat := d.g BEL_PLAT
    let now := whole d.brt.pos
    let r := o.row.getD ((now - plat) / 16 * 16)
    if now + 48 < r + plat then d
    else
      let k := r / d.blk
      let (w, l) := d.latched n k
      let rt := w.toNat
      let (d, st) : Dev × RowState := match bitsOf rt 1 0 with
        | 1 => (d, d.busRow (bitsOf rt 6 2) r)
        | 2 => d.coreRow (bitsOf rt 11 8) (bitsOf rt 6 2) r l
        | _ => (d, match d.rda.block with
          | some cur => if cur * d.blk < r + 16 then .waits else .missing
          | none => .waits)
      match st with
      | .waits => d
      | .missing => (d.setOut n { d.outCh n with row := some (r + 16), lat := some (k, w, l) }).fetchRow n fuel
      | .ready v =>
        let d := d.setOut n { d.outCh n with row := some (r + 16), lat := some (k, w, l) }
        let codes := v.map (routeCode (bitsOf rt 31 16))
        let d := d.cnt BEL_CLIP 0 (codes.filter (·.2)).length
        (List.range 16).foldl (fun (d : Dev) i => d.arrive n (r + i) (codes.getD i (0, false)).1) d

/-- A row fetch of a channel: a channel that does not exist, or is retired, fetches nothing. -/
def rowFetch (d : Dev) (n : Nat) : Dev :=
  if d.running && d.on BRT_STAT.RUNNING && d.outExists n && d.est kOut n ≠ RETIRED then d.fetchRow n 64 else d

def execBellRowFetch (ch : BitVec 7) (s : State) : Out := onDev (fun d => rowFetch d ch.toNat) s

/-! ### Presentation (R374 to R376, R379 to R381) -/

/-- The value a channel presents for a code or its absence, before the soft mute; and whether an episode begins to count. -/
def OutSt.present (o : OutSt) (code : Option Int) (mstate : Nat) : OutSt × Rat × Bool :=
  match code with
  | some c =>
    let o := if o.ufl = 1 && mstate ≠ 2 then
        { o with ufl := 2, left := 0, gain0 := if o.left = 0 then 1 else (o.left : Rat) / 64 }
      else if mstate = 2 then { o with ufl := 0, left := 0 } else o
    if o.ufl = 2 then
      let g : Rat := if o.left < 64 then o.gain0 * (64 - o.left : Nat) / 64 else (o.left - 64 : Nat) / 64
      let v := (c : Rat) * g
      let o := { o with last := v, left := o.left + 1, counted := false }
      (if o.left = 128 then { o with ufl := 0, left := 0 } else o, v, false)
    else ({ o with last := c, ufl := 0, left := 0, counted := false }, c, false)
  | none =>
    if mstate = 2 then ({ o with ufl := 0, left := 0, last := 0, counted := false }, 0, false)
    else
      let begin_ : Bool := mstate = 0 && !(o.ufl = 1 && o.counted)
      let counted := (o.ufl = 1 && o.counted) || mstate = 0
      if o.ufl = 1 then
        let left := o.left - 1
        ({ o with left := left, counted := counted }, o.last * left / 64, begin_)
      else ({ o with ufl := 1, left := 64, counted := counted }, o.last, begin_)

/-- The exit of one channel with its code or none. -/
def Dev.exitChannel (d : Dev) (n : Nat) (code : Option Int) : Dev :=
  let o := d.outCh n
  let est := d.est kOut n
  if est = RETIRED then d.setOut n { o with shown := 0 }
  else if est = DISABLED || (est = DRAINING && 64 ≤ o.drain) then
    d.setOut n { o with shown := 0, last := 0, ufl := 0, left := 0 }
  else
    let off : Bool := d.g BEL_ROUTE.TYPE n = 0 && code.isNone
    let (o, v, fresh) := if off then ({ o with last := 0, ufl := 0, left := 0 }, (0 : Rat), false)
      else o.present code (d.g BEL_STAT.MSTATE)
    let o := { o with drain := if est = DRAINING then o.drain + 1 else 0 }
    let v := if est = DRAINING then v * (64 - o.drain : Nat) / 64 else v
    let shown := if d.on BEL_OSTATE.SHORT n then 0 else roundQ (v * d.bel.g)
    let d := d.setOut n { o with shown := shown }
    if fresh then ((d.setFlag BEL_UFL n true).cnt BEL_NUFL).raiseOnce nBEL 1 n 0 else d

/-- Every channel whose codes leave at the Breath's instants. -/
def Dev.exitChannels (d : Dev) : List Nat := (List.range 112).filter (fun n => d.outExists n && !d.slaveOut n)

/-- The Breath has reached the positions up to `upto`: each OUT frame whose position it is becomes an input sample; an empty
FIFO counts an underflow, and the next frame is placed as a first frame (R568). -/
def usbDrain (upto : Nat) : Nat → Usb → Usb × Nat
  | 0, u => (u, 0)
  | fuel + 1, u =>
    match u.next with
    | none => (u, 0)
    | some q =>
      if upto < q then (u, 0)
      else match u.fifo with
        | [] => ({ u with next := none }, 1)
        | f :: t => usbDrain upto fuel { u with fifo := t, next := some (q + 1), taken := u.taken ++ [(q, f)] }

def Dev.usbTake (d : Dev) (upto : Nat) : Dev :=
  let r := usbDrain upto 1025 d.usb
  ({ d with usb := r.1 }.cnt USB_AUNDER 0 r.2).s USB_AFILL r.1.fifo.length

/-- Move the gain of the soft mute by one sample of its ramp. -/
def Dev.rampStep (d : Dev) : Dev :=
  let r : Rat := 1 / (max 1 (d.g BEL_MUTE.RAMP) : Nat)
  match d.g BEL_STAT.MSTATE with
  | 1 => { d with bel := { d.bel with g := max 0 (d.bel.g - r) } }
  | 3 => { d with bel := { d.bel with g := min 1 (d.bel.g + r) } }
  | _ => d

/-- Has stage S2 computed the sample of a position? -/
def Dev.computed (d : Dev) (p : Nat) : Bool :=
  d.bel.busFrom ≤ p && (match d.rda.block with
    | some cur => p / d.blk < cur
    | none => false)

/-- A computed sample has been presented: what waits for it is released (R88, R373, R379). -/
def Dev.released (d : Dev) (p : Nat) (left : Bool) : Dev :=
  let d := if left then { d with bel := { d.bel with started := true } } else d
  let d := if left && d.bel.platWait then { d with bel := { d.bel with platWait := false } }.muteEnd 5 else d
  let d := match d.brt.waitRelease with
    | some q => if left && !later q (posOf p) && !d.on BRT_STAT.PAUSE then d.moveReleased else d
    | none => d
  d.muteCheck

/-- The queue exits of the next Breath sample that has none yet (R367). -/
def queueExit (d : Dev) : Dev :=
  if !d.running || !d.on BRT_STAT.RUNNING then d
  else
    let now := whole d.brt.pos
    let n := match d.bel.exitAt with
      | some m => m + 1
      | none => now
    if now < n then d
    else
      let plat := d.g BEL_PLAT
      let d := ({ d with bel := { d.bel with exitAt := some n } }.rampStep).usbTake n
      if n < plat then d
      else
        let p := n - plat
        let chs := d.exitChannels
        let codeOf : OutSt → Option Int := fun o => (o.q.find? (fun c => c.1 = p)).map (·.2)
        let some_ := chs.any (fun c => (codeOf (d.outCh c)).isSome)
        let routed := chs.any (fun c => d.g BEL_ROUTE.TYPE c ≠ 0)
        let d := chs.foldl (fun (d : Dev) c =>
          let o := d.outCh c
          (d.setOut c { o with q := o.q.filter (fun e => p < e.1) }).exitChannel c (codeOf o)) d
        let d := if d.usbIn then
            { d with usb := { d.usb with inFrames := d.usb.inFrames ++
              [(List.range d.usb.inCh).map (fun u => (d.outCh (80 + u)).shown)] } } else d
        d.released p (some_ || (!routed && d.computed p))

def execQueueExit (s : State) : Out := onDev queueExit s

/-! ### The end of a mute ramp, and BEL_PLAT (R370, R373, R379, R395, R678) -/

/-- Apply a new BEL_PLAT: every queued code is discarded. -/
def Dev.applyPlat (d : Dev) : Dev :=
  match d.bel.platPend with
  | some v =>
    let d := d.s BEL_PLAT v
    { d with bel := { d.bel with
        platPend := none
        platWait := true
        out := d.bel.out.map (fun (e : Nat × OutSt) => (e.1, { e.2 with q := [], row := none, lat := none })) } }
  | none => d

/-- A mute ramp has reached its end: MUTED or UNMUTED. -/
def muteRampEnd (d : Dev) : Dev :=
  if d.g BEL_STAT.MSTATE = 1 ∧ d.bel.g ≤ 0 then
    let d := d.s BEL_STAT.MSTATE 2
    let d := (d.doMove).applyPlat
    let d := if d.mode = mSAFE then d.safeClear else d
    d.muteCheck
  else if d.g BEL_STAT.MSTATE = 3 ∧ 1 ≤ d.bel.g then d.s BEL_STAT.MSTATE 0
  else d

def execMuteRampEnd (s : State) : Out := onDev muteRampEnd s

/-- MUTE_OUT is high in MUTED (R379). -/
def Dev.muteOut (d : Dev) : Bool := d.g BEL_STAT.MSTATE = 2

/-- Effect of a write of BEL_MUTE: a reserved RAMP has been put back by the register rule. -/
def Dev.writeMute (d : Dev) (w : Word) : Dev :=
  let was := d.on BEL_MUTE.HMUTE
  let d := d.setReg BEL_MUTE.HMUTE.base w
  let now := bit w.toNat 0
  if now && !was then d.muteReq 4 else if was && !now then d.muteEnd 4 else d

/-- Effect of a write of BEL_PLAT: outside its range it is ignored; in RUN and DEFAULTS it waits for the mute; in other modes
it is in force at once. -/
def Dev.writePlat (d : Dev) (v : Nat) : Dev :=
  if v < 3 * d.blk || 512 < v then d
  else if d.mode = mRUN || d.mode = mDEFAULTS then
    let d := { d with bel := { d.bel with platPend := some v } }.muteReq 5
    if d.g BEL_STAT.MSTATE = 2 then d.applyPlat else d
  else d.s BEL_PLAT v

/-! ### Supervision (R383 to R385, R400) -/

/-- The end of a read-back window with its rms difference in Q8.8 dBFS: two bad ones in a row are a mismatch. -/
def readbackWindow (d : Dev) (lo : Nat) (diff : Half) : Dev :=
  if d.est kOut lo ≠ ENABLED || d.on BEL_OSTATE.MONRET lo || !d.bel.started || d.bel.rbStep.getD lo 0 ≠ 0 then d
  else if (BitVec.ofNat 16 (d.g BEL_RBTOL)).toInt < diff.toInt then
    if d.bel.rbBad.getD lo 0 = 1 then
      { d with bel := { d.bel with rbBad := setAt d.bel.rbBad lo 0, rbStep := setAt d.bel.rbStep lo 1 } }.startTest kOut lo 0
    else { d with bel := { d.bel with rbBad := setAt d.bel.rbBad lo 1 } }
  else { d with bel := { d.bel with rbBad := setAt d.bel.rbBad lo 0 } }

def execReadbackWindow (lo : BitVec 3) (diff : Half) (s : State) : Out := onDev (fun d => readbackWindow d lo.toNat diff) s

/-- The current limit has held for 1 ms. -/
def execLoCurrentLimit (lo : BitVec 3) (s : State) : Out :=
  onDev (fun d =>
    if d.est kOut lo.toNat = RETIRED || d.on BEL_OSTATE.SHORT lo.toNat then d
    else ((d.setOut lo.toNat { d.outCh lo.toNat with shown := 0 }).s BEL_OSTATE.SHORT 1 lo.toNat).raise nBEL 2 lo.toNat) s

/-- The output was released for 1 ms; `holds` says whether the limit still holds. -/
def execLoShortRetry (lo : BitVec 3) (holds : Bool) (s : State) : Out :=
  onDev (fun d => if d.on BEL_OSTATE.SHORT lo.toNat && !holds then d.s BEL_OSTATE.SHORT 0 lo.toNat else d) s

/-- A current output's node has been outside its window for 16 samples. -/
def execCoComplianceFlag (co : BitVec 2) (s : State) : Out :=
  onDev (fun d =>
    let n := 8 + co.toNat
    if d.est kOut n = RETIRED || d.on BEL_OSTATE.LOAD n then d
    else ((d.s BEL_COSTAT.COMPL (d.g BEL_COSTAT.COMPL ||| 2 ^ co.toNat)).cnt BEL_COMPLN).startTest kOut n 0) s

/-- The output was returned to its pin for 1 ms; `holds` says whether compliance held. -/
def execCoLoadRetry (co : BitVec 2) (holds : Bool) (s : State) : Out :=
  onDev (fun d => if d.on BEL_OSTATE.LOAD (8 + co.toNat) && holds then d.s BEL_OSTATE.LOAD 0 (8 + co.toNat) else d) s

/-! ### Serial audio ports (R386 to R391, R402) -/

/-- A slip is counted, and reported at most once per block. -/
def Dev.slip (d : Dev) (p : Nat) : Dev := (((d.s SAP_STAT.SLIP 1 p).cnt SAP_SLIP p)).raiseOnce nSAP 1 p p

/-- Keep a received frame's samples for a position. -/
def Dev.sapKeep (d : Dev) (p pos : Nat) (slots : List Word) : Dev :=
  { d with bel := { d.bel with sapIn := d.bel.sapIn ++ [(p, pos, slots.map slotCode)] } }

/-- The transmitted slots of a port: what its channels present. -/
def Dev.sapSend (d : Dev) (p : Nat) : Dev :=
  let l := (List.range (d.g SAP_CTL.SLOTS p)).map (fun s => slotWord (d.outCh (16 + 16 * p + s)).shown)
  { d with bel := { d.bel with sapSent := setAt d.bel.sapSent p l } }

/-- A frame of a serial port: in master mode the frame of the Breath's whole position, once; in slave mode whenever the
external clock brings one. -/
def sapFrame (d : Dev) (p : Nat) (slots : List Word) (bclks : Nat) : Dev :=
  let tx := d.on SAP_CTL.TXEN p
  let rx := d.on SAP_CTL.RXEN p
  let now := whole d.brt.pos
  if !d.running || !d.on BRT_STAT.RUNNING || (!tx && !rx) then d
  else if !d.on SAP_CTL.SLAVE p then
    if (d.bel.sapAt.getD p none) = some now then d
    else
      let d := { d with bel := { d.bel with sapAt := setAt d.bel.sapAt p (some now) } }
      let d := if tx then d.sapSend p else d
      if rx then d.sapKeep p now slots else d
  else
    let d := if bclks ≠ d.g SAP_CTL.SLOTS p * 32 then (d.s SAP_STAT.FRERR 1 p).cnt SAP_FRERR p else d
    let d := if tx then
        ((List.range (d.g SAP_CTL.SLOTS p)).foldl (fun (d : Dev) s =>
          let n := 16 + 16 * p + s
          let o := d.outCh n
          (d.setOut n { o with q := o.q.tail }).exitChannel n (o.q.head?.map (·.2))) d).sapSend p
      else d
    if rx then
      let t := (d.brt.pos.toNat + 32768) / 65536
      let taken : Bool := d.bel.sapIn.any (fun e => e.1 = p && e.2.1 = t) || (match d.rda.block with
        | some cur => t < cur * d.blk
        | none => false)
      if taken then d.slip p else d.sapKeep p t slots
    else d

def execSapFrame (port : BitVec 2) (slots : List Word) (bclks : Nat) (s : State) : Out :=
  onDev (fun d => sapFrame d port.toNat slots bclks) s

/-- No BCLK edge for 4 frame periods in slave mode: the transmit queues underflow (R402). -/
def sapClockLoss (d : Dev) (p : Nat) : Dev :=
  if !d.on SAP_CTL.SLAVE p || !(d.on SAP_CTL.TXEN p || d.on SAP_CTL.RXEN p) then d
  else
    let d := (d.s SAP_STAT.CLKLOSS 1 p).raise nSAP 2 p
    if d.on SAP_CTL.TXEN p then
      (List.range (d.g SAP_CTL.SLOTS p)).foldl (fun (d : Dev) s => d.exitChannel (16 + 16 * p + s) none) d
    else d

def execSapClockLoss (port : BitVec 2) (s : State) : Out := onDev (fun d => sapClockLoss d port.toNat) s

/-- Effect of a write of SAP_CTL: one that breaks a limit of R388 is ignored. -/
def Dev.writeSapCtl (d : Dev) (p : Nat) (w : Word) : Dev :=
  let slots := bitsOf w.toNat 8 4
  let most := 16 / 2 ^ d.rateClass
  if most < slots || (!bit w.toNat 3 && slots ≠ 2) then d
  else d.setReg (SAP_CTL.TXEN.off p) w

end Sys2Proof.Machine
end

