-- ==== Sys2Proof/Machine/Keys.lean ====
section
/-!
DEFINITION. Group keys and epochs (R524 to R532), and the geometry of audio stream slots (R540, R541, R545).
-/
namespace Sys2Proof.Machine

/-! ### Epochs -/

/-- EBASE of a key slot, and D = W − EBASE (R524). -/
def Dev.ebase (d : Dev) (k : Nat) : Nat := d.g BLW_KEYSLOT_EB_L k + d.g BLW_KEYSLOT_EB_H k * 2 ^ 32
def Dev.slotD (d : Dev) (k : Nat) : Int := (whole d.brt.pos : Int) - d.ebase k

def Dev.exhausted (d : Dev) (k : Nat) : Bool := d.slotD k < 0 || 2 ^ 38 - 1 ≤ d.slotD k

/-- Follow one slot's exhaustion and its due epoch (R525). -/
def Dev.epochSlot (d : Dev) (k : Nat) : Dev :=
  if !d.on BLW_KEYSLOT.VALID k then d
  else
    let d := d.s BLW_KEYSLOT.EXHAUST (b2n (d.exhausted k)) k
    let d := if d.exhausted k && !d.blw.toldEx.contains k then
        { d with blw := { d.blw with toldEx := k :: d.blw.toldEx } }.raise nBLW 5 k else d
    if (2 ^ 37 ≤ d.slotD k) && !d.blw.toldDue.contains k then
      ({ d with blw := { d.blw with toldDue := k :: d.blw.toldDue } }.s BLW_SECSTAT.EPOCHDUE 1).raise nBLW 6 k else d

def Dev.epochScan (d : Dev) : Dev := (List.range 16).foldl (fun d k => d.epochSlot k) d

/-- A slot's epoch begins anew: what was reported for the old one may be reported again. -/
def Dev.freshEpoch (d : Dev) (k : Nat) : Dev :=
  { d with blw := { d.blw with toldEx := d.blw.toldEx.erase k, toldDue := d.blw.toldDue.erase k } }

/-! ### Key slots (R530 to R532) -/

/-- Put a key, or none, into a slot; pair keys derived from the slot's earlier key go with it. -/
def Dev.putKey (d : Dev) (k epoch base : Nat) (key : Option (List Byte)) : Dev :=
  if key.isSome && d.protDead (1152 + k) then d else
  let d := { d with blw := { d.blw with keys := setAt d.blw.keys k key,
                                        cache := d.blw.cache.filter (fun e => e.1.slot.toNat ≠ k) } }
  let d := ((d.s BLW_KEYSLOT.EPOCH epoch k).s BLW_KEYSLOT.VALID (b2n key.isSome) k).s BLW_KEYSLOT.REWIND 0 k
  (((d.s BLW_KEYSLOT_EB_L base k).s BLW_KEYSLOT_EB_H (base / 2 ^ 32) k).s BLW_KEYSLOT.EXHAUST 0 k).freshEpoch k

/-- A wrapped entry is refused: counted and reported with the slot that it names. -/
def Dev.keyBad (d : Dev) (slot : Nat) : Dev := (d.cnt BLW_KEYBAD).raise nBLW 8 slot

/-- Decrypt a wrapped entry into the slot it names (R531): the error code of BLW_KEYRES. -/
def Dev.loadWrapped (d : Dev) (wrap : List Byte) (e : List Byte) : Dev × Nat :=
  let slot := fieldAt e 0 1
  match Config.gcmOpen wrap (slice e 0x10 12) (slice e 0 0x20) (slice e 0x20 48) with
  | none => (d.keyBad (slot % 16), 2)
  | some key =>
    if 16 ≤ slot || fieldAt e 1 1 ≠ 0 || fieldAt e 4 4 ≠ 0 || fieldAt e 0xE 2 ≠ 0 || fieldAt e 0x1C 4 ≠ 0 then
      (d.keyBad (slot % 16), 4)
    else (d.putKey slot (fieldAt e 2 2) (fieldAt e 8 6) (some key), 0)

/-- LOAD of the entry at BLW_KEYSRC. -/
def Dev.keyLoad (d : Dev) (wrap : List Byte) : Dev × Nat :=
  let a := d.g BLW_KEYSRC * 16
  let own := d.g BNK_OWN.OWN (bankOf a)
  if bankEnd ≤ a + 79 || bankOf (a + 79) ≠ bankOf a || !(own = oHost || own = oUsb || own = oBlw) then (d, 1)
  else d.loadWrapped wrap (memBytes d.bnk.mem a 80)

/-- EPOCH of a slot: newer than the old by the serial rule. -/
def Dev.keyEpoch (d : Dev) (k : Nat) : Dev × Nat :=
  let new := d.g BLW_KEYARG.EPOCH
  if !newerSeq 16 new (d.g BLW_KEYSLOT.EPOCH k) then (d, 3)
  else
    let base := d.g BLW_KEYEB_L + d.g BLW_KEYEB_H * 2 ^ 32
    (((((d.s BLW_KEYSLOT.EPOCH new k).s BLW_KEYSLOT_EB_L base k).s BLW_KEYSLOT_EB_H (base / 2 ^ 32) k).s
      BLW_KEYSLOT.REWIND 0 k).freshEpoch k, 0)

/-- Effect of a write of BLW_KEYCMD (R532). -/
def Dev.writeKeyCmd (d : Dev) (wrap : List Byte) (v : Nat) : Dev :=
  let k := bitsOf v 7 4
  match v % 4 with
  | 1 => let r := d.keyLoad wrap; r.1.s BLW_KEYRES.ERR r.2
  | 2 => let r := d.keyEpoch k; r.1.s BLW_KEYRES.ERR r.2
  | 3 => (d.putKey k 0 0 none).s BLW_KEYRES.ERR 0
  | _ => d

/-! ### Stream slots (R540, R541, R545) -/

def Dev.strBuses (d : Dev) (s : Nat) : List Nat := busesOf (d.g BLW_STR_MASK s)
/-- Data length of an entry, and its length in the ring. -/
def Dev.strLen (d : Dev) (s : Nat) : Nat := 16 + (d.strBuses s).length * d.blk * 4
def Dev.strSize (d : Dev) (s : Nat) : Nat := (d.strLen s + 63) / 64 * 64
def Dev.strAddr (d : Dev) (s : Nat) : Nat := d.g BLW_STR_ADDR s * 64
/-- Entry of the block at position `p`, and its address. -/
def Dev.strEntry (d : Dev) (s p : Nat) : Nat := p / d.blk % max 1 (d.g BLW_STR.DEPTH s)
def Dev.strEntryAddr (d : Dev) (s e : Nat) : Nat := d.strAddr s + e * d.strSize s

/-- The local bounds of R545 on the words of a slot: type, depth and latency. -/
def strBounds (blk w0 lat : Nat) : Bool :=
  let type := bitsOf w0 3 2
  let depth := bitsOf w0 13 8
  type ≠ 0 && 2 ≤ depth && depth ≤ 63 && lat % blk = 0 && (if type = 2 then 3 else 2) * blk ≤ lat && lat ≤ 4096
    && lat + blk ≤ depth * blk

/-- Is the stream on, in a direction? -/
def Dev.strOn (d : Dev) (s dir : Nat) : Bool := d.on BLW_STR.EN s && d.g BLW_STR.DIR s = dir

/-- A miss of a slot: counted in the slot and over all slots, and for a spill return in VAL_RETLATE (R550). -/
def Dev.strMiss (d : Dev) (s : Nat) : Dev :=
  let d := (d.cnt BLW_STR_MISS.MISS s).cnt BLW_STRMISS
  if d.g BLW_STR.DIR s = 1 && (List.range 16).any (fun k => d.on VAL_PEER.EN k && d.g VAL_PEER_RXSLOT.RXSLOT k = s) then
    d.cnt VAL_RETLATE else d

end Sys2Proof.Machine
end

