-- ==== Sys2Proof/Machine/Packets.lean ====
section
/-!
DEFINITION. Packets of the transport (chapters 12 and 13): the header of R456, planes and their choice, what a packet is
sent through (pair keys, their cache and derivation, the packet counter), and the first three checks of R516 on what has
been received.
-/
namespace Sys2Proof.Machine

/-! ### The header (R456, R457) -/

/-- A Kreovouri header, its fields as they stand in the bytes, reserved bits included. -/
structure Hdr where
  ver  : Nat
  op   : Nat
  tc   : Nat
  flags : Nat
  src  : Nat
  dst  : Nat
  tag  : Nat
  psn  : Nat
  plen : Nat
  pd   : Nat
  aux  : Nat
  spos : Pos
  mpos : Pos
  mlen : Nat
  addr : Nat
  rkey : Nat
  rcount : Nat
  resv : Nat
deriving DecidableEq, Repr

def Hdr.bytes (h : Hdr) : List Byte :=
  [BitVec.ofNat 8 h.ver, BitVec.ofNat 8 h.op, BitVec.ofNat 8 h.tc, BitVec.ofNat 8 h.flags]
    ++ leBytes 2 h.src ++ leBytes 2 h.dst ++ leBytes 2 h.tag ++ leBytes 2 h.psn ++ leBytes 2 h.plen
    ++ [BitVec.ofNat 8 h.pd, BitVec.ofNat 8 h.aux] ++ leBytes 8 h.spos.toNat ++ leBytes 8 h.mpos.toNat
    ++ leBytes 4 h.mlen ++ leBytes 4 h.addr ++ leBytes 4 h.rkey ++ leBytes 2 h.rcount ++ leBytes 2 h.resv

def readHdr (l : List Byte) : Hdr where
  ver := fieldAt l 0 1
  op := fieldAt l 1 1
  tc := fieldAt l 2 1
  flags := fieldAt l 3 1
  src := fieldAt l 4 2
  dst := fieldAt l 6 2
  tag := fieldAt l 8 2
  psn := fieldAt l 0xA 2
  plen := fieldAt l 0xC 2
  pd := fieldAt l 0xE 1
  aux := fieldAt l 0xF 1
  spos := BitVec.ofNat 64 (fieldAt l 0x10 8)
  mpos := BitVec.ofNat 64 (fieldAt l 0x18 8)
  mlen := fieldAt l 0x20 4
  addr := fieldAt l 0x24 4
  rkey := fieldAt l 0x28 4
  rcount := fieldAt l 0x2C 2
  resv := fieldAt l 0x2E 2

def Hdr.sec (h : Hdr) : Bool := bit h.flags 0
def Hdr.bump (h : Hdr) : Bool := bit h.flags 2
def Hdr.w64 (h : Hdr) : Bool := bit h.flags 3
def Hdr.done (h : Hdr) : Bool := bit h.flags 6
def Hdr.cast (h : Hdr) : Bool := h.dst = 0xFFF

def fSEC : Nat := 1
def fRETX : Nat := 16
def fDUP : Nat := 32
def fDONE : Nat := 64

/-- Beacon kinds (R537). -/
def kBEACON : Nat := 0
def kDREQ : Nat := 1
def kDRESP : Nat := 2

/-- Is a header well formed, and the frame long enough for its payload (R457)? -/
def goodHdr (h : Hdr) (hdrLen rest : Nat) : Bool :=
  hdrLen = 48 && h.ver = 1 && 1 ≤ h.op && h.op ≤ 10 && h.tc < 4 && h.src < 4096 && h.dst < 4096 && h.tag < 4096
    && h.psn < 8192 && h.pd < 64 && h.resv = 0 && h.plen ≤ 2048 && h.plen + (if h.sec then 24 else 0) ≤ rest
    && !(h.op = xBEACON && 3 ≤ h.aux)

/-! ### Nodes and planes (R450 to R454) -/

def Dev.node (d : Dev) : Nat := d.g BLW_NODE

/-- The node address of a node on a plane (R451). -/
def nodeAddr (n p : Nat) : List Byte :=
  [0x02, 0x5A, 0x53, 0x4C, BitVec.ofNat 8 (16 * p + n / 256 % 16), BitVec.ofNat 8 n]

def Dev.usable (d : Dev) (p : Nat) : Bool := d.est kPort p = ENABLED && d.on MAC_STAT.LINK p && d.g MAC_STAT.LECLVL p < 3

/-- The effective weight of a plane. -/
def Dev.weight (d : Dev) (p : Nat) : Nat :=
  let w := bitsOf (d.g BLW_PLANE.W) (4 * p + 3) (4 * p)
  if !d.usable p then 0 else if d.g MAC_STAT.LECLVL p = 2 then (w + 3) / 4 else w

/-- BLW_PLANE.EW. -/
def Dev.planeEw (d : Dev) : Nat := (List.range 4).foldl (fun a p => a + d.weight p * 16 ^ p) 0

/-- Length on the line of a packet's frame on a plane (R455). -/
def Dev.frameLen (d : Dev) (p plen : Nat) (sec : Bool) : Nat :=
  66 + plen + (if d.on MAC_TAG.TAGEN p then 4 else 0) + (if sec then 24 else 0)

/-- May a packet go on a plane: no frame is longer than MACn_MAXFRM (R414)? -/
def Dev.fits (d : Dev) (p plen : Nat) (sec : Bool) : Bool := d.frameLen p plen sec ≤ d.g MAC_MAXFRM p

/-- Smooth weighted round robin: each plane gains its weight, the richest is taken and pays the total (R453). -/
def Dev.wrr (d : Dev) (plen : Nat) (sec : Bool) : Option (Dev × Nat) :=
  let ws : List Nat := (List.range 4).map (fun p => if d.fits p plen sec then d.weight p else 0)
  let total := ws.sum
  if total = 0 then none
  else
    let cr : List Int := (List.range 4).map (fun p => d.blw.credit.getD p 0 + (ws.getD p 0 : Int))
    let best := firstBy (fun a b => cr.getD b 0 < cr.getD a 0) ((List.range 4).filter (fun p => ws.getD p 0 ≠ 0))
    best.map (fun p =>
      ({ d with blw := { d.blw with credit := setAt cr p (cr.getD p 0 - (total : Int)) } }, p))

/-- The plane of a retransmission: the next in rotation with a weight, or the same one (R453). -/
def Dev.nextPlane (d : Dev) (last : Nat) : Nat :=
  (([1, 2, 3].map (fun i => (last + i) % 4)).find? (fun p => d.weight p ≠ 0)).getD last

/-- The plane of an answer: that of the packet, or the next usable one (R454). -/
def Dev.answerPlane (d : Dev) (p : Nat) : Option Nat := ([0, 1, 2, 3].map (fun i => (p + i) % 4)).find? d.usable

/-- Planes that carry beacons and panic (R424). -/
def Dev.tcZeroPlanes (d : Dev) : List Nat := (List.range 4).filter (fun n => d.portUp n)

/-! ### Sending (R426, R452, R520 to R525) -/

/-- Hand a packet to the ports of its planes, its SPOS the position now; each copy is a packet sent. A DRAINING port refuses
TC1 to TC3 (R437). -/
def Dev.emit (d : Dev) (planes : List Nat) (f : TxFrame) : Dev :=
  let h := readHdr f.hdr
  let hdr := if f.timed then f.hdr else overlay f.hdr 0x10 (leBytes 8 d.brt.pos.toNat)
  planes.foldl (fun (d : Dev) p =>
    if d.portUp p && (f.tc = 0 || d.est kPort p = ENABLED) && d.fits p h.plen h.sec then
      (d.enqueue p { f with hdr := hdr, dst := if h.cast then d.fabMc p else nodeAddr h.dst p }).cnt BLW_TXPKT
    else d) d

/-- The key slot of a domain can send: it holds a key and is neither exhausted nor rewound (R512, R525, R526). -/
def Dev.slotSends (d : Dev) (k : Nat) : Bool :=
  d.on BLW_KEYSLOT.VALID k && !d.exhausted k && !d.on BLW_KEYSLOT.REWIND k

def Dev.pdSlot (d : Dev) (pd : Nat) : Nat := d.g BLW_PD.KSLOT pd

/-- Can packets of a domain be sent now? -/
def Dev.pdSends (d : Dev) (pd : Nat) : Bool := !d.on BLW_PD.SECURE pd || d.slotSends (d.pdSlot pd)

/-- The names of the pair key between two nodes; a broadcast uses the sender and 0xFFF (R522). -/
def pairOf (slot epoch src dst : Nat) : PairId :=
  let (lo, hi) := if dst = 0xFFF then (src, 0xFFF) else (min src dst, max src dst)
  ⟨BitVec.ofNat 4 slot, BitVec.ofNat 16 epoch, BitVec.ofNat 12 lo, BitVec.ofNat 12 hi⟩

/-- The input of the key derivation (R522). -/
def kdfInput (i : PairId) : List Byte :=
  [0, 0, 0, 1, 0x4B, 0x52, 0x56, 0x50, 0x41, 0x49, 0x52, 0x31, 0] ++ beBytes 2 i.epoch.toNat ++ beBytes 2 i.lo.toNat
    ++ beBytes 2 i.hi.toNat ++ [0, 0, 1, 0]

/-- Entries of the pair-key cache: 256, less those of retired rows (R523, R558). -/
def Dev.cacheRoom (d : Dev) : Nat := ((List.range 256).filter (fun k => !d.protDead (1168 + k))).length

/-- Look a pair key up in the cache; a hit makes it the most recently used (R523). -/
def Dev.cached (d : Dev) (i : PairId) : Option (Dev × List Byte) :=
  (d.blw.cache.lookup i).map (fun k =>
    ({ d with blw := { d.blw with cache := (i, k) :: d.blw.cache.filter (fun e => e.1 ≠ i) } }, k))

/-- Set a packet aside behind the derivation of its key (R523). -/
def Dev.setAside (d : Dev) (i : PairId) (rx : List Pkt) (tx : List (List Nat × TxFrame)) : Dev :=
  let d := d.cnt BLW_KEYMISS
  let l := if d.blw.derive.any (fun e => e.id = i) then
      d.blw.derive.map (fun (e : Derive) => if e.id = i then { e with rx := e.rx ++ rx, tx := e.tx ++ tx } else e)
    else d.blw.derive ++ [⟨i, rx, tx⟩]
  { d with blw := { d.blw with derive := l } }

/-- The counter of the next secure packet of a slot, when this whole sample still admits one (R524). -/
def Dev.nextPctr (d : Dev) (slot : Nat) : Option Nat :=
  let s := (d.slotD slot).toNat
  let v := max (d.blw.pctr.toNat + 1) (s * 1024)
  if v < (s + 1) * 1024 then some v else none

/-- Take the counter and hand a secure packet to the ports. -/
def Dev.emitSecure (d : Dev) (planes : List Nat) (slot v : Nat) (key : List Byte) (f : TxFrame) : Dev :=
  let d := { d with blw := { d.blw with pctr := BitVec.ofNat 48 v } }
  let d := (d.s BLW_PCTR_L v).s BLW_PCTR_H (v / 2 ^ 32)
  d.emit planes { f with pre := leBytes 6 v ++ leBytes 2 (d.g BLW_KEYSLOT.EPOCH slot), key := some key }

/-- Send a secure packet: it needs its pair key and a counter, and waits aside for either. -/
def Dev.sendSecure (d : Dev) (planes : List Nat) (slot : Nat) (f : TxFrame) : Dev :=
  let h := readHdr f.hdr
  let i := pairOf slot (d.g BLW_KEYSLOT.EPOCH slot) h.src h.dst
  if !d.slotSends slot then d
  else match d.cached i with
    | none => d.setAside i [] [(planes, f)]
    | some (d, key) =>
      match d.nextPctr slot with
      | some v => d.emitSecure planes slot v key f
      | none =>
        ({ d with blw := { d.blw with pctrWait := d.blw.pctrWait ++ [(⟨planes, i.slot, i.lo, i.hi, f⟩ : SecFrame)] } }.s
          BLW_SECSTAT.PCTRWAIT 1).cnt BLW_PCTRWAITN

/-- Send a packet: header, payload, and whether it is secure. -/
def Dev.sendPkt (d : Dev) (planes : List Nat) (kind : TxKind) (timed : Bool) (h : Hdr) (body : List Byte) : Dev :=
  let f : TxFrame := { kind := kind, tc := BitVec.ofNat 2 h.tc, dst := [], ety := BitVec.ofNat 16 (d.g BLW_ETYPE),
                       hdr := h.bytes, pre := [], key := none, body := body, timed := timed }
  if h.sec then d.sendSecure planes (d.pdSlot h.pd) f else d.emit planes f

/-- A packet that waited for the next whole sample takes its counter and is sent (R524). -/
def Dev.counterWaitEnd (d : Dev) : Dev :=
  let go : SecFrame → Bool := fun e => d.slotSends e.slot.toNat && (d.nextPctr e.slot.toNat).isSome
  match d.blw.pctrWait.find? go with
  | some e => { d with blw := { d.blw with pctrWait := d.blw.pctrWait.erase e } }.sendSecure e.planes e.slot.toNat e.frame
  | none => d

def execSecureCounterWaitEnd (s : State) : Out := onDev Dev.counterWaitEnd s

/-- The oldest derivation ends: the key enters the cache in place of the least recently used, the packets to be sent go on,
and the received ones return to the front of the transport (R523, R554). A slot emptied meanwhile yields no key. -/
def Dev.deriveDone (d : Dev) : Dev :=
  match d.blw.derive with
  | [] => d
  | e :: rest =>
    let d := { d with blw := { d.blw with derive := rest, inbox := e.rx ++ d.blw.inbox } }
    match d.blw.keys.getD e.id.slot.toNat none with
    | none => d
    | some g =>
      let d := { d with blw := { d.blw with cache := ((e.id, Config.hmac g (kdfInput e.id)) :: d.blw.cache).take d.cacheRoom } }
      e.tx.foldl (fun (d : Dev) t => d.sendSecure t.1 e.id.slot.toNat t.2) d

def execKeyDerivationDone (s : State) : Out := onDev Dev.deriveDone s

/-! ### Answers (R454, R459) -/

/-- The header of an answer to a packet. -/
def Dev.answerHdr (d : Dev) (h : Hdr) (op flags psn plen aux addr : Nat) : Hdr where
  ver := 1
  op := op
  tc := h.tc
  flags := flags + (if h.sec then fSEC else 0)
  src := d.node
  dst := h.src
  tag := h.tag
  psn := psn % 8192
  plen := plen
  pd := h.pd
  aux := aux
  spos := 0
  mpos := h.mpos
  mlen := h.mlen
  addr := addr
  rkey := 0
  rcount := 0
  resv := 0

/-- Send an answer on the plane of its packet. -/
def Dev.answer (d : Dev) (plane : Nat) (h : Hdr) (body : List Byte) : Dev :=
  match d.answerPlane plane with
  | some p => d.sendPkt [p] .krv false h body
  | none => d

/-- Answer a packet with a NAK; a broadcast is answered by nobody (R471, R483, R517). -/
def Dev.nak (d : Dev) (p : Pkt) (h : Hdr) (code : Nat) : Dev :=
  if h.cast then d
  else
    let d := d.cnt BLW_NAKTX
    let d := if code = 1 then d.cnt BLW_BUSYTX else d
    d.answer p.plane (d.answerHdr h xNAK 0 h.psn 0 code 0) []

/-! ### The first checks (R457, R473, R477, R516, R528, R529) -/

/-- A received packet after the first checks. -/
structure Got where
  pkt  : Pkt
  h    : Hdr
  body : List Byte

/-- How a packet at the front is discarded before its kind matters: what is counted. -/
def Dev.frontDrop (d : Dev) (p : Pkt) : Option Dev :=
  let h := readHdr p.hdr
  if !d.on BLW_CTL.EN && h.op ≠ xBEACON then some d
  else if !goodHdr h p.hdr.length p.rest.length then some (d.cnt BLW_BADHDR)
  else if h.dst ≠ 0xFFF && h.dst ≠ d.node then some (d.cnt BLW_MISDIR)
  else if h.src = d.node then some d
  else none

/-- Discard the packets at the front that fail the header checks. -/
def Dev.dropFront (d : Dev) : Nat → Dev
  | 0 => d
  | fuel + 1 =>
    match d.blw.inbox with
    | [] => d
    | p :: rest =>
      match d.frontDrop p with
      | some e => { e with blw := { e.blw with inbox := rest } }.dropFront fuel
      | none => d

/-- The additional data and IV of a secure packet (R521). -/
def secIv (h : Hdr) (pre : List Byte) : List Byte := leBytes 2 (h.src % 4096) ++ slice pre 0 6 ++ List.replicate 4 0

/-- A packet that fails authentication (R529): the notice comes at most once a millisecond. -/
def Dev.authFail (d : Dev) (node : Nat) : Dev :=
  let d := d.cnt BLW_AUTHFAIL
  match d.blw.authAt with
  | some t => if (d.brt.tbase - t).toNat < 100000 then d
      else { d with blw := { d.blw with authAt := some d.brt.tbase } }.raise nBLW 7 node
  | none => { d with blw := { d.blw with authAt := some d.brt.tbase } }.raise nBLW 7 node

/-- Step 2: key slot, epoch window and authentication; the payload in clear when they pass. -/
def Dev.checkSec (d : Dev) (p : Pkt) (h : Hdr) : Dev × Option Got :=
  if !h.sec then (d, some ⟨p, h, p.rest.take h.plen⟩)
  else
    let k := d.pdSlot h.pd
    let pre := p.rest.take 8
    let epoch := fieldAt pre 6 2
    let cur := d.g BLW_KEYSLOT.EPOCH k
    let near : Bool := epoch = cur || epoch = (cur + 1) % 65536 || epoch = (cur + 65535) % 65536
    if !d.on BLW_KEYSLOT.VALID k || !near then (d.cnt BLW_BADEPOCH, none)
    else
      let i := pairOf k epoch h.src h.dst
      match d.cached i with
      | none => (d.setAside i [p] [], none)
      | some (d, key) =>
        match Config.gcmOpen key (secIv h pre) (p.hdr ++ pre) (slice p.rest 8 (h.plen + 16)) with
        | none => (d.authFail h.src, none)
        | some body => (d, some ⟨p, h, slice body 0 h.plen⟩)

/-- Step 3, without the rule of R476: lifetimes on the Breath. -/
def Dev.checkLife (d : Dev) (h : Hdr) : Dev × Bool :=
  let age := distance d.brt.pos h.spos
  let epos : Bool := match d.blw.epos with
    | some e => earlier h.mpos e
    | none => false
  if age > (d.mpl : Int) then (d.cnt BLW_STALE, false)
  else if -age > (d.usPos 100 : Int) then (d.cnt BLW_FUTURE, false)
  else if epos then (d.cnt BLW_STALE, false)
  else (d, true)

/-- Take the next packet when it is one of an operation: what is left of it after the first three checks. -/
def Dev.takePkt (d : Dev) (want : Hdr → Bool) : Dev × Option Got :=
  let d := d.dropFront d.blw.inbox.length
  match d.blw.inbox with
  | [] => (d, none)
  | p :: rest =>
    let h := readHdr p.hdr
    if !want h then (d, none)
    else
      let d := { d with blw := { d.blw with inbox := rest } }
      match d.checkSec p h with
      | (d, none) => (d, none)
      | (d, some g) =>
        let d := d.cnt BLW_RXPKT
        if h.op = xBEACON then (d, some g)
        else match d.checkLife h with
          | (d, true) => (d, some g)
          | (d, false) => (d, none)

end Sys2Proof.Machine
end

