-- ==== Sys2Proof/Machine/Initiator.lean ====
section
/-!
DEFINITION. The initiator of the transport (chapter 12): descriptors read and judged, messages started, packets sent and
resent, answers taken, and messages ended; triggered work (R535, R536), host atomics (R493) and stream blocks (R542).
-/
namespace Sys2Proof.Machine

/-! ### Descriptors (R479, R480, R496, R512, R534) -/

def Desc.evt (x : Desc) : Bool := x.trig && bit x.ctr 6

/-- A descriptor from its 64 bytes; `bad` when it holds a reserved value. With EVT set the fields it ignores are not judged. -/
def readDesc (l : List Byte) : Desc :=
  let op := fieldAt l 0 1
  let fl := fieldAt l 1 1
  let trig := bit fl 5
  let ctr := fieldAt l 0x30 1
  let evt := trig && bit ctr 6
  { op := op, flags := fl, tc := BitVec.ofNat 2 (fieldAt l 2 1), dnode := BitVec.ofNat 12 (fieldAt l 4 2),
    len := fieldAt l 8 4, laddr := fieldAt l 0xC 4, raddr := fieldAt l 0x10 4, rkey := fieldAt l 0x14 4,
    rq := BitVec.ofNat 6 (fieldAt l 0x18 1), opnd0 := BitVec.ofNat 64 (fieldAt l 0x20 8),
    opnd1 := BitVec.ofNat 64 (fieldAt l 0x28 8), ctr := ctr % 128, thresh := fieldAt l 0x34 4,
    wrid := BitVec.ofNat 64 (fieldAt l 0x38 8),
    bad := 64 ≤ fl || 4 ≤ fieldAt l 2 1 || fieldAt l 3 1 ≠ 0 || 4096 ≤ fieldAt l 4 2 && !evt || fieldAt l 6 2 ≠ 0
      || !evt && (op = 0 || 5 < op || 64 ≤ fieldAt l 0x18 1) || fieldAt l 0x19 7 ≠ 0
      || trig && (128 ≤ ctr || fieldAt l 0x31 3 ≠ 0) }

/-- Does a local range lie in one bank? -/
def oneBank (a n : Nat) : Bool := a + n ≤ bankEnd && bankOf a = bankOf (a + n - 1)

def Dev.mtu (d : Dev) : Nat := mtuOf (d.g BLW_CTL.MTU)

/-- Is a descriptor well formed for this device: no reserved value, LEN in range, its data in one bank, a broadcast or panic
a single SEND packet? -/
def Dev.descOk (d : Dev) (x : Desc) (local_ : Bool) : Bool :=
  let hasLen := !x.isAtomic
  let most := if x.op = xSEND then 65536 else min 16777216 (8192 * d.mtu)
  !x.bad && (!hasLen || (1 ≤ x.len && x.len ≤ most && (!local_ || oneBank x.laddr x.len)))
    && !(x.dnode = 0xFFF && (x.op ≠ xSEND || d.mtu < x.len)) && !(hasLen && x.panic && d.mtu < x.len)

/-- Is a domain fit for a message (R512)? -/
def Dev.pdOk (d : Dev) (pd : Nat) : Bool :=
  d.on BLW_PD.EN pd && (!d.on BLW_PD.SECURE pd || d.on BLW_KEYSLOT.VALID (d.pdSlot pd))

/-- May messages start at all, and on this queue (R479, R506, R509)? -/
def Dev.canStart (d : Dev) : Bool := d.on BLW_CTL.EN && d.running && (List.range 4).any d.usable
def Dev.queueRuns (d : Dev) (q : Nat) : Bool := d.canStart && d.est kWq q = ENABLED

/-- The descriptor at CI of a queue; none on an empty ring. -/
def Dev.descAt (d : Dev) (q : Nat) : Option (Dev × Desc) :=
  if d.g BLW_WQ_CFG.DEPTH q = 0 || d.g BLW_WQ_CI q = d.g BLW_WQ_PI q then none
  else
    let r := d.bnkRead oBlw (d.g BLW_WQ_BASE q * 64 + d.g BLW_WQ_CI q * 64) 64
    some (r.dev, readDesc r.data)

def Dev.advanceCi (d : Dev) (q : Nat) : Dev :=
  d.s BLW_WQ_CI ((d.g BLW_WQ_CI q + 1) % 2 ^ d.g BLW_WQ_CFG.DEPTH q) q

/-! ### Starting a message (R480, R488, R489, R495, R679) -/

/-- A SEND to the same target and class is still in flight (R488). -/
def Dev.sendInFlight (d : Dev) (x : Desc) : Bool :=
  d.blw.msgs.any (fun m => m.ended.isNone && m.desc.op = xSEND && m.desc.dnode = x.dnode && m.desc.class = x.class)

/-- What stands before a fenced SEND: a WRITE of the queue to its target in flight, or the status of one that failed (R489). -/
def Dev.fenceWaits (d : Dev) (q : BitVec 6) (x : Desc) : Bool :=
  d.blw.msgs.any (fun m => m.ended.isNone && m.wq = some q && m.desc.op = xWRITE && m.desc.dnode = x.dnode)

def Dev.fenceFailed (d : Dev) (q : BitVec 6) (x : Desc) : Option Nat :=
  (d.blw.bad.find? (fun b => b.1 = q && b.2.1 = x.dnode)).map (·.2.2)

/-- Why a message cannot start yet. -/
def Dev.mustWait (d : Dev) (q : BitVec 6) (x : Desc) : Bool :=
  (x.op = xSEND && (d.sendInFlight x || (x.fence && d.fenceWaits q x))) || (d.mode = mSAFE && x.class ≠ 0)

/-- A message ends before it starts. -/
def Dev.refuseMsg (d : Dev) (q : BitVec 6) (x : Desc) (k : MsgKind) (own status : Nat) : Dev :=
  match k with
  | .queue =>
    let d := if x.op = xWRITE then { d with blw := { d.blw with bad := d.blw.bad ++ [(q, x.dnode, status)] } } else d
    d.descEnd q x status 0 0 none
  | .hostAtomic => d.placeResult gAtomic [0, 0] (BitVec.ofNat 32 status)
  | .stream => d
  | k => { d with blw := { d.blw with outcomes := d.blw.outcomes ++ [(k, own, status, 0)] } }

/-- The pause for lack of tags is counted once (R495). -/
def Dev.tagPause (d : Dev) : Dev :=
  if d.blw.pausedFull then d else { d with blw := { d.blw with pausedFull := true } }.cnt BLW_TAGFULL

/-- Begin a message under a tag. -/
def Dev.beginMsg (d : Dev) (wq : Option (BitVec 6)) (x : Desc) (pd : Nat) (k : MsgKind) (own : Nat)
    (data : Option (List Byte)) : Option Dev :=
  (d.newTag).map (fun t =>
    let m : Msg := { tag := t, wq := wq, desc := x, pd := BitVec.ofNat 6 pd, mtu := d.mtu, mpos := d.brt.pos, next := 0,
                     acked := [], pkts := [], kind := k, own := own, data := data, ended := none }
    let e : Dev := { d with blw := { d.blw with msgs := d.blw.msgs ++ [m] } }
    e.showBlw)

/-- Start, refuse or hold back a message of a queue; `take` removes what posted it. -/
def Dev.tryStart (d : Dev) (q : BitVec 6) (x : Desc) (k : MsgKind) (own : Nat) (data : Option (List Byte))
    (take : Dev → Dev) : Dev :=
  let pd := d.g BLW_WQ_CFG.PD q.toNat
  if !d.descOk x data.isNone || !d.pdOk pd then (take d).refuseMsg q x k own stLOCALERR
  else if d.mustWait q x then d
  else match (if x.op = xSEND && x.fence then d.fenceFailed q x else none) with
    | some status => (take d).refuseMsg q x k own status
    | none =>
      match d.beginMsg (some q) x pd k own data with
      | some e => take e
      | none => d.tagPause

/-- A queue's next message: those that units of the device have posted come before the ring's. A descriptor with TRIG waits
for its counter (`TRIGGER_ENABLED`). -/
def workStart (d : Dev) (q : BitVec 6) : Dev :=
  if !d.queueRuns q.toNat then d
  else match d.blw.posted.find? (fun p => p.wq = q) with
    | some p => (d.tryStart q p.desc p.kind p.own p.data
        (fun d => { d with blw := { d.blw with posted := d.blw.posted.erase p } })).spillSteps
    | none =>
      match d.descAt q.toNat with
      | none => d
      | some (d, x) => if x.trig then d else d.tryStart q x .queue 0 none (fun d => d.advanceCi q.toNat)

def execWorkRequestStart (q : BitVec 6) (s : State) : Out := onDev (fun d => workStart d q) s

/-! ### Triggered work (R535, R536, R556) -/

/-- Has a trigger counter reached a threshold? -/
def trigDue (counter thresh : Nat) : Bool := (counter + 2 ^ 32 - thresh) % 2 ^ 32 < 2 ^ 31

/-- Inject the words of an event request; its descriptor ends once the last is taken in. -/
def Dev.injectWords (d : Dev) (q : BitVec 6) (x : Desc) : Dev :=
  let d := d.advanceCi q.toNat
  if x.bad || x.len % 16 ≠ 0 || x.len = 0 || 1024 < x.len || !oneBank x.laddr x.len then d.descEnd q x stLOCALERR 0 0 none
  else
    let r := d.bnkRead oBlw x.laddr x.len
    if r.denied || r.unc then r.dev.descEnd q x stBNKERR 0 0 none
    else
      let n := x.len / 16
      let ws := (List.range n).map (fun i =>
        (roariBytes (slice r.data (16 * i) 16), if i + 1 = n then some (q, x) else none))
      { r.dev with evs := { r.dev.evs with trigQ := r.dev.evs.trigQ ++ ws } }

/-- A held descriptor whose counter has reached its threshold starts. -/
def triggerEnabled (d : Dev) (q : BitVec 6) : Dev :=
  if !d.queueRuns q.toNat then d
  else match d.descAt q.toNat with
    | none => d
    | some (d, x) =>
      if !x.trig || !trigDue (d.g BLW_TRIG (x.ctr % 64)) x.thresh then d
      else if x.evt then d.injectWords q x
      else d.tryStart q x .queue 0 none (fun d => d.advanceCi q.toNat)

def execTriggerEnabled (q : BitVec 6) (s : State) : Out := onDev (fun d => triggerEnabled d q) s

/-! ### Packets of a message (R458, R460, R467, R469, R482, R483) -/

def Msg.lowest (m : Msg) : Nat := ((List.range (m.acked.length + 1)).find? (fun k => !m.acked.contains k)).getD 0

/-- The 64-bit bitmap of the members of a list above a base. -/
def bitmapFrom (l : List Nat) (base : Nat) : Nat :=
  (List.range 64).foldl (fun a i => if l.contains (base + i) then a + 2 ^ i else a) 0

/-- Flags of a message's packets. -/
def Dev.msgFlags (d : Dev) (m : Msg) (retx : Bool) : Nat :=
  let x := m.desc
  b2n (d.on BLW_PD.SECURE m.pd.toNat) + 2 * b2n x.fence + 4 * b2n (bit x.flags 2) + 8 * b2n x.w64
    + (if retx then fRETX else 0) + 128 * b2n (x.op = xSEND && x.panic)

/-- Header of packet `k` with a payload of `n` bytes. A READ request asks from packet `k`. -/
def Dev.msgHdr (d : Dev) (m : Msg) (k n : Nat) (retx : Bool) : Hdr :=
  let x := m.desc
  let u := m.mtu
  { ver := 1, op := x.op, tc := x.class.toNat, flags := d.msgFlags m retx, src := d.node, dst := x.dnode.toNat,
    tag := m.tag.toNat, psn := k, plen := n, pd := m.pd.toNat,
    aux := if x.op = xSEND then x.rq.toNat else if x.op = xREAD then Nat.log2 u - 8 else 0,
    spos := 0, mpos := m.mpos, mlen := x.mlen,
    addr := if x.op = xSEND then k * u else if x.op = xWRITE then (x.raddr + k * u) % 2 ^ 32 else x.raddr,
    rkey := if x.op = xSEND then 0 else x.rkey,
    rcount := if x.op = xREAD then min 64 (m.count - k) else 0, resv := 0 }

/-- Payload of packet `k`; none when the local read is denied or uncorrectable (R481). -/
def Dev.payload (d : Dev) (m : Msg) (k : Nat) : Dev × Option (List Byte) :=
  let x := m.desc
  if x.op = xREAD then (d, some (leBytes 8 (bitmapFrom m.acked k)))
  else if x.op = xADD then (d, some (leBytes x.width x.opnd0.toNat))
  else if x.op = xCAS then (d, some (leBytes x.width x.opnd0.toNat ++ leBytes x.width x.opnd1.toNat))
  else
    let n := pktLen x.len m.mtu k
    match m.data with
    | some l => (d, some (slice l (k * m.mtu) n))
    | none =>
      let r := d.bnkRead oBlw (x.laddr + k * m.mtu) n
      (r.dev, if r.denied || r.unc then none else some r.data)

/-- Put packet `k` on planes, or end the message on bad local data. -/
def Dev.sendOne (d : Dev) (m : Msg) (k : Nat) (planes : List Nat) (retx : Bool) : Dev × Bool :=
  match d.payload m k with
  | (d, none) => (d.endMsg m stBNKERR 0, false)
  | (d, some body) => (d.sendPkt planes (if m.desc.panic && m.desc.op = xSEND then .panic else .krv) false
      (d.msgHdr m k body.length retx) body, true)

/-- Has a message's life ended, at MPOS + MLIFE (R474)? -/
def Dev.mlifeOver (d : Dev) (m : Msg) : Bool := !earlier d.brt.pos (m.mpos + BitVec.ofNat 64 (d.usPos (d.g BLW_MLIFE * 1000)))

/-- Is a message a stream block that has reached P + LAT + B (R542)? -/
def Dev.blockOver (d : Dev) (m : Msg) : Bool :=
  let p : Pos := BitVec.ofNat 64 (fieldAt (m.data.getD []) 0 8)
  m.kind = .stream && !earlier d.brt.pos (p + posOf (d.g BLW_STR_LAT.LAT m.own + d.blk))

/-- May no packet of a message be sent any more? -/
def Dev.lifeOver (d : Dev) (m : Msg) : Bool := d.mlifeOver m || d.blockOver m

/-- Is a packet of the message due to be sent for the first time? -/
def Msg.sendable (m : Msg) : Bool :=
  if m.desc.op = xREAD then m.next = 0 else m.next < m.count && m.next < m.lowest + 64

/-- Record that packet `k` has left on a plane for the first time; MPOS is the position of the message's first packet. -/
def Dev.markSent (d : Dev) (m : Msg) (k plane : Nat) : Dev :=
  d.setMsg { m with next := k + 1, pkts := m.pkts ++ [⟨k, plane, 0, 0, 0⟩] }

/-- The next packet of a message. A panic goes to every port of R424, a broadcast to every usable plane, and then ends OK. -/
def packetSend (d : Dev) (tag : BitVec 12) : Dev :=
  match d.msg tag with
  | none => d
  | some m =>
    if m.ended.isSome || !m.sendable || !d.on BLW_CTL.EN || !d.running || (m.next ≠ 0 && d.mlifeOver m) || d.blockOver m
        || !d.pdSends m.pd.toNat then d
    else
      let k := m.next
      let m := if k = 0 then { m with mpos := d.brt.pos } else m
      let sec := d.on BLW_PD.SECURE m.pd.toNat
      let n := if m.desc.op = xREAD then 8 else if m.desc.isAtomic then m.desc.mlen else pktLen m.desc.len m.mtu k
      if m.desc.dnode = 0xFFF && !(m.desc.panic) then
        let planes := (List.range 4).filter d.usable
        if planes.isEmpty then d
        else match (d.setMsg m).sendOne m k planes false with
          | (d, true) => d.endMsg { m with acked := [0] } stOK 0
          | (d, false) => d
      else if m.desc.op = xSEND && m.desc.panic then
        match (d.setMsg m).sendOne m k d.tcZeroPlanes false with
        | (d, true) => if m.desc.dnode = 0xFFF then d.endMsg { m with acked := [0] } stOK 0 else d.markSent m k 0
        | (d, false) => d
      else match d.wrr n sec with
        | none => d
        | some (d, p) =>
          match (d.setMsg m).sendOne m k [p] false with
          | (d, true) => d.markSent m k p
          | (d, false) => d

def execPacketSend (tag : BitVec 12) (s : State) : Out := onDev (fun d => (packetSend d tag).spillSteps) s

/-! ### Resending (R453, R467, R468, R471, R500, R502) -/

/-- Change what is held of one packet. -/
def Msg.setPkt (m : Msg) (p : PktSt) : Msg := { m with pkts := m.pkts.map (fun x => if x.psn = p.psn then p else x) }

/-- Resend a packet on a plane: a READ repeats its request from its lowest missing packet. -/
def Dev.resend (d : Dev) (m : Msg) (p : PktSt) (plane : Nat) : Dev :=
  let k := if m.desc.op = xREAD then m.lowest else p.psn
  let planes := if m.desc.op = xSEND && m.desc.panic then d.tcZeroPlanes else if d.portUp plane then [plane] else []
  let m' := { m with pkts := m.pkts.map (fun x => if x.psn = p.psn then { p with psn := k, plane := plane, wait := 0 } else x),
                     next := if m.desc.op = xREAD then k + 1 else m.next }
  if planes.isEmpty || !d.pdSends m.pd.toNat then d.setMsg { m' with pkts := m'.pkts.map (fun x => if x.psn = k then { x with plane := p.plane } else x) }
  else ((d.setMsg m').sendOne m' k planes true).1

/-- A packet's timer expires: it is resent and counts a retry, or the message ends with RETRY. -/
def retransmit (d : Dev) (tag : BitVec 12) (psn : Nat) : Dev :=
  match d.msg tag with
  | none => d
  | some m =>
    match m.pkts.find? (fun p => p.psn = psn) with
    | none => d
    | some p =>
      if m.ended.isSome || p.wait ≠ 0 || d.lifeOver m then d
      else if d.g BLW_RTO.RETRIES ≤ p.retries then d.endMsg m stRETRY 0
      else
        let sends : Bool := (List.range 4).any d.usable && d.pdSends m.pd.toNat
        (if sends then d.cnt BLW_RETX else d).resend m { p with retries := p.retries + 1 } (d.nextPlane p.plane)

def execRetransmitTimeout (tag : BitVec 12) (psn : BitVec 13) (s : State) : Out :=
  onDev (fun d => (retransmit d tag psn.toNat).spillSteps) s

/-- The wait after NAK BUSY or COLLIDED ends: the packet is resent, after COLLIDED on the same plane. -/
def nakWaitEnd (d : Dev) (tag : BitVec 12) (psn : Nat) : Dev :=
  match d.msg tag with
  | none => d
  | some m =>
    match m.pkts.find? (fun p => p.psn = psn) with
    | none => d
    | some p =>
      if m.ended.isSome || p.wait = 0 || d.lifeOver m then d
      else d.resend m p (if p.wait = 2 then p.plane else d.nextPlane p.plane)

def execNakResendWaitEnd (tag : BitVec 12) (psn : BitVec 13) (s : State) : Out :=
  onDev (fun d => (nakWaitEnd d tag psn.toNat).spillSteps) s

/-- The Breath has reached the end of a message's life: TIMEOUT, or BUSY where it was still refused so (R471, R474). -/
def lifetimeEnd (d : Dev) (tag : BitVec 12) : Dev :=
  match d.msg tag with
  | none => d
  | some m =>
    if m.ended.isSome || !d.mlifeOver m then d
    else d.endMsg m (if m.pkts.any (fun p => p.wait = 1) then stBUSY else stTIMEOUT) 0

def execMessageLifetimeEnd (tag : BitVec 12) (s : State) : Out := onDev (fun d => (lifetimeEnd d tag).spillSteps) s

/-! ### Answers (R462, R467, R469, R471, R500, R501) -/

/-- The message in flight that an answer names. -/
def Dev.named (d : Dev) (h : Hdr) : Option Msg :=
  (d.msg (BitVec.ofNat 12 h.tag)).bind (fun m => if m.ended.isNone && m.mpos = h.mpos then some m else none)

/-- Packets become acknowledged. -/
def Msg.ack (m : Msg) (l : List Nat) : Msg :=
  { m with acked := m.acked ++ l.filter (fun k => !m.acked.contains k), pkts := m.pkts.filter (fun p => !l.contains p.psn) }

/-- An ACK stops the timers of the packets that it covers; with DONE, or everything covered, the message ends OK. -/
def takeAck (d : Dev) (g : Got) : Dev :=
  match d.named g.h with
  | none => d.cnt BLW_DUP
  | some m =>
    if m.desc.op ≠ xWRITE && m.desc.op ≠ xSEND then d.cnt BLW_DUP
    else
      let bm := fieldAt g.body 0 8
      let n := m.count
      let l := (List.range n).filter (fun k => k < g.h.psn || (k < g.h.psn + 64 && bit bm (k - g.h.psn)))
      if g.h.done || l.length = n then d.endMsg (m.ack (List.range n)) stOK 0 else d.setMsg (m.ack l)

/-- Status by which each ending NAK ends the message; none for BUSY, COLLIDED and the codes that the spec does not give. -/
def nakStatus : Nat → Option Nat
  | 2 => some stRAV
  | 4 => some stINVREQ
  | 5 => some stNOQ
  | 6 => some stTOOLONG
  | 7 => some stBNKERR
  | _ => none

/-- A NAK makes the initiator resend the packet after a wait, or ends the message. -/
def takeNak (d : Dev) (g : Got) : Dev :=
  let d := d.cnt BLW_NAKRX
  match d.named g.h with
  | none => d.cnt BLW_DUP
  | some m =>
    match nakStatus g.h.aux with
    | some st => (if st = stRAV then d.cnt BLW_RAV else d).endMsg m st 0
    | none =>
      match m.pkts.find? (fun p => p.psn = g.h.psn) with
      | none => d
      | some p =>
        if g.h.aux = 1 then
          d.setMsg (m.setPkt { p with wait := 1, busyUs := if p.busyUs = 0 then 20 else min 1280 (2 * p.busyUs) })
        else if g.h.aux = 3 then (d.setMsg (m.setPkt { p with wait := 2 })).cnt BLW_NCOLL
        else d

/-- A READ asks for its next packets once its lowest missing one has advanced by 32 since its last request. -/
def Dev.readAsk (d : Dev) (m : Msg) : Dev :=
  let k := m.lowest
  if k < m.next + 31 || m.count ≤ k || !d.pdSends m.pd.toNat then d.setMsg m
  else match d.wrr 8 (d.on BLW_PD.SECURE m.pd.toNat) with
    | none => d.setMsg m
    | some (d, p) =>
      let m := { m with next := k + 1, pkts := [⟨k, p, 0, 0, 0⟩] }
      ((d.setMsg m).sendOne m k [p] false).1

/-- A RESP: one packet of a READ, placed where it belongs, or an atomic's old value. -/
def takeResp (d : Dev) (g : Got) : Dev :=
  match d.named g.h with
  | none => d.cnt BLW_DUP
  | some m =>
    let x := m.desc
    if x.isAtomic then d.endMsg { m with acked := [0] } stOK (BitVec.ofNat 64 (fieldAt g.body 0 x.width))
    else if x.op ≠ xREAD || m.count ≤ g.h.psn || g.h.addr ≠ g.h.psn * m.mtu || g.h.plen ≠ pktLen x.len m.mtu g.h.psn
        || m.acked.contains g.h.psn then d.cnt BLW_DUP
    else
      let r := d.bnkWrite oBlw (x.laddr + g.h.addr) g.body
      if r.denied then r.dev.endMsg m stBNKERR 0
      else
        let m := { m with acked := m.acked ++ [g.h.psn] }
        if m.acked.length = m.count then r.dev.endMsg m stOK 0 else r.dev.readAsk m

/-- The domain of an answer must still be on, and agree with SEC, before the answer is taken (R516, steps 4 and 5). -/
def answerChecks (d : Dev) (h : Hdr) : Option Nat :=
  if !d.on BLW_PD.EN h.pd then some 1 else if h.sec ≠ d.on BLW_PD.SECURE h.pd then some 2 else none

/-! ### Host atomics (R493) -/

/-- Is a host atomic posted or in flight? -/
def Dev.hostAtomicBusy (d : Dev) : Bool :=
  d.blw.posted.any (fun p => p.kind = .hostAtomic) || d.blw.msgs.any (fun m => m.kind = .hostAtomic)

/-- A write of 1 to BLW_HA_CMD.GO. -/
def Dev.hostAtomic (d : Dev) : Dev :=
  if d.hostAtomicBusy then d
  else
    let x := { Desc.zero with
      op := if d.on BLW_HA_CMD.CAS then xCAS else xADD, flags := d.g BLW_HA_CMD.W64,
      dnode := BitVec.ofNat 12 (d.g BLW_HA_CMD.NODE), raddr := d.g BLW_HA_ADDR, rkey := d.g BLW_HA_RKEY,
      opnd0 := BitVec.ofNat 64 (d.g BLW_HA_OP0_L + d.g BLW_HA_OP0_H * 2 ^ 32),
      opnd1 := BitVec.ofNat 64 (d.g BLW_HA_OP1_L + d.g BLW_HA_OP1_H * 2 ^ 32) }
    d.post (d.g BLW_HA_CMD.WQ) x .hostAtomic 0 none

/-! ### Stream blocks (R540 to R542, R551, R679) -/

/-- The newest block that a transmit slot has ready: number, and its samples by carried bus. -/
def Dev.strReady (d : Dev) (s : Nat) : Option (Nat × List (List Int)) :=
  let b := d.blk
  let buses := d.strBuses s
  match d.g BLW_STR.TYPE s with
  | 2 =>
    let c := d.g BLW_STR.CORE s
    let l := d.linkWords c
    match (d.core c).blocks.getLast? with
    | some k =>
      if !linkEn l || !d.ringsOk c l then none
      else some (k, buses.map (fun j =>
        let a := linkOut l + ((k % max 1 (linkDepth l) * linkNout l + j) * b) * 4
        let r := d.bnkRead (oChn c) a (4 * b)
        (List.range b).map (fun i =>
          if linkNout l ≤ j || r.denied || r.dev.bnk.poison.contains ((a + 4 * i) / 8) then 0
          else signed 32 (fieldAt r.data (4 * i) 4))))
    | none => none
  | t =>
    match d.rda.block with
    | none => none
    | some cur =>
      -- stage S2 of a block ends two blocks after its first position
      if cur < 2 || (cur - 2) * b < d.bel.busFrom then none
      else
        let k := cur - 2
        some (k, buses.map (fun bus => (List.range b).map (fun i =>
          if t = 3 then sget 0 (retKey (d.g BLW_STR.NODE s) bus (k * b + i)) d.rda.ret
          else sget 0 (busKey bus (k * b + i)) d.rda.bus)))

/-- The device sends a spill return through the lowest-numbered slot of TYPE 3 for its origin only (R550). -/
def Dev.strSends (d : Dev) (s : Nat) : Bool :=
  d.strOn s 0 && d.g BLW_STR.TYPE s ≠ 0 &&
    !(d.g BLW_STR.TYPE s = 3 && (List.range s).any (fun t =>
      d.strOn t 0 && d.g BLW_STR.TYPE t = 3 && d.g BLW_STR.NODE t = d.g BLW_STR.NODE s))

/-- A transmit slot sends its next ready block as one WRITE on TC2. -/
def streamSend (d : Dev) (s : Nat) : Dev :=
  if !d.strSends s || !d.running || d.mode = mSAFE || !d.on BLW_CTL.EN then d
  else match d.strReady s with
    | none => d
    | some (k, data) =>
      let b := d.blk
      let p := k * b
      if p < sget 0 s d.blw.strNext then d
      else
        let d := { d with blw := { d.blw with strNext := sput 0 s (p + b) d.blw.strNext } }
        let entry := leBytes 8 (p * 65536) ++ leBytes 4 (d.g BLW_STR_MASK s) ++ leBytes 2 d.node ++ [BitVec.ofNat 8 s, 0]
          ++ data.flatMap (fun l => l.flatMap (fun v => leBytes 4 (BitVec.ofInt 32 v).toNat))
        let pd := d.g BLW_STR.PD s
        let x := { Desc.zero with
          op := xWRITE, flags := 4 * d.g BLW_STR_LAT.BUMP s, tc := 2,
          dnode := BitVec.ofNat 12 (d.g BLW_STR.NODE s),
          len := entry.length, raddr := d.strEntryAddr s (d.strEntry s p), rkey := d.g BLW_STR_RKEY s }
        let inFlight := (d.blw.msgs.filter (fun m => m.kind = .stream && m.own = s)).length
        if 4 ≤ inFlight || !d.pdOk pd then d.strMiss s
        else (d.beginMsg none x pd .stream s (some entry)).getD (d.strMiss s)

def execStreamBlockSend (s : BitVec 6) (st : State) : Out := onDev (fun d => streamSend d s.toNat) st

/-- At P + LAT + B the engine stops resending a block and frees its tag. -/
def streamStop (d : Dev) (s : Nat) : Dev :=
  (d.blw.msgs.filter (fun m => m.ended.isNone && m.own = s && d.blockOver m)).foldl
    (fun (d : Dev) m => d.freeTag m.tag) d

def execStreamResendStop (s : BitVec 6) (st : State) : Out := onDev (fun d => streamStop d s.toNat) st

end Sys2Proof.Machine
end

