-- ==== Sys2Proof/Machine/Timers.lean ====
section
/-!
DEFINITION. Timer channels, captures and the watchdog (chapter 16). A write of TIMn_CTL and a read of TIMn_CAP come through
the register rules; here stand what they do, the events of a channel, and the watchdog's stages.
-/
namespace Sys2Proof.Machine

def Dev.tch (d : Dev) (n : Nat) : TimCh := d.tim.ch.getD n ⟨0, false, false, false⟩
def Dev.setTch (d : Dev) (n : Nat) (c : TimCh) : Dev := { d with tim := { d.tim with ch := setAt d.tim.ch n c } }

/-! ### The TIMn_IO pin (R654) -/

/-- Level at the pad: what the channel drives, or, where it drives nothing, the level last seen there. -/
def Dev.padLevel (d : Dev) (n : Nat) : Bool :=
  let c := d.tch n
  match d.g TIM_CTL.IOMODE n with
  | 1 => c.io
  | 2 => c.io && c.pad
  | _ => c.pad

def Dev.showIo (d : Dev) (n : Nat) : Dev := d.s TIM_STAT.IOLVL (b2n (d.padLevel n)) n

/-- Apply a pin action: 1 high, 2 low, 3 toggle; in input mode it changes nothing. -/
def Dev.pinAct (d : Dev) (n act : Nat) : Dev :=
  if d.g TIM_CTL.IOMODE n = 0 || act = 0 then d
  else
    let c := d.tch n
    (d.setTch n { c with io := if act = 3 then !c.io else act = 1 }).showIo n

/-! ### Zero and match events (R650, R652, R653, R668) -/

/-- A match event that the channel's last count change made: MF and MACT. -/
def Dev.matchEvent (d : Dev) (n : Nat) : Dev :=
  if (d.tch n).matchDue then
    ((d.setTch n { d.tch n with matchDue := false }).s TIM_STAT.MF 1 n).pinAct n (d.g TIM_CTL.MACT n)
  else d

/-- CNT changes by a decrement or a reload; a value equal to MAT makes a match event. -/
def Dev.setCnt (d : Dev) (n v : Nat) : Dev :=
  (d.s TIM_CNT v n).setTch n { d.tch n with matchDue := v = d.g TIM_MAT n }

/-- Zero events reach the cores that name the channel (R652). -/
def Dev.zeroIrq (d : Dev) (n : Nat) : Dev :=
  { d with chn := d.chn.map (fun (k : Core) =>
      if k.pwr && k.tsel.toNat = n then { k with ipend := k.ipend ||| 8 } else k) }

/-- A zero tick of a channel: the event, its flag, pin action and notice; then the reload, or the stop of a one-shot. -/
def Dev.zeroTick (d : Dev) (n : Nat) : Dev :=
  let d := ((d.s TIM_STAT.ZF 1 n).pinAct n (d.g TIM_CTL.ZACT n)).zeroIrq n
  let d := if d.on TIM_CTL.NZ n then d.raiseOnce nTIM 1 n n else d
  if d.on TIM_CTL.ONESHOT n then (d.s TIM_CTL.EN 0 n).s TIM_STAT.RUN 0 n
  else d.setCnt n (d.g TIM_RLD n)

/-- One tick of channel `n`; a zero event ticks the next channel where that is cascaded (R648). -/
def Dev.chTick (d : Dev) (n : Nat) : Nat → Dev
  | 0 => d
  | fuel + 1 =>
    if !d.on TIM_STAT.RUN n then d
    else if d.g TIM_CNT n ≠ 0 then (d.setCnt n (d.g TIM_CNT n - 1)).matchEvent n
    else
      let d := (d.zeroTick n).matchEvent n
      if n < 7 && d.g TIM_CTL.CLKSRC (n + 1) = 1 then d.chTick (n + 1) fuel else d

/-- TIMER_ZERO: the tick that a running TB-clocked channel at 0 makes; a match of the reload is left to TIMER_MATCH. -/
def execTimerZero (n : BitVec 3) (s : State) : Out :=
  onDev (fun d =>
    let n := n.toNat
    if d.running && d.on TIM_STAT.RUN n && d.g TIM_CTL.CLKSRC n = 0 && d.g TIM_CNT n = 0 then
      let d := (d.setTch n { d.tch n with psc := 0 }).zeroTick n
      if n < 7 && d.g TIM_CTL.CLKSRC (n + 1) = 1 then d.chTick (n + 1) 8 else d
    else d) s

def execTimerMatch (n : BitVec 3) (s : State) : Out := onDev (fun d => if d.running then d.matchEvent n.toNat else d) s

/-- One TB cycle of the timer channels: those on TB tick every PSC + 1 cycles. -/
def Dev.timCycle (d : Dev) : Dev :=
  (List.range 8).foldl (fun (d : Dev) n =>
    let d := d.matchEvent n
    if d.on TIM_STAT.RUN n && d.g TIM_CTL.CLKSRC n = 0 then
      let c := d.tch n
      if c.psc < d.g TIM_CTL.PSC n then d.setTch n { c with psc := c.psc + 1 }
      else (d.setTch n { c with psc := 0 }).chTick n 8
    else d) d

/-! ### Writes of TIMn_CTL (R649, R651, R654) -/

/-- A word written to TIMn_CTL takes effect: a rising EN loads CNT from RLD (no match event), clears the prescaler and runs
the channel; EN 0 stops it with CNT kept; an IOMODE that becomes an output drives the pin to IOINIT. -/
def Dev.writeTimCtl (d : Dev) (n : Nat) (w : Word) : Dev :=
  let was := d.on TIM_CTL.EN n
  let mode := d.g TIM_CTL.IOMODE n
  let d := d.setReg (TIM_CTL.EN.off n) w
  let d := if !was && d.on TIM_CTL.EN n then
      ((d.s TIM_CNT (d.g TIM_RLD n) n).s TIM_STAT.RUN 1 n).setTch n { d.tch n with psc := 0, matchDue := false }
    else if was && !d.on TIM_CTL.EN n then d.s TIM_STAT.RUN 0 n
    else d
  let d := if mode = 0 && d.g TIM_CTL.IOMODE n ≠ 0 then d.setTch n { d.tch n with io := d.on TIM_CTL.IOINIT n } else d
  d.showIo n

/-! ### Capture (R655 to R657, R672) -/

/-- Does the event that the channel captures occur? `level` is the level that the world puts on the pad; a push-pull pin has
the level that the channel drives. A pin source sees an edge from the level last seen. -/
def Dev.captures (d : Dev) (n : Nat) (l : Bool) : Bool :=
  let old := (d.tch n).pad
  match d.g TIM_CTL.CSRC n with
  | 1 => !old && l
  | 2 => old && !l
  | 3 => old != l
  | 7 => d.on BRT_STAT.RUNNING && !d.on BRT_STAT.PAUSE
  | 8 => d.on BRT_STAT.RUNNING && !d.on BRT_STAT.PAUSE
  | k => 4 ≤ k && k < 14

def Dev.capture (d : Dev) (n : Nat) : Dev :=
  let again := d.on TIM_STAT.CAPF n
  let v := if d.on TIM_CTL.CAPSEL n then d.g TIM_CNT n else d.brt.tbase.toNat
  let d := ((d.s TIM_CAP v n).s TIM_STAT.CAPF 1 n).sIf again TIM_STAT.OVR 1 n
  if d.on TIM_CTL.NC n then
    let d := d.raiseOnce nTIM 2 n n
    if again then d.raiseOnce nTIM 3 n n else d
  else d

def execTimerCapture (n : BitVec 3) (level : Bool) (s : State) : Out :=
  onDev (fun d =>
    let n := n.toNat
    if !d.running then d
    else
      let l := if d.g TIM_CTL.IOMODE n = 1 then (d.tch n).io
        else if d.g TIM_CTL.IOMODE n = 2 then (d.tch n).io && level else level
      let hit := d.captures n l
      let d := (d.setTch n { d.tch n with pad := l }).showIo n
      if hit then d.capture n else d) s

/-- The end of a read of TIMn_CAP clears CAPF. -/
def Dev.capRead (d : Dev) (n : Nat) : Dev := d.s TIM_STAT.CAPF 0 n

/-! ### The watchdog (R661 to R664) -/

/-- The count starts again at TMO, and the warn stage ends. -/
def Dev.wdtRestart (d : Dev) : Dev :=
  { ((d.s WDT_STAT.WARN 0).s WDT_REM (d.g WDT_TMO.TMO)) with tim := { d.tim with wdtSub := 0 } }

/-- A write of WDT_KICK.KEY: the key kicks a running watchdog; any other value is counted. -/
def Dev.wdtKey (d : Dev) (k : Nat) : Dev :=
  if k = 0xC35A then (if d.on WDT_CTL.EN then d.wdtRestart else d)
  else (d.s WDT_STAT.BADKEY 1).cnt WDT_NBADKEY

/-- WDT_KICK: the key, or DONE set in WAITB by the core that KCORE names while KSRC is 1. -/
def execWdtKick (k : Kick) (s : State) : Out :=
  onDev (fun d => match k with
    | .key k => if d.running then d.wdtKey k.toNat else d
    | .core c =>
      let u := d.core c.toNat
      if d.on WDT_CTL.EN && d.on WDT_CTL.KSRC && d.g WDT_CTL.KCORE = c.toNat && u.waiting && u.done && d.running then d.wdtRestart
      else d) s

/-- Is the watchdog counting? -/
def Dev.wdtCounts (d : Dev) : Bool := d.on WDT_CTL.EN && d.running

/-- The count has expired: the warn stage. -/
def Dev.wdtWarn (d : Dev) : Dev :=
  let d := ((d.s WDT_STAT.WARN 1).s WDT_REM (d.g WDT_CTL.GRACE)).raise nTIM 4 0
  { d with tim := { d.tim with wdtSub := 0 } }

def execWdtWarn (s : State) : Out :=
  onDev (fun d => if d.wdtCounts && !d.on WDT_STAT.WARN then d.wdtWarn else d) s

/-- The grace count has expired with ACT 1: the notice, SAFE, and EN cleared or, under LOCK, a restart at TMO. -/
def Dev.biteSafe (d : Dev) : Dev :=
  let d := (d.raise nTIM 5 0).critical 2
  if d.on WDT_CTL.LOCK then d.wdtRestart else (d.s WDT_CTL.EN 0).s WDT_STAT.WARN 0

/-- Effect of a write of WDT_CTL, unless LOCK is set; a rising EN starts the count at TMO. -/
def Dev.writeWdtCtl (d : Dev) (w : Word) : Dev :=
  if d.on WDT_CTL.LOCK then d
  else
    let was := d.on WDT_CTL.EN
    let d := d.setReg WDT_CTL.EN.base w
    if !was && d.on WDT_CTL.EN then d.wdtRestart
    else if was && !d.on WDT_CTL.EN then d.s WDT_STAT.WARN 0
    else d

end Sys2Proof.Machine
end

