-- ==== Sys2Proof/Machine/Power.lean ====
section
/-!
DEFINITION. Modes and energy (chapter 17): requests and their refusal, leaving SAFE and SERVICE, the entry into IDLE and
DORMANT, the wake, the core voltage, and the supply and temperature alarms. A wake that ends in a restart is in
Machine/Boot.lean.
-/
namespace Sys2Proof.Machine

/-! ### Requests (R675, R676, R688, R732) -/

/-- Is scope SERVICE open (R746)? -/
def Dev.serviceOpen (d : Dev) : Bool := bit (d.g LCK_STAT.SCOPES) 0

/-- An image update lies between START and COMMIT. -/
def Dev.updating (d : Dev) : Bool := d.boot.upd.isSome

/-- Refusal code of a request, 0 when it is accepted: BUSY first, then the other reasons in the order of their codes. -/
def Dev.judgeReq (d : Dev) (v : Nat) : Nat :=
  let m := d.mode
  let sleep : Bool := v = 5 || v = 6
  let known : Bool := match v with
    | 2 => m = mSAFE || m = mSERVICE
    | 4 => m = mRUN || m = mDEFAULTS || m = mSERVICE
    | 5 => m = mRUN || m = mDEFAULTS || m = mSAFE
    | 6 => m = mRUN || m = mDEFAULTS || m = mSAFE
    | 7 => m = mRUN || m = mDEFAULTS
    | _ => false
  if d.on PWR_STAT.BUSY then 6
  else if !known then 1
  else if sleep && d.g BEL_STAT.MSTATE ≠ 2 then 2
  else if sleep && 1 ≤ d.g USB_STAT.STATE && d.g USB_STAT.STATE ≤ 3 then 3
  else if sleep && d.updating then 4
  else if v = 7 && !d.serviceOpen then 5
  else 0

def Dev.refuseReq (d : Dev) (code : Nat) : Dev := (d.s PWR_STAT.RQERR code).raise nPWR 1 code

/-- Junction temperature at or above 125 °C. -/
def Dev.tooHot (d : Dev) : Bool := 2000 ≤ signed 16 (d.g PWR_TEMP.TJ)

/-- Leave SAFE: its mute request ends; with the audio PLL still unlocked, or at 125 °C, SAFE is entered again at once. -/
def Dev.leaveSafe (d : Dev) : Dev :=
  let d := (d.setMode d.settingsMode).muteEnd 3
  if d.on BRT_STAT.RUNNING && !d.brt.pllLocked then d.critical 1
  else if d.tooHot then d.critical 3
  else d

/-- Begin the entry into IDLE or DORMANT: BUSY and PRIOR. -/
def Dev.beginSleep (d : Dev) (m : Nat) : Dev :=
  { ((d.s PWR_STAT.BUSY 1).s PWR_STAT.PRIOR d.mode) with
      pwr := { d.pwr with entering := some (BitVec.ofNat 3 m), reqBlk := d.blkNum, entered := false } }

/-- Carry out a written PWR_CTL.REQ; 0, 1 and 3 have no effect. -/
def Dev.request (d : Dev) (v : Nat) : Dev :=
  if v = 0 || v = 1 || v = 3 || d.mode = mRESET || d.mode = mIDLE || d.mode = mDORMANT then d
  else match d.judgeReq v with
    | 0 => match v with
      | 2 => if d.mode = mSAFE then d.leaveSafe else d.setMode d.settingsMode
      | 4 => d.critical 6
      | 5 => d.beginSleep mIDLE
      | 6 => d.beginSleep mDORMANT
      | _ => d.setMode mSERVICE
    | c => d.refuseReq c

/-! ### Entry into IDLE and DORMANT (R680, R684) -/

/-- Hold the enabled link-wake ports in low-power idle, where they can be; an enable that is ignored is flagged. -/
def Dev.holdPorts (d : Dev) : Dev :=
  (List.range 4).foldl (fun (d : Dev) n =>
    if !bit (d.g PWR_WAKEEN.LINK) n then d
    else if 2 ≤ d.macMode n && d.on MAC_STAT.EEEOK n then
      { ((d.s MAC_STAT.LPITX 1 n).s MAC_STAT.LPIRX 1 n) with pwr := { d.pwr with held := d.pwr.held ||| BitVec.ofNat 4 (2 ^ n) } }
    else d.s PWR_STAT.LWIGN 1) { d with pwr := { d.pwr with held := 0 } }

/-- Steps 1 to 5 of the entry: voices and ghost slots freed without a ramp, the spill map cleared and the own ledger all
ones, the transport stopped, and for DORMANT every word pending in the scheduler discarded. -/
def Dev.sleepSteps (d : Dev) (m : Nat) : Dev :=
  let d := { d with rda := { d.rda with voices := [], ghosts := [] }, val := { d.val with map := [], withheld := List.range 256 } }
  let d := d.showMap
  let d := (List.range 4).foldl (fun (d : Dev) j => d.putLedger j (2 ^ 64 - 1)) d
  let d := d.stopTransport.holdPorts
  let d := if m = mDORMANT then
      let n := d.evs.store.length + d.evs.panic.length
      ({ d with evs := { d.evs with store := [], panic := [] } }.cnt PWR_DISC 0 n).showEvs
    else d
  { d with pwr := { d.pwr with entered := true } }

/-- POWER_DOWN_ENTRY: at the next block start, once no self-test runs (R738). -/
def powerDownEntry (d : Dev) : Dev :=
  match d.pwr.entering with
  | some m =>
    let atStart : Bool := d.pwr.reqBlk < d.blkNum || !d.on BRT_STAT.RUNNING || d.on BRT_STAT.PAUSE
    if d.pwr.entered || !atStart || !d.flt.tests.isEmpty then d else d.sleepSteps m.toNat
  | none => d

def execPowerDownEntry (s : State) : Out := onDev powerDownEntry s

/-- The entry completes once the pending fault-log entries are written; those that a brown-out warning keeps from being
written are counted (R701). In DORMANT the PLLs stop, and the link of every port that is not held goes down (R682). -/
def entryComplete (d : Dev) : Dev :=
  match d.pwr.entering with
  | some m =>
    if !d.pwr.entered || !(d.boot.pend.isEmpty || d.on PWR_STAT.BOW) then d
    else
      let d := { (d.cnt CFG_SKIP.FLOG 0 d.boot.pend.length) with boot := { d.boot with pend := [] } }
      let d := { d with pwr := { d.pwr with entering := none, entered := false } }
      let d := (d.s PWR_STAT.BUSY 0).setMode m.toNat
      if m.toNat = mDORMANT then
        let d := (List.range 4).foldl (fun (d : Dev) n => if bit d.pwr.held.toNat n then d else d.linkDown n) d
        { (d.cnt PWR_NDORM) with brt := { d.brt with pllLocked := false } }
      else d.cnt PWR_NIDLE
  | none => d

def execIdleDormantEntryComplete (s : State) : Out := onDev entryComplete s

/-! ### Wake (R683 to R687, R698, R699) -/

/-- Is a wake source, by its WREASON, enabled? -/
def Dev.wakeEnabled (d : Dev) (r : Nat) : Bool :=
  if r = 1 then true
  else if r = 2 || r = 3 then d.on UART_CTL.WAKEEN (r - 2)
  else if r = 4 then d.on PWR_WAKEEN.USB && d.g USB_STAT.STATE = 4
  else bit (d.g PWR_WAKEEN.LINK) (r - 5) && bit d.pwr.held.toNat (r - 5)

/-- The enabled sources among those that fire, by WREASON in ascending order. -/
def Dev.wakeSources (d : Dev) (sources : Nat) : List Nat :=
  ((List.range 8).filter (fun k => bit sources k && d.wakeEnabled (k + 1))).map (· + 1)

/-- What the character that wakes a UART leaves (R593): it is counted as lost, and the MIDI parser's running status ends. -/
def Dev.wakeUarts (d : Dev) (l : List Nat) : Dev :=
  let u := l.filter (fun r => r = 2 || r = 3)
  let d := u.foldl (fun (d : Dev) r => d.cnt UART_WAKELOST (r - 2)) d
  if u.isEmpty then d else d.setSer 0 { d.ser 0 with status := none }

/-- The frames' ports leave low-power idle. -/
def Dev.releasePorts (d : Dev) : Dev :=
  (List.range 4).foldl (fun (d : Dev) n =>
    if bit d.pwr.held.toNat n then (d.s MAC_STAT.LPITX 0 n).s MAC_STAT.LPIRX 0 n else d) d

/-- What DORMANT with RET 0 loses (R682, R685, R687): banks and Chanter memories are 0, no patch is valid, no core runs. -/
def Dev.loseMemories (d : Dev) : Dev :=
  let d := { d with bnk := { d.bnk with mem := [], poison := [] },
                    chn := d.chn.map (fun (k : Core) => { k with pm := [], xm := [], ym := [] }) }
  let d := (List.range 128).foldl (fun (d : Dev) b => d.s BNK_HEALTH.POISON 0 b) d
  let d := (List.range 32).foldl (fun (d : Dev) i => d.setReg (RDA_PVALID.off i) 0) d
  (List.range 16).foldl (fun (d : Dev) c => d.logicDst kCore c DISABLED) (d.s PWR_STAT.LOST 1)

/-- What DORMANT changes at the wake: the PLLs lock, lost memories are written to 0, the lock loop starts again, and the
core voltage is the higher of the entry's and code 4's (R686, R702). -/
def Dev.wakeDormant (d : Dev) : Dev :=
  let d := { d with brt := { d.brt with pllLocked := true } }
  let d := if d.on PWR_CTL.RET then d else d.loseMemories
  let d := d.sIf (d.on PWR_VID.AUTO) PWR_VID.CODE (min 4 (d.g PWR_VID.CODE))
  let d := d.s BRT_STAT.FIRST 0
  if d.brtSrc = srcFREE then d.s BRT_STAT.STATE sFREE else d.toAcquire false

/-- The device returns to PRIOR for a reason: pending words judged again, the transport restarted, the watchdog at TMO, the
notices, and a critical fault that waited (R700). -/
def Dev.wakeUp (d : Dev) (reason : Nat) : Dev :=
  let d := if d.mode = mDORMANT then d.wakeDormant else d
  let d := { d.releasePorts with pwr := { d.pwr with held := 0 } }
  let d := (d.discardBlocks d.brt.pos).rejudge.setEpos
  let d := if d.on WDT_CTL.EN then d.wdtRestart else d
  let d := ((d.s PWR_STAT.WREASON reason).raise nPWR 2 reason).setMode (d.g PWR_STAT.PRIOR)
  match d.pwr.crit with
  | some _ =>
    let d := { d with pwr := { d.pwr with crit := none } }
    if d.mode = mSAFE then d else d.enterSafe
  | none => d

/-- A wake source that fires during an entry cancels it (R698). -/
def Dev.cancelSleep (d : Dev) (reason : Nat) : Dev :=
  let was := d.pwr.entered
  let d := { d.releasePorts with pwr := { d.pwr with entering := none, entered := false, held := 0 } }
  let d := if was then d.setEpos else d
  (((d.s PWR_STAT.BUSY 0).cnt PWR_ABORT).s PWR_STAT.WREASON reason).raise nPWR 2 reason

/-- A wake: the lowest enabled source names it. -/
def Dev.wake (d : Dev) (sources : Nat) : Dev :=
  match d.wakeSources sources with
  | r :: rest =>
    if d.mode = mIDLE || d.mode = mDORMANT then (d.wakeUarts (r :: rest)).wakeUp r
    else if d.pwr.entering.isSome then (if d.pwr.entered then d.wakeUarts (r :: rest) else d).cancelSleep r
    else d
  | [] => d

/-- HWAKE stays high for 1 µs: HSLEEP clears and a prepared or asserted DWAKE_N is released, counted as merged when it had
not been asserted; the wake; then HRP_DWAKE (R636, R638). -/
def hwake (d : Dev) : Dev :=
  let asserted := d.on HRP_WAKE.DWAKE
  let prep := d.hrp.dwakePrep
  let reason := match prep with
    | some r => r.toNat
    | none => d.g HRP_WAKE.REASON
  let d := { ((d.s HRP_WAKE.HSLEEP 0).s HRP_WAKE.DWAKE 0) with hrp := { d.hrp with dwakePrep := none } }
  let d := (d.wake 1).prepRwake USB_RWEN.HWAKE 3
  if asserted then d.raise nHRP 1 reason
  else if prep.isSome then ((d.s HRP_WAKE.REASON reason).cnt HRP_WAKEMERGE).raise nHRP 1 reason
  else d

def execHwake (s : State) : Out := onDev hwake s

/-! ### The core voltage (R690 to R692, R702, R704) -/

/-- Adaptive control moves by one code: down in voltage (a higher code) when the margin is high, within CEIL and FLOOR. -/
def execVidStep (marginHigh : Bool) (s : State) : Out :=
  onDev (fun d =>
    let c := d.g PWR_VID.CODE
    if !d.running || !d.on PWR_VID.AUTO then d
    else if marginHigh then (if c < d.g PWR_VID.FLOOR then d.s PWR_VID.CODE (c + 1) else d)
    else if d.g PWR_VID.CEIL < c then d.s PWR_VID.CODE (c - 1)
    else d) s

/-- Effect of a write of PWR_VID: one that sets CEIL above FLOOR or a field above 8 is ignored; with AUTO at 0 the FIX code
is driven, with AUTO at 1 the code stays within the new limits. -/
def Dev.writeVid (d : Dev) (w : Word) : Dev :=
  let fix := bitsOf w.toNat 7 4
  let floor := bitsOf w.toNat 11 8
  let ceil := bitsOf w.toNat 15 12
  if 8 < fix || 8 < floor || 8 < ceil || floor < ceil then d
  else
    let c := d.g PWR_VID.CODE
    (d.setReg PWR_VID.AUTO.base w).s PWR_VID.CODE (if bit w.toNat 0 then min floor (max ceil c) else fix)

/-- A voltage alarm: the clock halves, the voltage rises by two codes up to CEIL; a second one within 1 s with the code
already at CEIL is critical. -/
def execVoltageAlarm (s : State) : Out :=
  onDev (fun d =>
    if !d.running then d
    else
      let c := d.g PWR_VID.CODE
      let ceil := d.g PWR_VID.CEIL
      let again : Bool := match d.pwr.lastAlarm with
        | some t => (d.brt.tbase - t).toNat ≤ 100000000
        | none => false
      let d := { d with pwr := { d.pwr with halved := true, lastAlarm := some d.brt.tbase } }
      let d := ((d.s PWR_VID.CODE (max (min c ceil) (c - 2))).cnt PWR_VIDALM).raise nPWR 5 0
      if again && c ≤ ceil then d.critical 4 else d) s

def execClockHalveEnd (s : State) : Out := onDev (fun d => { d with pwr := { d.pwr with halved := false } }) s

/-! ### Supplies and temperature (R693, R694, R706) -/

def execBrownOutWarning (s : State) : Out :=
  onDev (fun d =>
    if d.on PWR_STAT.BOW || d.mode = mRESET then d
    else (((d.s PWR_STAT.BOW 1).s PWR_STAT.BOWSEEN 1).cnt PWR_NBOW).raise nPWR 3 0) s

def execBrownOutClear (s : State) : Out := onDev (fun d => d.s PWR_STAT.BOW 0) s

/-- The junction temperature reads `tj` (1/16 °C): HOT follows THOT with 5 °C of hysteresis, and reaching 125 °C is a
critical fault. -/
def Dev.temperature (d : Dev) (tj : Half) : Dev :=
  if d.mode = mRESET then d
  else
    let was := d.tooHot
    let d := d.s PWR_TEMP.TJ tj.toNat
    let t := tj.toInt
    let hot := (d.g PWR_TEMP.THOT : Int) * 16
    let d := if hot ≤ t && !d.on PWR_STAT.HOT then (d.s PWR_STAT.HOT 1).raise nPWR 4 0
      else if t ≤ hot - 80 then d.s PWR_STAT.HOT 0 else d
    if d.tooHot && !was then d.critical 3 else d

def execHot (tj : Half) (s : State) : Out := onDev (fun d => d.temperature tj) s
def execTemperatureLimit (tj : Half) (s : State) : Out := onDev (fun d => d.temperature tj) s

end Sys2Proof.Machine
end

