-- ==== Sys2Proof/Machine/Beacon.lean ====
section
/-!
DEFINITION. Fabric beacons (R92 to R98, R116, R118, R537 to R539): beacons and delay exchanges sent and received, the path
delay of each plane, the Breath master and its takeover, and phase measurement from the fabric.
-/
namespace Sys2Proof.Machine

/-! ### Rank and master (R96) -/

/-- A candidate outranks another by its priority, then by its node number. -/
def outranks (p n p' n' : Nat) : Bool := p < p' || (p = p' && n < n')

def Dev.master (d : Dev) : Bool := d.on BRT_STAT.MASTER
def Dev.candidate (d : Dev) : Bool := d.on BRT_FAB.MASTEN

/-- The master that is being heard. -/
def Dev.setMaster (d : Dev) (node prio : Nat) : Dev :=
  ((d.s BRT_FMASTER.NODE node).s BRT_FMASTER.PRIO prio).s BRT_FMASTER.VALID 1

/-- Another master: the delays of the old one no longer hold. -/
def Dev.newMaster (d : Dev) (node prio : Nat) : Dev :=
  if d.on BRT_FMASTER.VALID && d.g BRT_FMASTER.NODE = node then d.setMaster node prio
  else { d with brt := { d.brt with delays := List.replicate 4 [], gaps := List.replicate 4 none,
                                    reqs := List.replicate 4 none, heardSeq := none, inRange := 0 } }.setMaster node prio

/-- Does the device listen before its first beacon (R98)? -/
def Dev.listening (d : Dev) : Bool := d.candidate && d.brtSrc ≠ srcFABRIC && !d.brt.sentBcn && !d.master

/-- Does the device measure path delays: a follower, or a candidate that listens? -/
def Dev.follows (d : Dev) : Bool := !d.master && (d.brtSrc = srcFABRIC || d.listening)

/-! ### Sending -/

/-- A beacon-kind packet (R537). -/
def Dev.beaconHdr (d : Dev) (kind dst plen : Nat) : Hdr :=
  let pd := d.g BLW_SECCTL.BPD
  let sec := d.on BLW_PD.EN pd && d.on BLW_PD.SECURE pd
  { ver := 1, op := xBEACON, tc := 0, flags := b2n sec, src := d.node, dst := dst, tag := 0, psn := 0, plen := plen,
    pd := pd, aux := kind, spos := 0, mpos := 0, mlen := plen, addr := 0, rkey := 0, rcount := 0, resv := 0 }

def Dev.sendBeaconKind (d : Dev) (plane kind dst : Nat) (body : List Byte) : Dev :=
  d.sendPkt [plane] (if kind = kBEACON then .beacon else .delay) true (d.beaconHdr kind dst body.length) body

/-- The master's beacon, a copy on every port that can carry it (R92). In IDLE a master sends none (R681). -/
def beaconSend (d : Dev) : Dev :=
  if !d.on BRT_STAT.RUNNING || !d.running || !d.master then d
  else
    let hold := b2n (d.brtState = sHOLDOVER || d.brtState = sFREE)
    let seq := d.brt.bcnSeq
    let d := { d with brt := { d.brt with bcnSeq := seq + 1, sentBcn := true } }
    d.tcZeroPlanes.foldl (fun (d : Dev) p =>
      d.sendBeaconKind p kBEACON 0xFFF ([BitVec.ofNat 8 (d.g BRT_FAB.FPRIO), BitVec.ofNat 8 (d.g BRT_CTL.FS),
        BitVec.ofNat 8 d.blk, BitVec.ofNat 8 hold] ++ leBytes 2 seq.toNat ++ [BitVec.ofNat 8 p]
        ++ List.replicate 9 0)) d

def execBeaconSend (s : State) : Out := onDev beaconSend s

/-- A follower's delay requests to the master, one on each plane in ascending port order (R93, R118). -/
def delayRequests (d : Dev) : Dev :=
  if !d.on BRT_STAT.RUNNING || !(d.running || d.mode = mIDLE) || !d.follows || !d.on BRT_FMASTER.VALID then d
  else
    d.tcZeroPlanes.foldl (fun (d : Dev) p =>
      let seq := d.brt.reqSeq
      let d := { d with brt := { d.brt with reqSeq := seq + 1, reqs := setAt d.brt.reqs p (some seq) } }
      d.sendBeaconKind p kDREQ (d.g BRT_FMASTER.NODE) (leBytes 2 seq.toNat ++ [BitVec.ofNat 8 p] ++ List.replicate 13 0)) d

def execDelayRequestSend (s : State) : Out := onDev delayRequests s

/-! ### Takeover (R96 to R98) -/

/-- Is a span of TBASE at least TKO milliseconds? -/
def Dev.tkoPast (d : Dev) (t : BitVec 64) : Bool := d.g BRT_FAB.TKO * 100000 ≤ (d.brt.tbase - t).toNat

/-- Is takeover due: no outranking beacon for TKO, or, with source FABRIC, the source lost for TKO? -/
def Dev.takeoverDue (d : Dev) : Bool :=
  d.candidate && !d.master && d.on BRT_STAT.RUNNING && d.running &&
    (if d.brtSrc = srcFABRIC then (d.brtState = sHOLDOVER || d.brtState = sFREE) && d.tkoPast d.brt.holdStart
     else d.tkoPast d.brt.listenFrom && (match d.brt.heardOutrank with
       | some t => d.tkoPast t
       | none => true))

def masterTakeover (d : Dev) : Dev :=
  if d.takeoverDue then
    let d := { (d.s BRT_STAT.MASTER 1) with brt := { d.brt with outrankRun := 0 } }
    d.newMaster d.node (d.g BRT_FAB.FPRIO)
  else d

def execMasterTakeover (s : State) : Out := onDev masterTakeover s

/-! ### Path delays (R93, R94, R118) -/

/-- The smallest delay kept for a plane. -/
def Dev.kept (d : Dev) (p : Nat) : Option Int := firstBy (fun a b => a < b) (d.brt.delays.getD p [])

/-- The plane in use: of those measured and up, the one with the smallest kept delay. -/
def Dev.bestPlane (d : Dev) : Option Nat :=
  firstBy (fun a b => (d.kept a).getD 0 < (d.kept b).getD 0) ((List.range 4).filter (fun p => (d.kept p).isSome && d.portUp p))

/-! ### Phase measurement (R93, R95) -/

/-- Book a usable beacon: valid after 16 consecutive ones, lost after 16 intervals out of range (R78, R105). -/
def Dev.bookBeacon (d : Dev) (follows : Bool) : Dev :=
  let b := d.brt
  let inRange : Bool := d.judgeEdge.2.1
  let out := if inRange || b.lastEdge.isNone then 0 else b.outRange + 1
  let inr := if follows then b.inRange + 1 else 1
  let d := { d with brt := { b with lastEdge := some b.tbase, inRange := inr, outRange := out,
                                    srcRatio := d.edgeRatio.getD 1 / (max 1 d.judgeEdge.2.2 : Nat) } }
  if out = 16 then (d.s BRT_STAT.RANGE 1).srcLost else (d.sIf (16 ≤ inr) BRT_STAT.SRCOK 1).tryAcquire

/-- Measure a beacon's phase error m1 + d − f1, unless it is an outlier (R95). The 16th outlier in a row is accepted and the
large-error rule applied to it. -/
def Dev.measureBeacon (d : Dev) (src loc : Pos) : Dev :=
  let st := d.brtState
  if d.moving || !(st = sACQUIRE || st = sTRACK) then d
  else
    let e := distance src loc
    let off : Bool := !d.brt.firstMeas && 10000 < (d.errNs e - d.brt.phEst).natAbs
    if !off then { d with brt := { d.brt with outliers := 0 } }.measure src loc
    else if d.brt.outliers < 15 then { d with brt := { d.brt with outliers := d.brt.outliers + 1 } }.cnt BRT_NOUTLIER
    else
      let d := { d with brt := { d.brt with outliers := 0 } }
      if e.natAbs * 1000 ≤ d.fs * 65536 then d.measure src loc
      else
        let d := d.s BRT_PHERR (BitVec.ofInt 32 (d.errNs e)).toNat
        let d := if st = sTRACK then d.toAcquire false else d
        { d with brt := { d.brt with firstMeas := false, phEst := d.errNs e } }.large e (d.errNs e)

/-! ### Receiving (R116, R538, R539) -/

/-- Does a beacon-kind packet pass its protection checks? -/
def Dev.beaconOk (d : Dev) (h : Hdr) : Bool :=
  let pd := d.g BLW_SECCTL.BPD
  h.sec = (d.on BLW_PD.EN pd && d.on BLW_PD.SECURE pd)

/-- A BEACON with another rate or block: counted, and reported at most once a second. -/
def Dev.beaconCfg (d : Dev) (node : Nat) : Dev :=
  let d := d.cnt BLW_BCNCFG
  let tell : Bool := match d.blw.cfgAt with
    | some t => 100000000 ≤ (d.brt.tbase - t).toNat
    | none => true
  if tell then { d with blw := { d.blw with cfgAt := some d.brt.tbase } }.raise nBLW 9 node else d

/-- A beacon of a candidate that outranks this one: a master stops after three consecutive beacon periods with one. -/
def Dev.hearOutranking (d : Dev) (node prio seq : Nat) : Dev :=
  let b := d.brt
  let copy : Bool := b.heardSeq = some (BitVec.ofNat 16 seq, BitVec.ofNat 12 node)
  let next : Bool := match b.heardOutrank with
    | some t => (b.tbase - t).toNat < 200000
    | none => false
  let run := if copy then b.outrankRun else if next then b.outrankRun + 1 else 1
  let d := { d with brt := { b with heardOutrank := some b.tbase, outrankRun := run,
                                    heardSeq := some (BitVec.ofNat 16 seq, BitVec.ofNat 12 node) } }
  if d.master && 3 ≤ run then (d.s BRT_STAT.MASTER 0).newMaster node prio else d

/-- A usable beacon of the master, on the plane in use: measured, or, before a candidate's first own beacon, kept as the
position of its reference source event (R98). -/
def Dev.useBeacon (d : Dev) (g : Got) (seq : Nat) : Dev :=
  let p := g.pkt.plane
  let gap := distance g.pkt.stamp g.h.spos
  let d := { d with brt := { d.brt with gaps := setAt d.brt.gaps p (some gap) } }
  if d.bestPlane ≠ some p then d
  else
    let dl := (d.kept p).getD 0
    let src := g.h.spos + BitVec.ofInt 64 dl
    let d := d.s BRT_PDLY (BitVec.ofInt 32 (d.errNs dl)).toNat
    if d.brtSrc = srcFABRIC then
      let follows : Bool := match d.brt.heardSeq with
        | some (q, _) => q + 1 = BitVec.ofNat 16 seq
        | none => false
      let d := { d with brt := { d.brt with heardSeq := some (BitVec.ofNat 16 seq, BitVec.ofNat 12 g.h.src) } }
      (d.bookBeacon follows).measureBeacon src g.pkt.stamp
    else if d.listening && d.brt.heardPos.isNone then
      { d with brt := { d.brt with heardPos := some (src - g.pkt.stamp), hasEpoch := false } }
    else d

/-- A BEACON arrives. -/
def hearBeacon (d : Dev) (g : Got) : Dev :=
  let n := g.h.src
  let prio := fieldAt g.body 0 1
  let seq := fieldAt g.body 4 2
  if !d.beaconOk g.h || g.h.plen < 16 || !d.on BRT_STAT.RUNNING then d
  else
    let beatsMe := outranks prio n (d.g BRT_FAB.FPRIO) d.node
    let d' := if d.candidate && beatsMe && (d.master || d.brtSrc ≠ srcFABRIC) then d.hearOutranking n prio seq else d
    if d'.master then d'
    else
      let known := d'.on BRT_FMASTER.VALID && d'.g BRT_FMASTER.NODE = n
      let better := !d'.on BRT_FMASTER.VALID || outranks prio n (d'.g BRT_FMASTER.PRIO) (d'.g BRT_FMASTER.NODE)
      if !known && !better then d'
      else
        let cfgOk := fieldAt g.body 1 1 = d'.g BRT_CTL.FS && fieldAt g.body 2 1 = d'.blk % 256
        if d'.brtSrc = srcFABRIC && !cfgOk then d'.beaconCfg n
        else (d'.newMaster n prio).useBeacon g seq

def isKind (k : Nat) (h : Hdr) : Bool := h.op = xBEACON && h.aux = k

def execBeacon (s : State) : Out :=
  onDev (fun d => match d.takePkt (isKind kBEACON) with
    | (d, some g) => hearBeacon d g
    | (d, none) => d) s

/-- A master answers a DELAY_REQ and keeps nothing (R538); in IDLE it does not (R681). -/
def answerDelay (d : Dev) (g : Got) : Dev :=
  if !d.beaconOk g.h || g.h.plen < 16 || !d.master || !d.running then d
  else
    let body := slice g.body 0 3 ++ List.replicate 5 0 ++ leBytes 8 g.h.spos.toNat ++ leBytes 8 g.pkt.stamp.toNat
    match d.answerPlane g.pkt.plane with
    | some p => d.sendBeaconKind p kDRESP g.h.src body
    | none => d

def execDelayReq (s : State) : Out :=
  onDev (fun d => match d.takePkt (isKind kDREQ) with
    | (d, some g) => answerDelay d g
    | (d, none) => d) s

/-- A DELAY_RESP of the master that matches the last request of its plane gives the plane a path delay (R93). -/
def takeDelay (d : Dev) (g : Got) : Dev :=
  let p := fieldAt g.body 2 1
  let seq := fieldAt g.body 0 2
  let fits : Bool := d.brt.reqs.getD p none = some (BitVec.ofNat 16 seq)
  if !d.beaconOk g.h || g.h.plen < 24 || !d.follows || !d.on BRT_FMASTER.VALID || g.h.src ≠ d.g BRT_FMASTER.NODE || !fits then d
  else match d.brt.gaps.getD p none with
    | none => d
    | some gap =>
      let f2 : Pos := BitVec.ofNat 64 (fieldAt g.body 8 8)
      let m2 : Pos := BitVec.ofNat 64 (fieldAt g.body 0x10 8)
      let dl := (gap + distance m2 f2) / 2
      { d with brt := { d.brt with delays := setAt d.brt.delays p ((dl :: d.brt.delays.getD p []).take 16) } }

def execDelayResp (s : State) : Out :=
  onDev (fun d => match d.takePkt (isKind kDRESP) with
    | (d, some g) => takeDelay d g
    | (d, none) => d) s

end Sys2Proof.Machine
end

