-- ==== Sys2Proof/Machine/ChnDecode.lean ====
section
/-!
DEFINITION. The 48-bit instruction words of a Chanter core (R299 to R301): decoding is total, and a word that R326 makes
a program fault decodes to the NOP row's reserved form.
-/
namespace Sys2Proof.Machine

/-- A move field: none where it is reserved (MT 3, MODE 5 to 7, a reserved register code). -/
def decodeMv (f : Nat) : Option Mv :=
  let reg := bitsOf f 13 8
  let p := BitVec.ofNat 3 (bitsOf f 7 5)
  let mode := bitsOf f 4 2
  let good := moveCodeOk reg && mode ≤ 4
  match bitsOf f 15 14 with
  | 0 => some .none
  | 1 => if good then some (.load (BitVec.ofNat 6 reg) p (BitVec.ofNat 3 mode)) else none
  | 2 => if good then some (.store (BitVec.ofNat 6 reg) p (BitVec.ofNat 3 mode)) else none
  | _ => none

/-- The operand of MAXI, MINI and MAXMIN. -/
def decodeMax (w : Nat) : MaxSrc :=
  if bit w 37 then .acc (BitVec.ofNat 3 (bitsOf w 40 38))
  else .half (BitVec.ofNat 3 (bitsOf w 36 34)) (BitVec.ofNat 1 (bitsOf w 33 33))

/-- The parallel format. -/
def decodePar (c : BitVec 4) (w : Nat) (xm ym : Mv) : Option Instr :=
  let d := BitVec.ofNat 3 (bitsOf w 40 38)
  let k := BitVec.ofNat 2 (bitsOf w 39 38)
  let a := BitVec.ofNat 2 (bitsOf w 37 36)
  let b := BitVec.ofNat 2 (bitsOf w 35 34)
  let hx := BitVec.ofNat 1 (bitsOf w 33 33)
  let hy := BitVec.ofNat 1 (bitsOf w 32 32)
  let s := BitVec.ofNat 3 (bitsOf w 37 35)
  let sh := bitsOf w 37 33
  let pair := !bit w 40
  match bitsOf w 46 41 with
  | 0 => some (.nop c (.moves xm ym none))
  | 1 => if pair then some (.cmac c k a b xm ym) else none
  | 2 => if pair then some (.cmsu c k a b xm ym) else none
  | 3 => if pair then some (.cmpy c k a b xm ym) else none
  | 4 => if pair then some (.cmacj c k a b xm ym) else none
  | 5 => if pair then some (.dmac c k a b xm ym) else none
  | 6 => some (.mac c d a hx b hy xm ym)
  | 7 => some (.msu c d a hx b hy xm ym)
  | 8 => some (.mpy c d a hx b hy xm ym)
  | 9 => some (.mag c d a xm ym)
  | 10 => some (.add c d s xm ym)
  | 11 => some (.sub c d s xm ym)
  | 12 => some (.addx c d a hx xm ym)
  | 13 => some (.neg c d xm ym)
  | 14 => some (.abs c d xm ym)
  | 15 => some (.clr c d xm ym)
  | 16 => some (.tfr c d s xm ym)
  | 17 => if sh = 0 then none else some (.asl c d (BitVec.ofNat 5 sh) xm ym)
  | 18 => if sh = 0 then none else some (.asr c d (BitVec.ofNat 5 sh) xm ym)
  | 19 => some (.and c a b xm ym)
  | 20 => some (.or c a b xm ym)
  | 21 => some (.xor c a b xm ym)
  | 22 => some (.maxi c (decodeMax w) xm ym)
  | 23 => some (.mini c (decodeMax w) xm ym)
  | 24 => some (.maxmin c (decodeMax w) xm ym)
  | 25 => some (.clrmx c xm ym)
  | _ => none

/-- The control format. -/
def decodeCtl (c : BitVec 4) (w : Nat) : Option Instr :=
  let reg := bitsOf w 39 32
  let r8 := BitVec.ofNat 8 reg
  let src := bitsOf w 31 24
  let cond := bitsOf w 41 38
  let cond4 := BitVec.ofNat 4 cond
  let a := BitVec.ofNat 2 (bitsOf w 37 36)
  let b := BitVec.ofNat 2 (bitsOf w 35 34)
  let p := BitVec.ofNat 3 (bitsOf w 7 5)
  let mode := bitsOf w 4 2
  let target := BitVec.ofNat 14 (bitsOf w 13 0)
  match bitsOf w 46 42 with
  | 0 => if ctlCodeOk reg then some (.ldi c r8 (BitVec.ofNat 32 (bitsOf w 31 0))) else none
  | 1 => if ctlCodeOk reg then some (.mova c (bit w 41) (bit w 40) r8 (BitVec.ofNat 16 (bitsOf w 15 0)) none) else none
  | 2 => if ctlCodeOk reg && mode ≤ 4 then some (.movp c (bit w 41) (bit w 40) r8 p (BitVec.ofNat 3 mode) none) else none
  | 3 => if ctlCodeOk reg && ctlCodeOk src then some (.movr c r8 (BitVec.ofNat 8 src)) else none
  | 4 => if cond < 14 then some (.bra c cond4 target) else none
  | 5 => some (.call c target)
  | 6 => if cond < 14 then some (.ret c cond4) else none
  | 7 => some (.rti c)
  | 8 => some (.rep c (BitVec.ofNat 16 (bitsOf w 29 14)) target)
  | 9 => if ctlCodeOk reg then some (.repr c r8 target) else none
  | 10 => some (.evpost c a b)
  | 11 => some (.pmw c a p)
  | 12 => some (.pmr c a p)
  | 13 => some (.syncp c)
  | 14 => some (.waitb c)
  | 15 => some (.linv c)
  | 16 => some (.lopen c)
  | 17 => some (.notify c (BitVec.ofNat 16 (bitsOf w 15 0)))
  | 18 => some (.stop c)
  | _ => none

/-- The instruction that a PM word spells for core `c`. -/
def decodeChn (c : BitVec 4) (word : BitVec 48) : Instr :=
  let w := word.toNat
  let i := if bit w 47 then decodeCtl c w
    else match decodeMv (bitsOf w 31 16), decodeMv (bitsOf w 15 0) with
      | some xm, some ym => decodePar c w xm ym
      | _, _ => none
  i.getD (.nop c .reserved)

end Sys2Proof.Machine
end

