-- ==== Sys2Proof/Machine/ChnCore.lean ====
section
/-!
DEFINITION. How a Chanter core issues one instruction (chapters 07, 08): fetch and its loop-end comparison, delay slots,
the store buffer, data accesses to local memory and through the windows, the stall of a window miss, and program faults.
Every instruction's meaning is one effect handed to `Dev.issue`.
-/
namespace Sys2Proof.Machine

/-! ### Fetch and sequence (R268, R303) -/

def Core.word (k : Core) : BitVec 48 := sget 0 k.pc.toNat k.pm

/-- The loop-end comparison at a fetch: next address, and the counts and levels it leaves (R268). -/
def loopScan (pc : BitVec 14) (ls le : List (BitVec 14)) : Nat → List (BitVec 16) → BitVec 14 × List (BitVec 16) × Nat
  | 0, lc => (pc + 1, lc, 0)
  | l + 1, lc =>
    if le.getD l 0 = pc then
      (if (lc.getD l 0).toNat > 1 then (ls.getD l 0, setAt lc l (lc.getD l 0 - 1), l + 1)
       else if lc.getD l 0 = 1 then loopScan pc ls le l lc
       else (pc + 1, lc, l + 1))
    else (pc + 1, lc, l + 1)

/-- PC moves on from an instruction that is no taken transfer: delay slots count down to the target; else the loop-end
comparison decides, as LOPEN has not reached it for two fetches (R307). -/
def Core.advance (k : Core) : Core :=
  if 1 < k.slots then { k with slots := k.slots - 1, pc := k.pc + 1 }
  else if k.slots = 1 then { k with slots := 0, pc := k.slotTo }
  else match k.lopen with
    | some (w, l, susp) =>
      if susp then { k with pc := k.pc + 1 }
      else let r := loopScan k.pc k.ls k.le l k.lc
           { k with pc := r.1, lc := r.2.1, lopen := some (w, r.2.2, susp) }
    | none =>
      if k.st cLSUSP then { k with pc := k.pc + 1 }
      else let r := loopScan k.pc k.ls k.le k.ll k.lc
           ({ k with pc := r.1, lc := r.2.1 }).setLl r.2.2

/-- Does an active repeat level end at PC? -/
def Core.atLoopEnd (k : Core) : Bool := (List.range k.ll).any (fun l => k.le.getD l 0 = k.pc)

/-- The program fault that a place in the program makes of an instruction (R304), if any. -/
def Core.placeFault (k : Core) (branchClass : Bool) : Option Nat :=
  if branchClass && k.slots ≠ 0 then some 4
  else if (branchClass || k.slots ≠ 0) && k.atLoopEnd then some 5
  else none

/-! ### Data accesses (R250, R300) -/

/-- One access of an instruction: space, load or store, register code and address. -/
structure Access where
  ySpace : Bool
  store  : Bool
  code   : Nat
  addr   : BitVec 16

def Access.wide (a : Access) : Bool := wideCode a.code
/-- The address with bit 0 cleared for a 64-bit access (R248). -/
def Access.at_ (a : Access) : BitVec 16 := if a.wide then a.addr &&& 0xFFFE else a.addr
def Access.isReserved (a : Access) : Bool := 0x4000 ≤ a.addr.toNat && a.addr.toNat < 0x8000

/-- Internal address that an access through a window forms; none for local memory (R250). -/
def Core.ext (k : Core) (a : Access) : Option Nat :=
  if a.addr.toNat < 0x8000 then none
  else some ((if a.ySpace then k.ywin else k.xwin).toNat + 4 * (a.at_.toNat - 0x8000))

/-- A place in units of one half: local halves first, then bank halves. -/
def placeOf (addr : BitVec 16) : Option Nat → Nat
  | none => addr.toNat
  | some e => 65536 + e / 4

def overlaps (p : Nat) (w : Bool) (q : Nat) (v : Bool) : Bool := p < q + (if v then 2 else 1) && q < p + (if w then 2 else 1)

/-- The youngest store-buffer entry of the load's own space that overlaps it, with its place in the buffer (R308). -/
def Core.youngest (k : Core) (a : Access) : Option (Nat × SbEnt) :=
  let p := placeOf a.at_ (k.ext a)
  ((k.sb.zipIdx.filter (fun (e : SbEnt × Nat) =>
    e.1.ySpace = a.ySpace && overlaps p a.wide (placeOf e.1.addr e.1.ext) e.1.wide)).map (fun e => (e.2, e.1))).getLast?

/-- Does an entry cover exactly the load's address and width? -/
def Core.covers (k : Core) (a : Access) (e : SbEnt) : Bool :=
  placeOf a.at_ (k.ext a) = placeOf e.addr e.ext && a.wide = e.wide

/-- Local memory of a space, read and written in halves and words (R248). -/
def Core.readLocal (k : Core) (ySpace : Bool) (addr : BitVec 16) (wide : Bool) : BitVec 64 :=
  let v := sget 0 (addr.toNat / 2) (if ySpace then k.ym else k.xm)
  if wide then v else (halfOf v (addr.toNat % 2)).setWidth 64

def Core.writeLocal (k : Core) (ySpace : Bool) (addr : BitVec 16) (wide : Bool) (v : BitVec 64) : Core :=
  let i := addr.toNat / 2
  let m := if ySpace then k.ym else k.xm
  let w := if wide then v else putHalf (sget 0 i m) (addr.toNat % 2) (BitVec.ofNat 32 v.toNat)
  if ySpace then { k with ym := sput 0 i w k.ym } else { k with xm := sput 0 i w k.xm }

/-- Bytes of an entry's value. -/
def SbEnt.bytes (e : SbEnt) : List Byte := leBytes (if e.wide then 8 else 4) e.val.toNat

/-- The oldest store-buffer entry drains to its memory; a denied store is discarded and sets AERR (R273, R274, R340). -/
def Dev.drainOne (d : Dev) (c : Nat) : Dev :=
  let k := d.core c
  match k.sb with
  | [] => d
  | e :: t =>
    let d := d.setCore c { k with sb := t }
    match e.ext with
    | none => d.setCore c ((d.core c).writeLocal e.ySpace e.addr e.wide e.val)
    | some a =>
      let r := d.bnkRowWrite (oChn c) a e.bytes
      if r.denied then r.dev.setCore c ((r.dev.core c).setSt cAERR true) else r.dev

/-- Drain the `n` oldest entries. -/
def Dev.drain (d : Dev) (c : Nat) : Nat → Dev
  | 0 => d
  | n + 1 => (d.drainOne c).drain c n

def Dev.drainAll (d : Dev) (c : Nat) : Dev := d.drain c (d.core c).sb.length

/-- Line buffer of a space. -/
def Core.line (k : Core) (ySpace : Bool) : Option (Nat × List Byte) := if ySpace then k.yline else k.xline
def Core.setLine (k : Core) (ySpace : Bool) (l : Option (Nat × List Byte)) : Core :=
  if ySpace then { k with yline := l } else { k with xline := l }
def Core.dead (k : Core) (ySpace : Bool) : Bool := if ySpace then k.ydead else k.xdead
def Core.setDead (k : Core) (ySpace b : Bool) : Core := if ySpace then { k with ydead := b } else { k with xdead := b }
def Core.miss (k : Core) (ySpace : Bool) : Option Nat := if ySpace then k.ymiss else k.xmiss
def Core.setMiss (k : Core) (ySpace : Bool) (m : Option Nat) : Core :=
  if ySpace then { k with ymiss := m } else { k with xmiss := m }

/-- The row that an access still has to fetch: a window load that no entry forwards and whose row the line buffer does not
hold (R275, R308). -/
def Core.needs (k : Core) (a : Access) : Option Nat :=
  if a.store || a.isReserved then none
  else match k.ext a, k.youngest a with
    | none, _ => none
    | some e, y =>
      if (match y with
          | some z => k.covers a z.2
          | none => false) then none
      else if k.dead a.ySpace then none
      else match k.line a.ySpace with
        | some (row, _) => if row = e / 64 * 64 then none else some (e / 64 * 64)
        | none => some (e / 64 * 64)

/-- What a load delivers, once nothing stalls it (R252, R275, R285, R308). -/
def Core.loadVal (k : Core) (a : Access) : BitVec 64 :=
  if a.isReserved then 0
  else
    let fwd := match k.youngest a with
      | some (_, e) => if k.covers a e then some e.val else none
      | none => none
    match fwd with
    | some v => v
    | none => match k.ext a with
      | none => k.readLocal a.ySpace a.at_ a.wide
      | some e =>
        if k.dead a.ySpace then 0
        else match k.line a.ySpace with
          | some (row, bytes) => BitVec.ofNat 64 (fieldAt bytes (e - row) (if a.wide then 8 else 4))
          | none => 0

/-- A load that overlaps an entry of another address or width stalls until that entry and every older one have drained, and
counts PSTALL (R308). -/
def Dev.settleLoad (d : Dev) (c : Nat) (a : Access) (k : Core) : Dev :=
  if a.store || a.isReserved then d
  else match k.youngest a with
    | some (n, e) =>
      if k.covers a e then d
      else
        let d := d.drain c (n + 1)
        let k := d.core c
        d.setCore c { k with pstall := if k.pstall = 0xFFFF then k.pstall else k.pstall + 1 }
    | none => d

/-- A store enters the buffer, after the oldest entry has drained where all four are occupied; the held row of its window
follows (R273, R277). -/
def Dev.store (d : Dev) (c : Nat) (a : Access) (v : BitVec 64) : Dev :=
  let k := d.core c
  if a.isReserved then d.setCore c (k.setSt cAERR true)
  else
    let d := if k.sb.length < 4 then d else d.drainOne c
    let k := d.core c
    let e : SbEnt := ⟨a.ySpace, a.at_, a.wide, v, k.ext a⟩
    let k := { k with sb := k.sb ++ [e] }
    d.setCore c (match e.ext, k.line a.ySpace with
      | some x, some (row, bytes) =>
        if x / 64 * 64 = row then k.setLine a.ySpace (some (row, overlay bytes (x - row) e.bytes)) else k
      | _, _ => k)

/-! ### Moves -/

/-- The access a move field makes, and its pointer's update (R262). -/
def Core.mvAccess (k : Core) (ySpace : Bool) : Mv → Option (Access × Option (Nat × BitVec 16))
  | .none => none
  | .load reg p mode =>
    let r := k.genAddr p.toNat mode.toNat (wideCode reg.toNat)
    some (⟨ySpace, false, reg.toNat, r.1⟩, r.2.map (fun v => (p.toNat, v)))
  | .store reg p mode =>
    let r := k.genAddr p.toNat mode.toNat (wideCode reg.toNat)
    some (⟨ySpace, true, reg.toNat, r.1⟩, r.2.map (fun v => (p.toNat, v)))

/-- Two pointer updates of one instruction that differ on one pointer: the spec names no winner, the pointer takes a free
value; else each update is made. -/
def Dev.stepPointers (d : Dev) (c : Nat) (u v : Option (Nat × BitVec 16)) : Dev :=
  let set : Dev → Option (Nat × BitVec 16) → Dev := fun d u => match u with
    | some (n, p) => let k := d.core c; d.setCore c { k with p := setAt k.p n p }
    | none => d
  match u, v with
  | some (n, p), some (m, q) =>
    if n = m && p ≠ q then set d.drawn (some (n, d.draw 16)) else set (set d u) v
  | _, _ => set (set d u) v

/-- An accumulator, as a load code names it: number of the accumulators loaded. -/
def accsOf (code : Nat) : List Nat :=
  if 24 ≤ code && code < 32 then [code - 24]
  else if 32 ≤ code && code < 40 then [code - 32]
  else if 40 ≤ code && code < 44 then [(code - 40) * 2, (code - 40) * 2 + 1]
  else if 44 ≤ code && code < 52 then [code - 44]
  else if 52 ≤ code && code < 60 then [code - 52]
  else if 64 ≤ code && code < 72 then [code - 64]
  else []

/-- The search register that a code names. -/
def searchOf (code : Nat) : Option Nat :=
  if code = 60 then some 0 else if code = 61 then some 1
  else if 108 ≤ code && code < 111 then some (code - 106) else none

/-- What an instruction's arithmetic writes: accumulators, search registers, an X register. -/
structure Writes where
  accs   : List Nat := []
  search : List Nat := []
  xreg   : Option Nat := none

/-- Does a load code meet a register, other than an accumulator, that the arithmetic of the same instruction writes? -/
def Writes.clash (w : Writes) (code : Nat) : Bool :=
  (match searchOf code with
   | some n => w.search.contains n
   | none => false)
  || (match w.xreg with
      | some a => code = a || code / 2 = 4 + a
      | none => false)

/-- Start the load of a value into a code, beside the arithmetic of its instruction (R287). -/
def Dev.startLoad (d : Dev) (c : Nat) (w : Writes) (code : Nat) (v : BitVec 64) : Dev :=
  if w.clash code then d.drawn.setCore c ((d.core c).load code (d.draw 64))
  else
    let k := (d.core c).load code v
    d.setCore c { k with pend := k.pend.filter (fun e => !(accsOf e.code.toNat).any (w.accs.contains ·)) }

/-- Make one access: a store reads its register, a load starts its register's write (R259, R261, R252). -/
def Dev.access (d : Dev) (c : Nat) (w : Writes) (src : Core) (a : Access) : Dev :=
  if a.store then
    let r := src.readCode a.code
    let d := d.setCore c ((d.core c).stick cSAT r.2)
    d.store c a r.1
  else
    let v := (d.core c).loadVal a
    let d := d.setCore c ((d.core c).stick cAERR a.isReserved)
    d.startLoad c w a.code v

/-! ### Program faults and stops (R326, R327) -/

/-- The core stops at PC: earlier instructions complete and the store buffer drains. -/
def Dev.stopCore (d : Dev) (c : Nat) (fcode : Nat) : Dev :=
  let d := d.setCore c (d.core c).retire
  let d := d.drainAll c
  let k := d.core c
  let d := d.setCore c { k with stopped := true, fcode := BitVec.ofNat 4 fcode, fpc := k.pc }
  let d := d.logicDst kCore c DISABLED
  d.setCore c (d.core c).sync

/-- A program fault: the faulting instruction has no effect, and CHN_PROGFLT carries the low 12 bits of its address
(R295, R326). -/
def Dev.progFault (d : Dev) (c : Nat) (fcode : Nat) : Dev :=
  let pc := (d.core c).pc.toNat
  (d.stopCore c fcode).raise nCHN 4 (pc % 4096)

/-! ### Issue -/

/-- Is a core issuing instructions: powered, run by its states, and not waiting in WAITB (R321, R324)? -/
def Core.issuing (k : Core) : Bool := k.pwr && k.run && !k.waiting && !k.pmBad

/-- The core's next instruction is `i`: the core as that instruction finds it. No core issues outside the
modes that run it (R677, R680), and a core is stalled while a row of its memory is tested (R293). -/
def Dev.atInstr (d : Dev) (c : BitVec 4) (i : Instr) : Option Core :=
  let k := d.core c.toNat
  if d.running && !d.pwr.entered && k.issuing && !d.testing kCore c.toNat && decodeChn c k.front.word = i then some k.front else none

/-- A load from local memory meets an error (R293): a corrected one is counted; an uncorrectable word reads as it now
stands, a free value, with CHN_DECC and a march over its row. -/
def Dev.memErr (d : Dev) (c : Nat) (a : Access) (double : Bool) : Dev :=
  let k := d.core c
  if a.store || 0x4000 ≤ a.addr.toNat || (k.youngest a).isSome then d
  else if double then
    let d := (d.drawn.setCore c (k.writeLocal a.ySpace (a.addr &&& 0xFFFE) true (d.draw 64))).raise nCHN 3 c
    d.startTest kCore c (b2n a.ySpace * 1024 + a.addr.toNat / 16)
  else d.setCore c { k with ecccor := if k.ecccor = 0xFF then k.ecccor else k.ecccor + 1 }

/-- The error met by an instruction's accesses. -/
def Dev.memErrs (d : Dev) (c : Nat) (err : Option MemErr) (l : List Access) : Dev :=
  match err with
  | some e => match l.find? (fun a => a.ySpace = e.ySpace && !a.store) with
    | some a => d.memErr c a e.double
    | none => d
  | none => d

/-- What is left when an instruction completes: the values that later readers see delayed (R307). -/
def Core.done_ (k : Core) (before : Core) : Core :=
  { k with accOld := before.acc, cond1 := before.condNow, cond2 := before.cond1,
           mxOld := [before.mxv, before.mnv, before.mxi.setWidth 32, before.mni.setWidth 32, before.sidx.setWidth 32],
           xdead := false, ydead := false, stalled := false, noIrq := k.noIrq - 1 }

/-- Issue instruction `i` if it is the core's next: fault where it stands wrongly, else its effect, which sees the core as
`front` leaves it and returns the device with PC set. -/
def Dev.issue (d : Dev) (c : BitVec 4) (i : Instr) (branchClass : Bool) (body : Core → Dev → Dev) : Dev :=
  match d.atInstr c i with
  | none => d
  | some k =>
    match k.placeFault branchClass with
    | some f => d.progFault c.toNat f
    | none => let d := body k (d.setCore c.toNat k)
              if (d.core c.toNat).run then d.setCore c.toNat ((d.core c.toNat).done_ k) else d

/-- Issue an instruction that makes accesses: partial overlaps drain first, a window miss stalls the instruction with its
rows requested (R275, R276), and once nothing stalls it the accesses and the core's own effect take place together. -/
def Dev.issueAcc (d : Dev) (c : BitVec 4) (i : Instr) (acc : Core → List (Access × Option (Nat × BitVec 16)))
    (w : Core → Writes) (effect : Core → Core) (err : Option MemErr := none) : Dev :=
  match d.atInstr c i with
  | none => d
  | some k =>
    match k.placeFault false with
    | some f => d.progFault c.toNat f
    | none =>
      let l := acc k
      let d := l.foldl (fun (d : Dev) (a : Access × Option (Nat × BitVec 16)) =>
        d.settleLoad c.toNat a.1 (d.core c.toNat).front) d
      let k := (d.core c.toNat).front
      let need : Bool → Option Nat := fun y => l.findSome? (fun a => if a.1.ySpace = y then k.needs a.1 else none)
      if (need false).isSome || (need true).isSome then
        let k0 := d.core c.toNat
        d.setCore c.toNat { k0 with stalled := true, xmiss := need false, ymiss := need true }
      else
        let d := (d.setCore c.toNat (effect k)).memErrs c.toNat err (l.map (·.1))
        let d := l.foldl (fun (d : Dev) (a : Access × Option (Nat × BitVec 16)) => d.access c.toNat (w k) k a.1) d
        let d := d.stepPointers c.toNat ((l.getD 0 (⟨false, false, 0, 0⟩, none)).2) ((l.getD 1 (⟨false, false, 0, 0⟩, none)).2)
        d.setCore c.toNat ((d.core c.toNat).advance.done_ k)

end Sys2Proof.Machine
end

