-- ==== Sys2Proof/Machine/ChnControl.lean ====
section
/-!
DEFINITION. The control-format instructions of a Chanter core (chapter 08), interrupts, the store buffer and the windows'
line fills.
-/
namespace Sys2Proof.Machine

/-! ### Moves -/

/-- A 32-bit value as a load of a code takes it: sign-extended for a 64-bit register (R301). -/
def ext64 (code : Nat) (v : BitVec 32) : BitVec 64 := if wideCode code then v.signExtend 64 else v.setWidth 64

/-- An instruction without accesses: its effect on the device, then the next instruction. -/
def Dev.plain (d : Dev) (c : BitVec 4) (i : Instr) (body : Core → Dev → Dev) : Dev :=
  d.issue c i false (fun k d =>
    let d := body k d
    d.setCore c.toNat (d.core c.toNat).advance)

def execLdi (c : BitVec 4) (reg : BitVec 8) (imm : Word) (s : State) : Out :=
  onDev (fun d => d.plain c (.ldi c reg imm) (fun _ d =>
    d.setCore c.toNat ((d.core c.toNat).load reg.toNat (ext64 reg.toNat imm)))) s

/-- MOVA: a move at an absolute address. -/
def execMova (c : BitVec 4) (store ySpace : Bool) (reg : BitVec 8) (addr : Half) (err : Option MemErr)
    (s : State) : Out :=
  onDev (fun d => d.issueAcc c (.mova c store ySpace reg addr none) (fun _ => [(⟨ySpace, store, reg.toNat, addr⟩, none)])
    (fun _ => {}) id err) s

/-- MOVP: a move through a pointer. -/
def execMovp (c : BitVec 4) (store ySpace : Bool) (reg : BitVec 8) (p mode : BitVec 3)
    (err : Option MemErr) (s : State) : Out :=
  onDev (fun d => d.issueAcc c (.movp c store ySpace reg p mode none) (fun k =>
      let r := k.genAddr p.toNat mode.toNat (wideCode reg.toNat)
      [(⟨ySpace, store, reg.toNat, r.1⟩, r.2.map (fun v => (p.toNat, v)))])
    (fun _ => {}) id err) s

/-- MOVR: reads SRC as a store would, writes DST as a load would; 64 to 32 bits takes [31:0], 32 to 64 sign-extends. -/
def execMovr (c : BitVec 4) (dst src : BitVec 8) (s : State) : Out :=
  onDev (fun d => d.plain c (.movr c dst src) (fun k d =>
    let r := k.readCode src.toNat
    let v := if wideCode src.toNat && wideCode dst.toNat then r.1 else ext64 dst.toNat (BitVec.ofNat 32 r.1.toNat)
    d.setCore c.toNat (((d.core c.toNat).stick cSAT r.2).load dst.toNat v))) s

/-! ### Branches (R303) -/

/-- A branch resolves: two delay slots, then the target, or the instruction after them where it is not taken. -/
def Core.branchTo (k : Core) (taken : Bool) (target : BitVec 14) (irqFree : Nat) : Core :=
  { k with slots := 2, slotTo := if taken then target else k.pc + 3, pc := k.pc + 1, noIrq := irqFree }

/-- Is an enabled interrupt pending, whatever CST.IE holds? -/
def Core.irqPend (k : Core) : Bool := (k.ipend &&& k.ien) ≠ 0

/-- Is a branch condition met, as flags of three instructions ago and the pending interrupts stand (R307)? -/
def Core.taken (k : Core) (cond : BitVec 4) : Bool := condMet cond.toNat k.cond2.toNat k.irqPend

def Dev.branch (d : Dev) (c : BitVec 4) (i : Instr) (f : Core → Core) : Dev :=
  d.issue c i true (fun _ d => d.setCore c.toNat (f (d.core c.toNat)))

def execBra (c : BitVec 4) (cond : BitVec 4) (target : BitVec 14) (s : State) : Out :=
  onDev (fun d => d.branch c (.bra c cond target) (fun k => k.branchTo (k.taken cond) target 3)) s

def execCall (c : BitVec 4) (target : BitVec 14) (s : State) : Out :=
  onDev (fun d => d.branch c (.call c target) (fun k => { k with lr := k.pc + 3 }.branchTo true target 3)) s

def execRet (c : BitVec 4) (cond : BitVec 4) (s : State) : Out :=
  onDev (fun d => d.branch c (.ret c cond) (fun k => k.branchTo (k.taken cond) k.lr 3)) s

/-- RTI: the copy of ICST takes place at the fetch of the instruction at IPC (R316). -/
def execRti (c : BitVec 4) (s : State) : Out :=
  onDev (fun d => d.branch c (.rti c) (fun k => { k.branchTo true k.ipc 4 with slotRti := true })) s

/-! ### Repeats (R267, R305) -/

/-- Push a repeat level, whatever CST.LSUSP holds (R318). -/
def Core.push (k : Core) (count : BitVec 16) (le : BitVec 14) : Core :=
  let l := k.ll
  let mine : Delayed → Bool := fun e => [96 + l, 100 + l, 104 + l].contains e.code.toNat
  ({ k with lc := setAt k.lc l count, ls := setAt k.ls l (k.pc + 1), le := setAt k.le l le,
            loopPend := k.loopPend.filter (fun e => !mine e) }).setLl (l + 1)

def Dev.repeat_ (d : Dev) (c : BitVec 4) (i : Instr) (count : Core → BitVec 16) (le : BitVec 14) : Dev :=
  match d.atInstr c i with
  | none => d
  | some k =>
    match k.placeFault true with
    | some f => d.progFault c.toNat f
    | none =>
      if le.toNat < (k.pc + 1).toNat then d.progFault c.toNat 2
      else if 4 ≤ k.ll then d.progFault c.toNat 3
      else
        d.issue c i true (fun k d =>
          let n := count k
          let u := d.core c.toNat
          let u := { u with noIrq := 3 }
          d.setCore c.toNat (if n = 0 then { u with pc := le + 1 } else { u.push n le with pc := u.pc + 1 }))

def execRep (c : BitVec 4) (count : Half) (le : BitVec 14) (s : State) : Out :=
  onDev (fun d => d.repeat_ c (.rep c count le) (fun _ => count) le) s

/-- REPR: the count is the low 16 bits of a register. -/
def execRepr (c : BitVec 4) (reg : BitVec 8) (le : BitVec 14) (s : State) : Out :=
  onDev (fun d => d.repeat_ c (.repr c reg le) (fun k => BitVec.ofNat 16 (k.readCode reg.toNat).1.toNat) le) s

/-- LOPEN: no active level, detection not suspended; the loop-end comparison sees it from the third fetch on (R307). -/
def execLopen (c : BitVec 4) (s : State) : Out :=
  onDev (fun d => d.issue c (.lopen c) false (fun _ d =>
    let k := (d.core c.toNat).advance
    let k := { k with lopen := some (3, k.ll, k.st cLSUSP) }
    d.setCore c.toNat ((k.setLl 0).setSt cLSUSP false))) s

/-! ### Posting, program memory and the rest -/

/-- EVPOST: the word joins the 8-entry post queue, or is refused and counted (R322). -/
def execEvpost (c : BitVec 4) (a b : BitVec 2) (s : State) : Out :=
  onDev (fun d => d.plain c (.evpost c a b) (fun k d =>
    let u := d.core c.toNat
    if 8 ≤ u.post.length then (d.setCore c.toNat { u with pref := true }).cnt EVS_DROP
    else d.setCore c.toNat { u with pref := false, post := u.post ++ [⟨k.x.getD a.toNat 0, k.y.getD b.toNat 0⟩] })) s

/-- PMW: fetches see the word from the fifth instruction on (R311). -/
def execPmw (c : BitVec 4) (a : BitVec 2) (p : BitVec 3) (s : State) : Out :=
  onDev (fun d => d.plain c (.pmw c a p) (fun k d =>
    let u := d.core c.toNat
    d.setCore c.toNat { u with pmPend := u.pmPend ++
      [⟨5, BitVec.ofNat 14 (k.p.getD p.toNat 0).toNat, BitVec.ofNat 48 (k.x.getD a.toNat 0).toNat⟩] })) s

/-- PMR: a PMW is seen from the third instruction on, when it has reached stage W. -/
def execPmr (c : BitVec 4) (a : BitVec 2) (p : BitVec 3) (s : State) : Out :=
  onDev (fun d => d.plain c (.pmr c a p) (fun k d =>
    let addr := BitVec.ofNat 14 (k.p.getD p.toNat 0).toNat
    let v := match (k.pmPend.filter (fun e => e.addr = addr && e.wait ≤ 2)).getLast? with
      | some e => e.val
      | none => sget 0 addr.toNat k.pm
    d.setCore c.toNat ((d.core c.toNat).load a.toNat (v.setWidth 64)))) s

/-- SYNCP: everything earlier has retired before the next fetch (R312). -/
def execSyncp (c : BitVec 4) (s : State) : Out :=
  onDev (fun d => d.issue c (.syncp c) true (fun _ d =>
    let k := (d.core c.toNat).retire
    d.setCore c.toNat { k with pc := k.pc + 1 })) s

/-- LINV: both line buffers become invalid (R278). -/
def execLinv (c : BitVec 4) (s : State) : Out :=
  onDev (fun d => d.plain c (.linv c) (fun _ d =>
    d.setCore c.toNat { d.core c.toNat with xline := none, yline := none })) s

/-- NOTIFY: UNIT of the notice carries the low 12 bits of the value. -/
def execNotify (c : BitVec 4) (v : Half) (s : State) : Out :=
  onDev (fun d => d.plain c (.notify c v) (fun _ d =>
    (d.setCore c.toNat { d.core c.toNat with note := v }).raise nCHN 5 (v.toNat % 4096))) s

/-- STOP (R327). -/
def execStop (c : BitVec 4) (s : State) : Out :=
  onDev (fun d => d.issue c (.stop c) true (fun _ d => d.stopCore c.toNat 6)) s

/-! ### Block pacing (R320, R321, R624) -/

/-- The export group takes the Y halves 0x3FC0 to 0x3FCF of the core that it names (R624). -/
def Dev.exportCore (d : Dev) (c : Nat) : Dev :=
  if d.g HRP_CXSEL.CORE ≠ c then d
  else d.placeResult gChanter ((List.range 16).map (fun i =>
    BitVec.ofNat 32 ((d.core c).readLocal true (BitVec.ofNat 16 (0x3FC0 + i)) false).toNat))

/-- The core sets DONE: CHN_CYC takes the cycles since the last block start, four to a TBASE tick (R282). -/
def Dev.setDone (d : Dev) (c : Nat) : Dev :=
  let k := d.core c
  let n := min ((d.brt.tbase - k.cycNow).toNat * 4) 0xFFFFF
  let d := d.setCore c { k with done := true, own := true, cyc := BitVec.ofNat 20 n,
                                cycmax := BitVec.ofNat 20 (max n k.cycmax.toNat) }
  d.exportCore c

/-- WAITB: the store buffer drains first; then the core goes on late, or sets DONE and waits. -/
def execWaitb (c : BitVec 4) (s : State) : Out :=
  onDev (fun d => d.issue c (.waitb c) true (fun _ d =>
    let d := d.drainAll c.toNat
    let k := d.core c.toNat
    if k.est ≠ DRAINING && k.bsp then d.setCore c.toNat { k with bsp := false, pc := k.pc + 1, noIrq := 3 }
    else (d.setCore c.toNat { k with waiting := true }).setDone c.toNat)) s

/-! ### Interrupts (R314, R315) -/

/-- Can the core accept an interrupt at this point? A core that waits in DRAINING stays waiting (R321). -/
def Core.canAccept (k : Core) : Bool :=
  k.pwr && k.run && k.ieSeen && k.irqPend && !k.stalled
    && (if k.waiting then k.est ≠ DRAINING else k.noIrq = 0 && k.slots = 0)

/-- The lowest enabled pending source. -/
def Core.irqSource (k : Core) : Nat := ((List.range 4).find? (fun s => (k.ipend &&& k.ien).getLsbD s)).getD 0

def Core.acceptIrq (k : Core) : Core :=
  let s := k.irqSource
  let k := { k with ipc := k.pc, icst := k.cst, ipend := k.ipend &&& ~~~ BitVec.ofNat 4 (2 ^ s),
                    pc := BitVec.ofNat 14 (4 * (s + 1)), waiting := false, lopen := none,
                    loopPend := k.loopPend.filter (fun e => e.code ≠ 111) }
  (k.setSt cIE false).setSt cLSUSP true

def execInterruptAccept (c : BitVec 4) (s : State) : Out :=
  onDev (fun d => if (d.core c.toNat).canAccept then d.setCore c.toNat (d.core c.toNat).acceptIrq else d) s

/-! ### The store buffer and the windows -/

def execStoreBufferDrain (c : BitVec 4) (s : State) : Out := onDev (fun d => d.drainOne c.toNat) s

/-- The row that a stalled load requested arrives through the bank's owner input. A denied burst gives the load 0 and sets
AERR; a word that reads uncorrectable is delivered as read, with CHN_DECC (R274, R275, R340, R349). -/
def Dev.lineFill (d : Dev) (c : Nat) (y : Bool) : Dev :=
  match (d.core c).miss y with
  | none => d
  | some row =>
    let r := d.bnkRow (oChn c) row 64
    let d := r.dev
    let k := (d.core c).setMiss y none
    if r.denied then d.setCore c ((k.setDead y true).setSt cAERR true)
    else
      let d := d.setCore c (k.setLine y (some (row, r.data)))
      if r.unc then d.raise nCHN 3 c else d

def execWindowLineFill (c : BitVec 4) (ySpace : Bool) (s : State) : Out := onDev (fun d => d.lineFill c.toNat ySpace) s

/-- A window access that has not completed ends (R285): the stalled load takes 0, or the oldest window store of that space
is discarded. UNIT holds the core in [11:8] and the bank in [7:0]. -/
def Dev.windowTimeout (d : Dev) (c : Nat) (y : Bool) : Dev :=
  let k := d.core c
  match k.miss y with
  | some row => (d.setCore c (((k.setMiss y none).setDead y true).setSt cAERR true)).raise nCHN 1 (c * 256 + bankOf row)
  | none => match k.sb with
    | e :: t => match e.ext with
      | some a => if e.ySpace = y then (d.setCore c ({ k with sb := t }.setSt cAERR true)).raise nCHN 1 (c * 256 + bankOf a)
                  else d
      | none => d
    | [] => d

def execWindowTimeout (c : BitVec 4) (ySpace : Bool) (s : State) : Out :=
  onDev (fun d => d.windowTimeout c.toNat ySpace) s

end Sys2Proof.Machine
end

