-- ==== Sys2Proof/Machine/ChnOutside.lean ====
section
/-!
DEFINITION. A Chanter core from outside (chapters 07, 08): access to its memories by the host, the USB engine, the Bellows
and the boot fill, its register block and core register view, power and restart.
-/
namespace Sys2Proof.Machine

/-! ### Memories (R247, R279, R313, R819) -/

/-- The core, memory and byte offset of an internal address; none where R247 places no memory. -/
def chnLocate (a : Nat) : Option (Nat × CMem × Nat) :=
  if a < 0x10000000 || 0x11000000 ≤ a then none
  else
    let r := (a - 0x10000000) % 0x100000
    let c := (a - 0x10000000) / 0x100000
    if r < 0x20000 then some (c, .pm, r)
    else if 0x40000 ≤ r && r < 0x50000 then some (c, .x, r - 0x40000)
    else if 0x60000 ≤ r && r < 0x70000 then some (c, .y, r - 0x60000)
    else none

/-- Bytes of the 64-bit slot `i` of a memory; bits 63:48 of a PM slot read as 0. -/
def Core.slot (k : Core) (mem : CMem) (i : Nat) : List Byte :=
  match mem with
  | .pm => leBytes 8 (sget 0 i k.pm).toNat
  | .x => leBytes 8 (sget 0 i k.xm).toNat
  | .y => leBytes 8 (sget 0 i k.ym).toNat

def Core.memByte (k : Core) (mem : CMem) (off : Nat) : Byte := (k.slot mem (off / 8)).getD (off % 8) 0

/-- Read bytes from outside; a core without power denies the access and reads 0 (R819). -/
def Dev.chnRead (d : Dev) (c : Nat) (mem : CMem) (off n : Nat) : List Byte × Bool :=
  let k := d.core c
  if k.pwr then ((List.range n).map (fun i => k.memByte mem (off + i)), false) else (List.replicate n 0, true)

/-- Number of an outside agent among those whose PM bytes are held (R313). -/
def agNum : Agent → Nat
  | .host => 0
  | .usb => 1
  | .mgmt => 2
  | .image => 3
  | .sysex => 4
  | .console => 5

/-- One byte of a PM slot (R313): bytes 0 to 4 are held, byte 5 commits the word, bytes 6 and 7 are ignored. -/
def Core.pmByte (k : Core) (ag : Nat) (off : Nat) (b : Byte) : Core :=
  let slot := off / 8
  let held := match k.pmHeld.find? (fun e => e.1 = ag && e.2.1 = slot) with
    | some e => e.2.2
    | none => []
  let rest := k.pmHeld.filter (fun e => e.1 ≠ ag)
  if off % 8 < 5 then
    { k with pmHeld := (ag, slot, (off % 8, b) :: held.filter (fun e => e.1 ≠ off % 8)) :: rest }
  else if off % 8 = 5 then
    let old := k.slot .pm slot
    let new := ((List.range 5).map (fun i => (held.lookup i).getD (old.getD i 0))) ++ [b]
    { k with pmHeld := rest, pm := sput 0 slot (BitVec.ofNat 48 (leNat new)) k.pm }
  else k

/-- One byte written from outside. -/
def Core.outByte (k : Core) (ag : Nat) (mem : CMem) (off : Nat) (b : Byte) : Core :=
  let put : Sparse (BitVec 64) → Sparse (BitVec 64) := fun m =>
    sput 0 (off / 8) (BitVec.ofNat 64 (leNat (setAt (leBytes 8 (sget 0 (off / 8) m).toNat) (off % 8) b))) m
  match mem with
  | .pm => k.pmByte ag off b
  | .x => { k with xm := put k.xm }
  | .y => { k with ym := put k.ym }

def Core.outBytes (k : Core) (ag : Nat) (mem : CMem) (off : Nat) : List Byte → Core
  | [] => k
  | b :: t => (k.outByte ag mem off b).outBytes ag mem (off + 1) t

/-- Write bytes from outside; true when the access was denied. -/
def Dev.chnWrite (d : Dev) (ag : Agent) (c : Nat) (mem : CMem) (off : Nat) (data : List Byte) : Dev × Bool :=
  if (d.core c).pwr then (d.setCore c ((d.core c).outBytes (agNum ag) mem off data), false) else (d, true)

/-- How an agent that waits for no other answer learns of a denial (R340). -/
def Dev.tellDenied (d : Dev) (ag : Agent) (denied : Bool) : Dev := d.sIf (denied && ag = .host) HRP_STAT.BDENY 1

def execOutsideAccess (ag : Agent) (c : BitVec 4) (mem : CMem) (off : BitVec 18) (wide : Bool) (write : Option (BitVec 64))
    (s : State) : Out :=
  onDev (fun d =>
    let n := if wide then 8 else 4
    let o := off.toNat / n * n
    if (if mem = .pm then 0x20000 else 0x10000) ≤ o then d
    else match write with
      | some v =>
        let r := d.chnWrite ag c.toNat mem o (leBytes n v.toNat)
        r.1.tellDenied ag r.2
      | none =>
        let r := d.chnRead c.toNat mem o n
        { d with hrp := { d.hrp with rdata := BitVec.ofNat 64 (leNat r.1) } }.tellDenied ag r.2) s

/-! ### Power (R298, R329) -/

/-- The registers and memories of a core at R296 and R328; the register block's own fields stay. -/
def Core.cleared (k : Core) : Core :=
  { Core.reset with
    mst := k.mst, dst := if k.dst = 3 then 3 else 2, pwr := k.pwr, restart := k.restart, startpc := k.startpc, note := k.note,
    ovr := k.ovr, pstall := k.pstall, ecccor := k.ecccor, cyc := k.cyc, cycmax := k.cycmax, cycNow := k.cycNow }

/-- A write of 0 to PWR: the core is disabled, what it has issued completes, and its island is gated. -/
def Dev.chnOff (d : Dev) (c : Nat) : Dev :=
  let d := if (d.core c).mst = 3 then d else d.putMst kCore c DISABLED
  let d := if (d.core c).pwr then d.drainAll c else d
  d.setCore c { (d.core c).cleared with pwr := false }

/-- Power comes on: every memory word 0, the registers at their reset values, the core not running. -/
def Dev.chnOn (d : Dev) (c : Nat) : Dev :=
  if (d.core c).pwr then d else d.setCore c { (d.core c).cleared with pwr := true }

/-! ### The register block -/

/-- CHN_STAT. -/
def Core.stat (k : Core) : Nat :=
  k.dst.toNat + k.est * 4 + b2n (k.run && !k.waiting) * 16 + b2n (k.run && k.waiting) * 32 + b2n k.stopped * 64
    + b2n k.pref * 128 + k.ll * 256 + b2n k.done * 2048 + k.fcode.toNat * 4096 + k.fpc.toNat * 65536

/-- One word of the core register view (R330). -/
def Core.view (k : Core) (o : Nat) : Nat :=
  let part (n : Nat) : Nat := n / 2 ^ (o % 8 / 4 * 32) % 2 ^ 32
  if o = 0x100 then k.pc.toNat
  else if o = 0x104 then k.cst.toNat
  else if o = 0x108 then k.lr.toNat
  else if o = 0x10C then k.ipc.toNat
  else if o = 0x110 then k.icst.toNat
  else if o = 0x114 then k.mxv.toNat
  else if o = 0x118 then k.mnv.toNat
  else if o = 0x11C then k.mxi.toNat
  else if o = 0x120 then k.mni.toNat
  else if o = 0x124 then k.sidx.toNat
  else if 0x140 ≤ o && o < 0x160 then (k.p.getD ((o - 0x140) / 4) 0).toNat
  else if 0x160 ≤ o && o < 0x180 then (k.n.getD ((o - 0x160) / 4) 0).toNat
  else if 0x180 ≤ o && o < 0x1A0 then (k.m.getD ((o - 0x180) / 4) 0).toNat
  else if 0x1A0 ≤ o && o < 0x1B0 then (k.lc.getD ((o - 0x1A0) / 4) 0).toNat
  else if 0x1B0 ≤ o && o < 0x1C0 then (k.ls.getD ((o - 0x1B0) / 4) 0).toNat
  else if 0x1C0 ≤ o && o < 0x1D0 then (k.le.getD ((o - 0x1C0) / 4) 0).toNat
  else if 0x200 ≤ o && o < 0x220 then part (k.x.getD ((o - 0x200) / 8) 0).toNat
  else if 0x220 ≤ o && o < 0x240 then part (k.y.getD ((o - 0x220) / 8) 0).toNat
  else if 0x240 ≤ o && o < 0x2C0 then
    (k.acc.getD ((o - 0x240) / 16) 0).toNat / 2 ^ ((o - 0x240) % 16 / 4 * 32) % 2 ^ 32
  else 0

/-- Replace a 32-bit part of a number. -/
def putPart (n i v : Nat) : Nat := n - n / 2 ^ (32 * i) % 2 ^ 32 * 2 ^ (32 * i) + v % 2 ^ 32 * 2 ^ (32 * i)

/-- A CST value without reserved bits; the reserved rounding code leaves RND as it was (R7). -/
def cstWrite (old v : BitVec 32) : BitVec 32 :=
  let w := v &&& BitVec.ofNat 32 cstAll
  if bitsOf w.toNat 5 4 = 3 then putBits w 5 4 (bitsOf old.toNat 5 4) else w

/-- A write through the view sets every defined field (R330). -/
def Core.viewWrite (k : Core) (o v : Nat) : Core :=
  let v14 := BitVec.ofNat 14 v
  let v16 := BitVec.ofNat 16 v
  let v32 := BitVec.ofNat 32 v
  if o = 0x100 then { k with pc := v14, slots := 0, slotRti := false, noIrq := 0 }
  else if o = 0x104 then { k with cst := cstWrite k.cst v32 }.retire
  else if o = 0x108 then { k with lr := v14 }
  else if o = 0x10C then { k with ipc := v14 }
  else if o = 0x110 then { k with icst := v32 &&& BitVec.ofNat 32 cstAll }
  else if o = 0x114 then { k with mxv := v32 }.retire
  else if o = 0x118 then { k with mnv := v32 }.retire
  else if o = 0x11C then { k with mxi := v16 }.retire
  else if o = 0x120 then { k with mni := v16 }.retire
  else if o = 0x124 then { k with sidx := v16 }.retire
  else if 0x140 ≤ o && o < 0x160 then { k with p := setAt k.p ((o - 0x140) / 4) v16 }
  else if 0x160 ≤ o && o < 0x180 then { k with n := setAt k.n ((o - 0x160) / 4) v16 }
  else if 0x180 ≤ o && o < 0x1A0 then { k with m := setAt k.m ((o - 0x180) / 4) v16 }
  else if 0x1A0 ≤ o && o < 0x1B0 then { k with lc := setAt k.lc ((o - 0x1A0) / 4) v16 }
  else if 0x1B0 ≤ o && o < 0x1C0 then { k with ls := setAt k.ls ((o - 0x1B0) / 4) v14 }
  else if 0x1C0 ≤ o && o < 0x1D0 then { k with le := setAt k.le ((o - 0x1C0) / 4) v14 }
  else if 0x200 ≤ o && o < 0x220 then
    { k with x := k.x.modify ((o - 0x200) / 8) (fun w => BitVec.ofNat 64 (putPart w.toNat (o % 8 / 4) v)) }
  else if 0x220 ≤ o && o < 0x240 then
    { k with y := k.y.modify ((o - 0x220) / 8) (fun w => BitVec.ofNat 64 (putPart w.toNat (o % 8 / 4) v)) }
  else if 0x240 ≤ o && o < 0x2C0 then
    let part := (o - 0x240) % 16 / 4
    { k with acc := k.acc.modify ((o - 0x240) / 16) (fun w => BitVec.ofNat 72 (putPart w.toNat part v)) }.retire
  else k

/-- A register of a core's block: its value, and the core after the read, which clears the RC fields. -/
def Core.regRead (k : Core) (o : Nat) : Nat × Core :=
  if o = 0 then (k.mst.toNat + b2n k.pwr * 4 + k.startpc.toNat * 65536, k)
  else if o = 4 then (k.stat, k)
  else if o = 8 then (k.xwin.toNat, k)
  else if o = 0xC then (k.ywin.toNat, k)
  else if o = 0x10 then (k.ien.toNat + k.tsel.toNat * 16, k)
  else if o = 0x14 then (k.ipend.toNat, k)
  else if o = 0x1C then (k.note.toNat, k)
  else if o = 0x20 then
    (k.ovr.toNat + k.pstall.toNat * 256 + k.ecccor.toNat * 2 ^ 24, { k with ovr := 0, pstall := 0, ecccor := 0 })
  else if o = 0x24 then (k.cyc.toNat, k)
  else if o = 0x28 then (k.cycmax.toNat, { k with cycmax := 0 })
  else if 0x100 ≤ o && o < 0x2C0 then (if k.pwr then k.view o else 0, k)
  else (0, k)

/-- A write of CHN_CTL: power first, then STARTPC and RESTART, then the management state, which a write of 0 to PWR
overrides (R325, R329). -/
def Dev.chnCtl (d : Dev) (c v : Nat) : Dev :=
  let k := d.core c
  let d := d.setCore c { k with startpc := BitVec.ofNat 14 (bitsOf v 29 16), restart := k.restart || bit v 3 }
  if bit v 2 then
    let d := (d.chnOn c).manage kCore c (v % 4)
    d.setCore c (d.core c).sync
  else d.chnOff c

/-- The core register view accepts writes only while the core neither runs nor waits and is powered (R330). -/
def Dev.chnView (d : Dev) (c o v : Nat) : Dev :=
  let k := d.core c
  if k.pwr && !k.run then d.setCore c (k.viewWrite o v) else d

/-- Effect of a write to a core's register block. -/
def Dev.chnReg (d : Dev) (c o v : Nat) : Dev :=
  let k := d.core c
  if o = 0 then d.chnCtl c v
  else if o = 8 then d.setCore c { k with xwin := winMask v, xline := none }
  else if o = 0xC then d.setCore c { k with ywin := winMask v, yline := none }
  else if o = 0x10 then d.setCore c { k with ien := BitVec.ofNat 4 v, tsel := BitVec.ofNat 3 (v / 16) }
  else if o = 0x14 then d.setCore c { k with ipend := k.ipend &&& ~~~ BitVec.ofNat 4 v }
  else if o = 0x18 then (if bit v 0 then d.setCore c { k with ipend := k.ipend ||| 2 } else d)
  else if 0x100 ≤ o && o < 0x2C0 then d.chnView c o v
  else d

end Sys2Proof.Machine
end

