-- ==== Sys2Proof/Machine/Target.lean ====
section
/-!
DEFINITION. The target of the transport (chapters 12 and 13): the checks of R516 and their violations, placement, records
and completion, acknowledgement, READ, atomics, and the answers taken by the initiator behind the same checks; the regions of
R513 to R515, and the enabling of the transport.
-/
namespace Sys2Proof.Machine

/-! ### Violations (R472, R517, R518) -/

def vPDOFF : Nat := 1
def vCLEAR : Nat := 2
def vKEY : Nat := 3
def vPD : Nat := 4
def vRANGE : Nat := 5
def vRIGHTS : Nat := 6
def vRQPD : Nat := 7
def vMGMT : Nat := 8
def vBANK : Nat := 9

/-- The live record that a packet belongs to, and the done entry. -/
def Dev.recOf (d : Dev) (h : Hdr) : Option Rec :=
  d.blw.recs.find? (fun r => r.src.toNat = h.src && r.tag.toNat = h.tag && r.mpos = h.mpos)
def Dev.doneOf (d : Dev) (h : Hdr) : Option DoneEnt :=
  d.blw.done.find? (fun r => r.src.toNat = h.src && r.tag.toNat = h.tag && r.mpos = h.mpos)

/-- A packet ended by a NAK other than BUSY or COLLIDED ends its message at the target too (R472). -/
def Dev.endNamed (d : Dev) (h : Hdr) : Dev :=
  if h.op = xWRITE || h.op = xSEND then
    (match d.recOf h with
     | some r => d.endRec r
     | none => d)
  else d

/-- Write an entry of the violation log. -/
def Dev.vlog (d : Dev) (h : Hdr) (reason : Nat) : Dev :=
  let i := d.g BLW_VLOGHEAD.IDX
  let region := if reason = vPDOFF || h.op = xSEND || h.op = xMGMT then 0xFFFF else h.rkey % 1024
  let full : Bool := d.reg (BLW_VLOG.off (4 * i)) ≠ 0
  let put : Dev → Nat → Nat → Dev := fun d k v => d.setReg (BLW_VLOG.off (4 * i + k)) (BitVec.ofNat 32 v)
  let d := put d 0 (h.src % 4096 + h.op % 256 * 2 ^ 16 + reason * 2 ^ 24)
  let d := put d 1 (h.pd % 64 + region * 2 ^ 16)
  let d := put d 2 h.addr
  let d := put d 3 (d.brt.pos.toNat / 2 ^ 16)
  (d.sIf full BLW_VLOGHEAD.WRAP 1).s BLW_VLOGHEAD.IDX ((i + 1) % 32)

/-- The steps of R517. -/
def Dev.violate (d : Dev) (g : Got) (reason : Nat) : Dev :=
  let d := ((d.vlog g.h reason).cnt BLW_VIOL).raiseOnce nBLW 4 g.h.src 0
  (d.endNamed g.h).nak g.pkt g.h 2

/-- A packet is judged invalid (R471), a broadcast included. -/
def Dev.invalid (d : Dev) (g : Got) : Dev :=
  let d := (d.endNamed g.h).cnt BLW_NAKTX
  d.answer g.pkt.plane (d.answerHdr g.h xNAK 0 g.h.psn 0 4 0) []

/-- A packet ends its message with a NAK code. -/
def Dev.endWith (d : Dev) (g : Got) (code : Nat) : Dev := (d.endNamed g.h).nak g.pkt g.h code

/-! ### Regions (R513 to R516) -/

def Dev.region (d : Dev) (i : Nat) : Region := sget ⟨0, 0, 0, 0⟩ i d.blw.regions
def Region.valid (r : Region) : Bool := r.attr.getLsbD 0
def Region.right (r : Region) (k : Nat) : Bool := r.attr.getLsbD k
def Region.pd (r : Region) : Nat := bitsOf r.attr.toNat 9 4

/-- Steps 6 to 9: the violation, if any, of a use of `n` bytes at ADDR under right 1 RD, 2 WR or 3 AT. -/
def Dev.regionCheck (d : Dev) (h : Hdr) (n right : Nat) : Option Nat :=
  let r := d.region (h.rkey % 1024)
  if !r.valid || r.key.toNat / 1024 ≠ h.rkey / 1024 then some vKEY
  else if r.pd ≠ h.pd then some vPD
  else if h.addr < r.base.toNat || r.base.toNat + r.len.toNat < h.addr + n then some vRANGE
  else if !r.right right then some vRIGHTS
  else none

/-- Does a region lie in one of the spaces of R514? -/
def regionFits (base len : Nat) : Bool :=
  1 ≤ len && len ≤ 33554432 &&
    (base + len ≤ bankEnd || (0x30000000 ≤ base && base + len ≤ 0x30001000)
      || (match chnLocate base, chnLocate (base + len - 1) with
          | some (c, .x, _), some (c', .x, _) => c = c'
          | some (c, .y, _), some (c', .y, _) => c = c'
          | _, _ => false))

/-- Effect of a write of BLW_MR_ATTR on the selected region. -/
def Dev.writeMrAttr (d : Dev) (v : Nat) : Dev :=
  let i := d.g BLW_MRIDX
  let r := d.region i
  if d.protDead i then d else
  let ok := regionFits r.base.toNat r.len.toNat
  let attr := v % 2 ^ 17 - (if bit v 0 && !ok then 1 else 0)
  let d := d.sIf (bit v 0 && !ok) BLW_SECSTAT.MRERR 1
  { d with blw := { d.blw with regions := sput ⟨0, 0, 0, 0⟩ i { r with attr := BitVec.ofNat 32 attr } d.blw.regions } }

/-- Change the selected region's BASE, LEN or KEY, unless it is valid (R515). -/
def Dev.writeMr (d : Dev) (f : Region → Region) : Dev :=
  let i := d.g BLW_MRIDX
  let r := d.region i
  if r.valid || d.protDead i then d else { d with blw := { d.blw with regions := sput ⟨0, 0, 0, 0⟩ i (f r) d.blw.regions } }

/-! ### Taking a request (R476, R516, R679) -/

/-- R476: at most one record or done entry for a source and tag; what a packet of another MPOS does. -/
def Dev.mposRule (d : Dev) (h : Hdr) : Dev × Bool :=
  match d.blw.recs.find? (fun r => r.src.toNat = h.src && r.tag.toNat = h.tag) with
  | some r =>
    if earlier h.mpos r.mpos then (d.cnt BLW_STALE, false)
    else if later h.mpos r.mpos then (d.abandon r, true)
    else (d, true)
  | none =>
    match d.blw.done.find? (fun r => r.src.toNat = h.src && r.tag.toNat = h.tag) with
    | some r => if earlier h.mpos r.mpos then (d.cnt BLW_STALE, false) else (d, true)
    | none => (d, true)

/-- Take a request of an operation: the first five checks, and BUSY in SAFE on TC1 to TC3. -/
def Dev.takeReq (d : Dev) (op : Nat) (records : Bool) : Dev × Option Got :=
  match d.takePkt (fun h => h.op = op) with
  | (d, none) => (d, none)
  | (d, some g) =>
    match (if records then d.mposRule g.h else (d, true)) with
    | (d, false) => (d, none)
    | (d, true) =>
      if d.mode = mSAFE && g.h.tc ≠ 0 then (d.nak g.pkt g.h 1, none)
      else match answerChecks d g.h with
        | some v => (d.violate g v, none)
        | none => (d, some g)

/-- A command that takes a request and acts on it. -/
def onReq (op : Nat) (records : Bool) (f : Dev → Got → Dev) (s : State) : Out :=
  onDev (fun d => match d.takeReq op records with
    | (d, some g) => f d g
    | (d, none) => d) s

/-! ### Records and acknowledgement (R461 to R463, R466, R497, R533) -/

/-- Entries lost with the retired rows of an internal table (R507, R715). -/
def Dev.rowsLost (d : Dev) (table : Nat) : Nat :=
  Config.tableRow table * (d.flt.tableRows.filter (fun e => e.1 = table)).length

/-- Room for one more record with its reserved done entry. -/
def Dev.recRoom (d : Dev) : Bool :=
  d.blw.recs.length < d.g BLW_CAP.REC && d.blw.recs.length + d.blw.done.length < d.g BLW_CAP.DONE

def Rec.base (r : Rec) : Nat := ((List.range (r.placed.length + 1)).find? (fun k => !r.placed.contains k)).getD 0

/-- Acknowledge a message from its record. -/
def Dev.ackRec (d : Dev) (r : Rec) (flags : Nat) : Dev :=
  let h := readHdr r.hdr
  if h.cast then d
  else d.answer r.plane (d.answerHdr h xACK flags r.base 8 0 r.bytes) (leBytes 8 (bitmapFrom r.placed r.base))

/-- Acknowledge a message from its done entry. -/
def Dev.ackDone (d : Dev) (p : Pkt) (h : Hdr) (e : DoneEnt) (flags : Nat) : Dev :=
  if h.cast then d else d.answer p.plane (d.answerHdr h xACK (flags + fDONE) e.cnt 8 0 h.mlen) (leBytes 8 0)

def Dev.setRec (d : Dev) (r : Rec) : Dev :=
  { d with blw := { d.blw with recs := d.blw.recs.map (fun x => if x.src = r.src && x.tag = r.tag then r else x) } }

/-- Open a record, in place of an older done entry. -/
def Dev.openRec (d : Dev) (g : Got) (slot : Nat) : Dev :=
  let h := g.h
  let r : Rec := { src := BitVec.ofNat 12 h.src, tag := BitVec.ofNat 12 h.tag, mpos := h.mpos, op := h.op, mlen := h.mlen,
                   hdr := g.pkt.hdr, plane := g.pkt.plane, placed := [], bytes := 0, since := 0, slot := slot, sec := h.sec,
                   addr0 := h.addr }
  let done := d.blw.done.filter (fun e => !(e.src = r.src && e.tag = r.tag))
  { d with blw := { d.blw with recs := d.blw.recs ++ [r], done := done } }.showBlw

/-- Add 1 to a trigger counter. -/
def Dev.bumpTrig (d : Dev) (t : Nat) : Dev := if d.protDead (1088 + t) then d else d.s BLW_TRIG ((d.g BLW_TRIG t + 1) % 2 ^ 32) t

/-- The trigger counter that a completed message advances (R533). -/
def Dev.trigger (d : Dev) (r : Rec) : Dev :=
  let h := readHdr r.hdr
  if r.op = xSEND then
    (if d.on BLW_RQX.TEN h.aux then d.bumpTrig (d.g BLW_RQX.TRIG h.aux) else d)
  else
    let m := d.region (h.rkey % 1024)
    if h.bump && m.valid && m.attr.getLsbD 16 then d.bumpTrig (bitsOf m.attr.toNat 15 10) else d

/-- READY of the stream entry that a completed WRITE fills (R543). -/
def Dev.markReady (d : Dev) (r : Rec) : Dev :=
  let hits := (List.range 64).flatMap (fun s =>
    if d.strOn s 1 && r.mlen = d.strLen s then
      ((List.range (d.g BLW_STR.DEPTH s)).filter (fun e => d.strEntryAddr s e = r.addr0)).map (fun e => (s, e))
    else [])
  { d with blw := { d.blw with ready := d.blw.ready ++ hits.filter (fun e => !d.blw.ready.contains e) } }

/-- All bytes are placed: trigger, delivery, the done entry and the ACK with DONE (R462). -/
def Dev.completeRec (d : Dev) (r : Rec) : Dev :=
  let d := d.trigger r
  let d := if r.op = xSEND then d.deliverSlot r false else d.markReady r
  let d := d.dropRec r
  let e : DoneEnt := { src := r.src, tag := r.tag, mpos := r.mpos, cnt := r.placed.length, old := 0 }
  let d := { d with blw := { d.blw with done := d.blw.done ++ [e] } }.showBlw
  d.ackRec r fDONE

/-- Enter a placed packet in its record, and answer where R466 says so. -/
def Dev.placed (d : Dev) (g : Got) (r : Rec) : Dev :=
  let r := { r with hdr := g.pkt.hdr, plane := g.pkt.plane, placed := g.h.psn :: r.placed, bytes := r.bytes + g.h.plen,
                    since := r.since + 1, addr0 := if g.h.psn = 0 then g.h.addr else r.addr0 }
  if r.mlen ≤ r.bytes then (d.setRec r).completeRec r
  else if d.g BLW_ACK.N ≤ r.since then
    let r := { r with since := 0 }
    (d.setRec r).ackRec r 0
  else d.setRec r

/-- A packet already placed: counted, and acknowledged with DUP; none when the packet is new (R463). -/
def Dev.duplicate (d : Dev) (g : Got) : Option Dev :=
  match d.doneOf g.h with
  | some e => some ((d.cnt BLW_DUP).ackDone g.pkt g.h e fDUP)
  | none =>
    match d.recOf g.h with
    | some r =>
      if r.placed.contains g.h.psn then
        let r := { r with since := 0 }
        some (((d.cnt BLW_DUP).setRec r).ackRec { r with plane := g.pkt.plane } fDUP)
      else none
    | none => none

/-- Does a packet's number or offset lie beyond its message? Only the last packet is shorter than the MTU. -/
def beyond (h : Hdr) : Bool := h.mlen ≤ h.psn * h.plen || h.mlen = 0 || (h.op = xSEND && h.mlen < h.addr + h.plen)

/-! ### Placement (R130, R345, R461, R516) -/

/-- What a placement came to. -/
inductive Placing where
  | ok | denied | collided | busy
deriving DecidableEq, Repr

/-- Store bytes in banks as the Bellows. Where it is a bank's guest the command says after how many rows a collision
discarded its operation; the rows before it stay placed (R346). -/
def Dev.placeBank (d : Dev) (a : Nat) (data : List Byte) (coll : Option (BitVec 6)) : Dev × Placing :=
  let ps := pieces 64 a data (data.length + 1)
  let guest : Bool := d.g BNK_OWN.OWN (bankOf a) ≠ oBlw && d.g BNK_GUEST.GUEST (bankOf a) = 1
  match coll with
  | some n =>
    if guest && n.toNat < ps.length then
      let r := (ps.take n.toNat).foldl (fun (r : BnkRes) p =>
        if r.denied then r else r.dev.bnkRowWrite oBlw p.1 p.2) ⟨d, [], false, false⟩
      if r.denied then (r.dev, .denied) else (r.dev.collide (bankOf a), .collided)
    else
      let r := d.bnkWrite oBlw a data
      (r.dev, if r.denied then .denied else .ok)
  | none =>
    let r := d.bnkWrite oBlw a data
    (r.dev, if r.denied then .denied else .ok)

/-- Take in the words that a fabric WRITE completes in the ingress window, all or none; bytes that complete no slot are
discarded and counted (R130). -/
def Dev.placeWindow (d : Dev) (a : Nat) (data : List Byte) : Dev × Placing :=
  let first := (a + 15) / 16 * 16
  let n := ((a + data.length) / 16 * 16 - first) / 16
  if d.g EVS_CAP < d.evs.store.length + n then (d, .busy)
  else
    let d := (List.range n).foldl (fun (d : Dev) i =>
      let w := roariBytes (slice data (first - a + 16 * i) 16)
      (d.leaseSeen w).intake w 3 none false) d
    (d.cnt EVS_BADWIN 0 (data.length - 16 * n), .ok)

def Dev.placeAt (d : Dev) (a : Nat) (data : List Byte) (coll : Option (BitVec 6)) : Dev × Placing :=
  if a < bankEnd then d.placeBank a data coll
  else if 0x30000000 ≤ a then d.placeWindow a data
  else match chnLocate a with
    | some (c, mem, off) =>
      let r := d.chnWrite .mgmt c mem off data
      (r.1, if r.2 then .denied else .ok)
    | none => (d, .denied)

/-- Act on a placement: enter the packet in its record, or answer why it was not placed. -/
def Dev.placing (d : Dev) (g : Got) (slot : Nat) (claim : Option SlotClaim) (p : Placing) : Dev :=
  match p with
  | .denied => d.violate g vBANK
  | .collided => d.nak g.pkt g.h 3
  | .busy => d.nak g.pkt g.h 1
  | .ok =>
    match d.recOf g.h with
    | some r => d.placed g r
    | none =>
      let d := match claim with
        | some c => { d with blw := { d.blw with slots := d.blw.slots ++ [c] } }
        | none => d
      let d := d.openRec g slot
      match d.recOf g.h with
      | some r => d.placed g r
      | none => d

/-- Is a packet too far above the base of its record for the bitmap to hold? -/
def Dev.tooFar (d : Dev) (h : Hdr) : Bool :=
  match d.recOf h with
  | some r => r.base + 64 ≤ h.psn
  | none => 64 ≤ h.psn

/-! ### WRITE and SEND -/

def writePkt (d : Dev) (g : Got) (coll : Option (BitVec 6)) : Dev :=
  match d.regionCheck g.h g.h.plen 2 with
  | some v => d.violate g v
  | none =>
    if g.h.cast || 16777216 < g.h.mlen || beyond g.h then d.invalid g
    else match d.duplicate g with
      | some d => d
      | none =>
        if d.tooFar g.h then d
        else if (d.recOf g.h).isNone && !d.recRoom then d.nak g.pkt g.h 1
        else
          let r := d.placeAt g.h.addr g.body coll
          r.1.placing g 0 none r.2

def execWrite (collided : Option (BitVec 6)) (s : State) : Out := onReq xWRITE true (fun d g => writePkt d g collided) s

/-- The first packet of a SEND: the queue, its slot size, the tables and a free slot. -/
def Dev.claimSlot (d : Dev) (g : Got) : Dev × Option Nat :=
  let q := g.h.aux
  if 64 ≤ q || !d.on BLW_RQ_CFG.EN q then (d.endWith g 5, none)
  else if d.slotSize q < 16 + g.h.mlen then (d.endWith g 6, none)
  else if !d.recRoom then
    (if g.h.cast then (d.cnt BLW_STALE, none) else (d.nak g.pkt g.h 1, none))
  else match d.freeSlot q with
    | none => (d.nak g.pkt g.h 1, none)
    | some i => (d, some i)

def sendPacket (d : Dev) (g : Got) (coll : Option (BitVec 6)) : Dev :=
  let q := g.h.aux
  if q < 64 && !d.on BLW_RQX.ANYPD q && d.g BLW_RQX.PD q ≠ g.h.pd then d.violate g vRQPD
  else if 65536 < g.h.mlen || beyond g.h then d.invalid g
  else match d.duplicate g with
    | some d => d
    | none =>
      if d.tooFar g.h then d
      else match d.recOf g.h with
        | some r =>
          let p := d.placeBank (d.slotAddr (q % 64) r.slot + 16 + g.h.addr) g.body coll
          p.1.placing g r.slot none p.2
        | none =>
          match d.claimSlot g with
          | (d, none) => d
          | (d, some i) =>
            let p := d.placeBank (d.slotAddr q i + 16 + g.h.addr) g.body coll
            p.1.placing g i (some ⟨BitVec.ofNat 6 q, i, false⟩) p.2

def execSend (collided : Option (BitVec 6)) (s : State) : Out := onReq xSEND true (fun d g => sendPacket d g collided) s

/-! ### READ (R464, R471) -/

/-- Read bytes for a peer: none when they are denied or uncorrectable. The ingress window gives a free value. -/
def Dev.readFor (d : Dev) (a n : Nat) : Dev × Option (List Byte) :=
  if a < bankEnd then
    let r := d.bnkRead oBlw a n
    (r.dev, if r.denied || r.unc then none else some r.data)
  else if 0x30000000 ≤ a then (d.drawn, some (leBytes n (d.draw (8 * n)).toNat))
  else match chnLocate a with
    | some (c, mem, off) =>
      let r := d.chnRead c mem off n
      (d, if r.2 then none else some r.1)
    | none => (d, none)

/-- Answer packets `k` on of a READ. -/
def Dev.readPkts (d : Dev) (g : Got) (u : Nat) : List Nat → Dev
  | [] => d
  | k :: rest =>
    match d.readFor (g.h.addr + k * u) (pktLen g.h.mlen u k) with
    | (d, none) => d.nak g.pkt g.h 7
    | (d, some data) =>
      (d.answer g.pkt.plane (d.answerHdr g.h xRESP 0 k data.length 0 (k * u)) data).readPkts g u rest

def readReq (d : Dev) (g : Got) : Dev :=
  let u := mtuOf g.h.aux
  match d.regionCheck g.h g.h.mlen 1 with
  | some v => d.violate g v
  | none =>
    if g.h.cast || 16777216 < g.h.mlen || g.h.rcount = 0 || 64 < g.h.rcount || pktCount g.h.mlen u ≤ g.h.psn
        || 4 ≤ g.h.aux then d.invalid g
    else
      let bm := fieldAt g.body 0 8
      let want := (List.range g.h.rcount).filter (fun i => g.h.psn + i < pktCount g.h.mlen u && !bit bm i)
      d.readPkts g u (want.map (· + g.h.psn))

def execRead (s : State) : Out := onReq xREAD false readReq s

/-! ### Atomics (R465, R471) -/

/-- The old value of an atomic executed for a peer; none when it is denied or meets uncorrectable data. -/
def Dev.atomicFor (d : Dev) (g : Got) (cas : Bool) : Dev × Option Nat :=
  let n := if g.h.w64 then 8 else 4
  let a := g.h.addr
  let op0 : BitVec 64 := BitVec.ofNat 64 (fieldAt g.body 0 n)
  let op1 : BitVec 64 := BitVec.ofNat 64 (fieldAt g.body n n)
  if a < bankEnd then
    let r := d.bnkAtomic oBlw a cas g.h.w64 op0 op1
    (r.dev, if r.denied || r.unc then none else some (leNat r.data))
  else match chnLocate a with
    | some (c, mem, off) =>
      let r := d.chnRead c mem off n
      if r.2 then (d, none)
      else
        let old := leNat r.1
        match atomicNew cas g.h.w64 old op0 op1 with
        | some v => ((d.chnWrite .mgmt c mem off (leBytes n v)).1, some old)
        | none => (d, some old)
    | none => (d, none)

/-- Answer an atomic with its old value. -/
def Dev.atomicResp (d : Dev) (g : Got) (old flags : Nat) : Dev :=
  let n := if g.h.w64 then 8 else 4
  d.answer g.pkt.plane (d.answerHdr g.h xRESP flags g.h.psn n 0 0) (leBytes n old)

def atomicReq (d : Dev) (g : Got) (cas collided : Bool) : Dev :=
  let n := if g.h.w64 then 8 else 4
  match d.regionCheck g.h n 3 with
  | some v => d.violate g v
  | none =>
    if g.h.cast || g.h.addr % n ≠ 0 || g.h.psn ≠ 0 then d.invalid g
    else match d.blw.atom.find? (fun e => e.src.toNat = g.h.src && e.tag.toNat = g.h.tag && e.mpos = g.h.mpos) with
      | some e => (d.cnt BLW_DUP).atomicResp g e.old.toNat fDUP
      | none =>
        let bank := bankOf g.h.addr
        let guest : Bool := g.h.addr < bankEnd && d.g BNK_OWN.OWN bank ≠ oBlw && d.g BNK_GUEST.GUEST bank = 1
        if 1024 - d.rowsLost 3 ≤ d.blw.atom.length then d.nak g.pkt g.h 1
        else if guest && collided then (d.collide bank).nak g.pkt g.h 3
        else match d.atomicFor g cas with
          | (d, none) => d.nak g.pkt g.h 7
          | (d, some old) =>
            let e : DoneEnt := { src := BitVec.ofNat 12 g.h.src, tag := BitVec.ofNat 12 g.h.tag, mpos := g.h.mpos, cnt := 1,
                                 old := BitVec.ofNat 64 old }
            ({ d with blw := { d.blw with atom := d.blw.atom ++ [e] } }.showBlw).atomicResp g old 0

def execAtomicAdd (collided : Bool) (s : State) : Out := onReq xADD false (fun d g => atomicReq d g false collided) s
def execCas (collided : Bool) (s : State) : Out := onReq xCAS false (fun d g => atomicReq d g true collided) s

/-! ### Answers, behind the checks that they do not skip (R516) -/

/-- Take an ACK, NAK or RESP. -/
def onAnswer (op : Nat) (f : Dev → Got → Dev) (s : State) : Out :=
  onDev (fun d => match d.takePkt (fun h => h.op = op) with
    | (d, none) => d
    | (d, some g) => match answerChecks d g.h with
      | some v => d.violate g v
      | none => (f d g).spillSteps) s

def execAck (s : State) : Out := onAnswer xACK takeAck s
def execNak (s : State) : Out := onAnswer xNAK takeNak s
def execResp (s : State) : Out := onAnswer xRESP takeResp s

/-! ### Expiries (R466, R475) -/

def ackDelay (d : Dev) (src tag : BitVec 12) : Dev :=
  match d.blw.recs.find? (fun r => r.src = src && r.tag = tag) with
  | some r =>
    if r.since = 0 then d
    else
      let r := { r with since := 0 }
      (d.setRec r).ackRec r 0
  | none => d

def execAckDelayExpiry (src tag : BitVec 12) (s : State) : Out := onDev (fun d => ackDelay d src tag) s

/-- What a target holds of a message whose life has passed is freed; a record has been abandoned. -/
def recordExpiry (d : Dev) (src tag : BitVec 12) : Dev :=
  let past : Pos → Bool := fun m => later d.brt.pos (m + BitVec.ofNat 64 (d.usPos (d.g BLW_MLIFE * 1000) + d.mpl))
  let d := (d.blw.recs.filter (fun r => r.src = src && r.tag = tag && past r.mpos)).foldl (fun (d : Dev) r => d.abandon r) d
  let keep : DoneEnt → Bool := fun e => !(e.src = src && e.tag = tag && past e.mpos)
  { d with blw := { d.blw with done := d.blw.done.filter keep, atom := d.blw.atom.filter keep } }.showBlw

def execRecordExpiry (src tag : BitVec 12) (s : State) : Out := onDev (fun d => recordExpiry d src tag) s

/-! ### Enabling the transport (R450, R451, R477, R506) -/

/-- Effect of a write of BLW_CTL. One that sets EN while BLW_NODE is 0xFFF is ignored. -/
def Dev.writeBlwCtl (d : Dev) (v : Nat) : Dev :=
  let en := bit v 0
  if en && d.node = 0xFFF then d
  else
    let d := d.s BLW_CTL.MTU (bitsOf v 2 1)
    if en && !d.on BLW_CTL.EN then
      let d := (List.range 4).foldl (fun (d : Dev) p =>
        let a := nodeAddr d.node p
        (d.s MAC_ADDR_L (fieldAt a 0 4) p).s MAC_ADDR_H (fieldAt a 4 2) p) d
      (d.s BLW_CTL.EN 1).setEpos
    else if !en && d.on BLW_CTL.EN then
      let d := (d.s BLW_CTL.EN 0).stopTransport.spillSteps
      { d with blw := { d.blw with bad := [] } }
    else d

end Sys2Proof.Machine
end

