-- ==== Sys2Proof/Machine/Faults.lean ====
section
/-!
DEFINITION. Fault control (chapter 18): verdicts of the self-tests, scores, retirement and its capacity, errors in the
internal tables, splits between a unit's states, and management writes.
-/
namespace Sys2Proof.Machine

/-! ### Scores (R713, R714, R742) -/

/-- Score class of a unit; 15 where a test is not scored. -/
def classOf (kind idx : Nat) : Nat :=
  match kind with
  | 1 => 0
  | 3 => 1
  | 4 => 2
  | 5 => 6
  | 6 => if idx < 8 then 4 else 5
  | 7 => 4
  | 8 => 3
  | 10 => 7
  | 11 => 8
  | _ => 15

/-- How many units a score class names. -/
def classCount : Nat → Nat
  | 0 => 128
  | 1 => 32
  | 2 => 16
  | 3 => 16
  | 4 => 8
  | 5 => 4
  | 6 => 4
  | 7 => 1
  | 8 => 7
  | _ => 0

/-- Index of a unit within its class: current outputs are output channels 8 to 11. -/
def scoreIdx (kind idx : Nat) : Nat := if kind = kOut && 8 ≤ idx then idx - 8 else idx

def Dev.score (d : Dev) (cls i : Nat) : Nat := sget 0 (cls * 256 + i) d.flt.scores
def Dev.setScore (d : Dev) (cls i v : Nat) : Dev :=
  { d with flt := { d.flt with scores := sput 0 (cls * 256 + i) v d.flt.scores } }
/-- TBASE from which the next decay of a score counts. -/
def Dev.setScoreAt (d : Dev) (cls i v : Nat) : Dev :=
  { d with flt := { d.flt with scoreAt := sput 0 (cls * 256 + i) v d.flt.scoreAt } }

/-- A passed test adds 1 to the unit's score; true when that brings it to LIMIT, which makes the verdict lasting. -/
def Dev.scorePass (d : Dev) (cls i : Nat) : Dev × Bool :=
  let limit := d.g FLT_THR.LIMIT cls
  if cls = 15 || limit = 0 then (d, false)
  else
    let n := d.score cls i + 1
    if limit ≤ n then (d.setScore cls i 0, true)
    else ((if n = 1 then d.setScoreAt cls i d.brt.tbase.toNat else d).setScore cls i n, false)

/-- SCORE_DECAY: a positive score falls by 1 every DECAY seconds; an uncorrectable error of the store sets it to 0. -/
def scoreDecay (d : Dev) (cls i : Nat) (upset : Bool) : Dev :=
  if upset then ((d.setScore cls i 0).cnt FLT_SELFECC).raise nFLT 5 0
  else
    let step := d.g FLT_THR.DECAY cls * 100000000
    let at_ := sget 0 (cls * 256 + i) d.flt.scoreAt
    if classCount cls ≤ i || d.score cls i = 0 || step = 0 || d.brt.tbase.toNat < at_ + step then d
    else (d.setScoreAt cls i (at_ + step)).setScore cls i (d.score cls i - 1)

def execScoreDecay (cls : BitVec 4) (index : Byte) (upset : Bool) (s : State) : Out :=
  onDev (fun d => scoreDecay d cls.toNat index.toNat upset) s

/-! ### Retirement (R715 to R717) -/

/-- Append the fault-log entry of a lasting verdict: its FLT_LASTING notice, and DETAIL. -/
def Dev.logUnit (d : Dev) (w : BitVec 64) (detail : Nat) : Dev := d.logEntry 4 (d.g LCK_STAT.COUNT) w detail

/-- DETAIL of a retirement. -/
def retireDetail (kind i : Nat) : Nat := kind + i * 16

/-- A unit's data path retires. -/
def Dev.retireUnit (d : Dev) (kind i : Nat) (w : BitVec 64) : Dev :=
  (d.logicDst kind i RETIRED).logUnit w (retireDetail kind i)

/-- Rows of a bank (R352, R353). -/
def Dev.retireRow (d : Dev) (bank row : Nat) (w : BitVec 64) : Dev :=
  if d.dst kBank bank ≠ ENABLED then d.poisonRow bank row
  else
    let n := d.g BNK_HEALTH.SPUSED bank
    if n < 8 then
      let d := { d with bnk := { d.bnk with remaps := d.bnk.remaps ++ [(bank, row, n)] } }
      let d := ((d.s BNK_HEALTH.SPUSED (n + 1) bank).cnt BNK_REMAP).raise nBNK 2 (unitCode kRow bank)
      d.logUnit w (kRow + bank * 2 ^ 4 + row * 2 ^ 11 + n * 2 ^ 23)
    else ((d.poisonRow bank row).bankDraining bank).logUnit w (retireDetail kBank bank)

/-- A lasting fault of a bank's port. -/
def Dev.retireBank (d : Dev) (bank : Nat) (w : BitVec 64) : Dev :=
  if d.dst kBank bank = ENABLED then (d.bankDraining bank).logUnit w (retireDetail kBank bank) else d

/-- PM spares in use on a core. -/
def Dev.pmSpares (d : Dev) (c : Nat) : Nat := (d.flt.pmRows.filter (fun e => e.1 = c)).length

def Dev.showSpares (d : Dev) (c : Nat) : Dev :=
  d.setReg FLT_PMSPARE.base (putBits (d.reg FLT_PMSPARE.base) (2 * c + 1) (2 * c) (min 2 (d.pmSpares c)))

/-- A PM row (R709). -/
def Dev.retirePm (d : Dev) (c row : Nat) (w : BitVec 64) : Dev :=
  let n := d.pmSpares c
  if n < 2 then
    let d := { d with flt := { d.flt with pmRows := d.flt.pmRows ++ [(c, row, n)] } }
    (d.showSpares c).logUnit w (kPm + c * 2 ^ 4 + row * 2 ^ 8 + n * 2 ^ 19)
  else d.retireUnit kCore c w

/-- A port: its queues are discarded and its island gated. -/
def Dev.retirePort (d : Dev) (n : Nat) (w : BitVec 64) : Dev :=
  let d := (d.retireUnit kPort n w).txDiscard n (fun _ => true)
  let d := d.setPort n { d.port n with gated := true, rx := [], testing := 0, modePend := none }
  ((d.s MAC_STAT.TEST 0 n).linkDown n).raise nMAC 8 n

/-- A row of an internal table (R146, R507, R558). -/
def Dev.retireTable (d : Dev) (t row : Nat) : Dev :=
  let d := { d with flt := { d.flt with tableRows := d.flt.tableRows ++ [(t, row)] } }
  match t with
  | 0 => ((d.s EVS_CAP (d.g EVS_CAP - 16)).raise nEVS 3 0).showEvs
  | 1 => d.s BLW_CAP.REC (d.g BLW_CAP.REC - Config.tableRow 1)
  | 2 => d.s BLW_CAP.DONE (d.g BLW_CAP.DONE - Config.tableRow 2)
  | 5 => d.showMbx
  | _ => d

/-! ### Upsets in the transport's tables (R507, R558) -/

/-- A double-bit error in a protection table: the entry becomes invalid, and stays so where its row is retired. -/
def Dev.dropProt (d : Dev) (e : Nat) : Dev :=
  if e < 1024 then
    let r := d.region e
    { d with blw := { d.blw with regions := sput ⟨0, 0, 0, 0⟩ e { r with attr := r.attr &&& ~~~ 1 } d.blw.regions } }
  else if e < 1088 then d.s BLW_PD.EN 0 (e - 1024)
  else if e < 1152 then d.s BLW_TRIG 0 (e - 1088)
  else if e < 1168 then d.putKey (e - 1152) 0 0 none
  else { d with blw := { d.blw with cache := d.blw.cache.eraseIdx (e - 1168) } }

/-- A double-bit error in table 1 to 4 is detected: the entry that holds it, the device's own placing, is lost; the row's
test starts. -/
def Dev.tableUpset (d : Dev) (t row : Nat) : Dev :=
  let k := (d.draw 12).toNat
  let d := d.drawn
  let d := match t with
    | 1 => (match d.blw.recs[k % max 1 d.blw.recs.length]? with
        | some r => d.dropRec r
        | none => d)
    | 2 => { d with blw := { d.blw with done := d.blw.done.eraseIdx (k % max 1 d.blw.done.length) } }.showBlw
    | 3 => { d with blw := { d.blw with atom := d.blw.atom.eraseIdx (k % max 1 d.blw.atom.length) } }
    | _ => d.dropProt (k % 1424)
  let d := if t = 4 then d.raise nBLW 10 0 else (d.cnt BLW_RECECC).raise nBLW 3 0
  d.startTest kTab t row

/-! ### Verdicts (R711, R712, R743) -/

/-- What a test that does not end in a lasting fault leaves of its unit. -/
def Dev.passUnit (d : Dev) (kind i : Nat) : Dev :=
  match kind with
  | 2 => (d.cnt BNK_CONTEND).raise nBNK 5 i
  | 3 => d.cnt RDA_LPAR
  | 5 =>
    let why := (d.port i).testing
    let pend := (d.port i).modePend
    let d := (d.setPort i { d.port i with testing := 0 }).s MAC_STAT.TEST 0 i
    let d := d.logicDst kPort i ENABLED
    let d := if why = 1 then d.setLec i 256 else d
    match pend with
    | some v => d.applyMode i v
    | none => d
  | 6 => if i < 8 then d.cnt BEL_RBMIS else (d.s BEL_OSTATE.LOAD 1 i).raise nBEL 5 (i - 8)
  | 10 => ({ d with brt := { d.brt with pllLocked := true } }.muteEnd 2).srcWaited
  | _ => d

/-- What a lasting fault does; `w` is its FLT_LASTING notice. -/
def Dev.lastUnit (d : Dev) (kind i row : Nat) (w : BitVec 64) : Dev :=
  match kind with
  | 1 => d.retireRow i row w
  | 2 => d.retireBank i w
  | 3 => (d.retireUnit kLane i w).showLanes
  | 4 => d.retireUnit kCore i w
  | 5 => d.retirePort i w
  | 6 => if i < 8 then (d.retireUnit kOut i w).raise nBEL 4 i else (d.retireUnit kOut i w).raise nBEL 6 (i - 8)
  | 7 => ((d.s BEL_OSTATE.MONRET 1 i).raise nBEL 3 i).logUnit w (retireDetail kMon i)
  | 8 => d.retirePm i row w
  | 10 => d.critical 1
  | 11 => d.retireTable i row
  | _ => d

/-- Place the result of a test that has ended: unit, class, verdict, duration and row or failed step. -/
def Dev.testResult (d : Dev) (kind i verdict micros st2 : Nat) : Dev :=
  d.placeResult gSelftest [BitVec.ofNat 32 (unitCode kind i + classOf kind i * 2 ^ 16 + verdict * 2 ^ 20),
    BitVec.ofNat 32 (min micros 0xFFFFFFFF), BitVec.ofNat 32 st2]

/-- A verdict on a unit: score, result, notices, and its consequence. `at_` is the row or failed step shown. -/
def Dev.judgeUnit (d : Dev) (kind i row at_ : Nat) (pass : Bool) (micros : Nat) : Dev :=
  let r := if pass then d.scorePass (classOf kind i) (scoreIdx kind i) else (d, true)
  let d := r.1.testResult kind i (if !r.2 then 0 else if pass then 2 else 1) micros at_
  if r.2 then
    let w := noticeWord nFLT 1 (unitCode kind i) d.not.lostNext (whole d.brt.pos)
    ((d.cnt FLT_NLAST).raise nFLT 1 (unitCode kind i)).lastUnit kind i row w
  else
    let d := d.cnt FLT_NTRANS
    let d := if d.on FLT_CTL.NTRANS then d.raiseOnce nFLT 2 (unitCode kind i) kind else d
    d.passUnit kind i

/-- The test that a unit names. -/
def unitTest (u : UnitId) : Test := Test.of u.kind.toNat u.index.toNat (if isRowKind u.kind.toNat then u.row.toNat else 0)

/-- The end of a read-back test in a step (R399): a failure of step 1 or 2 is the monitor's, of step 3 the output's. -/
def Dev.endReadback (d : Dev) (lo step : Nat) (pass : Bool) (micros : Nat) : Dev :=
  let d := { d.endTest (Test.of kOut lo 0) with bel := { d.bel with rbStep := setAt d.bel.rbStep lo 0, rbBad := setAt d.bel.rbBad lo 0 } }
  if pass then d.judgeUnit kOut lo 0 0 true micros
  else d.judgeUnit (if step = 3 then kOut else kMon) lo 0 step false micros

/-- SELFTEST_VERDICT. A verdict on a row of table 1 to 4 that runs no test is also the detection of the error. -/
def verdict (d : Dev) (u : UnitId) (pass : Bool) (step micros : Nat) : Dev :=
  let kind := u.kind.toNat
  let i := u.index.toNat
  let t := unitTest u
  let d := if kind = kTab && 1 ≤ i && i ≤ 4 && !d.flt.tests.contains t && !d.unitRetired kTab i u.row.toNat then
      d.tableUpset i u.row.toNat else d
  if !d.flt.tests.contains t then d
  else if kind = kOut && i < 8 then d.endReadback i (if step = 0 then 3 else step) pass micros
  else
    let st2 := if kind = kRow || kind = kPm then u.row.toNat else 0
    (d.endTest t).judgeUnit kind i u.row.toNat st2 pass micros

def execSelftestVerdict (u : UnitId) (pass : Bool) (step : BitVec 2) (micros : Nat) (s : State) : Out :=
  onDev (fun d => verdict d u pass step.toNat micros) s

/-- READBACK_TEST_STEP_END: a passed step 1 or 2 leads to the next; any other end ends the test. -/
def execReadbackTestStepEnd (lo : BitVec 3) (pass : Bool) (s : State) : Out :=
  onDev (fun d =>
    let n := lo.toNat
    let step := d.bel.rbStep.getD n 0
    if !d.flt.tests.contains (Test.of kOut n 0) then d
    else if pass && step < 3 then { d with bel := { d.bel with rbStep := setAt d.bel.rbStep n (step + 1) } }
    else d.endReadback n step pass (if step = 1 then 1000 else if step = 2 then 11000 else 11000)) s

/-- PLL_RELOCK: the PLL relocks within 1 ms of its loss of lock. -/
def execPllRelock (s : State) : Out :=
  onDev (fun d =>
    let t := Test.of kPll 0 0
    if d.flt.tests.contains t then (d.endTest t).judgeUnit kPll 0 0 0 true 0 else d) s

/-- SELFTEST_ABORT: not completed in twice its duration; the error counts as a transient and is not scored. -/
def execSelftestAbort (u : UnitId) (s : State) : Out :=
  onDev (fun d =>
    let t := unitTest u
    let kind := u.kind.toNat
    if !d.flt.tests.contains t then d
    else
      let d := ((d.endTest t).cnt FLT_NABORT).testResult kind u.index.toNat 3 0
        (if kind = kRow || kind = kPm then u.row.toNat else 0)
      let d := { d with bel := { d.bel with rbStep := if kind = kOut then setAt d.bel.rbStep u.index.toNat 0 else d.bel.rbStep } }
      d.passUnit kind u.index.toNat) s

/-! ### Splits and management writes (R726 to R729) -/

/-- Kinds that have the three states. -/
def hasStates (k : Nat) : Bool := k = kBank || k = kLane || k = kCore || k = kPort || k = kOut || k = kWq

/-- STATE_SPLIT: DST has been more restrictive than MST for over 1 ms. -/
def stateSplit (d : Dev) (kind i : Nat) : Dev :=
  let u := unitCode kind i
  if !hasStates kind || unitCount kind ≤ i || d.dst kind i ≤ d.mst kind i || (d.flt.split.lookup u).isSome || d.testing kind i
  then d
  else
    let d := { d with flt := { d.flt with split := d.flt.split ++ [(u, d.dst kind i)] } }
    let d := ((d.s FLT_SPLITLOG.UNIT u).s FLT_SPLITLOG.DST (d.dst kind i)).s FLT_SPLITLOG.MST (d.mst kind i)
    ((d.s FLT_SPLITLOG.VALID 1).cnt FLT_NSPLIT).raise nFLT 3 u

def execStateSplit (kind : BitVec 4) (index : Byte) (s : State) : Out :=
  onDev (fun d => stateSplit d kind.toNat index.toNat) s

/-- Messages in flight of a work queue. -/
def Dev.flushQueue (d : Dev) (q : Nat) : Dev := d.flushMsgs (fun m => (m.wq.map (·.toNat)) = some q)

/-- What follows a unit's new effective state at once: a lane's capacity, a DISABLED work queue's flush (R506), a core's
run, a port's electrical idle. -/
def Dev.afterState (d : Dev) (kind i : Nat) : Dev :=
  match kind with
  | 3 => d.showLanes
  | 4 => d.setCore i (d.core i).sync
  | 5 => if DISABLED ≤ d.est kPort i then d.linkDown i else d
  | 9 => if DISABLED ≤ d.est kWq i then d.flushQueue i else d
  | _ => d

/-- A management write of a unit's state. -/
def Dev.writeMst (d : Dev) (kind i v : Nat) : Dev :=
  if !hasStates kind || unitCount kind ≤ i then d else (d.manage kind i (v % 4)).afterState kind i

/-- A write of FLT_LANEMSTk writes the state of its sixteen lanes. -/
def Dev.writeLaneMst (d : Dev) (k : Nat) (w : Word) : Dev :=
  (List.range 16).foldl (fun (d : Dev) j => d.writeMst kLane (16 * k + j) (bitsOf w.toNat (2 * j + 1) (2 * j))) d

/-- FLT_SCORE: the score of the selected unit, 0 where the selection names none. -/
def Dev.selScore (d : Dev) : Nat :=
  let c := d.g FLT_SCSEL.CLASS
  let i := d.g FLT_SCSEL.INDEX
  if classCount c ≤ i then 0 else min 255 (d.score c i)

end Sys2Proof.Machine
end

