-- ==== Sys2Proof/Machine/RegRead.lean ====
section
/-!
DEFINITION. What a register reads as and what a read does (R9, R119, R588, R619 to R621, R634, R657, R771, R773): the
result groups, the views that are computed from the rest of the state, the 64-bit snapshots, the UARTs and the notice
queue. Every reader comes here: the host port, the USB vendor interface and MGMT.
-/
namespace Sys2Proof.Machine

/-! ### Result groups (R618 to R622) -/

/-- Group and word of a register; no word for the RES word. -/
def groupAt (off : Nat) : Option (Nat × Option Nat) :=
  if 0x1F900 ≤ off && off < 0x1F980 then some (gMeters, some ((off - 0x1F900) / 4))
  else if off = 0x1F980 then some (gMeters, none)
  else if 0x1FA40 ≤ off && off < 0x1FA80 then some (gChanter, some ((off - 0x1FA40) / 4))
  else if off = 0x1FA80 then some (gChanter, none)
  else if off = 0x1809C then some (gAtomic, some 0)
  else if off = 0x180A0 then some (gAtomic, some 1)
  else if off = 0x180A4 then some (gAtomic, none)
  else if off = 0x1F810 then some (gAperture, none)
  else if 0x20020 ≤ off && off < 0x2002C then some (gSelftest, some ((off - 0x20020) / 4))
  else if off = 0x2002C then some (gSelftest, none)
  else none

/-- Offset of a group's RES word, and of word `w` of a group that has registers of its own. -/
def resOff (i : Nat) : Nat :=
  match i with
  | 0 => 0x1F980
  | 1 => 0x1FA80
  | 2 => 0x180A4
  | 3 => 0x1F810
  | _ => 0x2002C

def wordOff (i w : Nat) : Nat :=
  match i with
  | 0 => 0x1F900 + 4 * (w % 32)
  | 1 => 0x1FA40 + 4 * (w % 16)
  | 2 => 0x1809C + 4 * (w % 2)
  | _ => 0x20020 + 4 * (w % 3)

/-- A RES word: RDY, STALE, TORN, RSEQ and the group's own fields; NLOST in the self-test group (chapter 18). -/
def GroupSt.res (g : GroupSt) (i : Nat) : Word :=
  BitVec.ofNat 32 (b2n g.rdy + 2 * b2n g.stale + 4 * b2n g.torn + g.rseq.toNat * 256
    + (if i = gSelftest then g.nlost.toNat * 2 ^ 16 else 0)) ||| g.extra

/-- A read of the RES word: the copy is consumed, TORN clears, a lock ends and a pending result becomes visible (R620,
R621, R642); before the first result it stays as it is (R622). -/
def GroupSt.consume (g : GroupSt) : GroupSt :=
  let h : GroupSt := { g with torn := false, nlost := 0, rdy := false, stale := g.rdy || g.stale }
  h.unlock false

/-- A read of a word other than the RES word locks the visible copy. -/
def GroupSt.lock (g : GroupSt) : GroupSt := { g with locked := true }

/-! ### UARTs (R587, R588) -/

def Uart.flags (u : Uart) : Nat := b2n u.fe + 2 * b2n u.pe + 4 * b2n u.oe + 8 * b2n u.brk

/-- UARTn_STAT. -/
def Uart.stat (u : Uart) : Nat :=
  b2n !u.rx.isEmpty + 2 * b2n (u.tx.length < 16) + 4 * b2n u.tx.isEmpty + 8 * u.flags + u.rx.length * 256 + u.tx.length * 65536

/-- A read of UARTn_STAT: the flags it returns as 1 join those that the next DATA read clears. -/
def Dev.uartSee (d : Dev) (n : Nat) : Dev :=
  let u := d.ser n
  d.setSer n { u with seen := BitVec.ofNat 4 u.flags }

/-- Do reads of DATA take bytes from the receive FIFO (general and host modes)? -/
def Dev.uartFifo (d : Dev) (n : Nat) : Bool := d.on UART_CTL.MODE n

/-- What a read of UARTn_DATA returns: the head of the FIFO (a free value when it is empty), or in MIDI and console modes
the last received byte. -/
def Dev.uartData (d : Dev) (n : Nat) : Byte :=
  if d.uartFifo n then (d.ser n).rx.head?.getD (d.draw 8) else (d.ser n).last

/-- A read of UARTn_DATA: the flags that the latest STAT read returned clear, and a FIFO gives up its head. -/
def Dev.uartTake (d : Dev) (n : Nat) : Dev :=
  let u := d.ser n
  let c : Nat → Bool := fun i => bit u.seen.toNat i
  let u' := { u with fe := u.fe && !c 0, pe := u.pe && !c 1, oe := u.oe && !c 2, brk := u.brk && !c 3, seen := 0 }
  if d.uartFifo n then
    (match u.rx with
    | [] => d.drawn.setSer n u'
    | _ :: t => d.setSer n { u' with rx := t })
  else d.setSer n u'

/-! ### Notices (R634, R646) -/

/-- A read of offset 0x040 of the HRP block moves the head notice into the holding register; an entry with a double-bit
error is replaced by HRP_NOTECC, UNIT its queue position, and its row is tested. -/
def Dev.noticePop (d : Dev) (ecc : Bool) : Dev :=
  match d.not.q with
  | [] => { d with not := { d.not with hold := 0 } }
  | n :: t =>
    if ecc then
      let w := noticeWord nHRP 3 0 false (d.brt.pos.toNat / 65536)
      { d with not := { d.not with q := t, hold := w } }.drawn.startTest kTab 6 (d.draw 12).toNat
    else { d with not := { d.not with q := t, hold := n } }

/-! ### Views (R119, R330, R515, R713, R775 to R777) -/

/-- Does the register index assign an offset (R771)? The core register view has no row of its own. -/
def mapped (off : Nat) : Bool :=
  (rowOf off).isSome || (0x8000 ≤ off && off < 0x10000 && off % 4 = 0 && 0x100 ≤ off % 0x800 && off % 0x800 < 0x2C0)

/-- Is a MAC register in the shadow that stays readable and writable while the port's island is gated (R773)? -/
def macShadow (o : Nat) : Bool :=
  o = 0 || o = 8 || o = 0xC || o = 0x10 || o = 0x18 || o = 0x1C || (0x28 ≤ o && o ≤ 0x3C)

/-- The registers that are views of other state; none for those that the register file holds. -/
def Dev.view (d : Dev) (off : Nat) : Option Nat :=
  let blk := off / 0x1000
  if blk = 0 then (if off = 0xC then some (if d.on BRT_STAT.RUNNING then d.blkNum % 2 ^ 32 else 0) else none)
  else if blk = 2 then
    (if off = 0x2008 then some (d.brt.pos.toNat % 2 ^ 32)
     else if off = 0x200C then some (d.brt.snapPos.toNat / 2 ^ 32)
     else if off = 0x2044 then some (d.brt.snapEpoch.toNat / 2 ^ 32)
     else none)
  else if blk = 3 then (if off = 0x301C then some (d.brt.snapMark.toNat / 2 ^ 32) else none)
  else if blk = 4 then (if 0x4400 ≤ off && off < 0x4C00 then some (sget 0 ((off - 0x4400) / 4) d.val.part).toNat else none)
  else if 8 ≤ blk && blk < 16 then some ((d.core ((off - 0x8000) / 0x800)).regRead (off % 0x800)).1
  else if blk = 0x14 then
    (if (d.port ((off - 0x14000) / 0x400)).gated && !macShadow (off % 0x400) then some 0 else none)
  else if blk = 0x18 then
    (if off = 0x18028 then some (d.g BLW_PLANE.W + d.planeEw * 65536) else none)
  else if blk = 0x19 then
    (if off = 0x19008 then some (d.blw.pctr.toNat % 2 ^ 32)
     else if off = 0x1900C then some (d.brt.snapPctr.toNat / 2 ^ 32)
     else if off = 0x19034 then some (d.region (d.g BLW_MRIDX)).base.toNat
     else if off = 0x19038 then some (d.region (d.g BLW_MRIDX)).len.toNat
     else if off = 0x1903C then some (d.region (d.g BLW_MRIDX)).attr.toNat
     else if off = 0x19040 then some (d.region (d.g BLW_MRIDX)).key.toNat
     else none)
  else if blk = 0x1E then
    (if off = 0x1E804 || off = 0x1E844 then some (d.ser ((off - 0x1E804) / 0x40)).stat
     else if off = 0x1E808 || off = 0x1E848 then some (d.uartData ((off - 0x1E808) / 0x40)).toNat
     else none)
  else if blk = 0x1F then
    (if off = 0x1F100 then some (d.brt.tbase.toNat % 2 ^ 32)
     else if off = 0x1F104 then some (d.brt.tbase.toNat / 2 ^ 32)
     else if off = 0x1F804 then
       some ((d.reg off).toNat + b2n (d.hrp.line.isSome && d.hrp.fill.isNone) + d.hrp.wbuf.length * 256)
     else if off = 0x1F840 then some (match d.not.q with
       | [] => 0
       | n :: _ => n.toNat % 2 ^ 32)
     else if off = 0x1F844 then some (d.not.hold.toNat / 2 ^ 32)
     else if off = 0x1F848 then some ((d.reg off).toNat + d.not.q.length)
     else none)
  else if blk = 0x20 then (if off = 0x20018 then some d.selScore else none)
  else if blk = 0x22 then (if off = 0x22008 then some ((d.lck.wait + 99999) / 100000) else none)
  else none

/-- The value that a 32-bit read of a register returns; 0 where no table assigns the offset (R771). -/
def Dev.look (d : Dev) (off : Nat) : Word :=
  match groupAt off with
  | some (i, some w) => (d.grp i).words.getD w 0
  | some (i, none) => (d.grp i).res i
  | none => match d.view off with
    | some v => BitVec.ofNat 32 v
    | none => if (rowOf off).isSome then d.reg off else 0

/-! ### Effects of a read -/

/-- Clear the RC fields of a register; EVS_HWM takes the current PEND instead (R9, R148). -/
def Dev.readClear (d : Dev) (off : Nat) : Dev :=
  if off = 0x3010 then d.s EVS_HWM (d.g EVS_STAT.PEND)
  else match rowOf off with
    | some r => if r.rc = 0 then d else d.setReg off (d.reg off &&& ~~~ r.rc)
    | none => d

/-- What a 32-bit read of a register does (on the host port: a read of its low half). -/
def Dev.readEffect (d : Dev) (off : Nat) : Dev :=
  match groupAt off with
  | some (i, some _) => d.setGrp i (d.grp i).lock
  | some (i, none) => d.setGrp i (d.grp i).consume
  | none =>
    let blk := off / 0x1000
    if 8 ≤ blk && blk < 16 then
      let c := (off - 0x8000) / 0x800
      d.setCore c ((d.core c).regRead (off % 0x800)).2
    else if blk = 0x14 && (d.port ((off - 0x14000) / 0x400)).gated && !macShadow (off % 0x400) then d
    else if off = 0x2008 then { d with brt := { d.brt with snapPos := d.brt.pos } }
    else if off = 0x2040 then
      { d with brt := { d.brt with snapEpoch := BitVec.ofNat 64 (d.g BRT_EPOCH_L + d.g BRT_EPOCH_H * 2 ^ 32) } }
    else if off = 0x3018 then
      { d with brt := { d.brt with snapMark := BitVec.ofNat 64 (d.g EVS_MARKPOS_L + d.g EVS_MARKPOS_H * 2 ^ 32) } }
    else if off = 0x19008 then { d with brt := { d.brt with snapPctr := BitVec.ofNat 64 d.blw.pctr.toNat } }
    else if off = 0x1E804 || off = 0x1E844 then d.uartSee ((off - 0x1E804) / 0x40)
    else if off = 0x1E808 || off = 0x1E848 then d.uartTake ((off - 0x1E808) / 0x40)
    else if 0x1F000 ≤ off && off < 0x1F100 && off % 0x20 = 0x14 then d.capRead ((off - 0x1F000) / 0x20)
    else if off = 0x1F840 then d.noticePop false
    else d.readClear off

/-- A whole read of a register: its value and the device after it. -/
def Dev.readReg (d : Dev) (off : Nat) : Dev × Word := (d.readEffect off, d.look off)

/-- The UARTs' flags may be read while the snapshot rule of R612 keeps the high half: what the host port's low half shows. -/
def Dev.readLow (d : Dev) (off : Nat) : BitVec 16 := BitVec.ofNat 16 (d.look off).toNat

end Sys2Proof.Machine
end

