-- ==== Sys2Proof/Machine/RegWrite.lean ====
section
/-!
DEFINITION. What a 32-bit register write does to the device proper, whichever agent it comes from (R6 to R8 and the rules
of the owning chapters): who may write which block (R32, R47, R773, R774), the merge of a word into the RW, W1C and W1S
fields with the legal values of R7, and the effects of the registers that have any. CFG_CTL, CFG_UPD_CMD and the commands of
LCK act on OTP or flash as well: they are in Machine/Access.lean.
-/
namespace Sys2Proof.Machine

/-! ### Who may write (R32, R47, R577, R639, R676, R774) -/

/-- May an agent write the register at an offset? PWR_CTL.REQ from MGMT is let through (R491, R676). -/
def Dev.mayWrite (d : Dev) (ag : Agent) (off : Nat) : Bool :=
  let blk := off / 0x1000
  let outside : Bool := blk = 1 || blk = 0x21 || blk = 0x22
  match ag with
  | .host =>
    let early : Bool := blk = 0 || blk = 1 || 0x1F800 ≤ off && off < 0x20000 || blk = 0x21 || blk = 0x22
    d.running || (d.mode = mBOOT && early)
  | .usb => blk ≠ 0x22
  | .console => blk ≠ 0x22
  | .mgmt => !outside || off = 0x21000
  | .image => !outside
  | .sysex => !outside

/-! ### The merge of a written word (R6 to R8) -/

/-- Is a value among the ranges (first, last, step) of legal values? -/
def legal (v : Nat) (l : List (Nat × Nat × Nat)) : Bool :=
  l.any (fun e => e.1 ≤ v && v ≤ e.2.1 && (v - e.1) % e.2.2 = 0)

/-- Are all fields with reserved values written with legal ones? -/
def RegRow.allLegal (r : RegRow) (v : Word) : Bool := r.ok.all (fun f => legal (bitsOf v.toNat f.1 f.2.1) f.2.2)

/-- A register's word after a write: RW fields take the new value, but a field given a reserved value keeps its own (R7);
ones clear W1C bits and set W1S bits. -/
def RegRow.merge (r : RegRow) (old v : Word) : Word :=
  let w := (old &&& ~~~ r.rw) ||| (v &&& r.rw)
  let w := r.ok.foldl (fun (w : Word) f =>
    if legal (bitsOf v.toNat f.1 f.2.1) f.2.2 then w else putBits w f.1 f.2.1 (bitsOf old.toNat f.1 f.2.1)) w
  (w &&& ~~~ (v &&& r.w1c)) ||| (v &&& r.w1s)

def Dev.merged (d : Dev) (off : Nat) (v : Word) : Word :=
  match rowOf off with
  | some r => r.merge (d.reg off) v
  | none => 0

def legalAt (off : Nat) (v : Word) : Bool :=
  match rowOf off with
  | some r => r.allLegal v
  | none => false

/-- A write without any effect but the new word. -/
def Dev.plainWrite (d : Dev) (off : Nat) (v : Word) : Dev :=
  match rowOf off with
  | some r => d.setReg off (r.merge (d.reg off) v)
  | none => d

/-- A write that a reserved value anywhere makes void (R498, R666). -/
def Dev.wholeWrite (d : Dev) (off : Nat) (v : Word) : Dev := if legalAt off v then d.plainWrite off v else d

/-! ### Effects by block -/

/-- SYS_BLK and BRT_CTL.FS are taken from the load list only (R77, R776). -/
def Dev.wrSys (d : Dev) (ag : Agent) (off : Nat) (v : Word) : Dev :=
  if off = 8 && ag ≠ .image then d else d.plainWrite off v

def Dev.wrBrt (d : Dev) (ag : Agent) (off : Nat) (v : Word) : Dev :=
  if off = 0x2000 then
    let src := d.brtSrc
    let d := (d.plainWrite off v).s BRT_CTL.SRC src
    let fs := bitsOf v.toNat 6 4
    let d := if ag = .image && fs < 6 then d.s BRT_CTL.FS fs else d
    let d := d.writeSrc (bitsOf v.toNat 2 0)
    if bit v.toNat 17 then d.writeRebase else d
  else if off = 0x2020 then
    let d := d.plainWrite off v
    if ag = .image then d else d.judgeRet
  else d.plainWrite off v

/-- EVS_QSEL never names one queue for both uses (R148). -/
def Dev.wrEvs (d : Dev) (off : Nat) (v : Word) : Dev :=
  if off = 0x300C && bit v.toNat 7 && bit v.toNat 15 && bitsOf v.toNat 5 0 = bitsOf v.toNat 13 8 then d
  else d.plainWrite off v

def Dev.wrVal (d : Dev) (ag : Agent) (off : Nat) (v : Word) : Dev :=
  if 0x4400 ≤ off && off < 0x4C00 then
    { d with val := { d.val with partPend := d.val.partPend ++ [((off - 0x4400) / 4, v)] } }
  else if off = 0x4010 then
    let w := d.merged off v
    if ag = .image then d.setReg off w else d.writeSpill2 w
  else d.plainWrite off v

/-- RDA_PLIB from the load list is in force before the patch library is judged (R203). -/
def Dev.wrRda (d : Dev) (ag : Agent) (off : Nat) (v : Word) : Dev :=
  if off = 0x5014 then (if ag = .image then d.plainWrite off v else d.writePlib v.toNat)
  else if off = 0x5018 then d.patchCmd (v.toNat % 4) (bitsOf v.toNat 25 16)
  else if off = 0x5020 then d.writeRsel (v.toNat % 4096)
  else d.plainWrite off v

def Dev.wrChn (d : Dev) (off : Nat) (v : Word) : Dev :=
  let c := (off - 0x8000) / 0x800
  let o := off % 0x800
  let d := d.chnReg c o v.toNat
  if o = 0 then d.afterState kCore c else d

def Dev.wrBnk (d : Dev) (off : Nat) (v : Word) : Dev :=
  if 0x11000 ≤ off && off < 0x11800 then
    let n := (off - 0x11000) / 16
    match off % 16 with
    | 0 => d.writeOwn n v.toNat
    | 4 => d.writeGuest n v.toNat
    | 8 => d.writeMst kBank n (v.toNat % 4)
    | _ => d
  else d.plainWrite off v

/-- A frame port: while its island is gated only the shadow is written (R773); R449 keeps the addresses' group bits. -/
def Dev.wrMac (d : Dev) (off : Nat) (v : Word) : Dev :=
  let n := (off - 0x14000) / 0x400
  let o := off % 0x400
  if 4 ≤ n || ((d.port n).gated && !macShadow o) then d
  else if o = 0 then (d.writeMacCtl n (d.merged off v)).afterState kPort n
  else if o = 0x14 then (if bit v.toNat 31 then d.writeLecClr n else d)
  else if o = 8 && bit v.toNat 0 then d
  else if o = 0x28 && !bit v.toNat 0 then d
  else if o = 0x30 || o = 0x34 then ((d.plainWrite off v).s MAC_FFQ_HEAD 0 n).s MAC_FFQ_TAIL 0 n
  else d.plainWrite off v

/-- A write of a queue's BASE or CFG sets its indices to 0 (chapter 12). -/
def Dev.wrQueues (d : Dev) (off : Nat) (v : Word) : Dev :=
  let o := off % 16
  if off < 0x18600 then
    if 8 ≤ o then d.plainWrite off v
    else
      let q := (off - 0x18200) / 16
      let w := d.merged off v
      let d := if o = 4 then
          (d.setReg off (putBits w 17 16 (d.g BLW_WQ_CFG.MST q))).writeMst kWq q (bitsOf v.toNat 17 16)
        else d.setReg off w
      let d := (d.s BLW_WQ_PI 0 q).s BLW_WQ_CI 0 q
      { d with blw := { d.blw with bad := d.blw.bad.filter (fun e => e.1.toNat ≠ q) } }
  else if off < 0x18A00 then
    let r := (off - 0x18600) / 16
    if 8 ≤ o then d.plainWrite off v
    else
      let d := ((d.plainWrite off v).s BLW_RQ_HEAD 0 r).s BLW_RQ_TAIL 0 r
      { d with blw := { d.blw with slots := d.blw.slots.filter (fun e => e.rq.toNat ≠ r) } }
  else
    let c := (off - 0x18A00) / 16
    if 8 ≤ o then d.plainWrite off v else ((d.plainWrite off v).s BLW_CQ_PI 0 c).s BLW_CQ_CI 0 c

def Dev.wrBlw (d : Dev) (off : Nat) (v : Word) : Dev :=
  if off = 0x18000 then d.writeBlwCtl v.toNat
  else if off = 0x18010 then (if d.on BLW_CTL.EN then d else d.plainWrite off v)
  else if off = 0x18014 then
    (if v.toNat % 65536 ∈ [0x88CC, 0x8808, 0x8100, 0x88A8] then d else d.plainWrite off v)
  else if off = 0x18018 || off = 0x1801C || off = 0x18020 then d.wholeWrite off v
  else if off = 0x18080 then
    let d := d.plainWrite off v
    if bit v.toNat 31 then d.hostAtomic else d
  else if 0x18200 ≤ off && off < 0x18E00 then d.wrQueues off v
  else d.plainWrite off v

def Dev.wrSec (d : Dev) (wrap : List Byte) (off : Nat) (v : Word) : Dev :=
  if off = 0x19010 then d.writeKeyCmd wrap v.toNat
  else if off = 0x19034 then d.writeMr (fun r => { r with base := v })
  else if off = 0x19038 then d.writeMr (fun r => { r with len := BitVec.ofNat 32 (v.toNat % 2 ^ 26) })
  else if off = 0x1903C then d.writeMrAttr v.toNat
  else if off = 0x19040 then d.writeMr (fun r => { r with key := BitVec.ofNat 32 (v.toNat / 1024 * 1024) })
  else if 0x19100 ≤ off && off < 0x19200 && d.protDead (1024 + (off - 0x19100) / 4) then d
  else if 0x19200 ≤ off && off < 0x19300 && d.protDead (1088 + (off - 0x19200) / 4) then d
  else d.plainWrite off v

/-- A stream slot: a write that sets EN on a slot outside the bounds of R545 is ignored, in the load list it is judged at
step 7 (R777); a slot newly enabled has no block sent and no entry ready. -/
def Dev.wrStr (d : Dev) (ag : Agent) (off : Nat) (v : Word) : Dev :=
  let s := (off - 0x1A000) / 32
  if off % 32 = 0 then
    let w := d.merged off v
    if bit w.toNat 0 && ag ≠ .image && !strBounds d.blk w.toNat (d.g BLW_STR_LAT.LAT s) then d.s BLW_SECSTAT.STRERR 1
    else
      let was := d.on BLW_STR.EN s
      let d := d.setReg off w
      if bit w.toNat 0 && !was then
        { d with blw := { d.blw with ready := d.blw.ready.filter (fun e => e.1 ≠ s), strNext := sput 0 s 0 d.blw.strNext } }
      else d
  else d.plainWrite off v

def Dev.wrBel (d : Dev) (ag : Agent) (off : Nat) (v : Word) : Dev :=
  if off = 0x1C004 then
    (if ag = .image then (if v.toNat % 1024 ≤ 512 then d.plainWrite off v else d) else d.writePlat (v.toNat % 1024))
  else if off = 0x1C008 then d.writeMute (d.merged off v)
  else if 0x1C400 ≤ off && off < 0x1C780 && off % 8 = 4 then d.writeMst kOut ((off - 0x1C404) / 8) (v.toNat % 4)
  else d.plainWrite off v

def Dev.wrSap (d : Dev) (off : Nat) (v : Word) : Dev :=
  if off < 0x1D100 && off % 0x40 = 0 then d.writeSapCtl ((off - 0x1D000) / 0x40) (d.merged off v) else d.plainWrite off v

/-! ### USB, UARTs -/

/-- An update ends (R57, R60). -/
def Dev.updEnd (d : Dev) : Dev := { d with boot := { d.boot with upd := none } }.s CFG_UPD_STAT.BUSY 0

/-- What a bus reset, a detach or a loss of VBUS ends (R596): an update that USB holds, the notices and the OUT FIFO. -/
def Dev.usbDrop (d : Dev) : Dev :=
  let d := match d.boot.upd with
    | some u => if u.usb then d.updEnd else d
    | none => d
  { d with usb := { d.usb with notices := [], fifo := [], next := none, taken := [], sof := [], sofs := 0, inFrames := [],
                               inReady := [], inSent := [], ep0 := none, ep3 := [], ep4 := [], ep5 := [], syx := [],
                               altPend := [], rwReason := none, drivingK := false, addr := 0, prior := 0 } }.s USB_AFILL 0

/-- The pull-up goes off, with its notice; the source USB is lost (R78, R560). -/
def Dev.usbOff (d : Dev) : Dev :=
  if !d.on USB_STAT.CONN then d
  else
    let keep := d.reg USB_STAT.VBUS.base
    let d := (d.usbDrop.setReg USB_STAT.VBUS.base (putBits (putBits keep 11 1 0) 31 13 0)).raise nUSB 2 0
    if d.brtSrc = srcUSB && d.on BRT_STAT.RUNNING then d.srcLost else d

/-- A write to UARTn_DATA: ignored in UART1's console mode; dropped and counted at a full FIFO (R587, R589). -/
def Dev.uartPut (d : Dev) (n : Nat) (b : Byte) : Dev :=
  let u := d.ser n
  if n = 1 && !d.on UART_CTL.MODE 1 then d
  else if 16 ≤ u.tx.length then d.cnt UART_TXDROP n
  else d.setSer n { u with tx := u.tx ++ [b] }

def Dev.wrUsb (d : Dev) (off : Nat) (v : Word) : Dev :=
  if off = 0x1E000 then
    let d := d.plainWrite off v
    if d.on USB_CTL.EN then d else d.usbOff
  else if off = 0x1E808 || off = 0x1E848 then d.uartPut ((off - 0x1E808) / 0x40) (BitVec.ofNat 8 v.toNat)
  else d.plainWrite off v

/-! ### Timers and the host port -/

/-- Start a fill of the aperture's line buffer with a row; it supersedes an earlier one (R628). -/
def Dev.startFill (d : Dev) (row : Nat) : Dev :=
  { d with hrp := { d.hrp with fill := some (row / 64 * 64), fresh := [],
                               wbuf := d.hrp.wbuf.map (fun (e : ApWrite) => { e with late := false }) } }

/-- The row that the line buffer holds, or HRP_APBASE's first. -/
def Dev.lineRow (d : Dev) : Nat :=
  match d.hrp.fill, d.hrp.line with
  | some r, _ => r
  | none, some (r, _) => r
  | none, none => (d.reg 0x1F808).toNat

/-- Bytes written into the mailbox latch; a write that includes its last byte submits the latch (R625). -/
def Dev.mbxWrite (d : Dev) (o : Nat) (bytes : List (Nat × Byte)) : Dev :=
  let l := bytes.foldl (fun l e => setAt l (o + e.1) e.2) d.hrp.mbxLatch
  let d := { d with hrp := { d.hrp with mbxLatch := l } }
  if bytes.any (fun e => o + e.1 = 15) then d.submit (roariBytes l) else d

/-- DWAKE_N is released and HSLEEP clears (R637). -/
def Dev.hostAwake (d : Dev) : Dev :=
  if d.on HRP_WAKE.HSLEEP || d.on HRP_WAKE.DWAKE then
    let d := (d.s HRP_WAKE.HSLEEP 0).s HRP_WAKE.DWAKE 0
    { d with hrp := { d.hrp with dwakePrep := none } }
  else d

def Dev.wrHrp (d : Dev) (off : Nat) (v : Word) : Dev :=
  if off = 0x1F808 then (d.plainWrite off v).startFill (bitsOf v.toNat 31 20 * 2 ^ 20)
  else if off = 0x1F80C then (if bit v.toNat 0 then d.startFill d.lineRow else d)
  else if 0x1F820 ≤ off && off < 0x1F830 then
    d.mbxWrite (off % 16) ((List.range 4).map (fun i => (i, BitVec.ofNat 8 (v.toNat / 2 ^ (8 * i)))))
  else if off = 0x1F850 then
    let d := d.plainWrite off v
    if !d.on HRP_WAKE.HSLEEP then { (d.s HRP_WAKE.DWAKE 0) with hrp := { d.hrp with dwakePrep := none } } else d
  else if off = 0x1FA00 then
    let d := d.plainWrite off v
    d.setGrp gChanter { GroupSt.reset 16 with count := (d.grp gChanter).count }
  else d.plainWrite off v

def Dev.wrTim (d : Dev) (off : Nat) (v : Word) : Dev :=
  if off < 0x1F100 then
    (if off % 0x20 = 0 then d.writeTimCtl ((off - 0x1F000) / 0x20) (d.merged off v) else d.plainWrite off v)
  else if off = 0x1F200 then (if legalAt off v then d.writeWdtCtl (d.merged off v) else d)
  else if off = 0x1F204 then (if d.on WDT_CTL.LOCK then d else d.wholeWrite off v)
  else if off = 0x1F208 then d.wdtKey (bitsOf v.toNat 31 16)
  else if 0x1F800 ≤ off then d.wrHrp off v
  else d.plainWrite off v

def Dev.wrFlt (d : Dev) (off : Nat) (v : Word) : Dev :=
  if off = 0x20080 || off = 0x20084 then d.writeLaneMst ((off - 0x20080) / 4) v else d.plainWrite off v

/-- PWR: MGMT writes only PWR_CTL.REQ (R491); a request is judged after the other fields of its write. -/
def Dev.wrPwr (d : Dev) (ag : Agent) (off : Nat) (v : Word) : Dev :=
  if off = 0x21000 then (if ag = .mgmt then d else d.plainWrite off v).request (v.toNat % 8)
  else if off = 0x2100C then d.writeVid (d.merged off v)
  else d.plainWrite off v

/-- A 32-bit register write by an agent, on the device proper. `wrap` is the wrapping key of OTP (R531). -/
def Dev.regWrite (d : Dev) (wrap : List Byte) (ag : Agent) (off : Nat) (v : Word) : Dev :=
  if !d.mayWrite ag off || !mapped off then d
  else match off / 0x1000 with
    | 0 => d.wrSys ag off v
    | 2 => d.wrBrt ag off v
    | 3 => d.wrEvs off v
    | 4 => d.wrVal ag off v
    | 5 => d.wrRda ag off v
    | 0x10 => d.wrBnk off v
    | 0x11 => d.wrBnk off v
    | 0x14 => d.wrMac off v
    | 0x18 => d.wrBlw off v
    | 0x19 => d.wrSec wrap off v
    | 0x1A => d.wrStr ag off v
    | 0x1C => d.wrBel ag off v
    | 0x1D => d.wrSap off v
    | 0x1E => d.wrUsb off v
    | 0x1F => d.wrTim off v
    | 0x20 => d.wrFlt off v
    | 0x21 => d.wrPwr ag off v
    | k => if 8 ≤ k && k < 16 then d.wrChn off v else d.plainWrite off v

end Sys2Proof.Machine
end

