-- ==== Sys2Proof/Machine/Midi.lean ====
section
/-!
DEFINITION. MIDI (chapters 04 and 14): widening, the conversion of MIDI 1.0 and 2.0 channel voice messages to event words
(R125 to R127), jitter-reduction timestamps (R129), and the device's own system exclusive messages (R573, R574). The layouts
of the messages themselves are those of the published MIDI standards (notes/assumptions/21).
-/
namespace Sys2Proof.Machine

/-! ### Widening -/

def widen7 (v : Nat) : Nat :=
  let r := v * 512
  if 64 < v then r ||| ((v % 64) * 8 ||| (v % 64) / 8) else r

def widen14 (v : Nat) : Nat := if 8192 < v then v * 4 ||| (v % 8192) / 2048 else v * 4

/-! ### Binding and emission (R125, R140, R207) -/

/-- Inputs: 0 USB MIDI, 1 UART0. -/
def inUSB : Nat := 0
def inUART : Nat := 1

/-- The Parts that a message's input, group and channel are bound to, in ascending order. -/
def Dev.boundParts (d : Dev) (inp grp ch : Nat) : List Nat :=
  (List.range 64).filter (fun p =>
    let w := (d.partWord p 0).toNat
    let g := bitsOf w 23 16
    let c := bitsOf w 31 24
    bit w 0 && bit (bitsOf w 15 8) inp && (g = 16 || g = grp) && (c = 16 || c = ch))

/-- A word from an input: USB words wait in order behind the endpoint; a UART0 word that meets a full main store is dropped. -/
def Dev.fromInput (d : Dev) (inp : Nat) (w : Roari) : Dev :=
  if inp = inUSB then { d with evs := { d.evs with usbQ := d.evs.usbQ ++ [w] } }
  else if d.canTake w then { d with evs := { d.evs with uartQ := d.evs.uartQ ++ [w] } }
  else d.cnt EVS_DROP

/-- A channel voice message as one word for each bound Part. -/
def Dev.voice (d : Dev) (inp grp ch : Nat) (t : Pos) (op nid vala valb : Nat) : Dev :=
  match d.boundParts inp grp ch with
  | [] => d.cnt EVS_UNBOUND
  | l => l.foldl (fun (d : Dev) p => d.fromInput inp (roariOf t.toNat op p nid vala valb)) d

/-! ### Kept selections (R127) -/

def selKey (inp grp ch : Nat) : Nat := inp * 256 + grp % 16 * 16 + ch % 16
def MidiSel.zero : MidiSel := ⟨0, 0, 0, 0, 0⟩
def Dev.sel (d : Dev) (k : Nat) : MidiSel := sget MidiSel.zero k d.evs.sel
def Dev.setSel (d : Dev) (k : Nat) (m : MidiSel) : Dev := { d with evs := { d.evs with sel := sput MidiSel.zero k m d.evs.sel } }

/-- 1 an RPN is selected, 2 an NRPN, 0 none. -/
def MidiSel.now (m : MidiSel) : Nat := if m.kind = 1 && m.msb = 127 && m.lsb = 127 then 0 else m.kind
def MidiSel.number (m : MidiSel) : Nat := m.msb.toNat * 128 + m.lsb.toNat

/-- VALB of CONTROL and PER_NOTE. -/
def kindVal (kind n : Nat) : Nat := kind * 2 ^ 14 + n

/-- The control changes that keep a value and make no word. -/
def Dev.keepCc (d : Dev) (k cc v : Nat) : Dev :=
  let m := d.sel k
  let b := BitVec.ofNat 7 v
  match cc with
  | 32 => d.setSel k { m with bankLsb := b }
  | 98 => d.setSel k { m with kind := 2, lsb := b }
  | 99 => d.setSel k { m with kind := 2, msb := b }
  | 100 => d.setSel k { m with kind := 1, lsb := b }
  | 101 => d.setSel k { m with kind := 1, msb := b }
  | _ => d

/-- Does a control change make no word? -/
def silentCc (cc : Nat) : Bool := cc = 0 || cc = 32 || (98 ≤ cc && cc ≤ 101)

/-- PROGRAM's patch number from the bank LSB and the program. -/
def patchOf (bankLsb program : Nat) : Nat := bankLsb % 8 * 128 + program % 128

/-! ### Conversion (R126) -/

/-- A control change whose value is already widened to 16 bits. -/
def Dev.ccWord (d : Dev) (inp grp ch : Nat) (t : Pos) (cc v : Nat) : Dev :=
  match cc with
  | 120 => d.voice inp grp ch t opALL_OFF 0 2 0
  | 123 => d.voice inp grp ch t opALL_OFF 0 0 0
  | 126 => d.voice inp grp ch t opPART_MODE 0 1 0
  | 127 => d.voice inp grp ch t opPART_MODE 0 0 0
  | _ => d.voice inp grp ch t opCONTROL 0 v (kindVal 0 cc)

/-- A MIDI 1.0 control change. -/
def Dev.cc1 (d : Dev) (inp grp ch : Nat) (t : Pos) (cc v : Nat) : Dev :=
  let k := selKey inp grp ch
  let m := d.sel k
  if silentCc cc then d.keepCc k cc v
  else if cc = 6 && m.now ≠ 0 then
    (d.setSel k { m with data := BitVec.ofNat 7 v }).voice inp grp ch t opCONTROL 0 (widen14 (v * 128)) (kindVal m.now m.number)
  else if cc = 38 && m.now ≠ 0 then
    d.voice inp grp ch t opCONTROL 0 (widen14 (m.data.toNat * 128 + v)) (kindVal m.now m.number)
  else d.ccWord inp grp ch t cc (widen7 v)

/-- A MIDI 1.0 channel voice message: status byte and two data bytes. -/
def Dev.midi1 (d : Dev) (inp grp : Nat) (t : Pos) (st d1 d2 : Nat) : Dev :=
  let ch := st % 16
  match st / 16 with
  | 8 => d.voice inp grp ch t opNOTE_OFF (d1 * 512) (widen7 d2) 0
  | 9 =>
    if d2 = 0 then d.voice inp grp ch t opNOTE_OFF (d1 * 512) 0x8000 0
    else d.voice inp grp ch t opNOTE_ON (d1 * 512) (widen7 d2) (d1 * 512)
  | 10 => d.voice inp grp ch t opPOLY_PRESS (d1 * 512) (widen7 d2) 0
  | 11 => d.cc1 inp grp ch t d1 d2
  | 12 => d.voice inp grp ch t opPROGRAM 0 (patchOf (d.sel (selKey inp grp ch)).bankLsb.toNat d1) 0
  | 13 => d.voice inp grp ch t opCONTROL 0 (widen7 d1) (kindVal 3 0)
  | 14 => d.voice inp grp ch t opPITCH_BEND 0 (widen14 (d1 + 128 * d2)) 0
  | _ => d.cnt EVS_IGNORED

/-- Note id and pitch of a MIDI 2.0 note message (R121). -/
def noteOf (note atype attr : Nat) : Nat × Nat :=
  if atype = 3 then (note * 512 + attr % 512, attr) else (note * 512, note * 512)

/-- A MIDI 2.0 channel voice message: its first word's low 24 bits and its second word. -/
def Dev.midi2 (d : Dev) (inp grp : Nat) (t : Pos) (w v : Nat) : Dev :=
  let ch := bitsOf w 19 16
  let note := bitsOf w 14 8
  let low := bitsOf w 7 0
  let hi := v / 65536
  let lo := v % 65536
  match bitsOf w 23 20 with
  | 0 => d.voice inp grp ch t opPER_NOTE (note * 512) hi (kindVal 0 low)
  | 1 => d.voice inp grp ch t opPER_NOTE (note * 512) hi (kindVal 1 low)
  | 2 => d.voice inp grp ch t opCONTROL 0 hi (kindVal 1 (note * 128 + low % 128))
  | 3 => d.voice inp grp ch t opCONTROL 0 hi (kindVal 2 (note * 128 + low % 128))
  | 6 => d.voice inp grp ch t opPER_NOTE (note * 512) hi (kindVal 2 0)
  | 8 => d.voice inp grp ch t opNOTE_OFF (noteOf note low lo).1 hi 0
  | 9 => let n := noteOf note low lo; d.voice inp grp ch t opNOTE_ON n.1 hi n.2
  | 10 => d.voice inp grp ch t opPOLY_PRESS (note * 512) hi lo
  | 11 => if silentCc note then d.keepCc (selKey inp grp ch) note (v / 2 ^ 25) else d.ccWord inp grp ch t note hi
  | 12 =>
    let bank := if bit low 0 then bitsOf v 6 0 else (d.sel (selKey inp grp ch)).bankLsb.toNat
    d.voice inp grp ch t opPROGRAM 0 (patchOf bank (bitsOf v 30 24)) 0
  | 13 => d.voice inp grp ch t opCONTROL 0 hi (kindVal 3 0)
  | 14 => d.voice inp grp ch t opPITCH_BEND 0 hi lo
  | 15 => d.voice inp grp ch t opPER_NOTE (note * 512) 0 (kindVal 3 low)
  | _ => d.cnt EVS_IGNORED

/-! ### Jitter-reduction timestamps (R129) -/

def JrAnchor.zero : JrAnchor := ⟨false, 0, 0, 0, none⟩

/-- A JR Timestamp of a group: the target of the group's next channel voice message. -/
def Dev.jrStamp (d : Dev) (group : Nat) (ts : Half) : Dev :=
  if !d.on EVS_CTL.JREN then d
  else
    let g := d.evs.jr.getD group JrAnchor.zero
    let n := d.brt.pos
    let dly := d.g EVS_CTL.JRDLY
    let restart : Bool := !g.valid || 32768 ≤ (ts - g.last).toNat || 0xFFFF0000 < g.u
    let d := if restart && g.valid then d.cnt EVS_JRSLIP else d
    let g := if restart then { g with valid := true, u := 0, anchor := n + posOf dly }
      else { g with u := g.u + (ts - g.last).toNat }
    let g := { g with last := ts }
    let t := g.anchor + BitVec.ofNat 64 ((2 * g.u * d.fs * 65536 + 31250) / (2 * 31250))
    let slip : Bool := earlier t n || later t (n + posOf (dly + 2400))
    let d := if slip then d.cnt EVS_JRSLIP else d
    let g := if slip then { g with u := 0, anchor := n + posOf dly } else g
    { d with evs := { d.evs with jr := setAt d.evs.jr group { g with next := some (if slip then g.anchor else t) } } }

/-- The target that a channel voice message of a group takes, and the stamp is used up. -/
def Dev.jrTarget (d : Dev) (group : Nat) : Dev × Pos :=
  let g := d.evs.jr.getD group JrAnchor.zero
  match g.next with
  | some t =>
    ({ d with evs := { d.evs with jr := setAt d.evs.jr group { g with next := none } } }, if d.on EVS_CTL.JREN then t else 0)
  | none => (d, 0)

/-- JR_TIMESTAMP: a stamp on the MIDI streaming interface at alternate setting 1. -/
def execJrTimestamp (group : BitVec 4) (ts : Half) (s : State) : Out :=
  onDev (fun d => if d.g USB_STAT.STATE = 3 && d.on USB_STAT.MALT && d.running then d.jrStamp group.toNat ts else d) s

/-! ### The device's own system exclusive messages (R573, R574) -/

/-- 32 bits from five 7-bit groups, least significant first; none when a top bit is set. -/
def syx32 (l : List Byte) : Option Nat :=
  let g : Nat → Nat := fun i => (l.getD i 0).toNat
  if l.any (fun b => 128 ≤ b.toNat) || 16 ≤ g 4 then none
  else some (g 0 + g 1 * 2 ^ 7 + g 2 * 2 ^ 14 + g 3 * 2 ^ 21 + g 4 * 2 ^ 28)

/-- The bytes after the device byte of an own message, without F7; none for any other message. -/
def Dev.ownSyx (d : Dev) (l : List Byte) : Option (List Byte) :=
  let id : List Nat := if d.on MIDI_SYX.LONG then [0, d.g MIDI_SYX.ID1, d.g MIDI_SYX.ID2] else [d.g MIDI_SYX.ID0]
  let dev := (l.getD (1 + id.length) 0).toNat
  if d.on MIDI_SYX.EN && l.getD 0 0 = 0xF0 && l.length ≤ 32 && 3 + id.length ≤ l.length && (slice l 1 id.length).map (·.toNat) = id
      && (dev = d.g MIDI_SYX.DEVID || dev = 0x7F) then
    some ((l.drop (2 + id.length)).dropLast)
  else none

/-- Is an address one that the load list's rule lets through (R47)? -/
def loadable (a : Nat) : Bool :=
  0x40000000 ≤ a && a < 0x40023000 &&
    !((a - 0x40000000) / 0x1000 = 1 || (a - 0x40000000) / 0x1000 = 0x21 || (a - 0x40000000) / 0x1000 = 0x22)

/-- REGWR of a value to an address: a skipped address is counted, and one of PWR_CTL in CFG_SKIP.REG too (R774). -/
def Dev.regwr (d : Dev) (wrap : List Byte) (a v : Nat) : Dev :=
  if loadable a then d.regWrite wrap .sysex (a - 0x40000000) (BitVec.ofNat 32 v)
  else (if a = 0x40021000 then d.cnt CFG_SKIP.REG else d).cnt MIDI_SYXERR

/-- A whole system exclusive message, from F0 to F7. -/
def Dev.sysex (d : Dev) (wrap : List Byte) (l : List Byte) : Dev :=
  match d.ownSyx l with
  | none => d.cnt EVS_IGNORED
  | some b =>
    if b.length = 11 && b.getD 0 0 = 1 then
      (match syx32 (slice b 1 5), syx32 (slice b 6 5) with
      | some a, some v => d.regwr wrap a v
      | _, _ => d.cnt MIDI_SYXERR)
    else d.cnt MIDI_SYXERR

/-- REGWR: an own message with this address and value has been received. -/
def execRegwr (addr value : Word) (s : State) : Out :=
  onDev (fun d => if d.on MIDI_SYX.EN && d.running then d.regwr s.otp.wrapKey addr.toNat value.toNat else d) s

end Sys2Proof.Machine
end

