-- ==== Sys2Proof/Machine/Uart.lean ====
section
/-!
DEFINITION. The two UARTs (chapter 14): reception with its errors, FIFOs and flags, the MIDI parser of UART0, the bytes of
the console, and transmission. A complete console frame is judged in Machine/Access.lean.
-/
namespace Sys2Proof.Machine

/-! ### The MIDI parser (R590 to R592) -/

/-- Data bytes that a channel voice status takes. -/
def dataLen (status : Nat) : Nat := if status / 16 = 12 || status / 16 = 13 then 1 else 2

/-- One byte received without error in MIDI mode. -/
def Dev.parse (d : Dev) (wrap : List Byte) (b : Byte) : Dev :=
  let u := d.ser 0
  let n := b.toNat
  if 0xF8 ≤ n then d
  else if n = 0xF0 then d.setSer 0 { u with status := none, data := [], syx := some [b] }
  else if n = 0xF7 then
    let d' := d.setSer 0 { u with status := none, data := [], syx := none }
    (match u.syx with
    | some l => d'.sysex wrap ((l ++ [b]).take 33)
    | none => d')
  else if 0xF0 < n then (d.setSer 0 { u with status := none, data := [], syx := none }).cnt EVS_IGNORED
  else if 0x80 ≤ n then d.setSer 0 { u with status := some b, data := [], syx := none }
  else match u.syx, u.status with
    | some l, _ => d.setSer 0 { u with syx := some ((l ++ [b]).take 33) }
    | none, some st =>
      let data := u.data ++ [b]
      if data.length < dataLen st.toNat then d.setSer 0 { u with data := data }
      else (d.setSer 0 { u with data := [] }).midi1 inUART 0 0 st.toNat (data.getD 0 0).toNat (data.getD 1 0).toNat
    | none, none => d.cnt UART0_NOSTAT

/-- A byte received with an error: it and the message in progress are discarded, and the running status ends (R591). -/
def Dev.parseError (d : Dev) : Dev := d.setSer 0 { d.ser 0 with status := none, data := [], syx := none }

/-! ### Reception (R587, R593, R599) -/

/-- The error flags and counters of a received character. -/
def Dev.lineErrors (d : Dev) (n : Nat) (fe pe brk : Bool) : Dev :=
  let u := d.ser n
  let d := d.setSer n { u with fe := u.fe || fe, pe := u.pe || pe, brk := u.brk || brk }
  let d := if fe then d.cnt UART_FECNT n else d
  if pe then d.cnt UART_PECNT n else d

/-- A character enters the receive FIFO, or is dropped at a full one. -/
def Dev.fifoIn (d : Dev) (n : Nat) (b : Byte) : Dev :=
  let u := d.ser n
  if u.rx.length < 16 then d.setSer n { u with rx := u.rx ++ [b] }
  else (d.setSer n { u with oe := true }).cnt UART_OECNT n

/-- A status byte in MIDI mode wakes the host and the computer where that is enabled (R582, R637). -/
def Dev.statusWakes (d : Dev) (b : Byte) : Dev :=
  if b.toNat < 0x80 then d else (d.prepDwake HRP_WAKE.MIDI 2).prepRwake USB_RWEN.MIDI 2

/-- A console byte; one with an error spoils the frame in progress (R762). -/
def Dev.consoleByte (d : Dev) (b : Byte) (bad : Bool) : Dev :=
  let u := d.ser 1
  if bad then (d.setSer 1 { u with frame := [] }).cnt LCK_FRAMEERR
  else d.setSer 1 { u with frame := u.frame ++ [b] }

/-- A character received in a mode in which its UART is clocked. -/
def Dev.receiveByte (d : Dev) (wrap : List Byte) (n : Nat) (byte : Byte) (fe pe brk : Bool) : Dev :=
  let midi : Bool := n = 0 && !d.on UART_CTL.MODE 0
  let fe := fe || brk
  let pe := pe && !midi && d.g UART_CTL.PAR n ≠ 0
  let b : Byte := if !midi && !d.on UART_CTL.DBITS n then byte &&& 0x7F else byte
  let d := d.lineErrors n fe pe brk
  let d := d.setSer n { d.ser n with last := b }
  if midi then
    (if fe || brk then d.parseError else (d.statusWakes b).parse wrap b)
  else if d.uartFifo n then d.fifoIn n b
  else d.consoleByte b (fe || pe || brk)

/-- UART_RECEIVE_CHARACTER: while the device sleeps, the edge is the wake and the character is lost; a character whose edge
comes before the UART's clock is gated is received, and cancels the entry. Before step 7 UART0 discards it (R147). -/
def receiveChar (wrap : List Byte) (n : Nat) (byte : Byte) (fe pe brk : Bool) (d : Dev) : Dev :=
  if !d.on UART_CTL.RXEN n || d.mode = mRESET then d
  else if d.mode = mIDLE || d.mode = mDORMANT || (d.pwr.entering.isSome && d.pwr.entered) then d.wake (2 ^ (1 + n))
  else if n = 0 && !d.running then d
  else (d.wake (2 ^ (1 + n))).receiveByte wrap n byte fe pe brk

def execUartReceiveCharacter (u : BitVec 1) (byte : Byte) (fe pe brk : Bool) (s : State) : Out :=
  onDev (receiveChar s.otp.wrapKey u.toNat byte fe pe brk) s

/-! ### Reads, writes and transmission (R587 to R589) -/

/-- A read of a register by an agent; the value is the one carried away. -/
def Dev.agentRead (d : Dev) (off : Nat) : Dev :=
  if !(d.running || d.mode = mBOOT) then d
  else
    let r := d.readReg off
    { r.1 with hrp := { r.1.hrp with rdata := BitVec.ofNat 64 r.2.toNat } }

def execUartStatRead (_ : Agent) (u : BitVec 1) (s : State) : Out := onDev (fun d => d.agentRead (0x1E804 + 0x40 * u.toNat)) s

def execUartDataRead (_ : Agent) (u : BitVec 1) (s : State) : Out := onDev (fun d => d.agentRead (0x1E808 + 0x40 * u.toNat)) s

def execUartDataWrite (ag : Agent) (u : BitVec 1) (byte : Byte) (s : State) : Out :=
  onDev (fun d => d.regWrite s.otp.wrapKey ag (0x1E808 + 0x40 * u.toNat) (BitVec.ofNat 32 byte.toNat)) s

/-- The head of the transmit FIFO leaves on UARTn_TX. -/
def transmitChar (n : Nat) (d : Dev) : Dev :=
  let u := d.ser n
  if !d.on UART_CTL.TXEN n || !(d.running || d.mode = mBOOT) then d
  else match u.tx with
    | b :: t => d.setSer n { u with tx := t, sent := [b] }
    | [] => d

def execUartTransmitCharacter (u : BitVec 1) (s : State) : Out := onDev (transmitChar u.toNat) s

end Sys2Proof.Machine
end

