-- ==== Sys2Proof/Machine/HostPort.lean ====
section
/-!
DEFINITION. The host register port (chapter 15): 32-bit registers through 16 bits with the read snapshot and the held low
half, the exceptions of R617, the mailbox latch, the memory aperture with its line and write buffers, result groups, the
notice read and DWAKE_N. A high half that commits a register write hands it to Machine/Access.lean.
-/
namespace Sys2Proof.Machine

/-! ### Halves -/

/-- The low and the high half of a word. -/
def lowHalf (w : Word) : Half := BitVec.ofNat 16 w.toNat
def highHalf (w : Word) : Half := BitVec.ofNat 16 (w.toNat / 65536)
def halves (hi lo : Half) : Word := BitVec.ofNat 32 (hi.toNat * 65536 + lo.toNat)

/-- A half with the enabled bytes of new data; the others are kept. -/
def mergeBytes (old data : Half) (be : BitVec 2) : Half :=
  BitVec.ofNat 16 ((if be.getLsbD 1 then data.toNat / 256 else old.toNat / 256) * 256
    + (if be.getLsbD 0 then data.toNat % 256 else old.toNat % 256))

/-- The enabled bytes of a half, each with its place in it. -/
def enabled (data : Half) (be : BitVec 2) : List (Nat × Byte) :=
  (if be.getLsbD 0 then [(0, BitVec.ofNat 8 data.toNat)] else [])
  ++ (if be.getLsbD 1 then [(1, BitVec.ofNat 8 (data.toNat / 256))] else [])

/-- The device drives HD with a half. -/
def Dev.drive (d : Dev) (v : Half) : Dev := { d with hrp := { d.hrp with hd := v } }

/-- Does the port answer? In RESET and in IDLE and DORMANT no access has an effect (R639, R784). -/
def Dev.hostUp (d : Dev) : Bool := d.running || d.mode = mBOOT

/-- What a read of a sleeping device returns: 0, and no side effect (R639). -/
def Dev.asleepRead (d : Dev) : Dev := if d.mode = mRESET then d else d.drive 0

def Dev.unmap (d : Dev) : Dev := d.s HRP_STAT.UNMAP 1

/-! ### The aperture (R627 to R631, R645) -/

/-- Internal address of an aperture offset. -/
def Dev.apAddr (d : Dev) (o : Nat) : Nat := (d.reg 0x1F808).toNat / 2 ^ 20 * 2 ^ 20 + o

/-- What an aperture address reaches: 0 nothing, 1 a bank, 2 a Chanter memory, 3 the ingress window. -/
def apKind (a : Nat) : Nat :=
  if a < bankEnd then 1
  else if (chnLocate a).isSome then 2
  else if 0x30000000 ≤ a && a < 0x30001000 then 3
  else 0

/-- The row that the buffer holds or is being filled with. -/
def Dev.buffered (d : Dev) : Option Nat :=
  match d.hrp.fill with
  | some r => some r
  | none => d.hrp.line.map (·.1)

/-- A read of a half through the aperture: the visible copy of the line, which it locks; a fill starts when the address lies
in another row. -/
def Dev.apRead (d : Dev) (o : Nat) : Dev :=
  let a := d.apAddr (o / 2 * 2)
  if !d.running then d.drive 0
  else match apKind a with
    | 0 => (d.drive 0).unmap
    | 3 => d.drive 0
    | _ =>
      let w := (d.grp gAperture).words.getD (a % 64 / 4) 0
      let d := (d.drive (if a % 4 = 0 then lowHalf w else highHalf w)).setGrp gAperture (d.grp gAperture).lock
      if d.buffered = some (a / 64 * 64) then d else d.startFill a

/-- Words of a row, and a row with bytes written at places in it. -/
def rowWords (l : List Byte) : List Word := (List.range 16).map (fun i => BitVec.ofNat 32 (fieldAt l (4 * i) 4))
def putBytes (l : List Byte) (b : List (Nat × Byte)) : List Byte := b.foldl (fun l e => setAt l e.1 e.2) l

/-- An aperture write updates the line at once, and the copy of it that the host sees or that waits behind a lock. -/
def Dev.lineWrite (d : Dev) (row : Nat) (b : List (Nat × Byte)) : Dev :=
  let d := if d.hrp.fill = some row then { d with hrp := { d.hrp with fresh := d.hrp.fresh ++ b } } else d
  match d.hrp.line with
  | some (r, l) =>
    if r ≠ row then d
    else
      let l := putBytes l b
      let g := d.grp gAperture
      let g : GroupSt := match g.pend with
        | some p => { g with pend := some (rowWords l, p.2) }
        | none => { g with words := rowWords l }
      { d with hrp := { d.hrp with line := some (row, l) } }.setGrp gAperture g
  | none => d

/-- A write of enabled bytes through the aperture. -/
def Dev.apWrite (d : Dev) (o : Nat) (data : Half) (be : BitVec 2) : Dev :=
  let a := d.apAddr (o / 2 * 2)
  let b := enabled data be
  if !d.running || b.isEmpty then d
  else if apKind a = 0 then d.unmap
  else if 16 ≤ d.hrp.wbuf.length then d.s HRP_STAT.WOVF 1
  else
    let d := d.lineWrite (a / 64 * 64) (b.map (fun e => (a % 64 + e.1, e.2)))
    { d with hrp := { d.hrp with wbuf := d.hrp.wbuf ++ [⟨a, b.map (fun e => (a + e.1, e.2)), d.hrp.fill.isSome⟩] } }

/-- The oldest buffered write is performed: on its bank as owner or guest, on a Chanter memory, or into the window. -/
def apPerform (collided : Bool) (d : Dev) : Dev :=
  match d.hrp.wbuf with
  | [] => d
  | e :: t =>
    if !d.running then d
    else
      let d := { d with hrp := { d.hrp with wbuf := t } }
      let a := (e.data.headD (e.addr, 0)).1
      let bytes := e.data.map (·.2)
      match apKind a with
      | 1 =>
        let guest : Bool := d.g BNK_OWN.OWN (bankOf a) ≠ oHost && d.g BNK_GUEST.GUEST (bankOf a) = 2
        if collided && guest then d.collide (bankOf a)
        else
          let r := d.bnkWrite oHost a bytes
          r.dev.tellDenied .host r.denied
      | 2 => (match chnLocate a with
        | some (c, mem, off) =>
          let r := d.chnWrite .host c mem off bytes
          r.1.tellDenied .host r.2
        | none => d)
      | _ => d.windowWrite .host (a % 4096) bytes

def execApertureWritePerform (collided : Bool) (s : State) : Out := onDev (apPerform collided) s

/-- The row that a fill reads, and whether it was denied or met uncorrectable data. -/
def Dev.fillRow (d : Dev) (row : Nat) (ecc : List Ecc) : BnkRes :=
  match chnLocate row with
  | some (c, mem, off) =>
    let r := d.chnRead c mem off 64
    ⟨d, r.1, r.2, false⟩
  | none =>
    let d := d.settled (bankOf row)
    let d := if d.bankMay oHost (bankOf row) false then d.eccEvents row 64 ecc else d
    d.bnkRead oHost row 64

/-- A line fill completes, after the writes that were buffered before it: a new result of the aperture group. -/
def fillComplete (ecc : List Ecc) (d : Dev) : Dev :=
  match d.hrp.fill with
  | none => d
  | some row =>
    if !d.running || d.hrp.wbuf.any (fun e => !e.late) then d
    else if apKind row = 0 || apKind row = 3 then { d with hrp := { d.hrp with fill := none, fresh := [] } }
    else
      let r := d.fillRow row ecc
      let d := (r.dev.tellDenied .host r.denied).sIf r.unc HRP_STAT.BECC 1
      let l := putBytes r.data d.hrp.fresh
      { d with hrp := { d.hrp with line := some (row, l), fill := none, fresh := [] } }.placeResult gAperture (rowWords l)

def execApertureFillComplete (ecc : List Ecc) (s : State) : Out := onDev (fillComplete ecc) s

/-! ### Reads (R611 to R613, R617, R634) -/

/-- The 64-bit registers of R119 by the offset of their low word, with their snapshots. -/
def Dev.snap64 (d : Dev) (off : Nat) : Option (BitVec 64) :=
  if off = 0x2008 then some d.brt.snapPos
  else if off = 0x2040 then some d.brt.snapEpoch
  else if off = 0x3018 then some d.brt.snapMark
  else if off = 0x19008 then some d.brt.snapPctr
  else none

def isMbx (off : Nat) : Bool := 0x1F820 ≤ off && off < 0x1F830
def isUartData (off : Nat) : Bool := off = 0x1E808 || off = 0x1E848

/-- NOTICE_READ: the head moves into the holding register, whose low half is returned. -/
def Dev.readNotice (d : Dev) (ecc : Bool) : Dev :=
  let d := d.noticePop ecc
  d.drive (BitVec.ofNat 16 d.not.hold.toNat)

/-- A read of a low half. -/
def hostLow (off : Nat) (d : Dev) : Dev :=
  let off := off / 4 * 4
  if !d.hostUp then d.asleepRead
  else
    let d := d.hostAwake
    if 0x100000 ≤ off then d.apRead (off - 0x100000)
    else if !mapped off then ({ d with hrp := { d.hrp with snapTag := some (BitVec.ofNat 21 off), snap := 0 } }.drive 0).unmap
    else if off = 0x1F840 then d.readNotice false
    else if isMbx off then d.drive 0
    else
      let v := d.look off
      let d := (d.readEffect off).drive (lowHalf v)
      if isUartData off then d
      else { d with hrp := { d.hrp with snapTag := some (BitVec.ofNat 21 off), snap := highHalf v } }

def execHostLowHalfRead (off : BitVec 21) (s : State) : Out := onDev (hostLow off.toNat) s

/-- A read of a high half: the snapshot when its tag matches, else the current bits, with no side effect. -/
def hostHigh (off : Nat) (d : Dev) : Dev :=
  let off := off / 4 * 4
  if !d.hostUp then d.asleepRead
  else
    let d := d.hostAwake
    if 0x100000 ≤ off then d.apRead (off - 0x100000 + 2)
    else if !mapped off then (d.drive 0).unmap
    else if off = 0x1F840 then d.drive (BitVec.ofNat 16 (d.not.hold.toNat / 65536))
    else if isMbx off || isUartData off then d.drive 0
    else match d.snap64 off with
      | some w => d.drive (BitVec.ofNat 16 (w.toNat / 65536))
      | none => if d.hrp.snapTag = some (BitVec.ofNat 21 off) then d.drive d.hrp.snap else d.drive (highHalf (d.look off))

def execHostHighHalfRead (off : BitVec 21) (s : State) : Out := onDev (hostHigh off.toNat) s

/-- RES_WORD_READ: the low half of a group's RES word. -/
def execResWordRead (g : Group) (s : State) : Out := onDev (hostLow (resOff (Group.idx g))) s

/-- RESULT_GROUP_READ: a word other than the RES word; of the aperture group, a word of the line. -/
def execResultGroupRead (g : Group) (word : BitVec 5) (s : State) : Out :=
  onDev (fun d =>
    if g = .aperture then
      (if !d.hostUp then d.asleepRead
       else
        let d := d.hostAwake
        (d.drive (lowHalf ((d.grp gAperture).words.getD (word.toNat % 16) 0))).setGrp gAperture (d.grp gAperture).lock)
    else hostLow (wordOff (Group.idx g) word.toNat) d) s

/-- RESULT_LOCK_TIMEOUT: the lock ends, with the pending result torn. -/
def execResultLockTimeout (g : Group) (s : State) : Out :=
  onDev (fun d =>
    if (d.grp (Group.idx g)).locked then (d.setGrp (Group.idx g) ((d.grp (Group.idx g)).unlock true)).cnt HRP_RTEAR else d) s

def execApertureRead (off : BitVec 20) (s : State) : Out :=
  onDev (fun d => if !d.hostUp then d.asleepRead else d.hostAwake.apRead off.toNat) s

def execNoticeRead (ecc : Bool) (s : State) : Out :=
  onDev (fun d => if !d.hostUp then d.asleepRead else d.hostAwake.readNotice ecc) s

/-! ### Writes (R614 to R617, R625) -/

/-- What a register keeps where no byte is written: the current value of RW fields, 0 in the others (R615). -/
def Dev.neutral (d : Dev) (off : Nat) : Word :=
  match rowOf off with
  | some r => d.look off &&& r.rw
  | none => d.look off

/-- A half written into the mailbox latch. -/
def Dev.hostMbx (d : Dev) (o : Nat) (data : Half) (be : BitVec 2) : Dev := d.mbxWrite o (enabled data be)

/-- A write of a low half: it is held, and another held one is dropped; the registers of R617 act at once. -/
def hostLowW (off : Nat) (data : Half) (be : BitVec 2) (d : Dev) : Dev :=
  let off := off / 4 * 4
  if !d.hostUp || be = 0 then d
  else
    let d := d.hostAwake
    if 0x100000 ≤ off then d.apWrite (off - 0x100000) data be
    else if !mapped off then d.unmap
    else if isMbx off then d.hostMbx (off % 16) data be
    else if isUartData off then
      (if be.getLsbD 0 && d.mayWrite .host off then d.uartPut ((off - 0x1E808) / 0x40) (BitVec.ofNat 8 data.toNat) else d)
    else if off = 0x1F840 || off = 0x1F844 then d
    else
      let tag : BitVec 21 := BitVec.ofNat 21 off
      let other : Bool := match d.hrp.held with
        | some h => h.1 ≠ tag
        | none => false
      { d.sIf other HRP_STAT.HALFDROP 1 with
          hrp := { d.hrp with held := some (tag, mergeBytes (lowHalf (d.neutral off)) data be) } }

def execHostLowHalfWrite (off : BitVec 21) (data : Half) (be : BitVec 2) (s : State) : Out :=
  onDev (hostLowW off.toNat data be) s

/-- A write of a high half: the device after it, and the 32-bit register write that it commits, if any. -/
def hostHighW (off : Nat) (data : Half) (be : BitVec 2) (d : Dev) : Dev × Option (Nat × Word) :=
  let off := off / 4 * 4
  if !d.hostUp || be = 0 then (d, none)
  else
    let d := d.hostAwake
    if 0x100000 ≤ off then (d.apWrite (off - 0x100000 + 2) data be, none)
    else if !mapped off then (d.unmap, none)
    else if isMbx off then (d.hostMbx (off % 16 + 2) data be, none)
    else if isUartData off || off = 0x1F840 || off = 0x1F844 then (d, none)
    else
      let n := d.neutral off
      let hi := mergeBytes (highHalf n) data be
      match d.hrp.held with
      | some (tag, lo) =>
        if tag = BitVec.ofNat 21 off then ({ d with hrp := { d.hrp with held := none } }, some (off, halves hi lo))
        else (d, some (off, halves hi (lowHalf n)))
      | none => (d, some (off, halves hi (lowHalf n)))

/-- MAILBOX_WRITE: one half of the latch. -/
def execMailboxWrite (half : BitVec 3) (data : Half) (be : BitVec 2) (s : State) : Out :=
  onDev (fun d => if !d.hostUp || be = 0 then d else d.hostAwake.hostMbx (2 * half.toNat) data be) s

def execApertureWrite (off : BitVec 20) (data : Half) (be : BitVec 2) (s : State) : Out :=
  onDev (fun d => if !d.hostUp || be = 0 then d else d.hostAwake.apWrite off.toNat data be) s

/-! ### DWAKE_N (R637) -/

/-- DWAKE_ASSERT: with HSLEEP set and a wake prepared, DWAKE_N is driven low. -/
def dwakeAssert (d : Dev) : Dev :=
  match d.hrp.dwakePrep with
  | some r =>
    if d.on HRP_WAKE.HSLEEP && !d.on HRP_WAKE.DWAKE then
      { (((d.s HRP_WAKE.DWAKE 1).s HRP_WAKE.REASON r.toNat).cnt HRP_DWAKES) with hrp := { d.hrp with dwakePrep := none } }
    else d
  | none => d

def execDwakeAssert (s : State) : Out := onDev dwakeAssert s

end Sys2Proof.Machine
end

