-- ==== Sys2Proof/Machine/Flash.lean ====
section
/-!
DEFINITION. The external flash, boot records and sections (chapter 02), the fault log (R65 to R69, R718, R719, R740), and the
reload of a Chanter program (R71, R709).
-/
namespace Sys2Proof.Machine

/-! ### The flash (R34 to R39, R61) -/

/-- `n` bytes from an address; erased bytes read 0xFF. -/
def Flash.read (f : Flash) (a n : Nat) : List Byte := (List.range n).map (fun i => sget 0xFF (a + i) f.mem)

/-- Bytes that the device uses: the first 64 MiB; with no SFDP what 24 address bits reach. -/
def Flash.size (f : Flash) : Nat :=
  match f.kind with
  | .absent => 0
  | .noSfdp => 0x1000000
  | .sfdp n _ => min n 0x4000000

/-- Does the device write this flash (R38, R39)? -/
def Flash.writable (f : Flash) : Bool :=
  match f.kind with
  | .sfdp _ _ => true
  | _ => false

/-- Erase the 4 KiB sector at an address. -/
def Flash.erase (f : Flash) (a : Nat) : Flash :=
  let b := a / 4096 * 4096
  { f with mem := f.mem.filter (fun e => e.1 < b || b + 4096 ≤ e.1) }

/-- Program bytes: a programmed bit turns 1 into 0 (notes/assumptions/22). -/
def Flash.prog (f : Flash) (a : Nat) : List Byte → Flash
  | [] => f
  | b :: t => Flash.prog { f with mem := sput 0xFF a (sget 0xFF a f.mem &&& b) f.mem } (a + 1) t

def Flash.apply (f : Flash) (o : FlashOp) : Flash :=
  match o with
  | .erase a => f.erase a
  | .prog a data => f.prog a data

/-! ### Boot records (R41, R42) -/

/-- Address of record A or B (true). -/
def recAddr (c : Bool) : Nat := if c then 0x1000 else 0

def Flash.bootRec (f : Flash) (c : Bool) : List Byte := f.read (recAddr c) 256

def recSeq (r : List Byte) : Nat := fieldAt r 8 4
def recBodyOff (r : List Byte) : Nat := fieldAt r 0xC 4
def recBodyLen (r : List Byte) : Nat := fieldAt r 0x10 4
def recBodyCrc (r : List Byte) : Nat := fieldAt r 0x14 4
def recArea (r : List Byte) : Nat := fieldAt r 0x18 4
def recFlog (r : List Byte) : Nat := fieldAt r 0x1C 4

/-- The layout checks of R42 on record `c`: body offset and length, sizes, and no overlap within the flash. -/
def layoutOk (size : Nat) (c : Bool) (r : List Byte) : Bool :=
  let area := recArea r
  recBodyOff r = 0x10000 + (if c then area else 0) && recBodyLen r ≤ area && recBodyLen r % 4 = 0 && 16 ≤ recBodyLen r
    && area ≠ 0 && area % 65536 = 0 && recFlog r % 65536 = 0
    && 0x10000 + 2 * area ≤ recFlog r && recFlog r + 65536 ≤ size

/-- WHY code of a record: 0 when it passes the record checks. -/
def recCheck (size : Nat) (c : Bool) (r : List Byte) : Nat :=
  if fieldAt r 0 4 ≠ 0x524C5341 then 1
  else if fieldAt r 5 1 ≠ 1 then 2
  else if fieldAt r 0xF8 4 ≠ crc32 (r.take 0xF8) then 3
  else if fieldAt r 0xFC 4 ≠ 0x5A5AC3C3 then 4
  else if !layoutOk size c r then 5
  else 0

/-- Does the signature of a record verify against a digest (R49)? -/
def sigOk (o : Otp) (r : List Byte) (digest : List Byte) : Bool :=
  bit (fieldAt r 6 2) 0 && Config.ecdsa o.pubKey digest (slice r 0x20 64)

/-! ### Sections (R43) -/

/-- A section of a body: type, flags, payload, and whether its CRC matches. -/
structure Section where
  type  : Nat
  flags : Nat
  data  : List Byte
  crcOk : Bool
deriving DecidableEq, Repr

/-- The sections of a body in order; none where one extends past the body or the END section is missing. -/
def sectionsOf (body : List Byte) : Nat → Option (List Section)
  | 0 => none
  | fuel + 1 =>
    if body.length < 12 then none
    else
      let len := fieldAt body 4 4
      let padded := (len + 3) / 4 * 4
      let s : Section := ⟨fieldAt body 0 2, fieldAt body 2 2, slice body 12 len, fieldAt body 8 4 = crc32 (slice body 12 len)⟩
      if body.length < 12 + padded then none
      else if s.type = 0 then some [s]
      else (sectionsOf (body.drop (12 + padded)) fuel).map (fun l => s :: l)

def bodySections (body : List Byte) : Option (List Section) := sectionsOf body (body.length / 12 + 1)

/-! ### The fault log (R65 to R67) -/

/-- Bytes of slot `i`. -/
def Flash.slot (f : Flash) (base i : Nat) : List Byte := f.read (base + 32 * i) 32

def slotValid (l : List Byte) : Bool := fieldAt l 28 4 = crc32 (l.take 28)
def slotBlank (l : List Byte) : Bool := l.all (· = 0xFF)

def entSeq (l : List Byte) : Nat := fieldAt l 0 4
def entType (l : List Byte) : Nat := fieldAt l 4 2
def entLfc (l : List Byte) : Nat := fieldAt l 6 1
def entDetail (l : List Byte) : Nat := fieldAt l 24 4

/-- Every valid entry with its slot. -/
def Flash.entries (f : Flash) (base : Nat) : List (Nat × List Byte) :=
  ((List.range 2048).map (fun i => (i, f.slot base i))).filter (fun e => slotValid e.2)

/-- Entries in ascending FSEQ order. -/
def bySeq (l : List (Nat × List Byte)) : List (Nat × List Byte) :=
  l.foldl (fun acc e => insertBy (fun a b => newerSeq 32 (entSeq b.2) (entSeq a.2)) e acc) []

/-- The newest entry. -/
def newestEnt (l : List (Nat × List Byte)) : Option (Nat × List Byte) :=
  firstBy (fun a b => newerSeq 32 (entSeq a.2) (entSeq b.2)) l

/-- FTYPE 0x0004 entries in force (R718), ascending. -/
def inForce (l : List (Nat × List Byte)) : List (Nat × List Byte) :=
  let l := (bySeq l).filter (fun e => entType e.2 = 4)
  let retires (e x : Nat × List Byte) : Bool :=
    let k := entDetail e.2
    newerSeq 32 (entSeq x.2) (entSeq e.2) &&
      (if k % 16 = kRow then entDetail x.2 = retireDetail kBank (bitsOf k 10 4)
       else if k % 16 = kPm then entDetail x.2 = retireDetail kCore (bitsOf k 7 4)
       else false)
  l.filter (fun e => !l.any (retires e))

/-- The newest copy of each entry in force. -/
def newestCopies (l : List (Nat × List Byte)) : List (Nat × List Byte) :=
  let f := inForce l
  f.filter (fun e => !f.any (fun x => entDetail x.2 = entDetail e.2 && newerSeq 32 (entSeq x.2) (entSeq e.2)))

/-- Mirror an entry as CFG_FLOG0 and move the others up. -/
def Dev.mirror (d : Dev) (l : List Byte) : Dev :=
  let d := (List.range 120).foldl (fun (d : Dev) k => d.setReg (0x1100 + 4 * (127 - k)) (d.reg (0x1100 + 4 * (119 - k)))) d
  (List.range 8).foldl (fun (d : Dev) i => d.setReg (0x1100 + 4 * i) (BitVec.ofNat 32 (fieldAt l (4 * i) 4))) d

/-- Write an entry into a slot: FSEQ, bytes 4 to 27, and ECRC. -/
def State.putEntry (s : State) (base slot fseq : Nat) (rest : List Byte) : State :=
  let e := leBytes 4 fseq ++ rest
  let e := e ++ leBytes 4 (crc32 e)
  { s with flash := s.flash.prog (base + 32 * slot) e,
           dev := { s.dev with boot := { s.dev.boot with newest := some (BitVec.ofNat 32 fseq, slot) } }.mirror e }

/-- The first blank slot after a slot in its sector. -/
def Flash.nextBlank (f : Flash) (base n : Nat) : Option Nat :=
  ((List.range (127 - n % 128)).map (fun i => n + 1 + i)).find? (fun j => slotBlank (f.slot base j))

/-- Append without entering a new sector; nothing where the sector holds no further blank slot. -/
def State.appendHere (s : State) (base : Nat) (rest : List Byte) : Option State :=
  match s.dev.boot.newest with
  | none => none
  | some (q, n) => (s.flash.nextBlank base n).map (fun j => s.putEntry base j ((q.toNat + 1) % 2 ^ 32) rest)

/-- Enter a sector: it is erased, and takes a copy of every entry in force whose newest copy lies in the sector after it
(R719), then the entry. -/
def State.enterSector (s : State) (base k fseq : Nat) (rest : List Byte) : State :=
  let old := newestCopies (s.flash.entries base)
  let s := { s with flash := s.flash.erase (base + 4096 * k) }
  let copies := (old.filter (fun e => e.1 / 128 = (k + 1) % 16)).map (fun e =>
    (slice e.2 4 2) ++ [BitVec.ofNat 8 (s.dev.g LCK_STAT.COUNT)] ++ (slice e.2 7 21))
  ((copies ++ [rest]).foldl (fun (r : State × Nat × Nat) x => (r.1.putEntry base r.2.1 r.2.2 x, r.2.1 + 1, (r.2.2 + 1) % 2 ^ 32))
    (s, 128 * k, fseq)).1

/-- Bytes 4 to 27 of an entry. -/
def LogEnt.rest (e : LogEnt) : List Byte :=
  leBytes 2 e.ftype.toNat ++ [e.lfc, 0] ++ leBytes 8 e.notice.toNat ++ leBytes 8 e.stamp.toNat ++ leBytes 4 e.detail.toNat

/-- Write an entry into the fault log (R67). -/
def State.append (s : State) (e : LogEnt) : State :=
  match s.dev.boot.logAt with
  | none => s
  | some base =>
    match s.dev.boot.newest with
    | none =>
      let s := if slotBlank (s.flash.read base 4096) then s else { s with flash := s.flash.erase base }
      s.putEntry base 0 1 e.rest
    | some (q, n) =>
      match s.appendHere base e.rest with
      | some s => s
      | none => s.enterSector base ((n / 128 + 1) % 16) ((q.toNat + 1) % 2 ^ 32) e.rest

/-- Write the oldest pending entry. -/
def State.appendPending (s : State) : State :=
  match s.dev.boot.pend with
  | [] => s
  | e :: t => { s with dev := { s.dev with boot := { s.dev.boot with pend := t } } }.append e

/-- Write every pending entry, oldest first. -/
def State.flushPend (s : State) : State := (List.range s.dev.boot.pend.length).foldl (fun (s : State) _ => s.appendPending) s

/-- FAULT_LOG_APPEND: between two flash operations; while a brown-out warning stands nothing is written (R61). -/
def execFaultLogAppend (s : State) : Out :=
  .next (if s.dev.on PWR_STAT.BOW then s else s.appendPending)

/-! ### The image in use, and PM reload (R56, R71, R709) -/

/-- The copy in use; none in DEFAULTS. -/
def State.active (s : State) : Option Bool :=
  if !s.dev.boot.done || s.dev.on CFG_STAT.DEFAULTS then none else some (s.dev.on CFG_STAT.COPY)

/-- The body of a copy. -/
def Flash.body (f : Flash) (c : Bool) : List Byte := f.read (recBodyOff (f.bootRec c)) (recBodyLen (f.bootRec c))

/-- The Chanter program sections that include a core. -/
def programsOf (l : List Section) (c : Nat) : List Section := l.filter (fun s => s.type = 5 && bit (fieldAt s.data 0 2) c)

/-- Load a Chanter program section into a core's PM. -/
def Core.loadProgram (k : Core) (data : List Byte) : Core :=
  let first := fieldAt data 2 2
  (List.range (fieldAt data 4 4)).foldl (fun (k : Core) i =>
    { k with pm := sput 0 (first + i) (BitVec.ofNat 48 (fieldAt data (8 + 8 * i) 6)) k.pm }) k

/-- PM_RELOAD: the march over the row has ended; the sections of the copy in use that include the core are checked and
written, and the core fetches again; where one fails its check the core stays DISABLED. -/
def pmReload (s : State) (c : Nat) : State :=
  let k := s.dev.core c
  if !k.pmBad || s.dev.flt.tests.any (fun t => t.kind.toNat = kPm && t.index.toNat = c) || s.dev.est kCore c = RETIRED then s
  else match s.active with
    | none => s
    | some a =>
      let l := programsOf ((bodySections (s.flash.body a)).getD []) c
      let d := (s.dev.logEntry 6 (s.dev.g LCK_STAT.COUNT) 0 (s.dev.draw 32).toNat).drawn
      if l.any (fun x => !x.crcOk) then
        { s with dev := (d.setCore c { d.core c with pmBad := false }).logicDst kCore c DISABLED |>.s CFG_STAT.PMRLF 1 }
      else
        let k := l.foldl (fun (k : Core) x => k.loadProgram x.data) (d.core c)
        { s with dev := d.setCore c { k with pmBad := false } }

def execPmReload (c : BitVec 4) (s : State) : Out := .next (pmReload s c.toNat)

end Sys2Proof.Machine
end

