-- ==== Sys2Proof/Machine/Update.lean ====
section
/-!
DEFINITION. Updating the image (R56 to R64, R780): the six commands of CFG_UPD_CMD, the flash operations that a command
stands for, and its end.
-/
namespace Sys2Proof.Machine

/-! ### The inactive copy (R56) -/

/-- The copy that an update writes: the one not in use; copy A in DEFAULTS. -/
def State.inactive (s : State) : Bool :=
  match s.active with
  | some c => !c
  | none => false

/-- Size of a body area: the active copy's; in DEFAULTS what lies below the fault log. -/
def State.area (s : State) : Nat :=
  match s.active with
  | some c => recArea (s.flash.bootRec c)
  | none => (s.dev.boot.logAt.getD 0x10000) - 0x10000

/-- Start of the inactive body area. -/
def State.bodyBase (s : State) : Nat := 0x10000 + (if s.inactive then s.area else 0)

/-! ### Ends of commands (R60, R780) -/

/-- A command ends with an error or 0: CFG_UPD_STAT.ERR, and notice CFG_CMDEND with STEP as it stands. -/
def Dev.cmdEnd (d : Dev) (err : Nat) : Dev :=
  let d := (d.s CFG_UPD_STAT.ERR err).s CFG_UPD_STAT.BUSY 0
  d.raise nCFG 1 (err + d.g CFG_UPD_STAT.STEP * 16)

/-- A command is rejected: the update goes on as it was. -/
def State.rejectUpd (s : State) (err : Nat) : State :=
  { s with dev := (s.dev.s CFG_UPD_STAT.ERR err).raise nCFG 1 (err + s.dev.g CFG_UPD_STAT.STEP * 16) }

/-- A command fails: the update ends (R60). -/
def State.failUpd (s : State) (err : Nat) : State := { s with dev := s.dev.updEnd.cmdEnd err }

/-- A command runs: its flash operations, if any, are begun. -/
def State.runUpd (s : State) (u : Update) (cmd : Nat) (ops : List FlashOp) : State :=
  { s with dev := { s.dev with boot := { s.dev.boot with upd := some { u with run := some cmd, ops := ops } } }.s CFG_UPD_STAT.BUSY 1 }

/-! ### Checks (R58, R59) -/

/-- Does a range of internal addresses lie in banks that the agent owns? -/
def Dev.srcOwned (d : Dev) (usb : Bool) (a n : Nat) : Bool :=
  n ≠ 0 && a + n ≤ bankEnd && (List.range (bankOf (a + n - 1) + 1 - bankOf a)).all (fun i =>
    d.g BNK_OWN.OWN (bankOf a + i) = (if usb then oUsb else oHost))

def updAgent (usb : Bool) : Nat := if usb then oUsb else oHost

/-- The checks of R58 on a PROGRAM. -/
def Dev.programOk (d : Dev) (usb : Bool) : Bool :=
  let n := d.g CFG_UPD_LEN
  d.srcOwned usb (d.g CFG_UPD_SRC) n && n % 4 = 0 && 4 ≤ n && n ≤ 65536 && d.g CFG_UPD_OFF + n ≤ d.g CFG_UPD_BLEN

/-- Operations on the inactive body area only (R62). -/
def State.inArea (s : State) (l : List FlashOp) : List FlashOp :=
  l.filter (fun o =>
    let e := match o with
      | .erase a => a + 4096
      | .prog a data => a + data.length
    e ≤ s.bodyBase + s.area)

/-- Error code of a record (R59): 6 LAYOUT, 5 SEQ, 9 SIG, 0 none. -/
def State.recordErr (s : State) (r digest : List Byte) : Nat :=
  let c := s.inactive
  let act := s.active.map (fun a => s.flash.bootRec a)
  let same : Bool := match act with
    | some a => recArea r = recArea a && recFlog r = recFlog a
    | none => true
  let newer : Bool := match act with
    | some a => newerSeq 32 (recSeq r) (recSeq a)
    | none => true
  if fieldAt r 0 4 ≠ 0x524C5341 || fieldAt r 5 1 ≠ 1 || fieldAt r 0xF8 4 ≠ crc32 (r.take 0xF8) || fieldAt r 0xFC 4 ≠ 0xFFFFFFFF
      || recBodyLen r ≠ s.dev.g CFG_UPD_BLEN || recBodyCrc r ≠ s.dev.g CFG_UPD_CRC || !same || !layoutOk s.flash.size c r then 6
  else if !newer then 5
  else if s.otp.sigReq && !sigOk s.otp r digest then 9
  else 0

/-! ### The commands (R57) -/

/-- START: the record sector, then the body sectors that cover CFG_UPD_BLEN bytes. -/
def State.updStart (s : State) (usb : Bool) : State :=
  let d := s.dev.s CFG_UPD_STAT.AGENT (b2n usb)
  let s1 : State := { s with dev := d.s CFG_UPD_STAT.STEP 0 }
  if !s.flash.writable then s1.failUpd 7
  else if d.on PWR_STAT.BOW then s1.failUpd 2
  else
    let n := (d.g CFG_UPD_BLEN + 4095) / 4096
    let ops : List FlashOp := FlashOp.erase (recAddr s.inactive) ::
      s.inArea ((List.range (min n (s.area / 4096))).map (fun i => FlashOp.erase (s.bodyBase + 4096 * i)))
    let u : Update := ⟨usb, 0, none, [], false, [], []⟩
    ({ s1 with dev := s1.dev.s CFG_UPD_STAT.ERR 0 }).runUpd u 1 ops

def State.updProgram (s : State) (u : Update) : State :=
  let d := s.dev
  if !d.programOk u.usb then s.rejectUpd 3
  else if d.on PWR_STAT.BOW then s.failUpd 2
  else
    let r := d.bnkRead (updAgent u.usb) (d.g CFG_UPD_SRC) (d.g CFG_UPD_LEN)
    let ps := pieces 256 (s.bodyBase + d.g CFG_UPD_OFF) r.data (r.data.length + 1)
    ({ s with dev := r.dev }).runUpd u 2 (s.inArea (ps.map (fun (p : Nat × List Byte) => FlashOp.prog p.1 p.2)))

def State.updRecord (s : State) (u : Update) : State :=
  let d := s.dev
  if !d.srcOwned u.usb (d.g CFG_UPD_SRC) 256 then s.rejectUpd 3
  else
    let r := d.bnkRead (updAgent u.usb) (d.g CFG_UPD_SRC) 256
    let s := { s with dev := r.dev }
    let e := s.recordErr r.data u.digest
    if e ≠ 0 then s.rejectUpd e
    else if d.on PWR_STAT.BOW then s.failUpd 2
    else s.runUpd { u with record := r.data } 4 [FlashOp.prog (recAddr s.inactive) (r.data.take 252)]

/-- One command of the agent that holds the update, or of any agent while none is held. -/
def State.updOwn (s : State) (usb : Bool) (cmd : Nat) : State :=
  match s.dev.boot.upd with
  | none =>
    if cmd = 1 then s.updStart usb
    else if cmd = 6 then { s with dev := s.dev.cmdEnd 0 }
    else s.rejectUpd 1
  | some u =>
    if cmd = 6 then s.failUpd 0
    else if u.run.isSome then s.rejectUpd 1
    else match cmd, u.last with
      | 2, 1 => s.updProgram u
      | 2, 2 => s.updProgram u
      | 3, 2 => s.runUpd u 3 []
      | 4, 3 => s.updRecord u
      | 5, 4 =>
        if s.dev.on PWR_STAT.BOW then s.failUpd 2
        else s.runUpd u 5 [FlashOp.prog (recAddr s.inactive + 0xFC) (leBytes 4 0x5A5AC3C3)]
      | _, _ => s.rejectUpd 1

/-- A write of CFG_UPD_CMD: a command of the agent that does not hold the update is refused (R60); before step 7 there is
no copy to update. -/
def State.updCmd (s : State) (usb : Bool) (cmd : Nat) : State :=
  if cmd = 0 || 6 < cmd || !s.dev.running then s
  else match s.dev.boot.upd with
    | some u => if u.usb ≠ usb then { s with dev := s.dev.s CFG_UPD_STAT.XERR 8 } else s.updOwn usb cmd
    | none => s.updOwn usb cmd

/-! ### CFG_CMDEND -/

/-- The command completes without error: the step it reached, and what is kept for the next command. -/
def State.updDone (s : State) (u : Update) (cmd : Nat) : State :=
  let keep (u : Update) (step : Nat) : State :=
    { s with dev := ({ s.dev with boot := { s.dev.boot with upd := some { u with run := none, ops := [], last := cmd } } }.s
      CFG_UPD_STAT.STEP step).cmdEnd 0 }
  match cmd with
  | 1 => keep u 2
  | 2 => keep u 3
  | 3 =>
    let body := s.flash.read s.bodyBase (s.dev.g CFG_UPD_BLEN)
    if crc32 body ≠ s.dev.g CFG_UPD_CRC then s.failUpd 4 else keep { u with digest := Config.sha256 body } 4
  | 4 => keep u 5
  | _ =>
    let d := ((s.dev.updEnd.s CFG_UPD_STAT.STEP 6).cmdEnd 0).logEntry 5 (s.dev.g LCK_STAT.COUNT) 0 (recSeq u.record)
    { s with dev := d }

/-- CFG_CMDEND: the operations of the running command are performed and it ends. The flash reports a failure after
`opsDone` of them; a brown-out warning lets those already started run to their end (R61). -/
def cmdEnd (s : State) (opsDone : Nat) (flashFail : Bool) : State :=
  match s.dev.boot.upd with
  | none => s
  | some u =>
    match u.run with
    | none => s
    | some cmd =>
      let cut : Bool := flashFail || (s.dev.on PWR_STAT.BOW && opsDone < u.ops.length)
      let ops := if cut then u.ops.take opsDone else u.ops
      let s := { s with flash := ops.foldl (fun (f : Flash) o => f.apply o) s.flash }
      if cut then
        let s := if cmd = 1 && opsDone ≠ 0 then { s with dev := s.dev.s CFG_UPD_STAT.STEP 1 } else s
        s.failUpd (if flashFail then 7 else 2)
      else s.updDone u cmd

def execCfgCmdend (opsDone : Nat) (flashFail : Bool) (s : State) : Out := .next (cmdEnd s opsDone flashFail)

/-- The first operations of a running command have been performed when the supply collapses (R64). -/
def State.opsPerformed (s : State) (opsDone : Nat) : State :=
  match s.dev.boot.upd with
  | some u => if u.run.isSome then { s with flash := (u.ops.take opsDone).foldl (fun (f : Flash) o => f.apply o) s.flash } else s
  | none => s

end Sys2Proof.Machine
end

