-- ==== Sys2Proof/Machine/Lock.lean ====
section
/-!
DEFINITION. The field lock (chapter 19): lock messages and their answers, attempts, delay and blocking, relocking, the OTP
commands, and the service functions of LCK_SVC. Which carrier brings a message is in Machine/Access.lean.
-/
namespace Sys2Proof.Machine

def lkOK : Byte := 0
def lkWRONG : Byte := 1
def lkWAIT : Byte := 2
def lkBLOCKED : Byte := 3
def lkMETHOD : Byte := 4
def lkNOCHAL : Byte := 5
def lkFORMAT : Byte := 6
def lkNOLOG : Byte := 7

/-- A carrier's code in DETAIL (R756). -/
def carNum : Carrier → Nat
  | .uart1 => 0
  | .hostPort => 1
  | .usbCmd => 2

/-- Delay left in milliseconds, a part counting as one. -/
def Dev.lockWait (d : Dev) : Nat := (d.lck.wait + 99999) / 100000

/-- The retry delay after a failure that leaves count n, in periods of 10 ns (R758). -/
def retryDelay (n : Nat) : Nat := if n = 0 then 0 else min (10000000 * 2 ^ (n - 1)) 10000000000

/-- The serial number as LCK_SERIAL holds it. -/
def Dev.serialBytes (d : Dev) : List Byte := leBytes 4 (d.g LCK_SERIAL_L) ++ leBytes 4 (d.g LCK_SERIAL_H)

/-- A response (R751). -/
def lockReply (op st : Byte) (body : List Byte) : List Byte := [op, st, 0, 0] ++ body

/-- The body of GETSTATE's answer; before step 7 the count reads 0 (R769). -/
def Dev.getState (d : Dev) : List Byte :=
  [BitVec.ofNat 8 (d.g LCK_STAT.STATE), BitVec.ofNat 8 (d.g LCK_STAT.SCOPES),
   BitVec.ofNat 8 (if d.boot.done then d.g LCK_STAT.COUNT else 0), BitVec.ofNat 8 (d.g LCK_STAT.BLOCKED)]
   ++ leBytes 4 d.lockWait ++ d.serialBytes

/-! ### Relocking (R763) -/

/-- Close every open scope; in OPEN none can be closed (R745, R755). -/
def Dev.relock (d : Dev) : Dev :=
  if d.lck.state = 0 || d.g LCK_STAT.SCOPES = 0 then d
  else
    let d := (d.s LCK_STAT.SCOPES 0).raise nLCK 4 0
    if d.mode = mSERVICE then d.setMode d.settingsMode else d

/-! ### Attempts (R752 to R757) -/

/-- A fault-log entry of the lock agent. -/
def Dev.lockEntry (d : Dev) (ftype lfc detail : Nat) : LogEnt :=
  ⟨BitVec.ofNat 16 ftype, BitVec.ofNat 8 lfc, 0, d.brt.pos, BitVec.ofNat 32 detail⟩

/-- Can no entry be written (R757)? -/
def Dev.noLog (d : Dev) : Bool := d.on CFG_STAT.FLOGNA || d.on PWR_STAT.BOW || 8 ≤ d.boot.pend.length

/-- A match: FTYPE 3 with LFC 0, count 0, the scopes open. -/
def lockMatch (s : State) (scope detail : Nat) : State :=
  let s := s.append (s.dev.lockEntry 3 0 detail)
  let d := (s.dev.s LCK_STAT.COUNT 0).s LCK_STAT.SCOPES (s.dev.g LCK_STAT.SCOPES ||| scope % 8)
  { s with dev := d.raise nLCK 1 0 }

/-- A mismatch: the count, the delay, and at 16 the block. -/
def Dev.lockMiss (d : Dev) (n : Nat) : Dev :=
  let d := { d.s LCK_STAT.COUNT n with lck := { d.lck with wait := retryDelay n } }.raise nLCK 2 0
  if n = 16 then (d.s LCK_STAT.BLOCKED 1).raise nLCK 3 0 else d

/-- Judge an attempt in the order of R756: the failure is on flash before the verdict is known. -/
def judgeAttempt (s : State) (method carrier scope : Nat) (good : Bool) : State × Byte :=
  let detail := method + 4 * carrier + 16 * (scope % 8)
  let n := min 16 (s.dev.g LCK_STAT.COUNT + 1)
  let s := s.flushPend
  let s := s.append (s.dev.lockEntry 2 n detail)
  if good then (lockMatch s scope detail, lkOK) else ({ s with dev := s.dev.lockMiss n }, lkWRONG)

/-- The answer to an attempt that is refused before it is judged: BLOCKED, WAIT or NOLOG. -/
def Dev.attemptRefused (d : Dev) (op : Byte) : Option (Dev × List Byte) :=
  if d.on LCK_STAT.BLOCKED then some (d, lockReply op lkBLOCKED [])
  else if d.lck.wait ≠ 0 then some (d, lockReply op lkWAIT (leBytes 4 d.lockWait))
  else none

/-- RESPOND (R752, R753): judged against the valid nonce of its own carrier, which it uses up. -/
def lockRespond (s : State) (k : Carrier) (body : List Byte) : State × List Byte :=
  match s.dev.attemptRefused 3 with
  | some r => ({ s with dev := r.1 }, r.2)
  | none =>
    match s.dev.lck.nonce with
    | none => (s, lockReply 3 lkNOCHAL [])
    | some n =>
      if n.car ≠ k then (s, lockReply 3 lkNOCHAL [])
      else if s.dev.noLog then ({ s with dev := s.dev.s LCK_STAT.BLOCKED 1 }, lockReply 3 lkNOLOG [])
      else
        let s := { s with dev := { s.dev with lck := { s.dev.lck with nonce := none } } }
        let want := (Config.hmac (s.otp.key.getD []) (n.bytes ++ s.dev.serialBytes ++ [n.scope])).take 16
        let r := judgeAttempt s 2 (carNum k) n.scope.toNat (body = want)
        (r.1, lockReply 3 r.2 [])

/-- PASSWORD (R754). -/
def lockPassword (s : State) (k : Carrier) (scope : Byte) (body : List Byte) : State × List Byte :=
  match s.dev.attemptRefused 4 with
  | some r => ({ s with dev := r.1 }, r.2)
  | none =>
    if s.dev.noLog then ({ s with dev := s.dev.s LCK_STAT.BLOCKED 1 }, lockReply 4 lkNOLOG [])
    else
      let r := judgeAttempt s 1 (carNum k) scope.toNat (some (Config.sha256 (s.otp.salt.getD [] ++ body)) = s.otp.pwHash)
      (r.1, lockReply 4 r.2 [])

/-- CHALLENGE in LOCKED-CR: a fresh nonce, bound to carrier and scope, that ends every other (R752, R766). -/
def Dev.lockChallenge (d : Dev) (k : Carrier) (scope : Byte) : Dev × List Byte :=
  let n := leBytes 16 (d.draw 128).toNat
  ({ d.drawn with lck := { d.lck with nonce := some ⟨n, k, scope⟩ } }, lockReply 2 lkOK n)

/-! ### Messages (R751, R755, R762, R769) -/

/-- Bytes that a request of an OP needs. -/
def lockNeeds (op : Byte) : Nat := if op = 3 || op = 4 then 18 else 2

/-- Is a request malformed: length, OP or SCOPE? -/
def lockBad (msg : List Byte) : Bool :=
  let op := msg.getD 0 0
  let scope := msg.getD 1 0
  msg.length < 2 || 64 < msg.length || op = 0 || 5 < op.toNat || msg.length < lockNeeds op || 7 < scope.toNat

/-- A lock message from a carrier: the state it leaves and its response. -/
def State.lockMsg (s : State) (k : Carrier) (msg : List Byte) : State × List Byte :=
  let op := msg.getD 0 0
  let scope := msg.getD 1 0
  let body := slice msg 2 16
  let st := s.dev.lck.state
  if lockBad msg then (s, lockReply op lkFORMAT [])
  else if op = 1 then (s, lockReply op lkOK s.dev.getState)
  else if !s.dev.boot.done then (s, lockReply op lkWAIT (leBytes 4 0))
  else if op = 5 then ({ s with dev := s.dev.relock }, lockReply op lkOK [])
  else if op = 2 then
    (if st = 2 then
      let r := s.dev.lockChallenge k scope
      ({ s with dev := r.1 }, r.2)
     else (s, lockReply op lkMETHOD []))
  else if op = 3 then (if st = 2 then lockRespond s k body else (s, lockReply op lkMETHOD []))
  else (if st = 1 then lockPassword s k scope body else (s, lockReply op lkMETHOD []))

/-- Is the device up, so that the agent answers? -/
def Dev.lockUp (d : Dev) : Bool := d.mode ≠ mRESET

/-- A message that stands for its row: its answer is kept for the carrier that brought it. -/
def lockRow (k : Carrier) (msg : List Byte) (s : State) : State :=
  if !s.dev.lockUp then s
  else
    let r := s.lockMsg k msg
    { r.1 with dev := { r.1.dev with lck := { r.1.dev.lck with reply := r.2 } } }

def execGetstate (k : Carrier) (s : State) : Out := .next (lockRow k [1, 0] s)
def execChallenge (k : Carrier) (scope : Byte) (s : State) : Out := .next (lockRow k [2, scope] s)
def execRespond (k : Carrier) (body : List Byte) (s : State) : Out := .next (lockRow k ([3, 0] ++ body) s)
def execPassword (k : Carrier) (scope : Byte) (body : List Byte) (s : State) : Out := .next (lockRow k ([4, scope] ++ body) s)
def execRelock (k : Carrier) (s : State) : Out := .next (lockRow k [5, 0] s)

/-- NONCE_EXPIRY: a nonce ends 60 s after its challenge. -/
def execNonceExpiry (s : State) : Out := onDev (fun d => { d with lck := { d.lck with nonce := none } }) s

/-! ### The host port's carrier (R761) -/

/-- LCK_BUF as bytes. -/
def Dev.lockBuf (d : Dev) : List Byte := (List.range 16).flatMap (fun i => leBytes 4 (d.g LCK_BUF i))

def Dev.putLockBuf (d : Dev) (l : List Byte) : Dev :=
  (List.range 16).foldl (fun (d : Dev) i =>
    if 4 * i < l.length then
      d.s LCK_BUF (leNat (overlay (leBytes 4 (d.g LCK_BUF i)) 0 ((l.drop (4 * i)).take 4))) i
    else d) d

/-- A write of LCK_HCMD with GO: the first LEN bytes of LCK_BUF are the request, and its response replaces them. -/
def lockHost (s : State) : State :=
  let r := s.lockMsg .hostPort (s.dev.lockBuf.take (s.dev.g LCK_HCMD.LEN))
  let r := if 64 < s.dev.g LCK_HCMD.LEN then (s, lockReply (s.dev.lockBuf.getD 0 0) lkFORMAT []) else r
  { r.1 with dev := ((r.1.dev.putLockBuf r.2).s LCK_HSTAT.RLEN r.2.length).s LCK_HSTAT.DONE 1 }

/-! ### OTP commands (R750) -/

/-- May LCK_OTPCMD act: OPEN, or scope TEST open in LOCKED-PW or LOCKED-CR? -/
def Dev.otpOpen (d : Dev) : Bool :=
  d.lck.state = 0 || (d.lck.state ≠ 3 && bit (d.g LCK_STAT.SCOPES) 2)

/-- Error code of a command, and OTP after it. -/
def otpAct (o : Otp) (buf : List Byte) (cmd : Nat) : Nat × Otp :=
  match cmd with
  | 1 => if o.pwHash.isSome then (1, o) else (0, { o with salt := some (slice buf 0 16), pwHash := some (slice buf 16 32) })
  | 2 => if o.key.isSome then (1, o) else (0, { o with key := some (slice buf 0 32) })
  | 3 => if o.lock ≠ 0 then (2, o) else if o.pwHash.isNone then (3, o) else (0, { o with lock := 1 })
  | 4 => if 2 ≤ o.lock.toNat then (2, o) else if o.key.isNone then (3, o) else (0, { o with lock := 2 })
  | _ => if buf.take 4 ≠ [0x5E, 0xA1, 0xED, 0x00] then (4, o) else (0, { o with lock := 3 })

/-- A write of LCK_OTPCMD. -/
def otpCommand (s : State) (cmd : Nat) : State :=
  if cmd = 0 || 5 < cmd then s
  else if !s.dev.otpOpen then { s with dev := s.dev.s LCK_OTPRES.ERR 5 }
  else
    let r := otpAct s.otp s.dev.lockBuf cmd
    { s with otp := r.2, dev := s.dev.s LCK_OTPRES.ERR r.1 }

/-! ### Service functions (R749) -/

/-- LCK_SVC.TEST: the targeted self-test of UNIT; of a row kind, a row of the unit that the write does not name. -/
def Dev.serviceTest (d : Dev) : Dev :=
  let kind := bitsOf (d.g LCK_SVC.UNIT) 11 8
  let i := bitsOf (d.g LCK_SVC.UNIT) 7 0
  let row := if isRowKind kind then (d.draw 12).toNat else 0
  let t := Test.of kind i row
  let d := (d.drawn.s LCK_SVC.DONE 0).startTest kind i row
  if d.flt.tests.contains t || d.flt.waiting.contains t then { d with lck := { d.lck with svc := some t } }
  else d.s LCK_SVC.DONE 1

/-- LCK_SVC.FLOGRD: a fault-log sector into a bank that the host port owns. -/
def flogRead (s : State) : State :=
  match s.dev.boot.logAt with
  | none => { s with dev := s.dev.s LCK_SVC.DONE 1 }
  | some base =>
    let a := (s.dev.reg LCK_SVCADDR.base).toNat
    let data := s.flash.read (base + 4096 * s.dev.g LCK_SVC.SECT) 4096
    let d := if s.dev.srcOwned false a 4096 then (s.dev.bnkWrite oHost a data).dev else s.dev
    { s with dev := d.s LCK_SVC.DONE 1 }

/-- A write of LCK_SVC: SECT and UNIT, DONE cleared by a 1, and in SERVICE the two functions. -/
def lockService (s : State) (v : Word) : State :=
  let s := { s with dev := s.dev.plainWrite 0x22024 v }
  if s.dev.mode ≠ mSERVICE then s
  else
    let s := if bit v.toNat 0 then { s with dev := s.dev.serviceTest } else s
    if bit v.toNat 1 then flogRead s else s

/-! ### LCK registers -/

/-- A write of a register of LCK. -/
def lockWrite (s : State) (off : Nat) (v : Word) : State :=
  let d := s.dev.plainWrite off v
  match off with
  | 0x22004 => if bit v.toNat 0 then { s with dev := s.dev.relock } else s
  | 0x22014 => if bit v.toNat 31 && s.dev.lockUp then lockHost { s with dev := d } else { s with dev := d }
  | 0x2201C => otpCommand s (v.toNat % 8)
  | 0x22024 => lockService s v
  | _ => { s with dev := d }

end Sys2Proof.Machine
end

