-- ==== Sys2Proof/Machine/Boot.lean ====
section
/-!
DEFINITION. Start-up (chapters 02, 20): resets, steps 1 to 7, the choice of a copy, its sections, the fault-log scan and
restore (R66, R720 to R722, R760), the factory defaults (R54), and the restarts: RELOAD (R72), the watchdog's bite (R662)
and a wake that finds a context error (R705).
-/
namespace Sys2Proof.Machine

/-! ### Resets (R26, R72, R662, R714, R750, R759, R791) -/

/-- The device after RESET_N falls: every island at its reset values but what only a power-on clears. -/
def Dev.resetN (d : Dev) : Dev :=
  let e : Dev := { Dev.reset with free := d.free, lck := { Dev.reset.lck with state := d.lck.state, otpBad := d.lck.otpBad } }
  let e := (e.s LCK_STAT.STATE d.lck.state.toNat).s LCK_STAT.SCOPES (if d.lck.state = 0 then 7 else 0)
  e.s LCK_STAT.BLOCKED (d.g LCK_STAT.BLOCKED)

/-- Registers that lie in the AON island (R23): WDT_CTL, WDT_STAT, HRP_WAKE, FLT_THR and the PWR and LCK blocks. -/
def aonReg (off : Nat) : Bool :=
  off = 0x1F200 || off = 0x1F20C || off = 0x1F850 || (0x20040 ≤ off && off ≤ 0x20060) || (0x21000 ≤ off && off < 0x23000)

/-- The device at step 1 of a restart: AON keeps its contents (R72), and for the field lock it is a reset (R662, R763). -/
def Dev.restarted (d : Dev) : Dev :=
  let e : Dev := { Dev.reset with
    regs := d.regs.filter (fun e => aonReg e.1)
    free := d.free
    hrp := { Dev.reset.hrp with dwakePrep := d.hrp.dwakePrep }
    tim := { Dev.reset.tim with wdtRst := d.tim.wdtRst }
    flt := { Dev.reset.flt with scores := d.flt.scores }
    boot := { Dev.reset.boot with pend := d.boot.pend, ctxErr := d.boot.ctxErr }
    lck := { d.lck with nonce := none, svc := none } }
  (e.s PWR_STAT.BUSY 0).s LCK_STAT.SCOPES (if d.lck.state = 0 then 7 else 0)

/-! ### Step 1 (R27, R448, R562, R768) -/

/-- What the OTP read gives: the lock state, the serial number, SIGREQ, the grade, the USB identifiers and the port
addresses; every core powered and held stopped (R298). -/
def Dev.step1 (d : Dev) (o : Otp) : Dev :=
  let d := (d.s LCK_STAT.STATE d.lck.state.toNat).s LCK_STAT.SCOPES (if d.lck.state = 0 then 7 else 0)
  let d := (d.s LCK_SERIAL_L o.serial.toNat).s LCK_SERIAL_H (o.serial.toNat / 2 ^ 32)
  let d := (d.s CFG_STAT.SIGREQ (b2n o.sigReq)).s SYS_ID.TGRADE (b2n o.tgrade)
  let d := (d.s USB_ID.VID o.vid.toNat).s USB_ID.PID o.pid.toNat
  let sn := o.serial.toNat % 2 ^ 32
  let d := (List.range 4).foldl (fun (d : Dev) n =>
    let a := [0x02] ++ beBytes 4 sn ++ [BitVec.ofNat 8 n]
    (d.s MAC_ADDR_L (fieldAt a 0 4) n).s MAC_ADDR_H (fieldAt a 4 2) n) d
  { d with chn := d.chn.map (fun (k : Core) => { k with pwr := true }) }.s SYS_MODE.MODE mBOOT

/-! ### Step 2: SFDP discovery (R34 to R39, R65) -/

def Dev.step2 (d : Dev) (f : Flash) : Dev :=
  match f.kind with
  | .absent => (d.s CFG_STAT.NOFLASH 1).s CFG_STAT.FLOGNA 1
  | .noSfdp => (d.s CFG_STAT.NOSFDP 1).s CFG_STAT.FLOGNA 1
  | .sfdp size q => ((d.s CFG_FLSIZE size).s CFG_STAT.ADDR32 (b2n (0x1000000 < size))).s CFG_STAT.Q144 (b2n q)

/-! ### Section payloads (R44, R45) -/

def sectionKnown (t : Nat) : Bool := 1 ≤ t && t ≤ 10

/-- Does a bank fill's range lie in the banks, or in one core's X or Y memory? -/
def fillOk (a n : Nat) : Bool :=
  n = 0 || a + n ≤ bankEnd || (match chnLocate a with
    | some (_, .pm, _) => false
    | some (_, _, o) => o + n ≤ 0x10000
    | none => false)

/-- Does a known section's payload fit its type? -/
def sectionFits (t : Nat) (p : List Byte) : Bool :=
  let n := p.length
  match t with
  | 2 => 4 ≤ n && fieldAt p 0 2 + fieldAt p 2 2 ≤ 64 && n = 4 + 32 * fieldAt p 2 2
  | 3 => 4 ≤ n && fieldAt p 0 2 + fieldAt p 2 2 ≤ 1024 && n = 4 + 512 * fieldAt p 2 2
  | 4 => 4 ≤ n && fillOk (fieldAt p 0 4) (n - 4)
  | 5 => 8 ≤ n && fieldAt p 2 2 + fieldAt p 4 4 ≤ 16384 && n = 8 + 8 * fieldAt p 4 4
  | 6 => n = 288
  | 8 => 4 ≤ n && n = 4 + 80 * fieldAt p 0 2
  | _ => n % 8 = 0

/-- Does a section pass its checks? -/
def Section.ok (x : Section) : Bool :=
  x.crcOk && (x.type = 0 || (if sectionKnown x.type then sectionFits x.type x.data else !bit x.flags 0))

/-- Do the sections of a body pass? -/
def sectionsPass (l : Option (List Section)) : Bool :=
  match l with
  | some l => l.all (fun (x : Section) => x.ok)
  | none => false

/-- WHY code of a body: the first failing check in the order of the codes. -/
def bodyWhy (o : Otp) (r body : List Byte) : Nat :=
  if crc32 body ≠ recBodyCrc r then 6
  else if o.sigReq && !sigOk o r (Config.sha256 body) then 7
  else if !sectionsPass (bodySections body) then 8
  else 0

/-! ### Applying sections (R44, R46 to R48, R206, R406, R494, R531, R665, R721) -/

/-- What the sections leave: the device, the patches loaded, the cores that a program section loaded. -/
structure Load where
  dev   : Dev
  pats  : List Nat
  cores : Nat

/-- Bytes written into banks: those that fall in a retired bank are not written, and the section is counted (R721). -/
def Dev.fillBank (d : Dev) (a : Nat) (data : List Byte) : Dev :=
  let put := ((List.range data.length).zip data).filter (fun e => d.est kBank (bankOf (a + e.1)) ≠ RETIRED)
  let d' := put.foldl (fun (d : Dev) e => { d with bnk := { d.bnk with mem := sput 0 (a + e.1) e.2 d.bnk.mem } }) d
  if put.length < data.length then d'.cnt FLT_FILLSKIP else d'

/-- A bank fill section. -/
def Dev.fill (d : Dev) (a : Nat) (data : List Byte) : Dev :=
  if data.isEmpty then d
  else if a < bankEnd then d.fillBank a data
  else match chnLocate a with
    | some (c, m, o) => d.setCore c ((d.core c).outBytes (agNum .image) m o data)
    | none => d

/-- Pairs of eight bytes. -/
def pairs8 (p : List Byte) : List (Nat × Nat) := (List.range (p.length / 8)).map (fun i => (fieldAt p (8 * i) 4, fieldAt p (8 * i + 4) 4))

/-- A load-list entry (R47). -/
def Dev.loadReg (d : Dev) (wrap : List Byte) (a v : Nat) : Dev :=
  if loadable a then d.regWrite wrap .image (a - 0x40000000) (BitVec.ofNat 32 v) else d.cnt CFG_SKIP.REG

/-- An entry of a section with 16-bit offsets from a block's base. -/
def Dev.loadOff (d : Dev) (wrap : List Byte) (base last : Nat) (off v : Nat) : Dev :=
  let o := off % 65536
  if o ≤ last then d.regWrite wrap .image (base + o) (BitVec.ofNat 32 v) else d.cnt CFG_SKIP.REG

/-- A register without a writable bit (R665). -/
def readOnly (off : Nat) : Bool :=
  match rowOf off with
  | some r => r.rw = 0 && r.w1c = 0 && r.w1s = 0 && r.wo = 0
  | none => false

/-- Consecutive register words of a section. -/
def Dev.loadWords (d : Dev) (wrap : List Byte) (off n : Nat) (p : List Byte) : Dev :=
  (List.range n).foldl (fun (d : Dev) i => d.regWrite wrap .image (off + 4 * i) (BitVec.ofNat 32 (fieldAt p (4 * i) 4))) d

/-- A Chanter program section on every core of its mask; none of a retired core's is lost for it stays gated. -/
def Dev.loadPrograms (d : Dev) (p : List Byte) : Dev :=
  (List.range 16).foldl (fun (d : Dev) c =>
    if bit (fieldAt p 0 2) c then d.setCore c ((d.core c).loadProgram p) else d) d

/-- Apply one section. -/
def Load.apply (wrap : List Byte) (l : Load) (x : Section) : Load :=
  let p := x.data
  let d := l.dev
  match x.type with
  | 0 => l
  | 1 => { l with dev := (pairs8 p).foldl (fun (d : Dev) e => d.loadReg wrap e.1 e.2) d }
  | 2 => { l with dev := d.loadWords wrap (0x4400 + 32 * fieldAt p 0 2) (8 * fieldAt p 2 2) (p.drop 4) }
  | 3 =>
    let first := fieldAt p 0 2
    { l with dev := d.fillBank (d.patchAddr first) (p.drop 4), pats := l.pats ++ (List.range (fieldAt p 2 2)).map (· + first) }
  | 4 => { l with dev := d.fill (fieldAt p 0 4) (p.drop 4) }
  | 5 => { l with dev := d.loadPrograms p, cores := l.cores ||| (if fieldAt p 4 4 = 0 then 0 else fieldAt p 0 2) }
  | 6 => { l with dev := (d.loadWords wrap 0x4000 8 p).loadWords wrap 0x4100 64 (p.drop 32) }
  | 7 => { l with dev := (pairs8 p).foldl (fun (d : Dev) e => d.loadOff wrap 0x18000 0xFFF e.1 e.2) d }
  | 8 => { l with dev := (List.range (fieldAt p 0 2)).foldl (fun (d : Dev) i => (d.loadWrapped wrap (slice p (4 + 80 * i) 80)).1) d }
  | 9 => { l with dev := (pairs8 p).foldl (fun (d : Dev) e =>
      if readOnly (0x1F000 + e.1 % 65536) then d.cnt CFG_SKIP.REG else d.loadOff wrap 0x1F000 0x7FF e.1 e.2) d }
  | 10 => { l with dev := (pairs8 p).foldl (fun (d : Dev) e => d.loadOff wrap 0x1C000 0x1FFF e.1 e.2) d }
  | _ => { l with dev := d.cnt CFG_SKIP.SECT }

/-- SYS_BLK and BRT_CTL.FS are in force before anything that depends on them (R77, R776, R777). -/
def Dev.applyRates (d : Dev) (wrap : List Byte) (l : List Section) : Dev :=
  ((l.filter (fun (x : Section) => x.type = 1)).flatMap (fun x => pairs8 x.data)).foldl (fun (d : Dev) e =>
    if e.1 = 0x40000008 || e.1 = 0x40002000 then d.loadReg wrap e.1 e.2 else d) d

/-! ### The fault log at start-up (R65, R66, R720, R722, R760) -/

/-- Apply a retirement entry: kinds 1 and 8 map a row to its spare, every other kind retires the unit. -/
def Dev.restore (d : Dev) (k : Nat) : Dev :=
  let kind := k % 16
  let i := bitsOf k 11 4
  let d := d.cnt FLT_RESTORE
  if kind = kRow then
    let e := (bitsOf k 10 4, bitsOf k 22 11, bitsOf k 26 23)
    let d := if d.bnk.remaps.contains e then d else { d with bnk := { d.bnk with remaps := d.bnk.remaps ++ [e] } }
    d.s BNK_HEALTH.SPUSED (((List.range 8).filter (fun n => d.bnk.remaps.any (fun r => r.1 = e.1 && r.2.2 = n))).length) e.1
  else if kind = kPm then
    let e := (bitsOf k 7 4, bitsOf k 18 8, bitsOf k 19 19)
    let d := if d.flt.pmRows.contains e then d else { d with flt := { d.flt with pmRows := d.flt.pmRows ++ [e] } }
    d.showSpares e.1
  else if kind = kMon then d.s BEL_OSTATE.MONRET 1 i
  else if unitCount kind ≤ i then d
  else (d.putDst kind i RETIRED).putMst kind i RETIRED

/-- Where the fault log of the copy in use lies; none without one (R65). -/
def logPlace (s : State) (r : Option (List Byte)) : Option Nat :=
  match s.flash.kind with
  | .sfdp size _ => match r with
    | some r => some (recFlog r)
    | none => if size < 0x10000 then none else some (size - 0x10000)
  | _ => none

/-- Open the fault log: the newest entry, the lock failure count, the mirror, the retirements; and the internal table rows
whose march fails. -/
def Dev.openLog (d : Dev) (f : Flash) (base : Option Nat) (rowFails : List (BitVec 4 × Nat)) : Dev :=
  let d := match base with
    | some b =>
      let l := f.entries b
      let d := (match newestEnt l with
        | some e => { (d.s LCK_STAT.COUNT (min 16 (entLfc e.2))) with
            boot := { d.boot with logAt := some b, newest := some (BitVec.ofNat 32 (entSeq e.2), e.1) } }
        | none => { (d.s LCK_STAT.COUNT 0) with boot := { d.boot with logAt := some b } })
      let o := bySeq l
      let d := (o.drop (o.length - 16)).foldl (fun (d : Dev) e => d.mirror e.2) d
      (o.filter (fun e => entType e.2 = 4)).foldl (fun (d : Dev) e => d.restore (entDetail e.2)) d
    | none => (d.s CFG_STAT.FLOGNA 1).s LCK_STAT.COUNT 16
  rowFails.foldl (fun (d : Dev) e => d.retireTable e.1.toNat e.2) d

/-! ### Step 7 (R27, R117, R188, R298, R721, R777) -/

/-- The judgements that depend on SYS_BLK (R777). -/
def Dev.judgeBlk (d : Dev) : Dev :=
  let d := if d.g BEL_PLAT < 3 * d.blk then (d.s BEL_PLAT (3 * d.blk)).s BEL_STAT.PLATADJ 1 else d
  let d := (List.range 16).foldl (fun (d : Dev) c =>
    let l := d.linkWords c
    d.sIf (linkEn l && (linkDepth l + 1) * d.blk + 63 < d.g BEL_PLAT) BEL_STAT.DEPTHERR 1) d
  (List.range 64).foldl (fun (d : Dev) x =>
    if d.on BLW_STR.EN x && !strBounds d.blk (d.reg (BLW_STR.EN.off x)).toNat (d.g BLW_STR_LAT.LAT x) then
      (d.s BLW_STR.EN 0 x).s BLW_SECSTAT.STRERR 1
    else d) d

/-- Cores that a program section loaded start at PC 0 in ENABLED, unless retired; the others are gated. -/
def Dev.startCores (d : Dev) (mask : Nat) : Dev :=
  (List.range 16).foldl (fun (d : Dev) c =>
    let k := d.core c
    let dead : Bool := k.mst = 3 || k.dst = 3
    if bit mask c && !dead then
      d.setCore c ({ k with pwr := true, mst := 0, dst := 0, restart := false, pc := 0, run := false } : Core).sync
    else
      d.setCore c { k.cleared with pwr := false, mst := if dead then k.mst else 2, dst := if dead then k.dst else 2 }) d

/-- The Breath starts at 0.000 (R117). -/
def Dev.startBreath (d : Dev) : Dev :=
  let d := { d with brt := { d.brt with pos := 0, rem := 0, pllLocked := true, listenFrom := d.brt.tbase } }.s BRT_STAT.RUNNING 1
  if d.brtSrc = srcFREE then (d.s BRT_STAT.STATE sFREE).s BRT_STAT.SRCOK 1
  else
    let d := (d.toAcquire false).s BRT_STAT.FIRST 1
    { d with brt := { d.brt with soft := false } }

/-- What only start-up's end reports: a watchdog restart's fault-log entry (R662), a context error (R705), an OTP error
(R768). -/
def Dev.bootNews (d : Dev) : Dev :=
  let d := if d.tim.wdtRst then
      { d with tim := { d.tim with wdtRst := false } }.logEntry 1 (d.g LCK_STAT.COUNT) (noticeWord nTIM 5 0 false 0) 0
    else d
  let d := if d.boot.ctxErr then { (d.cnt PWR_CTXERR) with boot := { d.boot with ctxErr := false } }.raise nPWR 6 0 else d
  if d.lck.otpBad then d.raise nLCK 5 0 else d

/-- Step 7 after the settings: cores, Breath, the mode, the watchdog, the lock's delay, the release of the outputs. -/
def Dev.step7 (d : Dev) (mask mode : Nat) : Dev :=
  let part := d.val.partPend.foldl (fun m e => sput 0 e.1 e.2 m) d.val.part
  let parts := d.val.partPend.map (fun e => e.1 / 8)
  let d := { d with val := { d.val with part := part, partPend := [] } }
  let d := parts.foldl (fun (d : Dev) p => d.partErr p) d
  let d := (((d.judgeBlk.judgeRet).showLanes).startCores mask).startBreath
  let d := { d with boot := { d.boot with done := true, reading := none, other := none },
                    lck := { d.lck with wait := retryDelay (d.g LCK_STAT.COUNT) } }
  let d := d.sIf (d.on PWR_VID.AUTO) PWR_VID.CODE (min (d.g PWR_VID.FLOOR) (max 4 (d.g PWR_VID.CEIL)))
  let d := (d.setMode mode).bootNews
  let d := if d.on WDT_CTL.EN then d.wdtRestart else d
  d.setEpos.muteEnd 0

/-! ### The factory defaults (R54, R246, R405) -/

/-- The record of PARTn in DEFAULTS. -/
def defaultPart (n : Nat) : List Byte :=
  [0x11, 3, 0, BitVec.ofNat 8 n] ++ leBytes 2 n ++ leBytes 2 4096 ++ leBytes 2 0 ++ [4, 0, 5, 1, 2, 3] ++ leBytes 2 64
    ++ List.replicate 14 0

def Dev.defaults (d : Dev) : Dev :=
  let d := (List.range 16).foldl (fun (d : Dev) n => d.loadWords [] (0x4400 + 32 * n) 8 (defaultPart n)) d
  let d := d.drawn.fillBank (d.patchAddr 0) (leBytes 16384 (d.draw 131072).toNat)
  let d := d.setReg (RDA_PVALID.off 0) 0xFFFFFFFF
  let d := [(0, 0), (16, 0), (1, 1), (17, 1)].foldl (fun (d : Dev) (e : Nat × Nat) =>
    (d.s BEL_ROUTE.TYPE 1 e.1).s BEL_ROUTE.BUS e.2 e.1) d
  d.s SAP_CTL.TXEN 1 0

/-- The commit on the factory defaults. -/
def commitDefaults (s : State) (rowFails : List (BitVec 4 × Nat)) : State :=
  let d := s.dev.s CFG_STAT.DEFAULTS 1
  let d := d.openLog s.flash (logPlace s none) rowFails
  { s with dev := d.defaults.step7 0 mDEFAULTS }

/-! ### The choice of a copy (R49 to R53) -/

def whyFld (c : Bool) : Fld := if c then CFG_STAT.WHYB else CFG_STAT.WHYA

/-- The commit of a valid copy: bulk and settings sections in body order, then step 7. -/
def commitCopy (s : State) (c : Bool) (r body : List Byte) (rowFails : List (BitVec 4 × Nat)) : State :=
  let ot := s.flash.bootRec (!c)
  let d := (s.dev.s CFG_STAT.COPY (b2n c)).s (whyFld c) 0
  let d := (d.s CFG_SEQ (recSeq r)).s CFG_BODYLEN (recBodyLen r)
  let d := d.s CFG_STAT.ONECOPY (b2n (d.g (whyFld (!c)) ≠ 9))
  let equal : Bool := !newerSeq 32 (recSeq r) (recSeq ot) && !newerSeq 32 (recSeq ot) (recSeq r)
  let d := d.s CFG_STAT.SEQEQ (b2n (!c && d.g CFG_STAT.WHYB = 9 && equal))
  let d := d.openLog s.flash (logPlace s (some r)) rowFails
  let secs := (bodySections body).getD []
  let l := secs.foldl (Load.apply s.otp.wrapKey) ⟨d.applyRates s.otp.wrapKey secs, [], 0⟩
  let d := l.pats.foldl (fun (d : Dev) n => d.setFlag RDA_PVALID n (d.checkPatch n = 0)) l.dev
  { s with dev := d.step7 l.cores mRUN }

/-- Step 3: both records are checked, and the newer valid one's body is to be read (A of two equal ones); with none the
device runs on the factory defaults. -/
def step3 (s : State) : State :=
  if s.flash.kind = .absent then
    commitDefaults { s with dev := (s.dev.s CFG_STAT.WHYA 9).s CFG_STAT.WHYB 9 } []
  else
    let ra := s.flash.bootRec false
    let rb := s.flash.bootRec true
    let wa := recCheck s.flash.size false ra
    let wb := recCheck s.flash.size true rb
    let d := (s.dev.s CFG_STAT.WHYA (if wa = 0 then 9 else wa)).s CFG_STAT.WHYB (if wb = 0 then 9 else wb)
    let go (reading other : Option Bool) : State :=
      { s with dev := { d with boot := { d.boot with reading := reading, other := other } } }
    if wa = 0 && wb = 0 then
      (if newerSeq 32 (recSeq rb) (recSeq ra) then go (some true) (some false) else go (some false) (some true))
    else if wa = 0 then go (some false) none
    else if wb = 0 then go (some true) none
    else commitDefaults { s with dev := d } []

/-- BODY_READ_COMPLETE: the body of the copy that is read is judged; one that fails leads to the other copy, or to the
factory defaults. -/
def bodyRead (s : State) (rowFails : List (BitVec 4 × Nat)) : State :=
  match s.dev.boot.reading with
  | none => s
  | some c =>
    let r := s.flash.bootRec c
    let body := s.flash.body c
    let why := bodyWhy s.otp r body
    let bad := !sectionsPass (bodySections body)
    if why = 0 then commitCopy s c r body rowFails
    else
      let d := (s.dev.s (whyFld c) why).sIf bad CFG_STAT.BADSEC 1
      let d := d.sIf (why = 7 && !bad) CFG_STAT.SIGFAIL 1
      match d.boot.other with
      | some o => { s with dev := { d with boot := { d.boot with reading := some o, other := none } } }
      | none => commitDefaults { s with dev := { d with boot := { d.boot with reading := none } } } rowFails

def execBodyReadComplete (rowFails : List (BitVec 4 × Nat)) (s : State) : Out := .next (bodyRead s rowFails)

/-! ### The commands -/

/-- Steps 1 to 3. -/
def startUp (s : State) : State := step3 { s with dev := (s.dev.step1 s.otp).step2 s.flash }

/-- Start-up again from step 1 (R72, R662, R705). -/
def restart (s : State) : State := startUp { s with dev := s.dev.restarted }

/-- RESET_N low for at least 1 µs. -/
def execResetNLow (s : State) : Out :=
  .next { s with pins := { s.pins with resetN := false }, dev := s.dev.resetN }

/-- RESET_N rises with the AON detector released: start-up begins. `otpBad`: the lock fields of OTP have an uncorrectable
error; `qio33`: VDDIO_Q lies in its 3.3 V range. -/
def execResetNRise (qio33 otpBad : Bool) (s : State) : Out :=
  if s.pins.resetN || !s.pins.por then .next s
  else
    let d := s.dev.s PWR_STAT.QIO33 (b2n qio33)
    let d := if otpBad then { d with lck := { d.lck with state := 3, otpBad := true } } else d
    .next (startUp { s with pins := { s.pins with resetN := true }, dev := d })

/-- RELOAD: CFG_CTL.RELOAD written with 1 by an agent that may write it. -/
def execReload (ag : Agent) (s : State) : Out :=
  .next (if s.dev.mayWrite ag 0x1010 then restart s else s)

/-- An update command written by the host or over USB. -/
def updRow (ag : Agent) (cmd : Nat) (s : State) : Out :=
  .next (if s.dev.mayWrite ag 0x1020 then s.updCmd (ag ≠ .host) cmd else s)

def execStart (ag : Agent) (s : State) : Out := updRow ag 1 s
def execProgramBody (ag : Agent) (s : State) : Out := updRow ag 2 s
def execVerify (ag : Agent) (s : State) : Out := updRow ag 3 s
def execRecord (ag : Agent) (s : State) : Out := updRow ag 4 s
def execCommit (ag : Agent) (s : State) : Out := updRow ag 5 s
def execAbort (ag : Agent) (s : State) : Out := updRow ag 6 s

/-- POWER_ON_RELEASE: the AON detector releases, RESET_N being low (R26); BLOCKED is clear and the programmed lock state is
in force, or SEALED where its OTP fields cannot be read. -/
def execPowerOnRelease (otpBad : Bool) (s : State) : Out :=
  if s.pins.por then .next s
  else
    let st : BitVec 2 := if otpBad then 3 else s.otp.lock
    let d := { s.dev with lck := { s.dev.lck with state := st, otpBad := otpBad } }
    .next { s with pins := ⟨false, true⟩, dev := d.resetN.s LCK_STAT.BLOCKED 0 }

/-- SUPPLY_COLLAPSE: the flash operations that a running update command has performed stay; every island loses its
contents, and the TAP is reset. -/
def execSupplyCollapse (opsDone : Nat) (s : State) : Out :=
  let s := s.opsPerformed opsDone
  .next { s with pins := { s.pins with por := false }, tap := State.reset.tap, dev := { Dev.reset with free := s.dev.free } }

/-- WAKE: the enabled sources that fire. A wake from DORMANT that finds a PLL unlocked, or an uncorrectable error in the
retention store, restarts the device (R705). -/
def execWake (sources : Byte) (ctxErr : Bool) (s : State) : Out :=
  if ctxErr && s.dev.mode = mDORMANT && !(s.dev.wakeSources sources.toNat).isEmpty then
    .next (restart { s with dev := { s.dev with boot := { s.dev.boot with ctxErr := true } } })
  else onDev (fun d => d.wake sources.toNat) s

/-- WDT_BITE: the grace count has expired; ACT 0 restarts the device, ACT 1 enters SAFE. -/
def execWdtBite (s : State) : Out :=
  let d := s.dev
  if !d.wdtCounts || !d.on WDT_STAT.WARN then .next s
  else if d.on WDT_CTL.ACT then .next { s with dev := d.biteSafe }
  else
    let d := { d with tim := { d.tim with wdtRst := true } }.s WDT_STAT.WRST 1
    .next (restart { s with dev := d.s WDT_STAT.WARN 0 })

end Sys2Proof.Machine
end

