-- ==== Sys2Proof/Machine/Usb.lean ====
section
/-!
DEFINITION. The USB device port (chapter 14): attachment, standard requests and descriptors, computer audio in both
directions with its feedback, USB MIDI and Universal MIDI Packets, notices, suspend, resume and remote wake. The vendor
commands are in Machine/Access.lean. The layouts of standard descriptors, event packets and UMP messages are those of the
published USB and MIDI standards (notes/assumptions/21).
-/
namespace Sys2Proof.Machine

/-! ### The bus (R560, R561, R565, R596, R604) -/

def Dev.usbState (d : Dev) : Nat := d.g USB_STAT.STATE

/-- Does the port answer the computer: default, addressed or configured? -/
def Dev.usbLive (d : Dev) : Bool := d.usbState = 1 || d.usbState = 2 || d.usbState = 3

/-- Channel limit of a rate class, at high and at full speed. -/
def usbLimit (hs : Bool) (rateClass : Nat) : Nat := if hs then 32 / 2 ^ rateClass else if rateClass = 0 then 4 else 0

/-- Every interface is at alternate setting 0, its FIFO empty. -/
def Dev.usbIdle (d : Dev) : Dev :=
  let d := ((((d.s USB_STAT.AOUT 0).s USB_STAT.AIN 0).s USB_STAT.MALT 0)).s USB_AFILL 0
  { d with usb := { d.usb with altPend := [], fifo := [], next := none, inFrames := [], inReady := [], syx := [], ep3 := [] } }

/-- USB_VBUS has been valid for 10 ms: the pull-up goes on, at the speed that the handshake gives. -/
def usbAttach (hs : Bool) (d : Dev) : Dev :=
  let d := d.s USB_STAT.VBUS 1
  if !d.on USB_CTL.EN || d.on USB_STAT.CONN || !d.running then d
  else
    let hs := hs && !d.on USB_CTL.FSONLY
    let lim := usbLimit hs d.rateClass
    let out := d.g USB_ACFG.OUTCH
    let inn := d.g USB_ACFG.INCH
    let d := ((d.s USB_STAT.CONN 1).s USB_STAT.SPEED (if hs then 2 else 1)).s USB_STAT.STATE 1
    let d := (d.sIf (lim < out || lim < inn) USB_STAT.ACLAMP 1).usbIdle
    { d with usb := { d.usb with vidpid := d.reg USB_ID.VID.base, outCh := min out lim, inCh := min inn lim } }.raise nUSB 1 0

def execUsbAttach (highSpeed : Bool) (s : State) : Out := onDev (usbAttach highSpeed) s

/-- USB_VBUS has fallen: the pull-up goes off (R560, R596). -/
def execUsbDetach (s : State) : Out := onDev (fun d => (d.s USB_STAT.VBUS 0).usbOff) s

/-- A bus reset: the device is unaddressed and unconfigured; one that sleeps with the bus suspended wakes as for a resume. -/
def busReset (d : Dev) : Dev :=
  if !d.on USB_STAT.CONN then d
  else
    let d := (d.cnt USB_BUSRESET).wake 8
    (((d.usbDrop.usbIdle.s USB_STAT.STATE 1).s USB_STAT.RWENA 0)).s USB_STAT.RWPEND 0

def execBusReset (s : State) : Out := onDev busReset s

/-- A request's answer on endpoint 0; none is a request error (STALL). -/
def Dev.reply0 (d : Dev) (r : Option (List Byte)) : Dev := { d with usb := { d.usb with ep0 := r } }

/-- SET_ADDRESS: 0 returns to the default state. -/
def execSetAddress (addr : BitVec 7) (s : State) : Out :=
  onDev (fun d =>
    if d.usbState = 1 || d.usbState = 2 then
      { (d.reply0 (some [])).s USB_STAT.STATE (if addr = 0 then 1 else 2) with usb := { d.usb with ep0 := some [], addr := addr } }
    else d) s

/-- SET_CONFIGURATION: 1 configures, 0 returns to addressed, any other value is a request error. -/
def execSetConfiguration (cfg : Byte) (s : State) : Out :=
  onDev (fun d =>
    if d.usbState = 2 || d.usbState = 3 then
      (if cfg = 1 then (d.usbIdle.s USB_STAT.STATE 3).reply0 (some [])
       else if cfg = 0 then (d.usbIdle.s USB_STAT.STATE 2).reply0 (some [])
       else d.reply0 none)
    else d) s

/-- The computer sets or clears the remote-wake feature (R582). -/
def execRemoteWakeEnable (on : Bool) (s : State) : Out :=
  onDev (fun d => if d.usbState = 2 || d.usbState = 3 then (d.s USB_STAT.RWENA (b2n on)).reply0 (some []) else d) s

/-- SET_INTERFACE: a streaming interface changes at the next microframe (R597), MIDI at once; what R563 does not give is a
request error. -/
def setInterface (ifc alt : Nat) (d : Dev) : Dev :=
  if d.usbState ≠ 3 then d
  else
    let later_ (d : Dev) : Dev :=
      ({ d with usb := { d.usb with altPend := d.usb.altPend ++ [(BitVec.ofNat 8 ifc, BitVec.ofNat 8 alt)] } }).reply0 (some [])
    match ifc, alt with
    | 0, 0 => d.reply0 (some [])
    | 4, 0 => d.reply0 (some [])
    | 3, a => if a < 2 then ({ d.s USB_STAT.MALT a with usb := { d.usb with syx := [], ep3 := [] } }).reply0 (some []) else d.reply0 none
    | 1, a => if a < 2 && d.usb.outCh ≠ 0 then later_ d else d.reply0 none
    | 2, a => if a < 2 && d.usb.inCh ≠ 0 then later_ d else d.reply0 none
    | _, _ => d.reply0 none

def execSetInterface (ifc alt : Byte) (s : State) : Out := onDev (setInterface ifc.toNat alt.toNat) s

/-- A clock control request of the audio function (R564). -/
def clockRequest (req : ClockReq) (d : Dev) : Dev :=
  if d.usbState ≠ 3 then d
  else match req with
    | .getCur => d.reply0 (some (leBytes 4 d.fs))
    | .getRange => d.reply0 (some (leBytes 2 1 ++ leBytes 4 d.fs ++ leBytes 4 d.fs ++ leBytes 4 0))
    | .getValid => d.reply0 (some [BitVec.ofNat 8 (b2n (d.brtState = sTRACK || d.brtState = sFREE))])
    | .setCur r => d.reply0 (if r = d.fs then some [] else none)

def execClockRequest (req : ClockReq) (s : State) : Out := onDev (clockRequest req) s

def execUsbPacketError (s : State) : Out := onDev (fun d => if d.on USB_STAT.CONN then d.cnt USB_RXERR else d) s

/-! ### Descriptors (R562, R563, R565) -/

def byteList (l : List Nat) : List Byte := l.map (BitVec.ofNat 8)

/-- 16 uppercase hexadecimal digits of a serial number. -/
def hexDigits (n : Nat) : List Nat :=
  ((List.range 16).map (fun i => n / 16 ^ (15 - i) % 16)).map (fun k => if k < 10 then 48 + k else 55 + k)

def codes (t : String) : List Nat := t.toList.map (·.toNat)

def deviceDesc (vidpid : Word) : List Byte :=
  byteList [18, 1, 0, 2, 0xEF, 2, 1, 64] ++ leBytes 4 vidpid.toNat ++ byteList [0, 0x0B, 1, 2, 3, 1]

def qualifierDesc : List Byte := byteList [10, 6, 0, 2, 0xEF, 2, 1, 64, 1, 0]

def stringDesc (l : List Nat) : List Byte := byteList [2 + 2 * l.length, 3] ++ l.flatMap (fun c => leBytes 2 c)

def ifaceDesc (n alt eps cls sub proto : Nat) : List Byte := byteList [9, 4, n, alt, eps, cls, sub, proto, 0]

def epDesc (addr attr size interval : Nat) : List Byte := byteList [7, 5, addr, attr] ++ leBytes 2 size ++ byteList [interval]

/-- wMaxPacketSize of an isochronous data endpoint. -/
def isoSize (fs : Nat) (hs : Bool) (ch : Nat) : Nat :=
  let r := if hs then 8000 else 1000
  ((fs + r - 1) / r + 1) * ch * 4

/-- The standard interface association, interface and endpoint descriptors of R563 for one speed. -/
def Dev.interfaces (d : Dev) (hs : Bool) : List Byte :=
  let lim := usbLimit hs d.rateClass
  let out := min (d.g USB_ACFG.OUTCH) lim
  let inn := min (d.g USB_ACFG.INCH) lim
  let bulk := if hs then 512 else 64
  byteList [8, 11, 0, 2 + b2n (out ≠ 0) + b2n (inn ≠ 0), 1, 0, 0x20, 0] ++ ifaceDesc 0 0 0 1 1 0x20
  ++ (if out = 0 then [] else ifaceDesc 1 0 0 1 2 0x20 ++ ifaceDesc 1 1 2 1 2 0x20 ++ epDesc 1 5 (isoSize d.fs hs out) 1
      ++ epDesc 0x81 0x11 (if hs then 4 else 3) (if hs then 4 else 1))
  ++ (if inn = 0 then [] else ifaceDesc 2 0 0 1 2 0x20 ++ ifaceDesc 2 1 1 1 2 0x20 ++ epDesc 0x82 5 (isoSize d.fs hs inn) 1)
  ++ ifaceDesc 3 0 2 1 3 0 ++ epDesc 3 2 bulk 0 ++ epDesc 0x83 2 bulk 0
  ++ ifaceDesc 3 1 2 1 3 0 ++ epDesc 3 2 bulk 0 ++ epDesc 0x83 2 bulk 0
  ++ ifaceDesc 4 0 3 0xFF 0 0 ++ epDesc 4 2 bulk 0 ++ epDesc 0x84 2 bulk 0 ++ epDesc 0x85 3 64 (if hs then 4 else 1)

/-- A configuration descriptor of type 2 or 7: wTotalLength, with the class-specific descriptors that the spec does not lay
out, is a free value. -/
def Dev.configDesc (d : Dev) (type : Nat) (hs : Bool) : List Byte :=
  let lim := usbLimit hs d.rateClass
  let n := 3 + b2n (min (d.g USB_ACFG.OUTCH) lim ≠ 0) + b2n (min (d.g USB_ACFG.INCH) lim ≠ 0)
  byteList [9, type] ++ leBytes 2 (d.draw 16).toNat ++ byteList [n, 1, 0, 0xE0, 0] ++ d.interfaces hs

/-- The answer to GET_DESCRIPTOR; a descriptor that the device does not hold is a request error. -/
def getDescriptor (serial : Nat) (type index : Nat) (d : Dev) : Dev :=
  let hs : Bool := d.g USB_STAT.SPEED = 2
  if !d.usbLive then d
  else match type, index with
    | 1, 0 => d.reply0 (some (deviceDesc d.usb.vidpid))
    | 2, 0 => (d.reply0 (some (d.configDesc 2 hs))).drawn
    | 3, 0 => d.reply0 (some (byteList [4, 3, 9, 4]))
    | 3, 1 => d.reply0 (some (stringDesc (codes "Disirak Signal Works")))
    | 3, 2 => d.reply0 (some (stringDesc (codes "Aslalas AS4096")))
    | 3, 3 => d.reply0 (some (stringDesc (hexDigits serial)))
    | 6, 0 => d.reply0 (some qualifierDesc)
    | 7, 0 => (d.reply0 (some (d.configDesc 7 (!hs)))).drawn
    | _, _ => d.reply0 none

def execGetDescriptor (type index : Byte) (s : State) : Out :=
  onDev (getDescriptor s.otp.serial.toNat type.toNat index.toNat) s

/-! ### Computer audio (R566 to R569, R597) -/

/-- Apply the alternate settings that wait for the microframe. -/
def Dev.applyAlts (d : Dev) : Dev :=
  let l := d.usb.altPend
  l.foldl (fun (d : Dev) e =>
    if e.1 = 1 then
      ({ d.s USB_STAT.AOUT e.2.toNat with usb := { d.usb with fifo := [], next := none } }).s USB_AFILL 0
    else { d.s USB_STAT.AIN e.2.toNat with usb := { d.usb with inFrames := [], inReady := [] } })
    { d with usb := { d.usb with altPend := [] } }

/-- Samples per microframe in 16.16, or per frame in 10.14: the first term of F. The latest capture comes first. -/
def Dev.feedbackTerm (d : Dev) (hs : Bool) : Int :=
  let back := if hs then 64 else 8
  let now := d.usb.sof.headD 0
  match d.usb.sof[back]? with
  | some old => if hs then (now - old).toInt / 64 else (now - old).toInt / 32
  | none => if hs then divRound ((d.fs : Int) * 65536) 8000 else divRound ((d.fs : Int) * 16384) 1000

/-- F of R567. -/
def Dev.feedback (d : Dev) (hs : Bool) : Int :=
  let t := d.feedbackTerm hs
  let e := (d.g USB_ACFG.OUTLAT : Int) - d.g USB_AFILL
  if hs then t + clampI (-656) 656 (8 * e) else t + clampI (-164) 164 (2 * e)

/-- START_OF_FRAME: the source event of source USB, the capture, the IN frames of the microframe that ends, alternate
settings, and the feedback value every 8 microframes, or every frame at full speed. -/
def startOfFrame (d : Dev) : Dev :=
  if !d.usbLive then d
  else
    let hs : Bool := d.g USB_STAT.SPEED = 2
    let d := d.sofSource
    let d := if d.on BRT_STAT.RUNNING then d.usbTake (whole d.brt.pos) else d
    let d := { d with usb := { d.usb with sof := (d.brt.pos :: d.usb.sof).take 65, sofs := d.usb.sofs + 1,
                                          inReady := d.usb.inFrames, inFrames := [] } }.applyAlts
    if d.usbOut && (!hs || d.usb.sofs % 8 = 0) then
      d.s USB_FB (BitVec.ofInt 32 (if hs then d.feedback hs else 4 * d.feedback hs)).toNat
    else d

def execStartOfFrame (s : State) : Out := onDev startOfFrame s

/-- Channel values of a frame's bytes. -/
def frameCodes (ch : Nat) (l : List Byte) : List Int :=
  (List.range ch).map (fun i => slotCode (BitVec.ofNat 32 (fieldAt l (4 * i) 4)))

/-- One OUT frame arrives: the first one takes ⌈a⌉ + OUTLAT; at a full FIFO it is dropped. -/
def Dev.outFrame (d : Dev) (f : List Int) : Dev :=
  if 1024 ≤ d.usb.fifo.length then d.cnt USB_AOVER
  else
    let next := match d.usb.next with
      | some q => q
      | none => whole (ceilPos d.brt.pos) + d.g USB_ACFG.OUTLAT
    { d with usb := { d.usb with fifo := d.usb.fifo ++ [f], next := some next } }.s USB_AFILL (d.usb.fifo.length + 1)

/-- AUDIO_OUT_PACKET: whole frames enter the OUT FIFO; a packet of broken length is dropped. -/
def audioOutPacket (data : List Byte) (d : Dev) : Dev :=
  let size := 4 * d.usb.outCh
  if !d.usbOut || !d.running then d
  else if data.length % size ≠ 0 then d.cnt USB_AFMT
  else
    let d := d.usbTake (whole d.brt.pos)
    (List.range (data.length / size)).foldl (fun (d : Dev) i => d.outFrame (frameCodes d.usb.outCh (slice data (i * size) size))) d

def execAudioOutPacket (data : List Byte) (s : State) : Out := onDev (audioOutPacket data) s

/-- AUDIO_IN_PACKET: the frames that left their queues during the microframe before this one. -/
def execAudioInPacket (s : State) : Out :=
  onDev (fun d => if d.usbIn then { d with usb := { d.usb with inSent := d.usb.inReady, inReady := [] } } else d) s

/-! ### USB MIDI (R570 to R572) -/

/-- May EP3 OUT take a packet at an alternate setting? While the event store is full it answers NAK (R140). -/
def Dev.midiOpen (d : Dev) (alt : Nat) : Bool := d.usbState = 3 && d.g USB_STAT.MALT = alt && d.running && d.room

/-- Bytes of a system exclusive message of one cable or group, kept up to 33 bytes: a longer one is no message of the
device's own. -/
def Dev.syxBytes (d : Dev) (wrap : List Byte) (k : Nat) (start ends : Bool) (l : List Byte) : Dev :=
  let old := if start then [] else sget [] k d.usb.syx
  let now := (old ++ l).take 33
  if ends then { d with usb := { d.usb with syx := sput [] k [] d.usb.syx } }.sysex wrap now
  else { d with usb := { d.usb with syx := sput [] k now d.usb.syx } }

/-- A USB MIDI 1.0 event packet. -/
def midiEvent (wrap : List Byte) (pkt : Word) (d : Dev) : Dev :=
  let b := leBytes 4 pkt.toNat
  let cable := (b.getD 0 0).toNat / 16
  let cin := (b.getD 0 0).toNat % 16
  let m0 := (b.getD 1 0).toNat
  let syx (ends : Bool) (n : Nat) : Dev := d.syxBytes wrap cable (m0 = 0xF0) ends (slice b 1 n)
  if !d.midiOpen 0 then d
  else if cin < 2 then d.cnt USB_MIDIERR
  else if cin < 4 then d.cnt EVS_IGNORED
  else if cin = 4 then syx false 3
  else if cin = 5 then (if m0 = 0xF7 then syx true 1 else d.cnt EVS_IGNORED)
  else if cin = 6 then syx true 2
  else if cin = 7 then syx true 3
  else if cin = 15 then d
  else d.midi1 inUSB cable 0 m0 (b.getD 2 0).toNat (b.getD 3 0).toNat

def execUsbMidiEventPacket (pkt : Word) (s : State) : Out := onDev (midiEvent s.otp.wrapKey pkt) s

/-- Words of a text in UMP stream packets of one status: a short one complete, a longer one as start, continue and end. -/
def streamText (status extra per : Nat) (l : List Nat) : List Word :=
  let n := (l.length + per - 1) / per
  (List.range n).flatMap (fun i =>
    let form := if n = 1 then 0 else if i = 0 then 1 else if i + 1 = n then 3 else 2
    let part := (l.drop (i * per)).take per
    let bytes := (if per = 13 then [extra] else []) ++ part ++ List.replicate (per - part.length) 0
    let w (k : Nat) : Word := BitVec.ofNat 32 (beNat (byteList ((bytes.drop k).take 4)))
    [BitVec.ofNat 32 (0xF0000000 + form * 2 ^ 26 + status * 2 ^ 16 + beNat (byteList (bytes.take 2))), w 2, w 6, w 10])

/-- Does EP3 answer: configured, at alternate setting 1? -/
def Dev.umpOpen (d : Dev) : Bool := d.usbState = 3 && d.on USB_STAT.MALT

/-- A reply on EP3 IN. -/
def Dev.umpReply (d : Dev) (l : List Word) : Dev := { d with usb := { d.usb with ep3 := l } }

/-- Endpoint Discovery: the notifications that the filter asks for. -/
def endpointDiscovery (serial filter : Nat) (d : Dev) : Dev :=
  if !d.umpOpen then d
  else d.umpReply
    ((if bit filter 0 then ([0xF0010101, 0x81000302, 0, 0] : List Word) else [])
     ++ (if bit filter 2 then streamText 3 0 14 (codes "Aslalas AS4096") else [])
     ++ (if bit filter 3 then streamText 4 0 14 (hexDigits serial) else []))

def execEndpointDiscovery (filter : Byte) (s : State) : Out :=
  onDev (endpointDiscovery s.otp.serial.toNat filter.toNat) s

/-- Stream Configuration Request: the protocol and JR receive as requested. -/
def streamConfig (protocol : Nat) (jrRx : Bool) (d : Dev) : Dev :=
  if !d.umpOpen then d
  else d.umpReply [BitVec.ofNat 32 (0xF0060000 + protocol % 256 * 256 + 2 * b2n jrRx), 0, 0, 0]

def execStreamConfigurationRequest (protocol : Byte) (jrRx : Bool) (s : State) : Out :=
  onDev (streamConfig protocol.toNat jrRx) s

/-- Function Block Discovery: the information and the name of block 0, as the filter asks. -/
def functionBlock (block filter : Nat) (d : Dev) : Dev :=
  if !d.umpOpen then d
  else d.umpReply (if block = 0 || block = 255 then
      (if bit filter 0 then ([0xF0118001, 0x00100000, 0, 0] : List Word) else [])
      ++ (if bit filter 1 then streamText 0x12 0 13 (codes "Voice fabric") else [])
    else [])

def execFunctionBlockDiscovery (block filter : Byte) (s : State) : Out :=
  onDev (functionBlock block.toNat filter.toNat) s

/-- A UMP stream message (R571). -/
def umpStream (serial : Nat) (w0 w1 : Nat) (d : Dev) : Dev :=
  match bitsOf w0 27 26, bitsOf w0 25 16 with
  | 0, 0 => endpointDiscovery serial (w1 % 256) d
  | 0, 5 => streamConfig (bitsOf w0 15 8) (bit w0 1) d
  | 0, 0x10 => functionBlock (bitsOf w0 15 8) (w0 % 256) d
  | _, _ => d.cnt EVS_IGNORED

/-- Data 64: up to 6 bytes of a system exclusive message, complete, first, middle or last. -/
def umpSysex (wrap : List Byte) (group w0 w1 : Nat) (d : Dev) : Dev :=
  let form := bitsOf w0 23 20
  let body := slice (beBytes 2 (w0 % 65536) ++ beBytes 4 w1) 0 (min 6 (bitsOf w0 19 16))
  let start : Bool := form = 0 || form = 1
  let ends : Bool := form = 0 || form = 3
  if 3 < form then d.cnt EVS_IGNORED
  else d.syxBytes wrap (16 + group) start ends
    ((if start then [(0xF0 : Byte)] else []) ++ body ++ (if ends then [(0xF7 : Byte)] else []))

/-- A Universal MIDI Packet, by its message type. -/
def umpPacket (wrap : List Byte) (serial : Nat) (words : List Word) (d : Dev) : Dev :=
  let w0 := (words.getD 0 0).toNat
  let w1 := (words.getD 1 0).toNat
  let group := bitsOf w0 27 24
  if !d.midiOpen 1 then d
  else match w0 / 2 ^ 28 with
    | 0 => (match bitsOf w0 23 20 with
      | 0 => d
      | 1 => d
      | 2 => d.jrStamp group (BitVec.ofNat 16 w0)
      | _ => d.cnt EVS_IGNORED)
    | 1 => if 0xF8 ≤ bitsOf w0 23 16 then d else d.cnt EVS_IGNORED
    | 2 =>
      let r := d.jrTarget group
      r.1.midi1 inUSB group r.2 (bitsOf w0 23 16) (bitsOf w0 14 8) (bitsOf w0 6 0)
    | 3 => umpSysex wrap group w0 w1 d
    | 4 =>
      let r := d.jrTarget group
      r.1.midi2 inUSB group r.2 (w0 % 2 ^ 24) w1
    | 15 => umpStream serial w0 w1 d
    | _ => d.cnt EVS_IGNORED

def execUniversalMidiPacket (words : List Word) (s : State) : Out :=
  onDev (umpPacket s.otp.wrapKey s.otp.serial.toNat words) s

/-! ### Notices (R579) -/

/-- EP5 sends 1 to 8 notices, oldest first; with none it answers NAK. -/
def execNoticePacket (s : State) : Out :=
  onDev (fun d =>
    if d.usbState = 3 && !d.usb.notices.isEmpty then
      { d with usb := { d.usb with ep5 := d.usb.notices.take 8, notices := d.usb.notices.drop 8 } }
    else d) s

/-! ### Suspend, resume and remote wake (R580 to R583, R688) -/

/-- The bus has been quiet for 3 ms. -/
def usbSuspend (d : Dev) : Dev :=
  if !d.usbLive then d
  else
    let d := { d.s USB_STAT.STATE 4 with usb := { d.usb with prior := BitVec.ofNat 3 d.usbState } }
    let d := (d.raise nUSB 3 0).cnt USB_SUSPENDS
    let d := { d with usb := { d.usb with fifo := [], next := none, inFrames := [], inReady := [], sof := [], sofs := 0 } }.s USB_AFILL 0
    let d := if d.brtSrc = srcUSB && d.on BRT_STAT.RUNNING then d.srcLost else d
    match d.g PWR_CTL.SUSPM with
    | 1 => d.request 5
    | 2 => d.request 6
    | _ => d

def execUsbSuspend (s : State) : Out := onDev usbSuspend s

/-- The bus has left idle and the resume ends: the state before suspend returns; a remote wake that waited is merged, and one
whose K was driven is answered. -/
def usbResume (d : Dev) : Dev :=
  if d.usbState ≠ 4 then d
  else
    let reason := d.usb.rwReason
    let d := if reason.isSome && !d.usb.drivingK then d.cnt USB_WAKEMERGE else d
    let d := d.wake 8
    let d := (d.s USB_STAT.STATE d.usb.prior.toNat).s USB_STAT.RWPEND 0
    let d := { d with usb := { d.usb with rwReason := none, drivingK := false } }.raise nUSB 4 0
    let d := match reason with
      | some r => d.raise nUSB 5 r.toNat
      | none => d
    d.prepDwake HRP_WAKE.USB 3

def execUsbResume (s : State) : Out := onDev usbResume s

/-- A prepared remote wake: K is driven, unless the bus leaves idle first or meanwhile. -/
def remoteWake (busLeftIdle : Bool) (d : Dev) : Dev :=
  match d.usb.rwReason with
  | some r =>
    if d.usbState ≠ 4 then d
    else if busLeftIdle then usbResume d
    else if d.usb.drivingK then d
    else ({ d with usb := { d.usb with drivingK := true } }.cnt USB_RWAKE).s USB_WAKE.REASON r.toNat
  | none => d

def execRemoteWake (busLeftIdle : Bool) (s : State) : Out := onDev (remoteWake busLeftIdle) s

end Sys2Proof.Machine
end

