-- ==== Sys2Proof/Machine/Access.lean ====
section
/-!
DEFINITION. Commands that come in as register and memory accesses: 32-bit register writes by agent (R770 to R774), the rows
that name one such write, the host port's committed words, MGMT (R491, R492), the USB vendor commands (R575 to R578), and the
console's frames (R749, R761, R762).
-/
namespace Sys2Proof.Machine

/-! ### Register writes -/

/-- A 32-bit register write by an agent. -/
def State.regWrite (s : State) (ag : Agent) (off : Nat) (v : Word) : State :=
  if !s.dev.mayWrite ag off || !mapped off then s
  else if off = 0x1010 then (if bit v.toNat 0 then restart s else s)
  else if off = 0x1020 then s.updCmd (ag ≠ .host) (v.toNat % 16)
  else if off / 0x1000 = 0x22 then lockWrite s off v
  else { s with dev := s.dev.regWrite s.otp.wrapKey ag off v }

/-- A row that is one register write. -/
def writeRow (ag : Agent) (off : Nat) (v : Word) (s : State) : Out := .next (s.regWrite ag off v)

/-- A register's word with a field replaced: what a row writes that names one field. -/
def Dev.withField (d : Dev) (f : Fld) (v : Nat) (i : Nat := 0) : Word := putBits (d.reg (f.off i)) f.hi f.lo v

/-- REGISTER_WRITE. -/
def execRegisterWrite (ag : Agent) (off : BitVec 20) (v : Word) (s : State) : Out := writeRow ag off.toNat v s

/-- HOST_HIGH_HALF_WRITE: the high half commits the 32-bit write. -/
def execHostHighHalfWrite (off : BitVec 21) (data : Half) (be : BitVec 2) (s : State) : Out :=
  let r := hostHighW off.toNat data be s.dev
  let s := { s with dev := r.1 }
  match r.2 with
  | some (o, v) => .next (s.regWrite .host o v)
  | none => .next s

/-! ### Rows of one register -/

def execRdaPlibWrite (ag : Agent) (v : Word) (s : State) : Out := writeRow ag 0x5014 v s
def execRdaRselWrite (ag : Agent) (v : Word) (s : State) : Out := writeRow ag 0x5020 v s
def execValSpill2Write (ag : Agent) (v : Word) (s : State) : Out := writeRow ag 0x4010 v s
def execBnkOwnWrite (ag : Agent) (bank : BitVec 7) (v : Word) (s : State) : Out := writeRow ag (0x11000 + 16 * bank.toNat) v s
def execBnkGuestWrite (ag : Agent) (bank : BitVec 7) (v : Word) (s : State) : Out := writeRow ag (0x11004 + 16 * bank.toNat) v s
def execBelPlatWrite (ag : Agent) (v : Word) (s : State) : Out := writeRow ag 0x1C004 v s
def execMacModeWrite (ag : Agent) (port : BitVec 2) (v : Word) (s : State) : Out := writeRow ag (0x14000 + 0x400 * port.toNat) v s
def execMrAttrWrite (ag : Agent) (v : Word) (s : State) : Out := writeRow ag 0x1903C v s
def execHrpApbaseWrite (ag : Agent) (v : Word) (s : State) : Out := writeRow ag 0x1F808 v s
def execHrpCxselWrite (ag : Agent) (v : Word) (s : State) : Out := writeRow ag 0x1FA00 v s

/-- CHN_CTL as it reads, the word that the next three rows change. -/
def Dev.chnCtlWord (d : Dev) (c : BitVec 4) : Nat :=
  let k := d.core c.toNat
  k.mst.toNat + 4 * b2n k.pwr + k.startpc.toNat * 2 ^ 16

def execChnPowerOff (ag : Agent) (c : BitVec 4) (s : State) : Out :=
  writeRow ag (0x8000 + 0x800 * c.toNat) (putBits (BitVec.ofNat 32 (s.dev.chnCtlWord c)) 2 2 0) s
def execChnPowerOn (ag : Agent) (c : BitVec 4) (s : State) : Out :=
  writeRow ag (0x8000 + 0x800 * c.toNat) (putBits (BitVec.ofNat 32 (s.dev.chnCtlWord c)) 2 2 1) s
def execRestart (ag : Agent) (c : BitVec 4) (s : State) : Out :=
  writeRow ag (0x8000 + 0x800 * c.toNat) (putBits (BitVec.ofNat 32 (s.dev.chnCtlWord c)) 3 3 1) s
def execDoor (ag : Agent) (c : BitVec 4) (s : State) : Out := writeRow ag (0x8018 + 0x800 * c.toNat) 1 s
def execChnWindowWrite (ag : Agent) (c : BitVec 4) (ySpace : Bool) (v : Word) (s : State) : Out :=
  writeRow ag ((if ySpace then 0x800C else 0x8008) + 0x800 * c.toNat) v s
def execCoreRegisterViewWrite (ag : Agent) (c : BitVec 4) (off : BitVec 11) (v : Word) (s : State) : Out :=
  if 0x100 ≤ off.toNat then writeRow ag (0x8000 + 0x800 * c.toNat + off.toNat) v s else .next s

def execHmuteWrite (ag : Agent) (on : Bool) (s : State) : Out := writeRow ag 0x1C008 (s.dev.withField BEL_MUTE.HMUTE (b2n on)) s
def execBrtSrcWrite (ag : Agent) (src : BitVec 3) (s : State) : Out :=
  writeRow ag 0x2000 (s.dev.withField BRT_CTL.SRC src.toNat) s
def execRebase (ag : Agent) (s : State) : Out := writeRow ag 0x2000 (s.dev.withField BRT_CTL.REBASE 1) s
def execBrtPosRead (_ : Agent) (s : State) : Out := onDev (fun d => d.agentRead 0x2008) s
def execLecClear (ag : Agent) (port : BitVec 2) (s : State) : Out := writeRow ag (0x14014 + 0x400 * port.toNat) 0x80000000 s

def execHostAtomicGo (ag : Agent) (s : State) : Out := writeRow ag 0x18080 (s.dev.withField BLW_HA_CMD.GO 1) s
def execTransportEnable (ag : Agent) (v : Word) (s : State) : Out := writeRow ag 0x18000 (v ||| 1) s
def execTransportDisable (ag : Agent) (v : Word) (s : State) : Out := writeRow ag 0x18000 (v &&& ~~~ 1) s
def execKeyLoad (ag : Agent) (s : State) : Out := writeRow ag 0x19010 1 s
def execKeyEpoch (ag : Agent) (slot : BitVec 4) (s : State) : Out := writeRow ag 0x19010 (BitVec.ofNat 32 (2 + 16 * slot.toNat)) s
def execKeyErase (ag : Agent) (slot : BitVec 4) (s : State) : Out := writeRow ag 0x19010 (BitVec.ofNat 32 (3 + 16 * slot.toNat)) s

def execRefresh (ag : Agent) (s : State) : Out := writeRow ag 0x1F80C 1 s
def execTimerEnable (ag : Agent) (n : BitVec 3) (v : Word) (s : State) : Out := writeRow ag (0x1F000 + 0x20 * n.toNat) (v ||| 1) s
def execTimerDisable (ag : Agent) (n : BitVec 3) (v : Word) (s : State) : Out :=
  writeRow ag (0x1F000 + 0x20 * n.toNat) (v &&& ~~~ 1) s
def execTimerIomodeWrite (ag : Agent) (n : BitVec 3) (v : Word) (s : State) : Out := writeRow ag (0x1F000 + 0x20 * n.toNat) v s
def execTimerCapRead (_ : Agent) (n : BitVec 3) (s : State) : Out := onDev (fun d => d.agentRead (0x1F014 + 0x20 * n.toNat)) s
def execWdtLock (ag : Agent) (s : State) : Out := writeRow ag 0x1F200 (s.dev.withField WDT_CTL.LOCK 1) s

/-- A write of PWR_CTL.REQ that leaves its other fields. -/
def reqRow (ag : Agent) (v : Nat) (s : State) : Out := writeRow ag 0x21000 (s.dev.withField PWR_CTL.REQ v) s

def execReqLeave (ag : Agent) (s : State) : Out := reqRow ag 2 s
def execReqSafe (ag : Agent) (s : State) : Out := reqRow ag 4 s
def execReqIdle (ag : Agent) (s : State) : Out := reqRow ag 5 s
def execReqDormant (ag : Agent) (s : State) : Out := reqRow ag 6 s
def execReqService (ag : Agent) (s : State) : Out := reqRow ag 7 s

/-- The register that holds a unit's management state (R724). -/
def mstReg (kind i : Nat) : Nat :=
  match kind with
  | 2 => 0x11008 + 16 * i
  | 3 => 0x20080 + 4 * (i / 16)
  | 4 => 0x8000 + 0x800 * i
  | 5 => 0x14000 + 0x400 * i
  | 6 => 0x1C404 + 8 * i
  | _ => 0x18204 + 16 * i

/-- MST_WRITE: the management state of one unit, its register's other fields as they are. A work queue's stands in its CFG,
whose write sets the queue's indices to 0. -/
def execMstWrite (ag : Agent) (kind : BitVec 4) (index : Byte) (v : BitVec 2) (s : State) : Out :=
  onDev (fun d =>
    let i := index.toNat
    if !d.mayWrite ag (mstReg kind.toNat i) then d
    else if kind.toNat = kWq && i < 64 then d.wrQueues (mstReg kWq i) (d.withField BLW_WQ_CFG.MST v.toNat i)
    else d.writeMst kind.toNat i v.toNat) s

/-! ### Rows of the LCK block -/

def execLckCtlRelock (ag : Agent) (s : State) : Out := writeRow ag 0x22004 1 s
def execLckHcmdGo (ag : Agent) (s : State) : Out := writeRow ag 0x22014 (s.dev.withField LCK_HCMD.GO 1) s
def execSetpw (ag : Agent) (s : State) : Out := writeRow ag 0x2201C 1 s
def execSetkey (ag : Agent) (s : State) : Out := writeRow ag 0x2201C 2 s
def execLockpw (ag : Agent) (s : State) : Out := writeRow ag 0x2201C 3 s
def execLockcr (ag : Agent) (s : State) : Out := writeRow ag 0x2201C 4 s
def execSealLock (ag : Agent) (s : State) : Out := writeRow ag 0x2201C 5 s

/-- SECT and UNIT as they stand, with one of the commands. -/
def Dev.svcWord (d : Dev) (bits : Nat) : Word := BitVec.ofNat 32 (d.g LCK_SVC.SECT * 16 + d.g LCK_SVC.UNIT * 256 + bits)

def execServiceTest (ag : Agent) (s : State) : Out := writeRow ag 0x22024 (s.dev.svcWord 1) s
def execFlogrd (ag : Agent) (s : State) : Out := writeRow ag 0x22024 (s.dev.svcWord 2) s

/-! ### MGMT (R491, R492, R497) -/

/-- One entry: the device after it and the entry carried back. -/
def mgmtEntry (wrap : List Byte) (d : Dev) (a v : Nat) : Dev × List Byte :=
  let reg := a / 4 * 4
  let off := reg - 0x40000000
  if !(loadable reg || reg = 0x40021000) then (d, leBytes 4 (if bit a 1 then a else a + 2) ++ leBytes 4 v)
  else if bit a 0 then (d.regWrite wrap .mgmt off (BitVec.ofNat 32 v), leBytes 4 a ++ leBytes 4 v)
  else
    let r := d.readReg off
    (r.1, leBytes 4 a ++ leBytes 4 r.2.toNat)

/-- The entries of a payload in order. -/
def mgmtEntries (wrap : List Byte) (body : List Byte) : List Nat → Dev → List Byte → Dev × List Byte
  | [], d, out => (d, out)
  | i :: t, d, out =>
    let r := mgmtEntry wrap d (fieldAt body (8 * i) 4) (fieldAt body (8 * i + 4) 4)
    mgmtEntries wrap body t r.1 (out ++ r.2)

/-- A MGMT that has passed the checks before step 11 of R516. -/
def mgmtReq (wrap : List Byte) (d : Dev) (g : Got) : Dev :=
  if !d.on BLW_MGMT.EN || g.h.src ≠ d.g BLW_MGMT.NODE || (d.on BLW_MGMT.SEC && !g.h.sec) then d.violate g vMGMT
  else if g.h.cast || g.h.psn ≠ 0 then d.invalid g
  else match d.doneOf g.h with
    | some _ => (d.cnt BLW_DUP).answer g.pkt.plane (d.answerHdr g.h xRESP fDUP 0 0 0 0) []
    | none =>
      if !d.recRoom then d.nak g.pkt g.h 1
      else
        let r := mgmtEntries wrap g.body (List.range (g.body.length / 8)) d []
        let e : DoneEnt := { src := BitVec.ofNat 12 g.h.src, tag := BitVec.ofNat 12 g.h.tag, mpos := g.h.mpos, cnt := 1, old := 0 }
        let d := { r.1 with blw := { r.1.blw with done := r.1.blw.done.filter (fun (x : DoneEnt) => !(x.src = e.src && x.tag = e.tag)) ++ [e] } }
        d.showBlw.answer g.pkt.plane (d.answerHdr g.h xRESP 0 0 r.2.length 0 0) r.2

def execMgmt (s : State) : Out := onReq xMGMT true (mgmtReq s.otp.wrapKey) s

/-! ### Vendor commands (R575 to R578, R749) -/

def vOK : Nat := 0
def vBADCMD : Nat := 1
def vRNG : Nat := 2
def vDENIED : Nat := 3
def vUNCOR : Nat := 4
def vLENGTH : Nat := 5

/-- What a vendor command answers: the state, its status and the data returned. -/
structure Vendor where
  st     : State
  status : Nat
  data   : List Byte

def regRange (a n : Nat) : Bool := a % 4 = 0 && 0x40000000 ≤ a && a + n ≤ 0x40022000 && 4 ≤ n && n ≤ 256 && n % 4 = 0

/-- Does a range lie within one bank or one Chanter memory? -/
def memRange (a n : Nat) : Bool :=
  a % 4 = 0 && 4 ≤ n && n ≤ 65536 && n % 4 = 0 &&
    (if a < bankEnd then bankOf (a + n - 1) = bankOf a && a + n ≤ bankEnd
     else match chnLocate a with
      | some (_, .pm, o) => o + n ≤ 0x20000
      | some (_, _, o) => o + n ≤ 0x10000
      | none => false)

def windowRange (a n : Nat) : Bool :=
  0x30000000 ≤ a && a + n ≤ 0x30001000 && a % 16 = 0 && n % 16 = 0 && 16 ≤ n

def vendorRegRead (s : State) (a n : Nat) : Vendor :=
  if !regRange a n then ⟨s, vRNG, []⟩
  else
    let r := (List.range (n / 4)).foldl (fun (r : Dev × List Byte) i =>
      let q := r.1.readReg (a - 0x40000000 + 4 * i)
      (q.1, r.2 ++ leBytes 4 q.2.toNat)) (s.dev, [])
    ⟨{ s with dev := r.1 }, vOK, r.2⟩

def vendorRegWrite (s : State) (ag : Agent) (a n : Nat) (data : List Byte) : Vendor :=
  if !regRange a n then ⟨s, vRNG, []⟩
  else if data.length < n then ⟨s, vLENGTH, []⟩
  else
    ⟨(List.range (n / 4)).foldl (fun (s : State) i =>
      s.regWrite ag (a - 0x40000000 + 4 * i) (BitVec.ofNat 32 (fieldAt data (4 * i) 4))) s, vOK, []⟩

def memStatus (denied unc : Bool) : Nat := if denied then vDENIED else if unc then vUNCOR else vOK

def vendorMemRead (s : State) (a n : Nat) : Vendor :=
  if !memRange a n then ⟨s, vRNG, []⟩
  else if a < bankEnd then
    let r := s.dev.bnkRead oUsb a n
    ⟨{ s with dev := r.dev }, memStatus r.denied r.unc, r.data⟩
  else match chnLocate a with
    | some (c, m, o) =>
      let r := s.dev.chnRead c m o n
      ⟨s, memStatus r.2 false, r.1⟩
    | none => ⟨s, vRNG, []⟩

def vendorMemWrite (s : State) (ag : Agent) (a n : Nat) (data : List Byte) : Vendor :=
  let data := data.take n
  if !(memRange a n || windowRange a n) then ⟨s, vRNG, []⟩
  else if data.length < n then ⟨s, vLENGTH, []⟩
  else if a < bankEnd then
    let r := s.dev.bnkWrite oUsb a data
    ⟨{ s with dev := r.dev }, memStatus r.denied false, []⟩
  else match chnLocate a with
    | some (c, m, o) =>
      let r := s.dev.chnWrite ag c m o data
      ⟨{ s with dev := r.1 }, memStatus r.2 false, []⟩
    | none => ⟨{ s with dev := s.dev.windowWrite .usb (a - 0x30000000) data }, vOK, []⟩

def vendorLock (s : State) (k : Carrier) (a n : Nat) (data : List Byte) : Vendor :=
  if a ≠ 0 || n = 0 || 256 < n then ⟨s, vRNG, []⟩
  else if data.length < n then ⟨s, vLENGTH, []⟩
  else
    let r := s.lockMsg k (data.take n)
    ⟨r.1, vOK, r.2⟩

/-- A response: its header and data. -/
def vendorReply (cmd status seq addr : Nat) (data : List Byte) : List Byte :=
  [BitVec.ofNat 8 cmd, BitVec.ofNat 8 status] ++ leBytes 2 seq ++ leBytes 4 addr ++ leBytes 4 data.length ++ leBytes 4 0 ++ data

/-- Does EP4 OUT take a command: configured, and the event store has room (R140, R577)? -/
def Dev.vendorUp (d : Dev) : Bool := d.usbState = 3 && d.running && d.room

/-- A row of the vendor interface: the command's effect, its response on EP4, and a status other than OK counted. -/
def vendorRow (cmd : Nat) (seq : Half) (addr : Nat) (f : State → Vendor) (s : State) : Out :=
  if !s.dev.vendorUp then .next s
  else
    let r := f s
    let d := if r.status = 0 then r.st.dev else r.st.dev.cnt USB_VCMDERR
    .next { r.st with dev := { d with usb := { d.usb with ep4 := d.usb.ep4 ++ vendorReply cmd r.status seq.toNat addr r.data } } }

def execRegRead (seq : Half) (addr len : Word) (s : State) : Out :=
  vendorRow 1 seq addr.toNat (fun s => vendorRegRead s addr.toNat len.toNat) s
def execRegWrite (seq : Half) (addr len : Word) (data : List Byte) (s : State) : Out :=
  vendorRow 2 seq addr.toNat (fun s => vendorRegWrite s .usb addr.toNat len.toNat data) s
def execMemRead (seq : Half) (addr len : Word) (s : State) : Out :=
  vendorRow 3 seq addr.toNat (fun s => vendorMemRead s addr.toNat len.toNat) s
def execMemWrite (seq : Half) (addr len : Word) (data : List Byte) (s : State) : Out :=
  vendorRow 4 seq addr.toNat (fun s => vendorMemWrite s .usb addr.toNat len.toNat data) s
def execLock (seq : Half) (len : Word) (payload : List Byte) (s : State) : Out :=
  vendorRow 5 seq 0 (fun s => vendorLock s .usbCmd 0 len.toNat payload) s

/-! ### The console (R749, R761, R762) -/

/-- A frame of the console's layout. -/
def consoleWrap (type : Byte) (msg : List Byte) : List Byte :=
  let b := [type] ++ leBytes 2 msg.length ++ msg
  [0xA5] ++ b ++ leBytes 4 (crc32 b)

/-- A vendor command in a console frame: its header and data. -/
def consoleVendor (s : State) (m : List Byte) : Vendor :=
  let cmd := fieldAt m 0 1
  let a := fieldAt m 4 4
  let n := fieldAt m 8 4
  let data := m.drop 16
  if cmd = 0 || 5 < cmd || fieldAt m 1 1 ≠ 0 || fieldAt m 12 4 ≠ 0 then ⟨s, vBADCMD, []⟩
  else if 240 < n then ⟨s, vRNG, []⟩
  else match cmd with
    | 1 => vendorRegRead s a n
    | 2 => vendorRegWrite s .console a n data
    | 3 => vendorMemRead s a n
    | 4 => vendorMemWrite s .console a n data
    | _ => vendorLock s .uart1 a n data

def Dev.frameErr (d : Dev) (rest : List Byte) : Dev := (d.setSer 1 { d.ser 1 with frame := rest }).cnt LCK_FRAMEERR

/-- The bytes received since the last frame, from its first byte 0xA5. -/
def Dev.consoleBytes (d : Dev) : List Byte := (d.ser 1).frame.dropWhile (fun b => b ≠ 0xA5)

/-- What a complete frame does. -/
def consoleTake (s : State) (type : Byte) (msg rest : List Byte) : State :=
  let put (s : State) (reply : List Byte) : State :=
    { s with dev := s.dev.setSer 1 { s.dev.ser 1 with sent := consoleWrap type reply } }
  let s0 := { s with dev := s.dev.setSer 1 { s.dev.ser 1 with frame := rest } }
  if type = 1 then
    let r := s0.lockMsg .uart1 msg
    put r.1 r.2
  else if type = 2 && s.dev.mode = mSERVICE && 16 ≤ msg.length then
    let r := consoleVendor s0 msg
    put r.st (vendorReply (fieldAt msg 0 1) r.status (fieldAt msg 2 2) (fieldAt msg 4 4) r.data)
  else { s with dev := s.dev.frameErr rest }

/-- CONSOLE_FRAME: a frame is complete, or a gap of more than 10 ms has followed its last byte. -/
def consoleFrame (s : State) (gap : Bool) : State :=
  if s.dev.on UART_CTL.MODE 1 || !s.dev.lockUp then s
  else
    let f := s.dev.consoleBytes
    let len := fieldAt f 2 2
    if f.length < 4 || f.length < 8 + len then
      (if gap && !f.isEmpty then { s with dev := s.dev.frameErr [] } else s)
    else
      let rest := f.drop (8 + len)
      if fieldAt f (4 + len) 4 ≠ crc32 ((f.drop 1).take (3 + len)) then { s with dev := s.dev.frameErr rest }
      else consoleTake s (f.getD 1 0) ((f.drop 4).take len) rest

def execConsoleFrame (gap : Bool) (s : State) : Out := .next (consoleFrame s gap)

end Sys2Proof.Machine
end

