-- ==== Sys2Proof/Machine/Block.lean ====
section
/-!
DEFINITION. The start of a block (R17): rendering of the block before, input routes, stream receive slots, meters, the bus
exchange with the Chanter cores, and their pacing.
-/
namespace Sys2Proof.Machine

/-! ### Stage S2 after the Reeds (R362, R544, R623) -/

/-- Add a contribution into sample `p` of a bus, saturated (R181). -/
def Dev.addBus (d : Dev) (bus p : Nat) (x : Rat) : Dev :=
  let old : Int := sget 0 (busKey bus p) d.rda.bus
  let n := roundQ ((old : Rat) + x)
  let v := clampI (-2147483647) 2147483647 n
  let d := { d with rda := { d.rda with bus := sput 0 (busKey bus p) v d.rda.bus } }
  if v = n then d else d.cnt RDA_BUSSAT

/-- A received frame of a serial port for a position. -/
def Dev.sapAtPos (d : Dev) (port p : Nat) : Option (List Int) :=
  (d.bel.sapIn.find? (fun e => e.1 = port && e.2.1 = p)).map (·.2.2)

/-- The sample of an input channel for a position (R358, R359). -/
def Dev.inSample (d : Dev) (n p : Nat) : Int :=
  if n < 64 then
    (if d.sapSlot (n / 16) (n % 16) SAP_CTL.RXEN then ((d.sapAtPos (n / 16) p).getD []).getD (n % 16) 0 else 0)
  else if d.usbOut && n - 64 < d.usb.outCh then
    (((d.usb.taken.find? (fun e => e.1 = p)).map (·.2)).getD []).getD (n - 64) 0
  else 0

/-- The input routes of a block; a position that no frame of a slave port reaches counts a slip (R362, R390). -/
def Dev.inputRoutes (d : Dev) (b n : Nat) : Dev :=
  let d := d.usbTake (b + n - 1)
  let d := (List.range 4).foldl (fun (d : Dev) p =>
    if d.on SAP_CTL.SLAVE p && d.on SAP_CTL.RXEN p then
      (List.range n).foldl (fun (d : Dev) i => if (d.sapAtPos p (b + i)).isNone then d.slip p else d) d
    else d) d
  let d := ((List.range 96).filter (fun c => d.on BEL_IROUTE.EN c)).foldl (fun (d : Dev) c =>
    let g := gainOf (d.g BEL_IROUTE.GAIN c)
    (List.range n).foldl (fun (d : Dev) i => d.addBus (d.g BEL_IROUTE.BUS c) (b + i) ((d.inSample c (b + i) : Rat) * g)) d) d
  { d with bel := { d.bel with sapIn := d.bel.sapIn.filter (fun e => b + n ≤ e.2.1) },
           usb := { d.usb with taken := d.usb.taken.filter (fun e => b + n ≤ e.1) } }

/-- One receive slot takes its entry for position b − LAT (R544); in SAFE it adds zero (R679). -/
def Dev.streamTake (d : Dev) (s b n : Nat) : Dev :=
  let lat := d.g BLW_STR_LAT.LAT s
  if !d.strOn s 1 then d
  else if b < lat then d.strMiss s
  else
    let p := b - lat
    let e := d.strEntry s p
    let a := d.strEntryAddr s e
    let ready := d.blw.ready.contains (s, e)
    let d := { d with blw := { d.blw with ready := d.blw.ready.erase (s, e) } }
    if d.mode = mSAFE then d
    else
      let before := d
      let r := d.bnkRead oBlw a (d.strLen s)
      let d := r.dev
      let good : Bool := ready && !r.denied && fieldAt r.data 0 8 = p * 65536 && fieldAt r.data 8 4 = d.g BLW_STR_MASK s
        && fieldAt r.data 12 2 % 4096 = d.g BLW_STR.NODE s
      if !good then d.strMiss s
      else
        let g := gainOf (d.g BLW_STR_LAT.GAIN s)
        ((d.strBuses s).zipIdx.foldl (fun (d : Dev) (m : Nat × Nat) =>
          (List.range n).foldl (fun (d : Dev) i =>
            let o := 16 + (m.2 * n + i) * 4
            let v : Int := if before.bnk.poison.contains ((a + o) / 8) then 0 else signed 32 (fieldAt r.data o 4)
            d.addBus m.1 (b + i) ((v : Rat) * g)) d) d)

/-- Level of a mean square in the format of R181 (R816). -/
def msLevel (ms : Rat) : Nat :=
  if ms ≤ 0 then 0x8000
  else
    let db : Rat := 10 * Config.log10 (ms / 18014398509481984)
    if db < -128 then 0x8000 else (BitVec.ofInt 16 (min 0x7FFF (Rat.floor (db * 256 + 1 / 2)))).toNat

/-- HRP_MTRi of a bus over a block: peak and rms. -/
def Dev.meter (d : Dev) (bus b n : Nat) : Word :=
  let v : List Int := (List.range n).map (fun i => sget 0 (busKey bus (b + i)) d.rda.bus)
  let peak : Nat := v.foldl (fun a x => max a x.natAbs) 0
  let sq : Nat := v.foldl (fun a x => a + x.natAbs * x.natAbs) 0
  let pl := (levelOf (peak : Rat)).toNat
  if pl = 0x8000 then 0x80008000
  else BitVec.ofNat 32 (pl + msLevel ((sq : Rat) / (n : Rat)) * 65536)

/-! ### The bus exchange (R364, R365) -/

/-- Write block `k` of a core's input ring. -/
def Dev.exchange (d : Dev) (k b n c : Nat) : Dev :=
  let l := d.linkWords c
  let u := d.core c
  if !linkEn l || !u.pwr || u.est = RETIRED then d
  else if !d.ringsOk c l then d.s BEL_STAT.LINKERR 1
  else
    let buses := busesOf (linkMask l)
    buses.zipIdx.foldl (fun (d : Dev) (m : Nat × Nat) =>
      let a := linkIn l + ((k % 2 * buses.length + m.2) * n) * 4
      (d.bnkWrite (oChn c) a ((List.range n).flatMap (fun i =>
        leBytes 4 (BitVec.ofInt 32 (sget 0 (busKey m.1 (b + i)) d.rda.bus)).toNat))).dev) d

/-- Stage S2 of block `k`. -/
def Dev.stageS2 (d : Dev) (k : Nat) : Dev :=
  let n := d.blk
  let b := k * n
  let d := (d.renderBlock b n).inputRoutes b n
  let d := (List.range 64).foldl (fun (d : Dev) s => d.streamTake s b n) d
  let d := d.placeResult gMeters ((List.range 32).map (fun bus => d.meter bus b n))
  (List.range 16).foldl (fun (d : Dev) c => d.exchange k b n c) d

/-! ### Core pacing (R278, R286, R319, R366) -/

/-- A block start reaches core `c`: `finished` is the block whose stage S3 ends here. -/
def Dev.pace (d : Dev) (finished : Option Nat) (c : Nat) : Dev :=
  let k := d.core c
  let late := k.pwr && k.est = ENABLED && !k.done
  let d := if late then d.raise nCHN 2 c else d
  let blocks := match finished with
    | some j => if k.own then (k.blocks ++ [j]).drop (k.blocks.length - 63) else k.blocks
    | none => k.blocks
  let k := { k with blocks := blocks, ovr := if late && k.ovr ≠ 0xFF then k.ovr + 1 else k.ovr, done := false, own := false,
                    bsp := true, ipend := if k.pwr then k.ipend ||| 1 else k.ipend, xline := none, yline := none,
                    cycNow := d.brt.tbase }
  d.setCore c k.sync

/-! ### The command -/

/-- The next block start, once the Breath has reached it. The first after start-up or a move renders nothing. -/
def blockStart (parity : List (BitVec 5)) (d : Dev) : Dev :=
  if !d.on BRT_STAT.RUNNING || !d.running then d
  else
    let now := d.blkNum
    let k := match d.rda.block with
      | some cur => cur + 1
      | none => now
    if now < k then d
    else
      let d := { d with not := { d.not with once := [] }, bnk := { d.bnk with misses := [] } }
      let fresh := d.rda.block.isNone
      let d := d.partsBlockStart.patchBlockStart.lanesBlockStart
      let d := parity.foldl (fun (d : Dev) l => d.laneParity l.toNat) d
      let d := if fresh || k = 0 || k * d.blk ≤ d.bel.busFrom then d else d.stageS2 (k - 1)
      let finished := if fresh || k < 3 then none else some (k - 3)
      let d := (List.range 16).foldl (fun (d : Dev) c => d.pace finished c) d
      let d := { d with rda := { d.rda with block := some k } }
      (d.leaseScan.epochScan).s SYS_BLKNUM k

def execBlockStart (parity : List (BitVec 5)) (s : State) : Out := onDev (blockStart parity) s

end Sys2Proof.Machine
end

