-- ==== Sys2Proof/Machine/ChnArith.lean ====
section
/-!
DEFINITION. The parallel-format instructions of a Chanter core (R256 to R266, R299): each does its arithmetic and its X
and Y moves at once.
-/
namespace Sys2Proof.Machine

/-! ### Shared operations -/

/-- Write exact results into accumulators: each wraps modulo 2^72, any out of range sets GOV, the first result sets Z, N and
E, and a load still on its way to one of them is replaced (R255, R258, R307). -/
def Core.putAccs (k : Core) (l : List (Nat × Int)) : Core :=
  let acc := l.foldl (fun (a : List (BitVec 72)) (e : Nat × Int) => setAt a e.1 (BitVec.ofInt 72 e.2)) k.acc
  let k := { k with acc := acc, pend := k.pend.filter (fun e => !(accsOf e.code.toNat).any (fun (n : Nat) => l.any (fun (x : Nat × Int) => x.1 = n))) }
  let k := k.stick cGOV (l.any (fun e => outOf72 e.2))
  match l with
  | e :: _ => k.flags (BitVec.ofInt 72 e.2)
  | [] => k

/-- A parallel instruction: its X and Y moves beside an effect on the core. -/
def Dev.par (d : Dev) (c : BitVec 4) (i : Instr) (xm ym : Mv) (w : Core → Writes) (effect : Core → Core)
    (err : Option MemErr := none) : Dev :=
  d.issueAcc c i (fun k => [k.mvAccess false xm, k.mvAccess true ym].filterMap id) w effect err

/-- A parallel instruction whose arithmetic writes the accumulators that `f` lists. -/
def Dev.accOp (d : Dev) (c : BitVec 4) (i : Instr) (xm ym : Mv) (f : Core → List (Nat × Int)) : Dev :=
  d.par c i xm ym (fun k => { accs := (f k).map (·.1) }) (fun k => k.putAccs (f k))

def Core.xr (k : Core) (a : BitVec 2) : BitVec 64 := k.x.getD a.toNat 0
def Core.yr (k : Core) (b : BitVec 2) : BitVec 64 := k.y.getD b.toNat 0

/-- ac − bd, ad + bc, ac + bd and bc − ad of the complex values in Xa and Yb (R249, R257). -/
def Core.cre (k : Core) (a b : BitVec 2) : Int :=
  prod31 (halfOf (k.xr a) 0) (halfOf (k.yr b) 0) - prod31 (halfOf (k.xr a) 1) (halfOf (k.yr b) 1)
def Core.cim (k : Core) (a b : BitVec 2) : Int :=
  prod31 (halfOf (k.xr a) 0) (halfOf (k.yr b) 1) + prod31 (halfOf (k.xr a) 1) (halfOf (k.yr b) 0)
def Core.creJ (k : Core) (a b : BitVec 2) : Int :=
  prod31 (halfOf (k.xr a) 0) (halfOf (k.yr b) 0) + prod31 (halfOf (k.xr a) 1) (halfOf (k.yr b) 1)
def Core.cimJ (k : Core) (a b : BitVec 2) : Int :=
  prod31 (halfOf (k.xr a) 1) (halfOf (k.yr b) 0) - prod31 (halfOf (k.xr a) 0) (halfOf (k.yr b) 1)

/-- The two results of a pair operation on pair `p`: even first. -/
def pairRes (k : Core) (p : BitVec 2) (re im : Int → Int) : List (Nat × Int) :=
  [(2 * p.toNat, re (k.accInt (2 * p.toNat))), (2 * p.toNat + 1, im (k.accInt (2 * p.toNat + 1)))]

/-- Xa.h × Yb.h. -/
def Core.real (k : Core) (a : BitVec 2) (hx : BitVec 1) (b : BitVec 2) (hy : BitVec 1) : Int :=
  prod31 (halfOf (k.xr a) hx.toNat) (halfOf (k.yr b) hy.toNat)

/-! ### No operation -/

/-- The word at the fetch address fails its parity: the core stops fetching, and the row march starts (R294). -/
def Dev.pmParity (d : Dev) (c : Nat) : Dev :=
  let k := d.core c
  if k.issuing then (d.setCore c { k with pmBad := true }).startTest kPm c (k.front.pc.toNat / 8) else d

/-- NOP moves and does no arithmetic; a word with a reserved encoding is a program fault (R299, R326). -/
def execNop (c : BitVec 4) (form : NopForm) (s : State) : Out :=
  onDev (fun d => match form with
    | .moves xm ym err => d.par c (.nop c (.moves xm ym none)) xm ym (fun _ => {}) id err
    | .parity => d.pmParity c.toNat
    | .reserved => match d.atInstr c (.nop c .reserved) with
      | some _ => d.progFault c.toNat 1
      | none => d) s

/-! ### Multiply classes (R257) -/

def execCmac (c : BitVec 4) (k a b : BitVec 2) (xm ym : Mv) (s : State) : Out :=
  onDev (fun d => d.accOp c (.cmac c k a b xm ym) xm ym (fun u => pairRes u k (· + u.cre a b) (· + u.cim a b))) s

def execCmsu (c : BitVec 4) (k a b : BitVec 2) (xm ym : Mv) (s : State) : Out :=
  onDev (fun d => d.accOp c (.cmsu c k a b xm ym) xm ym (fun u => pairRes u k (· - u.cre a b) (· - u.cim a b))) s

def execCmpy (c : BitVec 4) (k a b : BitVec 2) (xm ym : Mv) (s : State) : Out :=
  onDev (fun d => d.accOp c (.cmpy c k a b xm ym) xm ym (fun u => pairRes u k (fun _ => u.cre a b) (fun _ => u.cim a b))) s

def execCmacj (c : BitVec 4) (k a b : BitVec 2) (xm ym : Mv) (s : State) : Out :=
  onDev (fun d => d.accOp c (.cmacj c k a b xm ym) xm ym (fun u => pairRes u k (· + u.creJ a b) (· + u.cimJ a b))) s

def execDmac (c : BitVec 4) (k a b : BitVec 2) (xm ym : Mv) (s : State) : Out :=
  onDev (fun d => d.accOp c (.dmac c k a b xm ym) xm ym
    (fun u => pairRes u k (· + u.real a 0 b 0) (· + u.real a 1 b 1))) s

def execMac (c : BitVec 4) (n : BitVec 3) (a : BitVec 2) (hx : BitVec 1) (b : BitVec 2) (hy : BitVec 1) (xm ym : Mv)
    (s : State) : Out :=
  onDev (fun d => d.accOp c (.mac c n a hx b hy xm ym) xm ym (fun u => [(n.toNat, u.accInt n.toNat + u.real a hx b hy)])) s

def execMsu (c : BitVec 4) (n : BitVec 3) (a : BitVec 2) (hx : BitVec 1) (b : BitVec 2) (hy : BitVec 1) (xm ym : Mv)
    (s : State) : Out :=
  onDev (fun d => d.accOp c (.msu c n a hx b hy xm ym) xm ym (fun u => [(n.toNat, u.accInt n.toNat - u.real a hx b hy)])) s

def execMpy (c : BitVec 4) (n : BitVec 3) (a : BitVec 2) (hx : BitVec 1) (b : BitVec 2) (hy : BitVec 1) (xm ym : Mv)
    (s : State) : Out :=
  onDev (fun d => d.accOp c (.mpy c n a hx b hy xm ym) xm ym (fun u => [(n.toNat, u.real a hx b hy)])) s

def execMag (c : BitVec 4) (n : BitVec 3) (a : BitVec 2) (xm ym : Mv) (s : State) : Out :=
  onDev (fun d => d.accOp c (.mag c n a xm ym) xm ym (fun u =>
    [(n.toNat, prod31 (halfOf (u.xr a) 0) (halfOf (u.xr a) 0) + prod31 (halfOf (u.xr a) 1) (halfOf (u.xr a) 1))])) s

/-! ### Accumulator classes (R257, R258) -/

def execAdd (c : BitVec 4) (n m : BitVec 3) (xm ym : Mv) (s : State) : Out :=
  onDev (fun d => d.accOp c (.add c n m xm ym) xm ym (fun u => [(n.toNat, u.accInt n.toNat + u.accInt m.toNat)])) s

def execSub (c : BitVec 4) (n m : BitVec 3) (xm ym : Mv) (s : State) : Out :=
  onDev (fun d => d.accOp c (.sub c n m xm ym) xm ym (fun u => [(n.toNat, u.accInt n.toNat - u.accInt m.toNat)])) s

def execTfr (c : BitVec 4) (n m : BitVec 3) (xm ym : Mv) (s : State) : Out :=
  onDev (fun d => d.accOp c (.tfr c n m xm ym) xm ym (fun u => [(n.toNat, u.accInt m.toNat)])) s

def execAddx (c : BitVec 4) (n : BitVec 3) (a : BitVec 2) (hx : BitVec 1) (xm ym : Mv) (s : State) : Out :=
  onDev (fun d => d.accOp c (.addx c n a hx xm ym) xm ym
    (fun u => [(n.toNat, u.accInt n.toNat + (halfOf (u.xr a) hx.toNat).toInt * 2 ^ 32)])) s

def execNeg (c : BitVec 4) (n : BitVec 3) (xm ym : Mv) (s : State) : Out :=
  onDev (fun d => d.accOp c (.neg c n xm ym) xm ym (fun u => [(n.toNat, - u.accInt n.toNat)])) s

def execAbs (c : BitVec 4) (n : BitVec 3) (xm ym : Mv) (s : State) : Out :=
  onDev (fun d => d.accOp c (.abs c n xm ym) xm ym
    (fun u => [(n.toNat, if u.accInt n.toNat < 0 then - u.accInt n.toNat else u.accInt n.toNat)])) s

def execClr (c : BitVec 4) (n : BitVec 3) (xm ym : Mv) (s : State) : Out :=
  onDev (fun d => d.accOp c (.clr c n xm ym) xm ym (fun _ => [(n.toNat, 0)])) s

def execAsl (c : BitVec 4) (n : BitVec 3) (sh : BitVec 5) (xm ym : Mv) (s : State) : Out :=
  onDev (fun d => d.accOp c (.asl c n sh xm ym) xm ym (fun u => [(n.toNat, u.accInt n.toNat * 2 ^ sh.toNat)])) s

def execAsr (c : BitVec 4) (n : BitVec 3) (sh : BitVec 5) (xm ym : Mv) (s : State) : Out :=
  onDev (fun d => d.accOp c (.asr c n sh xm ym) xm ym (fun u => [(n.toNat, u.accInt n.toNat / 2 ^ sh.toNat)])) s

/-! ### Logic (R257) -/

/-- A bitwise operation on Xa and Yb, its result to Xa; the accumulator flags stay (R255). -/
def Dev.logic (d : Dev) (c : BitVec 4) (i : Instr) (a b : BitVec 2) (xm ym : Mv) (f : BitVec 64 → BitVec 64 → BitVec 64) :
    Dev :=
  d.par c i xm ym (fun _ => { xreg := some a.toNat }) (fun u => u.load a.toNat (f (u.xr a) (u.yr b)))

def execAnd (c : BitVec 4) (a b : BitVec 2) (xm ym : Mv) (s : State) : Out :=
  onDev (fun d => d.logic c (.and c a b xm ym) a b xm ym (· &&& ·)) s

def execOr (c : BitVec 4) (a b : BitVec 2) (xm ym : Mv) (s : State) : Out :=
  onDev (fun d => d.logic c (.or c a b xm ym) a b xm ym (· ||| ·)) s

def execXor (c : BitVec 4) (a b : BitVec 2) (xm ym : Mv) (s : State) : Out :=
  onDev (fun d => d.logic c (.xor c a b xm ym) a b xm ym (· ^^^ ·)) s

/-! ### Running minimum and maximum (R264 to R266) -/

/-- The operand: a half of an operand register, or ACCn.H truncated and saturated (R265). -/
def Core.maxOperand (k : Core) : MaxSrc → BitVec 32
  | .half r h => halfOf (if r.toNat < 4 then k.x.getD r.toNat 0 else k.y.getD (r.toNat - 4) 0) h.toNat
  | .acc n => (accH 0 (k.acc.getD n.toNat 0)).1

def Core.dropSearch (k : Core) (l : List Nat) : Core :=
  { k with pend := k.pend.filter (fun e => match searchOf e.code.toNat with
      | some n => !l.contains n
      | none => true) }

/-- Search registers that MAXI and MINI write on an operand. -/
def Core.searchWrites (k : Core) (v : BitVec 32) (doMax doMin : Bool) : List Nat :=
  (if doMax && k.mxv.toInt < v.toInt then [0, 2] else []) ++ (if doMin && v.toInt < k.mnv.toInt then [1, 3] else []) ++ [4]

def Core.search (k : Core) (v : BitVec 32) (doMax doMin : Bool) : Core :=
  let gt := doMax && k.mxv.toInt < v.toInt
  let lt := doMin && v.toInt < k.mnv.toInt
  { k.dropSearch (k.searchWrites v doMax doMin) with
      mxv := if gt then v else k.mxv, mxi := if gt then k.sidx else k.mxi,
      mnv := if lt then v else k.mnv, mni := if lt then k.sidx else k.mni, sidx := k.sidx + 1 }

def Dev.searchOp (d : Dev) (c : BitVec 4) (i : Instr) (src : MaxSrc) (xm ym : Mv) (doMax doMin : Bool) : Dev :=
  d.par c i xm ym (fun u => { search := u.searchWrites (u.maxOperand src) doMax doMin })
    (fun u => u.search (u.maxOperand src) doMax doMin)

def execMaxi (c : BitVec 4) (src : MaxSrc) (xm ym : Mv) (s : State) : Out :=
  onDev (fun d => d.searchOp c (.maxi c src xm ym) src xm ym true false) s

def execMini (c : BitVec 4) (src : MaxSrc) (xm ym : Mv) (s : State) : Out :=
  onDev (fun d => d.searchOp c (.mini c src xm ym) src xm ym false true) s

def execMaxmin (c : BitVec 4) (src : MaxSrc) (xm ym : Mv) (s : State) : Out :=
  onDev (fun d => d.searchOp c (.maxmin c src xm ym) src xm ym true true) s

def execClrmx (c : BitVec 4) (xm ym : Mv) (s : State) : Out :=
  onDev (fun d => d.par c (.clrmx c xm ym) xm ym (fun _ => { search := [0, 1, 2, 3, 4] })
    (fun u => { u.dropSearch [0, 1, 2, 3, 4] with mxv := 0x80000000, mnv := 0x7FFFFFFF, mxi := 0, mni := 0, sidx := 0 })) s

end Sys2Proof.Machine
end

