-- ==== Sys2Proof/Machine/Pins.lean ====
section
/-!
DEFINITION. What the device drives on each ball of the boundary register (R784, R814, R815), and the test access port
(R747, R812 to R815).
-/
namespace Sys2Proof.Machine

/-! ### Balls (R782, R814) -/

/-- The balls that the boundary register serves. -/
inductive Ball where
  | hd (k : Nat) | hbe (k : Nat) | hcs | hoe | hwe | hirq | hwake | dwake
  | ha (k : Nat)
  | timIo (n : Nat) | uartRx (n : Nat) | uartTx (n : Nat)
  | bthVs | bthHs | bthWc | bthWco | muteOut | vid (k : Nat) | resetN
  | qspiClk | qspiCs | qspiIo (k : Nat)
  | sapBclk (p : Nat) | sapFs (p : Nat) | sapTxd (p : Nat) | sapRxd (p : Nat) | sapMclk
deriving DecidableEq, Repr

/-- The balls in the order of the ball-assignment table, ball 0 nearest TDI. -/
def balls : List Ball :=
  List.flatten [
    (List.range 16).map Ball.hd,
    [Ball.hbe 0, Ball.hbe 1, Ball.hcs, Ball.hoe, Ball.hwe, Ball.hirq, Ball.hwake, Ball.dwake],
    (List.range 20).map (fun k => Ball.ha (k + 1)),
    (List.range 8).map Ball.timIo,
    [Ball.uartRx 0, Ball.uartTx 0, Ball.uartRx 1, Ball.uartTx 1],
    [Ball.bthVs, Ball.bthHs, Ball.bthWc, Ball.bthWco, Ball.muteOut],
    (List.range 4).map Ball.vid,
    [Ball.resetN, Ball.qspiClk, Ball.qspiCs],
    (List.range 4).map Ball.qspiIo,
    (List.range 4).flatMap (fun p => [Ball.sapBclk p, Ball.sapFs p, Ball.sapTxd p, Ball.sapRxd p]),
    [Ball.sapMclk]]

/-- Balls that only receive: their output cells are inert, and RESET_N's too. -/
def Ball.inputOnly : Ball → Bool
  | .hbe _ => true
  | .hcs => true
  | .hoe => true
  | .hwe => true
  | .hwake => true
  | .ha _ => true
  | .uartRx _ => true
  | .bthVs => true
  | .bthHs => true
  | .bthWc => true
  | .resetN => true
  | .sapRxd _ => true
  | _ => false

/-- Does a notice drive HIRQ_N low (R635)? -/
def Dev.hirq (d : Dev) : Bool := d.not.q.any (fun w => d.irqSrc (w.toNat % 64))

/-- BTH_WCO: high in the first half of a sample (R102). -/
def Dev.wcOut (d : Dev) : Bool :=
  d.on BRT_CTL.WCOEN && d.on BRT_STAT.RUNNING && d.mode ≠ mDORMANT && (fracOf d.brt.pos).toNat < 32768

/-- What the device itself drives on a ball: a level, high impedance, or a clock or data level that no rule fixes here. -/
inductive Drive where
  | level (b : Bool)
  | hiZ
  | moving
deriving DecidableEq, Repr

/-- The signal-ball table (R784), between bus and flash operations. -/
def Dev.drives (d : Dev) (b : Ball) : Drive :=
  let m := d.mode
  let asleep : Bool := m = mIDLE || m = mDORMANT
  match b with
  | .hirq => .level !(d.hirq && m ≠ mRESET && m ≠ mBOOT)
  | .dwake => if d.on HRP_WAKE.DWAKE then .level false else .hiZ
  | .uartTx _ => .level true
  | .timIo n =>
    if m = mRESET || m = mBOOT then .hiZ
    else match d.g TIM_CTL.IOMODE n with
      | 1 => .level (d.tch n).io
      | 2 => if (d.tch n).io then .hiZ else .level false
      | _ => .hiZ
  | .bthWco => .level d.wcOut
  | .muteOut => .level (d.muteOut || asleep)
  | .vid k => .level (bit (d.g PWR_VID.CODE) k)
  | .qspiClk => .level false
  | .qspiCs => if m = mRESET || m = mDORMANT then .hiZ else .level true
  | .sapBclk p => if !d.running then (if asleep then .level false else .hiZ) else if d.on SAP_CTL.SLAVE p then .hiZ else .moving
  | .sapFs p => if !d.running then (if asleep then .level false else .hiZ) else if d.on SAP_CTL.SLAVE p then .hiZ else .moving
  | .sapTxd p => if !d.running then (if asleep then .level false else .hiZ) else if d.on SAP_CTL.TXEN p then .moving else .hiZ
  | .sapMclk => if d.running && d.g SAP_MCLKCTL ≠ 0 then .moving else .level false
  | _ => .hiZ

/-- What stands on a ball's output: the device's own drive, or during EXTEST what the boundary cells say (R815). -/
def State.ballOut (s : State) (k : Nat) : Drive :=
  let b := balls.getD k .resetN
  if s.tap.ir = 0 && !b.inputOnly then
    (if s.tap.latch.getD (3 * k + 2) false then .level (s.tap.latch.getD (3 * k + 1) false) else .hiZ)
  else s.dev.drives b

/-- The level captured at a ball: what is driven there; RESET_N's level; else the level that the board puts there, which the
model does not hold (notes/assumptions/6). -/
def State.ballIn (s : State) (fresh : BitVec 267) (k : Nat) : Bool :=
  if balls.getD k .resetN = .resetN then s.pins.resetN
  else match s.ballOut k with
    | .level b => b
    | _ => fresh.getLsbD (3 * k)

/-- The 267 cells captured: input level, output data and output enable of each ball. -/
def State.capture (s : State) : List Bool :=
  let fresh : BitVec 267 := s.dev.draw 267
  (List.range 89).flatMap (fun k =>
    match s.dev.drives (balls.getD k .resetN) with
    | .level b => [s.ballIn fresh k, b, true]
    | .hiZ => [s.ballIn fresh k, fresh.getLsbD (3 * k + 1), false]
    | .moving => [s.ballIn fresh k, fresh.getLsbD (3 * k + 1), true])

/-! ### The TAP (R812, R813) -/

/-- The bits of a word, least significant first. -/
def bitList (n v : Nat) : List Bool := (List.range n).map (fun i => v.testBit i)

/-- The identification register (R813). -/
def idcode : Nat := 0x140962B3

/-- A TAP command works once the AON detector has released (R785). -/
def onTap (f : State → State) (s : State) : Out := .next (if s.pins.por then f s else s)

def execTapReset (s : State) : Out := onTap (fun s => { s with tap := { s.tap with ir := 2, dr := bitList 32 idcode } }) s
def execIdcode (s : State) : Out := onTap (fun s => { s with tap := { s.tap with ir := 2, dr := bitList 32 idcode } }) s

/-- SAMPLE/PRELOAD: the balls are captured, and the cells shifted in are loaded into the update latches. -/
def execSamplePreload (cells : List Bool) (s : State) : Out :=
  onTap (fun s => { s with tap := { ir := 1, dr := s.capture, latch := (cells ++ List.replicate 267 false).take 267 },
                           dev := s.dev.drawn }) s

/-- EXTEST: the update latches own every ball they serve; the logic keeps running. -/
def execExtest (s : State) : Out :=
  onTap (fun s => { s with tap := { s.tap with ir := 0, dr := s.capture }, dev := s.dev.drawn }) s

/-- Are the private codes open: scopes DEBUG and TEST both (R746, R812)? -/
def Dev.privateOpen (d : Dev) : Bool := bit (d.g LCK_STAT.SCOPES) 1 && bit (d.g LCK_STAT.SCOPES) 2

/-- BYPASS, and every private code while DEBUG or TEST is closed: the one-bit register. A private code while both are open
has no effect that the spec gives. The codes of the other public instructions are theirs. -/
def execBypass (code : BitVec 5) (s : State) : Out :=
  if !s.pins.por || code.toNat < 3 then .next s
  else if code ≠ 31 && s.dev.privateOpen then .fault .privateInstruction
  else .next { s with tap := { s.tap with ir := code, dr := [false] } }

end Sys2Proof.Machine
end

