-- ==== Sys2Proof/Machine/Dispatch.lean ====
section
/-!
DEFINITION. One arm per command, each one direct call of its meaning.
-/
namespace Sys2Proof.Machine

/-- The effect of a command on everything but the queue. -/
def exec (i : Instr) (s : State) : Host.Outcome State Fault Refusal :=
  match i with
  | .resetNRise qio33 otpBad => Sys2Proof.Machine.execResetNRise qio33 otpBad s
  | .bodyReadComplete rowFails => Sys2Proof.Machine.execBodyReadComplete rowFails s
  | .reload ag => Sys2Proof.Machine.execReload ag s
  | .start ag => Sys2Proof.Machine.execStart ag s
  | .programBody ag => Sys2Proof.Machine.execProgramBody ag s
  | .verify ag => Sys2Proof.Machine.execVerify ag s
  | .record ag => Sys2Proof.Machine.execRecord ag s
  | .commit ag => Sys2Proof.Machine.execCommit ag s
  | .abort ag => Sys2Proof.Machine.execAbort ag s
  | .cfgCmdend opsDone flashFail => Sys2Proof.Machine.execCfgCmdend opsDone flashFail s
  | .pmReload c => Sys2Proof.Machine.execPmReload c s
  | .blockStart parity => Sys2Proof.Machine.execBlockStart parity s
  | .eventIntake c err => Sys2Proof.Machine.execEventIntake c err s
  | .allOff bothBad => Sys2Proof.Machine.execAllOff bothBad s
  | .ingressWindowWrite ag off data => Sys2Proof.Machine.execIngressWindowWrite ag off data s
  | .reedPrefetch reed osc burst => Sys2Proof.Machine.execReedPrefetch reed osc burst s
  | .invalidate num => Sys2Proof.Machine.execInvalidate num s
  | .validate num => Sys2Proof.Machine.execValidate num s
  | .rdaPlibWrite ag v => Sys2Proof.Machine.execRdaPlibWrite ag v s
  | .rdaRselWrite ag v => Sys2Proof.Machine.execRdaRselWrite ag v s
  | .valSpill2Write ag v => Sys2Proof.Machine.execValSpill2Write ag v s
  | .nop c form => Sys2Proof.Machine.execNop c form s
  | .cmac c k a b xm ym => Sys2Proof.Machine.execCmac c k a b xm ym s
  | .cmsu c k a b xm ym => Sys2Proof.Machine.execCmsu c k a b xm ym s
  | .cmpy c k a b xm ym => Sys2Proof.Machine.execCmpy c k a b xm ym s
  | .cmacj c k a b xm ym => Sys2Proof.Machine.execCmacj c k a b xm ym s
  | .dmac c k a b xm ym => Sys2Proof.Machine.execDmac c k a b xm ym s
  | .mac c d a hx b hy xm ym => Sys2Proof.Machine.execMac c d a hx b hy xm ym s
  | .msu c d a hx b hy xm ym => Sys2Proof.Machine.execMsu c d a hx b hy xm ym s
  | .mpy c d a hx b hy xm ym => Sys2Proof.Machine.execMpy c d a hx b hy xm ym s
  | .mag c d a xm ym => Sys2Proof.Machine.execMag c d a xm ym s
  | .add c d sx xm ym => Sys2Proof.Machine.execAdd c d sx xm ym s
  | .sub c d sx xm ym => Sys2Proof.Machine.execSub c d sx xm ym s
  | .tfr c d sx xm ym => Sys2Proof.Machine.execTfr c d sx xm ym s
  | .addx c d a hx xm ym => Sys2Proof.Machine.execAddx c d a hx xm ym s
  | .neg c d xm ym => Sys2Proof.Machine.execNeg c d xm ym s
  | .abs c d xm ym => Sys2Proof.Machine.execAbs c d xm ym s
  | .clr c d xm ym => Sys2Proof.Machine.execClr c d xm ym s
  | .asl c d sx xm ym => Sys2Proof.Machine.execAsl c d sx xm ym s
  | .asr c d sx xm ym => Sys2Proof.Machine.execAsr c d sx xm ym s
  | .and c a b xm ym => Sys2Proof.Machine.execAnd c a b xm ym s
  | .or c a b xm ym => Sys2Proof.Machine.execOr c a b xm ym s
  | .xor c a b xm ym => Sys2Proof.Machine.execXor c a b xm ym s
  | .maxi c src xm ym => Sys2Proof.Machine.execMaxi c src xm ym s
  | .mini c src xm ym => Sys2Proof.Machine.execMini c src xm ym s
  | .maxmin c src xm ym => Sys2Proof.Machine.execMaxmin c src xm ym s
  | .clrmx c xm ym => Sys2Proof.Machine.execClrmx c xm ym s
  | .ldi c reg imm => Sys2Proof.Machine.execLdi c reg imm s
  | .mova c store ySpace reg addr err => Sys2Proof.Machine.execMova c store ySpace reg addr err s
  | .movp c store ySpace reg p mode err => Sys2Proof.Machine.execMovp c store ySpace reg p mode err s
  | .movr c dst src => Sys2Proof.Machine.execMovr c dst src s
  | .bra c cond target => Sys2Proof.Machine.execBra c cond target s
  | .call c target => Sys2Proof.Machine.execCall c target s
  | .ret c cond => Sys2Proof.Machine.execRet c cond s
  | .rti c => Sys2Proof.Machine.execRti c s
  | .rep c count le => Sys2Proof.Machine.execRep c count le s
  | .repr c reg le => Sys2Proof.Machine.execRepr c reg le s
  | .evpost c a b => Sys2Proof.Machine.execEvpost c a b s
  | .pmw c a p => Sys2Proof.Machine.execPmw c a p s
  | .pmr c a p => Sys2Proof.Machine.execPmr c a p s
  | .syncp c => Sys2Proof.Machine.execSyncp c s
  | .waitb c => Sys2Proof.Machine.execWaitb c s
  | .linv c => Sys2Proof.Machine.execLinv c s
  | .lopen c => Sys2Proof.Machine.execLopen c s
  | .notify c v => Sys2Proof.Machine.execNotify c v s
  | .stop c => Sys2Proof.Machine.execStop c s
  | .interruptAccept c => Sys2Proof.Machine.execInterruptAccept c s
  | .storeBufferDrain c => Sys2Proof.Machine.execStoreBufferDrain c s
  | .windowLineFill c ySpace => Sys2Proof.Machine.execWindowLineFill c ySpace s
  | .windowTimeout c ySpace => Sys2Proof.Machine.execWindowTimeout c ySpace s
  | .outsideAccess ag c mem off wide write => Sys2Proof.Machine.execOutsideAccess ag c mem off wide write s
  | .chnPowerOff ag c => Sys2Proof.Machine.execChnPowerOff ag c s
  | .chnPowerOn ag c => Sys2Proof.Machine.execChnPowerOn ag c s
  | .restart ag c => Sys2Proof.Machine.execRestart ag c s
  | .door ag c => Sys2Proof.Machine.execDoor ag c s
  | .chnWindowWrite ag c ySpace v => Sys2Proof.Machine.execChnWindowWrite ag c ySpace v s
  | .coreRegisterViewWrite ag c off v => Sys2Proof.Machine.execCoreRegisterViewWrite ag c off v s
  | .bankPortOperation bank owner guest guestDue ecc => Sys2Proof.Machine.execBankPortOperation bank owner guest guestDue ecc s
  | .bnkOwnWrite ag bank v => Sys2Proof.Machine.execBnkOwnWrite ag bank v s
  | .handoverComplete bank => Sys2Proof.Machine.execHandoverComplete bank s
  | .handoverForced bank => Sys2Proof.Machine.execHandoverForced bank s
  | .bnkGuestWrite ag bank v => Sys2Proof.Machine.execBnkGuestWrite ag bank v s
  | .salvageEnd bank => Sys2Proof.Machine.execSalvageEnd bank s
  | .bellRowFetch ch => Sys2Proof.Machine.execBellRowFetch ch s
  | .hmuteWrite ag on => Sys2Proof.Machine.execHmuteWrite ag on s
  | .belPlatWrite ag v => Sys2Proof.Machine.execBelPlatWrite ag v s
  | .readbackWindow lo diff => Sys2Proof.Machine.execReadbackWindow lo diff s
  | .readbackTestStepEnd lo pass => Sys2Proof.Machine.execReadbackTestStepEnd lo pass s
  | .loCurrentLimit lo => Sys2Proof.Machine.execLoCurrentLimit lo s
  | .loShortRetry lo holds => Sys2Proof.Machine.execLoShortRetry lo holds s
  | .coComplianceFlag co => Sys2Proof.Machine.execCoComplianceFlag co s
  | .coLoadRetry co holds => Sys2Proof.Machine.execCoLoadRetry co holds s
  | .sapFrame port slots bclks => Sys2Proof.Machine.execSapFrame port slots bclks s
  | .sapClockLoss port => Sys2Proof.Machine.execSapClockLoss port s
  | .brtSrcWrite ag src => Sys2Proof.Machine.execBrtSrcWrite ag src s
  | .rebase ag => Sys2Proof.Machine.execRebase ag s
  | .brtPosRead ag => Sys2Proof.Machine.execBrtPosRead ag s
  | .pllRelockRetry locked => Sys2Proof.Machine.execPllRelockRetry locked s
  | .linkUp port => Sys2Proof.Machine.execLinkUp port s
  | .linkDown port => Sys2Proof.Machine.execLinkDown port s
  | .autoNegotiationFail port => Sys2Proof.Machine.execAutoNegotiationFail port s
  | .macModeWrite ag port v => Sys2Proof.Machine.execMacModeWrite ag port v s
  | .frameReceive port frame => Sys2Proof.Machine.execFrameReceive port frame s
  | .frameDelivery port => Sys2Proof.Machine.execFrameDelivery port s
  | .frameTransmit port => Sys2Proof.Machine.execFrameTransmit port s
  | .lpiEntry port => Sys2Proof.Machine.execLpiEntry port s
  | .lpiExit port => Sys2Proof.Machine.execLpiExit port s
  | .lldpTransmit port => Sys2Proof.Machine.execLldpTransmit port s
  | .lldpTtlExpiry port => Sys2Proof.Machine.execLldpTtlExpiry port s
  | .lecClear ag port => Sys2Proof.Machine.execLecClear ag port s
  | .workRequestStart q => Sys2Proof.Machine.execWorkRequestStart q s
  | .packetSend tag => Sys2Proof.Machine.execPacketSend tag s
  | .write collided => Sys2Proof.Machine.execWrite collided s
  | .send collided => Sys2Proof.Machine.execSend collided s
  | .atomicAdd collided => Sys2Proof.Machine.execAtomicAdd collided s
  | .cas collided => Sys2Proof.Machine.execCas collided s
  | .ackDelayExpiry src tag => Sys2Proof.Machine.execAckDelayExpiry src tag s
  | .retransmitTimeout tag psn => Sys2Proof.Machine.execRetransmitTimeout tag psn s
  | .nakResendWaitEnd tag psn => Sys2Proof.Machine.execNakResendWaitEnd tag psn s
  | .messageLifetimeEnd tag => Sys2Proof.Machine.execMessageLifetimeEnd tag s
  | .recordExpiry src tag => Sys2Proof.Machine.execRecordExpiry src tag s
  | .completionSpaceWaitEnd cq => Sys2Proof.Machine.execCompletionSpaceWaitEnd cq s
  | .hostAtomicGo ag => Sys2Proof.Machine.execHostAtomicGo ag s
  | .transportEnable ag v => Sys2Proof.Machine.execTransportEnable ag v s
  | .transportDisable ag v => Sys2Proof.Machine.execTransportDisable ag v s
  | .keyLoad ag => Sys2Proof.Machine.execKeyLoad ag s
  | .keyEpoch ag slot => Sys2Proof.Machine.execKeyEpoch ag slot s
  | .keyErase ag slot => Sys2Proof.Machine.execKeyErase ag slot s
  | .mrAttrWrite ag v => Sys2Proof.Machine.execMrAttrWrite ag v s
  | .triggerEnabled q => Sys2Proof.Machine.execTriggerEnabled q s
  | .streamBlockSend sx => Sys2Proof.Machine.execStreamBlockSend sx s
  | .streamResendStop sx => Sys2Proof.Machine.execStreamResendStop sx s
  | .usbAttach highSpeed => Sys2Proof.Machine.execUsbAttach highSpeed s
  | .getDescriptor type index => Sys2Proof.Machine.execGetDescriptor type index s
  | .setInterface ifc alt => Sys2Proof.Machine.execSetInterface ifc alt s
  | .clockRequest req => Sys2Proof.Machine.execClockRequest req s
  | .audioOutPacket data => Sys2Proof.Machine.execAudioOutPacket data s
  | .usbMidiEventPacket pkt => Sys2Proof.Machine.execUsbMidiEventPacket pkt s
  | .universalMidiPacket words => Sys2Proof.Machine.execUniversalMidiPacket words s
  | .jrTimestamp group ts => Sys2Proof.Machine.execJrTimestamp group ts s
  | .endpointDiscovery filter => Sys2Proof.Machine.execEndpointDiscovery filter s
  | .streamConfigurationRequest protocol jrRx => Sys2Proof.Machine.execStreamConfigurationRequest protocol jrRx s
  | .functionBlockDiscovery block filter => Sys2Proof.Machine.execFunctionBlockDiscovery block filter s
  | .regwr addr value => Sys2Proof.Machine.execRegwr addr value s
  | .regRead seq addr len => Sys2Proof.Machine.execRegRead seq addr len s
  | .regWrite seq addr len data => Sys2Proof.Machine.execRegWrite seq addr len data s
  | .memRead seq addr len => Sys2Proof.Machine.execMemRead seq addr len s
  | .memWrite seq addr len data => Sys2Proof.Machine.execMemWrite seq addr len data s
  | .lock seq len payload => Sys2Proof.Machine.execLock seq len payload s
  | .remoteWake busLeftIdle => Sys2Proof.Machine.execRemoteWake busLeftIdle s
  | .uartReceiveCharacter u byte fe pe brk => Sys2Proof.Machine.execUartReceiveCharacter u byte fe pe brk s
  | .uartStatRead ag u => Sys2Proof.Machine.execUartStatRead ag u s
  | .uartDataRead ag u => Sys2Proof.Machine.execUartDataRead ag u s
  | .uartDataWrite ag u byte => Sys2Proof.Machine.execUartDataWrite ag u byte s
  | .consoleFrame gap => Sys2Proof.Machine.execConsoleFrame gap s
  | .hostLowHalfRead off => Sys2Proof.Machine.execHostLowHalfRead off s
  | .hostHighHalfRead off => Sys2Proof.Machine.execHostHighHalfRead off s
  | .hostLowHalfWrite off data be => Sys2Proof.Machine.execHostLowHalfWrite off data be s
  | .hostHighHalfWrite off data be => Sys2Proof.Machine.execHostHighHalfWrite off data be s
  | .resWordRead g => Sys2Proof.Machine.execResWordRead g s
  | .resultGroupRead g word => Sys2Proof.Machine.execResultGroupRead g word s
  | .resultLockTimeout g => Sys2Proof.Machine.execResultLockTimeout g s
  | .mailboxWrite half data be => Sys2Proof.Machine.execMailboxWrite half data be s
  | .apertureRead off => Sys2Proof.Machine.execApertureRead off s
  | .refresh ag => Sys2Proof.Machine.execRefresh ag s
  | .hrpApbaseWrite ag v => Sys2Proof.Machine.execHrpApbaseWrite ag v s
  | .apertureFillComplete ecc => Sys2Proof.Machine.execApertureFillComplete ecc s
  | .apertureWrite off data be => Sys2Proof.Machine.execApertureWrite off data be s
  | .apertureWritePerform collided => Sys2Proof.Machine.execApertureWritePerform collided s
  | .noticeRead ecc => Sys2Proof.Machine.execNoticeRead ecc s
  | .hrpCxselWrite ag v => Sys2Proof.Machine.execHrpCxselWrite ag v s
  | .timerEnable ag n v => Sys2Proof.Machine.execTimerEnable ag n v s
  | .timerDisable ag n v => Sys2Proof.Machine.execTimerDisable ag n v s
  | .timerZero n => Sys2Proof.Machine.execTimerZero n s
  | .timerMatch n => Sys2Proof.Machine.execTimerMatch n s
  | .timerCapture n level => Sys2Proof.Machine.execTimerCapture n level s
  | .timerCapRead ag n => Sys2Proof.Machine.execTimerCapRead ag n s
  | .timerIomodeWrite ag n v => Sys2Proof.Machine.execTimerIomodeWrite ag n v s
  | .wdtKick k => Sys2Proof.Machine.execWdtKick k s
  | .wdtLock ag => Sys2Proof.Machine.execWdtLock ag s
  | .reqLeave ag => Sys2Proof.Machine.execReqLeave ag s
  | .reqSafe ag => Sys2Proof.Machine.execReqSafe ag s
  | .reqIdle ag => Sys2Proof.Machine.execReqIdle ag s
  | .reqDormant ag => Sys2Proof.Machine.execReqDormant ag s
  | .reqService ag => Sys2Proof.Machine.execReqService ag s
  | .wake sources ctxErr => Sys2Proof.Machine.execWake sources ctxErr s
  | .vidStep marginHigh => Sys2Proof.Machine.execVidStep marginHigh s
  | .hot tj => Sys2Proof.Machine.execHot tj s
  | .temperatureLimit tj => Sys2Proof.Machine.execTemperatureLimit tj s
  | .selftestVerdict u pass step micros => Sys2Proof.Machine.execSelftestVerdict u pass step micros s
  | .selftestAbort u => Sys2Proof.Machine.execSelftestAbort u s
  | .scoreDecay cls index upset => Sys2Proof.Machine.execScoreDecay cls index upset s
  | .stateSplit kind index => Sys2Proof.Machine.execStateSplit kind index s
  | .mstWrite ag kind index v => Sys2Proof.Machine.execMstWrite ag kind index v s
  | .getstate k => Sys2Proof.Machine.execGetstate k s
  | .challenge k scope => Sys2Proof.Machine.execChallenge k scope s
  | .respond k body => Sys2Proof.Machine.execRespond k body s
  | .password k scope body => Sys2Proof.Machine.execPassword k scope body s
  | .relock k => Sys2Proof.Machine.execRelock k s
  | .lckCtlRelock ag => Sys2Proof.Machine.execLckCtlRelock ag s
  | .lckHcmdGo ag => Sys2Proof.Machine.execLckHcmdGo ag s
  | .setpw ag => Sys2Proof.Machine.execSetpw ag s
  | .setkey ag => Sys2Proof.Machine.execSetkey ag s
  | .lockpw ag => Sys2Proof.Machine.execLockpw ag s
  | .lockcr ag => Sys2Proof.Machine.execLockcr ag s
  | .sealLock ag => Sys2Proof.Machine.execSealLock ag s
  | .serviceTest ag => Sys2Proof.Machine.execServiceTest ag s
  | .flogrd ag => Sys2Proof.Machine.execFlogrd ag s
  | .powerOnRelease otpBad => Sys2Proof.Machine.execPowerOnRelease otpBad s
  | .samplePreload cells => Sys2Proof.Machine.execSamplePreload cells s
  | .bypass code => Sys2Proof.Machine.execBypass code s
  | .registerWrite ag off v => Sys2Proof.Machine.execRegisterWrite ag off v s
  | .supplyCollapse opsDone => Sys2Proof.Machine.execSupplyCollapse opsDone s
  | .pcsBlockError port => Sys2Proof.Machine.execPcsBlockError port s
  | .partnerLowPowerIdle port enter => Sys2Proof.Machine.execPartnerLowPowerIdle port enter s
  | .setAddress addr => Sys2Proof.Machine.execSetAddress addr s
  | .setConfiguration cfg => Sys2Proof.Machine.execSetConfiguration cfg s
  | .remoteWakeEnable on => Sys2Proof.Machine.execRemoteWakeEnable on s
  | .uartTransmitCharacter u => Sys2Proof.Machine.execUartTransmitCharacter u s
  | .resetNLow => Sys2Proof.Machine.execResetNLow s
  | .faultLogAppend => Sys2Proof.Machine.execFaultLogAppend s
  | .spillOffer => Sys2Proof.Machine.execSpillOffer s
  | .noteOn => Sys2Proof.Machine.execNoteOn s
  | .noteOff => Sys2Proof.Machine.execNoteOff s
  | .polyPress => Sys2Proof.Machine.execPolyPress s
  | .control => Sys2Proof.Machine.execControl s
  | .pitchBend => Sys2Proof.Machine.execPitchBend s
  | .program => Sys2Proof.Machine.execProgram s
  | .perNote => Sys2Proof.Machine.execPerNote s
  | .partMode => Sys2Proof.Machine.execPartMode s
  | .spillNote => Sys2Proof.Machine.execSpillNote s
  | .mark => Sys2Proof.Machine.execMark s
  | .validateDone => Sys2Proof.Machine.execValidateDone s
  | .spillDeadline => Sys2Proof.Machine.execSpillDeadline s
  | .leaseKeepalive => Sys2Proof.Machine.execLeaseKeepalive s
  | .leaseExpiry => Sys2Proof.Machine.execLeaseExpiry s
  | .leaseFree => Sys2Proof.Machine.execLeaseFree s
  | .ledgerOfferUpdate => Sys2Proof.Machine.execLedgerOfferUpdate s
  | .queueExit => Sys2Proof.Machine.execQueueExit s
  | .muteRampEnd => Sys2Proof.Machine.execMuteRampEnd s
  | .pauseResume => Sys2Proof.Machine.execPauseResume s
  | .bthVsEdge => Sys2Proof.Machine.execBthVsEdge s
  | .bthHsEdge => Sys2Proof.Machine.execBthHsEdge s
  | .bthWcEdge => Sys2Proof.Machine.execBthWcEdge s
  | .sourceLost => Sys2Proof.Machine.execSourceLost s
  | .holdmaxExpiry => Sys2Proof.Machine.execHoldmaxExpiry s
  | .beaconSend => Sys2Proof.Machine.execBeaconSend s
  | .delayRequestSend => Sys2Proof.Machine.execDelayRequestSend s
  | .masterTakeover => Sys2Proof.Machine.execMasterTakeover s
  | .beacon => Sys2Proof.Machine.execBeacon s
  | .delayReq => Sys2Proof.Machine.execDelayReq s
  | .delayResp => Sys2Proof.Machine.execDelayResp s
  | .pllUnlock => Sys2Proof.Machine.execPllUnlock s
  | .pllRelock => Sys2Proof.Machine.execPllRelock s
  | .read => Sys2Proof.Machine.execRead s
  | .mgmt => Sys2Proof.Machine.execMgmt s
  | .ack => Sys2Proof.Machine.execAck s
  | .nak => Sys2Proof.Machine.execNak s
  | .resp => Sys2Proof.Machine.execResp s
  | .keyDerivationDone => Sys2Proof.Machine.execKeyDerivationDone s
  | .secureCounterWaitEnd => Sys2Proof.Machine.execSecureCounterWaitEnd s
  | .usbDetach => Sys2Proof.Machine.execUsbDetach s
  | .busReset => Sys2Proof.Machine.execBusReset s
  | .startOfFrame => Sys2Proof.Machine.execStartOfFrame s
  | .audioInPacket => Sys2Proof.Machine.execAudioInPacket s
  | .noticePacket => Sys2Proof.Machine.execNoticePacket s
  | .usbSuspend => Sys2Proof.Machine.execUsbSuspend s
  | .usbResume => Sys2Proof.Machine.execUsbResume s
  | .hwake => Sys2Proof.Machine.execHwake s
  | .dwakeAssert => Sys2Proof.Machine.execDwakeAssert s
  | .wdtWarn => Sys2Proof.Machine.execWdtWarn s
  | .wdtBite => Sys2Proof.Machine.execWdtBite s
  | .powerDownEntry => Sys2Proof.Machine.execPowerDownEntry s
  | .voltageAlarm => Sys2Proof.Machine.execVoltageAlarm s
  | .clockHalveEnd => Sys2Proof.Machine.execClockHalveEnd s
  | .brownOutWarning => Sys2Proof.Machine.execBrownOutWarning s
  | .brownOutClear => Sys2Proof.Machine.execBrownOutClear s
  | .nonceExpiry => Sys2Proof.Machine.execNonceExpiry s
  | .tapReset => Sys2Proof.Machine.execTapReset s
  | .extest => Sys2Proof.Machine.execExtest s
  | .idcode => Sys2Proof.Machine.execIdcode s
  | .usbPacketError => Sys2Proof.Machine.execUsbPacketError s
  | .idleDormantEntryComplete => Sys2Proof.Machine.execIdleDormantEntryComplete s

end Sys2Proof.Machine
end

