-- ==== Sys2Proof/Machine/Tick.lean ====
section
/-!
DEFINITION. One period of the timebase (R21, R658): what time alone changes when no command waits (notes/assumptions/1). TBASE
and the timers count, the Breath advances at its steered rate, in FREE the frequency moves to nominal, the watchdog's
milliseconds and the lock's delay run. In DORMANT a period is one REFCLK cycle, 40 ns (R660, R682).
-/
namespace Sys2Proof.Machine

/-- Advance the Breath by `n` periods of 10 ns at a frequency offset of `ferr` (0.001 ppm), the exact remainder kept. -/
def Dev.advancePos (d : Dev) (n : Nat) (ferr : Int) : Dev :=
  let t := d.brt.rem + n * d.fs * 65536 * (1000000000 + ferr).toNat
  { d with brt := { d.brt with pos := d.brt.pos + BitVec.ofNat 64 (t / 10 ^ 17), rem := t % 10 ^ 17 } }

/-- Does the Breath count: started and not held (R89, R117)? -/
def Dev.breathes (d : Dev) : Bool := d.on BRT_STAT.RUNNING && !d.on BRT_STAT.PAUSE

/-- In FREE the frequency moves to nominal at 100 ppm per second (R81, R85). -/
def Dev.freeSlew (d : Dev) : Dev :=
  if d.brtState = sFREE && d.on BRT_STAT.RUNNING && d.brt.filtErr ≠ 0 && d.brt.tbase.toNat % 1000 = 0 then
    d.setFerr (if 0 < d.brt.filtErr then d.brt.filtErr - 1 else d.brt.filtErr + 1)
  else d

/-- One period of the watchdog: each millisecond takes one from the count (R661). -/
def Dev.wdtTick (d : Dev) : Dev :=
  if !d.wdtCounts then d
  else if d.tim.wdtSub + 1 < 100000 then { d with tim := { d.tim with wdtSub := d.tim.wdtSub + 1 } }
  else { d.s WDT_REM (d.g WDT_REM - 1) with tim := { d.tim with wdtSub := 0 } }

/-- Time passes for the field lock's delay, in every mode. -/
def Dev.lockTick (d : Dev) (n : Nat) : Dev := { d with lck := { d.lck with wait := d.lck.wait - n } }

/-- One timebase period. -/
def tick (d : Dev) : Dev :=
  if d.mode = mRESET then d
  else if d.mode = mDORMANT then
    let d := { d with brt := { d.brt with tbase := d.brt.tbase + 4 } }.lockTick 4
    if d.breathes then d.advancePos 4 0 else d
  else
    let d := { d with brt := { d.brt with tbase := d.brt.tbase + 1 } }.lockTick 1
    let d := (if d.breathes then d.advancePos 1 d.brt.filtErr else d).freeSlew
    (if d.running then d.timCycle else d).wdtTick

end Sys2Proof.Machine
end

