-- ==== Sys2Proof/Safety.lean ====
section
/-!
DEFINITION. What counts as a safe run, and the frames in which the statements speak: what lies outside the device proper,
registers, the device's parts.
-/
namespace Sys2Proof

open Sys2Proof.Machine (State Dev)

/-- The command completes in the state: `exec` answers a next state. -/
def Completes (c : Instr) (s : State) : Prop := ∃ t, Machine.exec c s = .next t

/-- A step is safe when it answers a next state. -/
def SafeStep (s : State) : Prop := ∃ t, Machine.step s = .next t

/-- OTP, flash, TAP, pins and the queue of commands are as before: the effect is on the device proper. -/
def SameOutside (s t : State) : Prop :=
  t.otp = s.otp ∧ t.flash = s.flash ∧ t.tap = s.tap ∧ t.pins = s.pins ∧ t.pending = s.pending

/-- Every register but those listed (by host port offset) holds what it held. -/
def SameRegs (d e : Dev) (but : List Nat) : Prop := ∀ off, off ∉ but → e.reg off = d.reg off

/-! ### A Chanter core's next instruction -/

open Sys2Proof.Machine (Core)

/-- Neither move of a parallel instruction has anything to wait for: each is a store, or a load that the store buffer
forwards or does not touch and whose row, if it goes through a window, the line buffer holds (R275, R308). -/
def Calm (k : Core) (xm ym : Mv) : Prop :=
  ∀ a ∈ [k.mvAccess false xm, k.mvAccess true ym].filterMap id, a.1.store = true ∨
    (k.needs a.1 = none ∧ ∀ y, k.youngest a.1 = some y → k.covers a.1 y.2 = true)

/-- Core `c` exists and its next instruction is `i`, found as `k`, where a program may have it; no handover is under way. -/
def Next (s : State) (c : BitVec 4) (k : Core) (i : Instr) (branchClass : Bool) : Prop :=
  c.toNat < s.dev.chn.length ∧ s.dev.bnk.hand = [] ∧ s.dev.atInstr c i = some k ∧ k.placeFault branchClass = none

/-- What an instruction that writes none of them leaves: operand registers, offset and mode registers, repeat bounds, saved
registers, windows, program memory, states and interrupt registers. -/
def CoreKeeps (k j : Core) : Prop :=
  j.x = k.x ∧ j.y = k.y ∧ j.n = k.n ∧ j.m = k.m ∧ j.ls = k.ls ∧ j.le = k.le ∧ j.lr = k.lr ∧ j.ipc = k.ipc ∧
  j.icst = k.icst ∧ j.xwin = k.xwin ∧ j.ywin = k.ywin ∧ j.pm = k.pm ∧ j.post = k.post ∧ j.mst = k.mst ∧ j.dst = k.dst ∧
  j.pwr = k.pwr ∧ j.ien = k.ien ∧ j.ipend = k.ipend ∧ j.note = k.note

/-- The search registers and the accumulators, which most instructions leave. -/
def SameSearch (k j : Core) : Prop :=
  j.mxv = k.mxv ∧ j.mnv = k.mnv ∧ j.mxi = k.mxi ∧ j.mni = k.mni ∧ j.sidx = k.sidx

/-- Everything of the device but its cores, banks, registers and the free-value counter is as before, and every other core. -/
def OthersKeep (s t : State) (c : BitVec 4) : Prop :=
  (∀ n, n ≠ c.toNat → t.dev.core n = s.dev.core n) ∧ t.dev.rda = s.dev.rda ∧ t.dev.evs = s.dev.evs ∧
  t.dev.val = s.dev.val ∧ t.dev.bel = s.dev.bel ∧ t.dev.brt = s.dev.brt ∧ SameOutside s t

/-- Core `c` has executed an instruction whose exact results are `l`: each accumulator takes its result modulo 2^72, GOV is
set when one is out of range, and Z, N and E follow the first (R255, R258). -/
def Computes (s : State) (c : BitVec 4) (k : Core) (i : Instr) (l : List (Nat × Int)) : Prop :=
  ∃ t, Machine.exec i s = .next t ∧
    (t.dev.core c.toNat).acc = l.foldl (fun a e => Machine.setAt a e.1 (BitVec.ofInt 72 e.2)) k.acc ∧
    (t.dev.core c.toNat).st Machine.cGOV = (k.st Machine.cGOV || l.any (fun e => e.2 < -(2 ^ 71) || 2 ^ 71 ≤ e.2)) ∧
    (∀ e ∈ l.head?, (t.dev.core c.toNat).st Machine.cZ = decide (BitVec.ofInt 72 e.2 = 0) ∧
      (t.dev.core c.toNat).st Machine.cN = (BitVec.ofInt 72 e.2).msb ∧
      (t.dev.core c.toNat).st Machine.cE = Machine.guardsDiffer (BitVec.ofInt 72 e.2)) ∧
    CoreKeeps k (t.dev.core c.toNat) ∧ SameSearch k (t.dev.core c.toNat) ∧ OthersKeep s t c

/-! ### The transport -/

/-- Registers that a notice may change, whether it enters the queue or is lost. -/
def noticeRegs : List Nat :=
  [Machine.HRP_NOTLOST.base, Machine.HRP_NOTCNT.LOSTF.base, Machine.USB_NOTDROP.base, Machine.USB_STAT.RWPEND.base]

/-- Registers in which the tables of the transport show how full they are. -/
def blwShown : List Nat := [Machine.BLW_STAT.TAGS.base, Machine.BLW_STAT2.ATOM.base]

/-- An untimed packet of `n` payload bytes can leave on plane `p`. -/
def CanSend (d : Dev) (p n : Nat) : Prop :=
  d.mac.length = 4 ∧ p < 4 ∧ d.portUp p = true ∧ d.est Machine.kPort p = Machine.ENABLED ∧ d.fits p n false = true ∧ n ≤ 2048

/-- Between `d` and `e` one clear packet has been queued, on plane `p`, with header `h` (SPOS the position now) and payload
`body`, to one node; no other port has changed. -/
def Queued (d e : Dev) (p : Nat) (h : Machine.Hdr) (body : List Byte) : Prop :=
  (∃ f, (e.port p).tx = (d.port p).tx ++ [f] ∧ f.key = none ∧ f.body = body ∧ f.dst = Machine.nodeAddr h.dst p ∧
    f.hdr = Machine.overlay h.bytes 0x10 (Machine.leBytes 8 d.brt.pos.toNat)) ∧ ∀ n, n ≠ p → e.port n = d.port n

/-- The range of `n` bytes at `a` lies in one bank where the Bellows may write, no handover under way and no word poisoned. -/
def BlwMay (d : Dev) (a n : Nat) : Prop :=
  1 ≤ n ∧ a + n ≤ Machine.bankEnd ∧ Machine.bankOf (a + n - 1) = Machine.bankOf a ∧
  d.bankMay 18 (Machine.bankOf a) true = true ∧ d.bnk.hand = [] ∧ d.bnk.poison = []

/-- Between `d` and `e` exactly the bytes at `a` have become `l`. -/
def Placed (d e : Dev) (a : Nat) (l : List Byte) : Prop :=
  ∀ x, Machine.sget 0 x e.bnk.mem = if a ≤ x ∧ x < a + l.length then l.getD (x - a) 0 else Machine.sget 0 x d.bnk.mem

/-- A completion queue can take an entry at once, without a notice. -/
def CqReady (d : Dev) (c : Nat) : Prop :=
  c < 64 ∧ d.on Machine.BLW_CQ_CFG.EN c = true ∧ 1 ≤ d.g Machine.BLW_CQ_CFG.DEPTH c ∧
  d.g Machine.BLW_CQ_CFG.DEPTH c ≤ 12 ∧ d.on Machine.BLW_CQ_CFG.NOTIFY c = false ∧
  d.cqRoom c = true ∧ d.blw.cqWait = [] ∧ BlwMay d (d.g Machine.BLW_CQ_BASE c * 64 + d.g Machine.BLW_CQ_PI c * 32) 32

/-- Between `d` and `e` a descriptor of queue `q` has ended with a status: where SIGNAL is 1 or the status is not OK, its
completion entry has been written at PI and PI has advanced (R484); nothing else of the banks has changed. -/
def Completed (d e : Dev) (q : BitVec 6) (x : Machine.Desc) (status len : Nat) (result : BitVec 64) : Prop :=
  let c := d.g Machine.BLW_WQ_CFG.CQ q.toNat
  if x.signal = true ∨ status ≠ 0 then
    e.g Machine.BLW_CQ_PI c = (d.g Machine.BLW_CQ_PI c + 1) % d.cqSize c ∧
      Placed d e (d.g Machine.BLW_CQ_BASE c * 64 + d.g Machine.BLW_CQ_PI c * 32) (d.cqEntry x.wrid status x.op q.toNat 0 len result)
  else e.g Machine.BLW_CQ_PI c = d.g Machine.BLW_CQ_PI c ∧ e.bnk.mem = d.bnk.mem

/-- Between `d` and `e` a queue's message has ended with a status: its tag is free and its completion is written. -/
def MsgEnds (d e : Dev) (m : Machine.Msg) (status : Nat) (result : BitVec 64) : Prop :=
  e.blw.msgs = d.blw.msgs.filter (fun x => decide (x.tag ≠ m.tag)) ∧
  Completed d e (m.wq.getD 0) m.desc status m.moved result

/-! ### The outside interfaces -/

/-- Nothing of the device but registers, notices, the host port's wakes and the USB port has changed. -/
def OnlyUsb (d e : Dev) : Prop := { e with regs := d.regs, not := d.not, hrp := d.hrp, usb := d.usb } = d

/-- Nothing of the device but registers and UART `n` has changed. -/
def OnlyUart (d e : Dev) (n : Nat) : Prop :=
  { e with regs := d.regs, uart := d.uart } = d ∧ ∀ m, m ≠ n → e.ser m = d.ser m

end Sys2Proof
end

