-- ==== Sys2Proof/WellFormed.lean ====
section
/-!
DEFINITION. Which commands a sender, a line or the analog world can present at all: the bounds that the operand types do
not carry. `exec` has a meaning on the others too; nothing outside the block produces them.
-/
namespace Sys2Proof

/-- A move names one of the five address modes 0 to 4 (R299). -/
def Mv.wf : Mv → Bool
  | .none => true
  | .load _ _ mode => mode ≤ 4
  | .store _ _ mode => mode ≤ 4

/-- A request at a bank port moves 1 to 64 bytes within one row, or a naturally aligned 4- or 8-byte cell (R331, R332). -/
def BankOp.wf : BankOp → Bool
  | .read off len => 1 ≤ len && off % 64 + len ≤ 64 && off < 262144
  | .write off data => 1 ≤ data.length && off % 64 + data.length ≤ 64 && off < 262144
  | .atomicAdd off w64 _ => off % (if w64 then 8 else 4) = 0 && off < 262144
  | .cas off w64 _ _ => off % (if w64 then 8 else 4) = 0 && off < 262144

/-- The well-formed commands. -/
def Instr.wf : Instr → Bool
  | .nop _ (.moves xm ym _) => xm.wf && ym.wf
  | .cmac _ _ _ _ xm ym => xm.wf && ym.wf
  | .cmsu _ _ _ _ xm ym => xm.wf && ym.wf
  | .cmpy _ _ _ _ xm ym => xm.wf && ym.wf
  | .cmacj _ _ _ _ xm ym => xm.wf && ym.wf
  | .dmac _ _ _ _ xm ym => xm.wf && ym.wf
  | .mac _ _ _ _ _ _ xm ym => xm.wf && ym.wf
  | .msu _ _ _ _ _ _ xm ym => xm.wf && ym.wf
  | .mpy _ _ _ _ _ _ xm ym => xm.wf && ym.wf
  | .mag _ _ _ xm ym => xm.wf && ym.wf
  | .add _ _ _ xm ym => xm.wf && ym.wf
  | .sub _ _ _ xm ym => xm.wf && ym.wf
  | .tfr _ _ _ xm ym => xm.wf && ym.wf
  | .addx _ _ _ _ xm ym => xm.wf && ym.wf
  | .neg _ _ xm ym => xm.wf && ym.wf
  | .abs _ _ xm ym => xm.wf && ym.wf
  | .clr _ _ xm ym => xm.wf && ym.wf
  | .asl _ _ _ xm ym => xm.wf && ym.wf
  | .asr _ _ _ xm ym => xm.wf && ym.wf
  | .and _ _ _ xm ym => xm.wf && ym.wf
  | .or _ _ _ xm ym => xm.wf && ym.wf
  | .xor _ _ _ xm ym => xm.wf && ym.wf
  | .maxi _ _ xm ym => xm.wf && ym.wf
  | .mini _ _ xm ym => xm.wf && ym.wf
  | .maxmin _ _ xm ym => xm.wf && ym.wf
  | .clrmx _ xm ym => xm.wf && ym.wf
  | .movp _ _ _ _ _ mode _ => mode ≤ 4
  -- a register word is word aligned (R770)
  | .registerWrite _ off _ => off.toNat % 4 = 0
  -- the boundary register has 267 cells (R813)
  | .samplePreload cells => cells.length = 267
  -- the codes of the other public instructions are not BYPASS's (R812)
  | .bypass code => 3 ≤ code
  | .bankPortOperation _ o g _ _ => (o.all BankOp.wf) && (g.all BankOp.wf)
  | _ => true

end Sys2Proof
end

