-- ==== Sys2Proof/Certificates/Slice0/Obligations.lean ====
section
/-!
DEFINITION. The statements for the provers, grouped as the spec's chapters are. `SameOutside` and `SameRegs` are in Safety.lean.
-/

open Sys2Proof Sys2Proof.Machine

/-- A step runs the command at the front of the queue on the queue's rest; an empty queue lets one timebase period pass: For every state and command: with the command at the front of the queue a step is exec of it with the queue's rest; with an empty queue a step answers the state after one timebase period (the model's choice, notes/assumptions/1). No word spells a command: the table gives no bits, so withFetchWord leaves every state as it is. -/
def Obligations.StepRunsTheFrontCommand : Prop :=
  (∀ (c : Instr) (s : State), step { s with pending := c :: s.pending } = exec c s) ∧
  (∀ s : State, s.pending = [] → step s = .next { s with dev := tick s.dev }) ∧
  (∀ (s : State) (n w : Nat), s.withFetchWord n w = s)

/-- Every register holds the value of its table's Reset column at the end of RESET: In State.reset every register reads the reset value of its field table (resetOf gives it by host port offset), whatever the offset; the named fields are the values the tables state: part number 0x4096, stepping B0, mode RESET, blocks of 32 samples, 48 kHz, the fabric off, UART1 at 115,200 baud. -/
def Obligations.ResetValuesOfTheRegisters : Prop :=
  (∀ off : Nat, State.reset.dev.reg off = resetOf off) ∧
  State.reset.dev.g SYS_ID.PART = 0x4096 ∧ State.reset.dev.g SYS_ID.STEPMAJ = 1 ∧ State.reset.dev.g SYS_ID.STEPMIN = 0 ∧
  State.reset.dev.g SYS_MODE.MODE = 0 ∧ State.reset.dev.g SYS_BLK.BLK = 32 ∧ State.reset.dev.g BRT_CTL.FS = 1 ∧
  State.reset.dev.g BLW_CTL.EN = 0 ∧ State.reset.dev.g UART_BAUD 1 = 115200 ∧ State.reset.dev.g UART_BAUD 0 = 31250

/-- Every step keeps what OTP has been given: fields written once, the lock state only forward: For every state s whose OTP lies after an OTP o (salt with hash), if a step answers t then t's OTP lies after o too: the programmed lock state is no lower, a hash, a salt or a key once written is the same, and every other field never changes. Take o = s.otp for the change that one step makes. The premise that no salt stands without its hash is kept as well. -/
def Obligations.OtpOnlyMovesForward : Prop :=
  ∀ (o : Otp) (s t : State),
    (o.lock.toNat ≤ s.otp.lock.toNat ∧ (o.pwHash.isSome → s.otp.pwHash = o.pwHash) ∧ (o.salt.isSome → s.otp.salt = o.salt) ∧
      (o.key.isSome → s.otp.key = o.key) ∧ (s.otp.salt.isSome = s.otp.pwHash.isSome) ∧ s.otp.sigReq = o.sigReq ∧
      s.otp.pubKey = o.pubKey ∧ s.otp.wrapKey = o.wrapKey ∧ s.otp.serial = o.serial ∧ s.otp.vid = o.vid ∧ s.otp.pid = o.pid ∧
      s.otp.tgrade = o.tgrade) →
    step s = .next t →
    (o.lock.toNat ≤ t.otp.lock.toNat ∧ (o.pwHash.isSome → t.otp.pwHash = o.pwHash) ∧ (o.salt.isSome → t.otp.salt = o.salt) ∧
      (o.key.isSome → t.otp.key = o.key) ∧ (t.otp.salt.isSome = t.otp.pwHash.isSome) ∧ t.otp.sigReq = o.sigReq ∧
      t.otp.pubKey = o.pubKey ∧ t.otp.wrapKey = o.wrapKey ∧ t.otp.serial = o.serial ∧ t.otp.vid = o.vid ∧ t.otp.pid = o.pid ∧
      t.otp.tgrade = o.tgrade)

/-- Every step keeps the flash's bytes in canonical form and the fitted flash what it is: For every state whose flash contents are in canonical form (addresses strictly rising, no entry equal to the erased byte 0xFF), if a step answers t then t's flash contents are in canonical form and the kind of flash fitted is the same. -/
def Obligations.FlashKeepsItsForm : Prop :=
  ∀ s t : State, swf (fun _ => (0xFF : Byte)) s.flash.mem = true → step s = .next t →
    swf (fun _ => (0xFF : Byte)) t.flash.mem = true ∧ t.flash.kind = s.flash.kind

/-- The state after reset meets the invariants that every step keeps: State.reset has no salt without its hash, its flash contents and its bank memory in canonical form (nothing listed: the model's choices of a blank OTP and no flash, notes/assumptions/3 to 5), sixteen cores, four ports, two UARTs, eight timers and five result groups with a mailbox latch of 16 bytes, and no command waiting. -/
def Obligations.ResetHoldsTheInvariants : Prop :=
  State.reset.otp.salt.isSome = State.reset.otp.pwHash.isSome ∧ swf (fun _ => (0xFF : Byte)) State.reset.flash.mem = true ∧
  Memory.wf State.reset.dev.bnk.mem = true ∧ State.reset.dev.chn.length = 16 ∧ State.reset.dev.mac.length = 4 ∧
  State.reset.dev.uart.length = 2 ∧ State.reset.dev.tim.ch.length = 8 ∧ State.reset.dev.hrp.groups.length = 5 ∧
  State.reset.dev.hrp.mbxLatch.length = 16 ∧ State.reset.pending = []

/-- Every step keeps the numbers of cores, ports, UARTs, timers and result groups, and the canonical form of the bank memory: For every state with sixteen Chanter cores, four frame ports, two UARTs, eight timer channels, five result groups, a mailbox latch of sixteen bytes and the bank memory in canonical form (addresses strictly rising, no entry equal to the 0 that an unlisted address reads as), whichever command stands in front, a next state has the same numbers and the same form. The per-command statements take these numbers as premises. -/
def Obligations.UnitsAndBanksKeepTheirForm : Prop :=
  ∀ s t : State, s.dev.chn.length = 16 → s.dev.mac.length = 4 → s.dev.uart.length = 2 → s.dev.tim.ch.length = 8 →
    s.dev.hrp.groups.length = 5 → s.dev.hrp.mbxLatch.length = 16 → Memory.wf s.dev.bnk.mem = true → step s = .next t →
    t.dev.chn.length = 16 ∧ t.dev.mac.length = 4 ∧ t.dev.uart.length = 2 ∧ t.dev.tim.ch.length = 8 ∧
    t.dev.hrp.groups.length = 5 ∧ t.dev.hrp.mbxLatch.length = 16 ∧ Memory.wf t.dev.bnk.mem = true

/-- No command touches the queue of waiting commands; the commands of cores, Reeds, fabric, USB streams and timers leave OTP and flash: Whatever the command and the state, a next state has the queue that exec was given. For every command of the Chanter cores, the scheduler, the Reeds, the banks, the Bell, the Breath, the frame ports, the transport, the timers, power and fault control and the UARTs listed (each executes on the device proper), a next state has the same OTP, flash, TAP and pins. -/
def Obligations.CommandsLeaveTheQueueOtpAndFlash : Prop :=
  ∀ (i : Instr) (s t : State), exec i s = .next t → t.pending = s.pending ∧
    (match i with
     | .blockStart _ | .eventIntake _ _ | .noteOn | .noteOff | .polyPress | .control | .pitchBend | .program | .perNote
     | .partMode | .allOff _ | .spillNote | .mark | .nop _ _ | .cmac _ _ _ _ _ _ | .mac _ _ _ _ _ _ _ _ | .add _ _ _ _ _
     | .asl _ _ _ _ _ | .and _ _ _ _ _ | .maxi _ _ _ _ | .ldi _ _ _ | .mova _ _ _ _ _ _ | .movp _ _ _ _ _ _ _ | .bra _ _ _
     | .call _ _ | .rep _ _ _ | .waitb _ | .stop _ | .interruptAccept _ | .bankPortOperation _ _ _ _ _ | .bellRowFetch _
     | .queueExit | .muteRampEnd | .bthVsEdge | .beacon | .frameReceive _ _ | .frameDelivery _ | .frameTransmit _
     | .workRequestStart _ | .packetSend _ | .write _ | .read | .send _ | .ack | .nak | .resp | .triggerEnabled _
     | .streamBlockSend _ | .audioOutPacket _ | .audioInPacket | .uartReceiveCharacter _ _ _ _ _ | .timerZero _
     | .timerMatch _ | .vidStep _ | .hot _ | .selftestVerdict _ _ _ _ | .stateSplit _ _ => SameOutside s t
     | _ => True)

/-- RESET_N, a supply collapse and the power-on detector leave every register at its reset value but what they keep: RESET_N low leaves SYS_MODE RESET and every register outside LCK_STAT at its reset value; the lock state in force and BLOCKED stay. A collapse with no update command running takes every register to its reset value and resets the TAP, and the detector is no longer released. POWER_ON_RELEASE puts the lock state programmed in OTP in force (SEALED where its fields cannot be read) and clears BLOCKED. OTP, flash and the queue stay. -/
def Obligations.ResetsClearTheDevice : Prop :=
  (∀ s : State, ∃ t, exec .resetNLow s = .next t ∧ t.pins.resetN = false ∧ t.pins.por = s.pins.por ∧
    (∀ off, off ≠ LCK_STAT.STATE.base → t.dev.reg off = resetOf off) ∧ t.dev.lck.state = s.dev.lck.state ∧
    t.dev.g LCK_STAT.BLOCKED = s.dev.g LCK_STAT.BLOCKED ∧ t.dev.boot.done = false ∧
    t.otp = s.otp ∧ t.flash = s.flash ∧ t.tap = s.tap ∧ t.pending = s.pending) ∧
  (∀ (s : State) (n : Nat), s.dev.boot.upd = none → ∃ t, exec (.supplyCollapse n) s = .next t ∧ t.pins.por = false ∧
    (∀ off, t.dev.reg off = resetOf off) ∧ t.tap = State.reset.tap ∧ t.otp = s.otp ∧ t.flash = s.flash ∧ t.pending = s.pending) ∧
  (∀ (s : State) (bad : Bool), s.pins.por = false → ∃ t, exec (.powerOnRelease bad) s = .next t ∧
    t.pins.por = true ∧ t.pins.resetN = false ∧ t.dev.lck.state = (if bad then 3 else s.otp.lock) ∧
    t.dev.g LCK_STAT.BLOCKED = 0 ∧ (∀ off, off ≠ LCK_STAT.STATE.base → t.dev.reg off = resetOf off) ∧
    t.otp = s.otp ∧ t.flash = s.flash ∧ t.tap = s.tap ∧ t.pending = s.pending)

/-- Start-up checks both records, reads the body of the newer valid copy, A of two equal ones, and commits a body that passes its checks: When RESET_N rises with the detector released and a flash fitted, the records are checked: of two that pass, the body of B is to be read when its SEQ is newer and that of A otherwise, with the other copy kept to fall back on; of one that passes, that one's. The device is in BOOT, with SIGREQ from OTP. A body that fails its CRC while the other copy's record passed leads to the other copy, with the reason recorded. A body that passes BODY_CRC and its section checks, and its signature where OTP requires one, ends start-up: SYS_MODE is RUN. -/
def Obligations.StartUpChoosesAndCommitsACopy : Prop :=
  (∀ (s : State) (q : Bool), s.pins.resetN = false → s.pins.por = true → s.flash.kind ≠ .absent →
    (recCheck s.flash.size false (s.flash.bootRec false) = 0 ∨ recCheck s.flash.size true (s.flash.bootRec true) = 0) →
    ∃ t, exec (.resetNRise q false) s = .next t ∧ t.pins.resetN = true ∧ t.pins.por = true ∧ t.dev.mode = 1 ∧
      t.dev.g CFG_STAT.SIGREQ = b2n s.otp.sigReq ∧
      t.dev.boot.reading = some (if recCheck s.flash.size false (s.flash.bootRec false) ≠ 0 then true
        else if recCheck s.flash.size true (s.flash.bootRec true) ≠ 0 then false
        else newerSeq 32 (recSeq (s.flash.bootRec true)) (recSeq (s.flash.bootRec false))) ∧
      t.otp = s.otp ∧ t.flash = s.flash ∧ t.tap = s.tap ∧ t.pending = s.pending) ∧
  (∀ (s : State) (rows : List (BitVec 4 × Nat)) (c : Bool), s.dev.boot.reading = some c →
    (s.dev.boot.other = some (!c) → crc32 (s.flash.body c) ≠ recBodyCrc (s.flash.bootRec c) →
      ∃ t, exec (.bodyReadComplete rows) s = .next t ∧ t.dev.boot.reading = some (!c) ∧ t.dev.boot.other = none ∧
        t.dev.g (whyFld c) = 6 ∧ t.dev.mode = s.dev.mode ∧ SameOutside s t) ∧
    (crc32 (s.flash.body c) = recBodyCrc (s.flash.bootRec c) →
      (s.otp.sigReq = true → sigOk s.otp (s.flash.bootRec c) (Config.sha256 (s.flash.body c)) = true) →
      sectionsPass (bodySections (s.flash.body c)) = true →
      ∃ t, exec (.bodyReadComplete rows) s = .next t ∧ t.dev.mode = 2 ∧ t.dev.boot.done = true ∧ t.dev.boot.reading = none ∧
        SameOutside s t))

/-- Each update command of the agent that holds the update starts in its place and makes CFG_UPD_STAT busy: For the host port and the USB interface, in a running device with no brown-out warning: START with no update held, on a flash the device writes, begins with the erase of the inactive record sector and makes the agent the holder; PROGRAM after START or PROGRAM with a source and length of R58, VERIFY after PROGRAM, RECORD after VERIFY on a record that R59 accepts and COMMIT after RECORD start their flash operations; ABORT ends the update without error. OTP, flash, TAP and pins stay: the operations are performed at the command's end. -/
def Obligations.UpdateCommandsRunInOrder : Prop :=
  ∀ (s : State) (ag : Agent), (ag = .host ∨ ag = .usb) → s.dev.running = true → s.dev.on PWR_STAT.BOW = false →
    (s.dev.boot.upd = none → s.flash.writable = true →
      ∃ t u, exec (.start ag) s = .next t ∧ t.dev.boot.upd = some u ∧ u.usb = (ag = .usb) ∧ u.run = some 1 ∧
        u.ops.head? = some (.erase (recAddr s.inactive)) ∧ t.dev.g CFG_UPD_STAT.BUSY = 1 ∧ t.dev.g CFG_UPD_STAT.STEP = 0 ∧
        t.dev.g CFG_UPD_STAT.ERR = 0 ∧ t.dev.g CFG_UPD_STAT.AGENT = b2n (ag = .usb) ∧ SameOutside s t) ∧
    (∀ u : Update, s.dev.boot.upd = some u → u.usb = (ag = .usb) →
      (∃ t, exec (.abort ag) s = .next t ∧ t.dev.boot.upd = none ∧ t.dev.g CFG_UPD_STAT.BUSY = 0 ∧
        t.dev.g CFG_UPD_STAT.ERR = 0 ∧ SameOutside s t) ∧
      (u.run = none →
        ((u.last = 1 ∨ u.last = 2) → s.dev.programOk u.usb = true →
          ∃ t v, exec (.programBody ag) s = .next t ∧ t.dev.boot.upd = some v ∧ v.run = some 2 ∧
            t.dev.g CFG_UPD_STAT.BUSY = 1 ∧ SameOutside s t) ∧
        (u.last = 2 → ∃ t, exec (.verify ag) s = .next t ∧ t.dev.boot.upd = some { u with run := some 3, ops := [] } ∧
            t.dev.g CFG_UPD_STAT.BUSY = 1 ∧ SameOutside s t) ∧
        (u.last = 3 → s.dev.srcOwned u.usb (s.dev.g CFG_UPD_SRC) 256 = true →
          State.recordErr { s with dev := (s.dev.bnkRead (updAgent u.usb) (s.dev.g CFG_UPD_SRC) 256).dev }
            (s.dev.bnkRead (updAgent u.usb) (s.dev.g CFG_UPD_SRC) 256).data u.digest = 0 →
          (s.dev.bnkRead (updAgent u.usb) (s.dev.g CFG_UPD_SRC) 256).dev.on PWR_STAT.BOW = false →
          ∃ t v, exec (.record ag) s = .next t ∧ t.dev.boot.upd = some v ∧ v.run = some 4 ∧
            v.record = (s.dev.bnkRead (updAgent u.usb) (s.dev.g CFG_UPD_SRC) 256).data ∧
            t.dev.g CFG_UPD_STAT.BUSY = 1 ∧ SameOutside s t) ∧
        (u.last = 4 → ∃ t, exec (.commit ag) s = .next t ∧
            t.dev.boot.upd = some { u with run := some 5, ops := [.prog (recAddr s.inactive + 0xFC) (leBytes 4 0x5A5AC3C3)] } ∧
            t.dev.g CFG_UPD_STAT.BUSY = 1 ∧ SameOutside s t)))

/-- CFG_CMDEND performs the running command's operations; the fault log appends; PM reload and RELOAD take effect: A running COMMIT that the flash does not fail ends with its operations performed, STEP 6, ERR 0, not busy and no update held. FAULT_LOG_APPEND with an entry waiting, no brown-out warning and a blank slot after the newest entry in its sector writes it there with the next FSEQ: the flash is programmed at that slot alone. RELOAD by an agent that may write CFG_CTL is start-up again from step 1 on what the AON island keeps. PM_RELOAD of a core with a bad program in a device that runs on a copy, all of whose program sections for the core pass, loads them and lets the core fetch again. -/
def Obligations.FlashCommandsEndAndLog : Prop :=
  (∀ (s : State) (u : Update) (n : Nat), s.dev.boot.upd = some u → u.run = some 5 → u.ops.length ≤ n →
    ∃ t, exec (.cfgCmdend n false) s = .next t ∧ t.flash = u.ops.foldl (fun (f : Flash) o => f.apply o) s.flash ∧
      t.dev.boot.upd = none ∧ t.dev.g CFG_UPD_STAT.STEP = 6 ∧ t.dev.g CFG_UPD_STAT.ERR = 0 ∧ t.dev.g CFG_UPD_STAT.BUSY = 0 ∧
      t.otp = s.otp ∧ t.tap = s.tap ∧ t.pins = s.pins ∧ t.pending = s.pending) ∧
  (∀ (s : State) (e : LogEnt) (l : List LogEnt) (base n j : Nat) (q : Word), s.dev.on PWR_STAT.BOW = false →
    s.dev.boot.pend = e :: l → s.dev.boot.logAt = some base → s.dev.boot.newest = some (q, n) →
    s.flash.nextBlank base n = some j →
    ∃ t, exec .faultLogAppend s = .next t ∧ t.dev.boot.pend = l ∧
      t.dev.boot.newest = some (BitVec.ofNat 32 ((q.toNat + 1) % 2 ^ 32), j) ∧
      (∀ a, a < base + 32 * j ∨ base + 32 * j + 32 ≤ a → sget 0xFF a t.flash.mem = sget 0xFF a s.flash.mem) ∧
      t.otp = s.otp ∧ t.tap = s.tap ∧ t.pins = s.pins ∧ t.pending = s.pending) ∧
  (∀ (s : State) (ag : Agent), s.dev.mayWrite ag 0x1010 = true →
    ∃ t, exec (.reload ag) s = .next t ∧ t = startUp { s with dev := s.dev.restarted }) ∧
  (∀ (s : State) (c : BitVec 4) (a : Bool), (s.dev.core c.toNat).pmBad = true → s.active = some a →
    s.dev.flt.tests = [] → s.dev.est kCore c.toNat ≠ RETIRED →
    (∀ x ∈ programsOf ((bodySections (s.flash.body a)).getD []) c.toNat, x.crcOk = true) → s.dev.chn.length = 16 →
    ∃ t, exec (.pmReload c) s = .next t ∧ (t.dev.core c.toNat).pmBad = false ∧
      (t.dev.core c.toNat).pm = ((programsOf ((bodySections (s.flash.body a)).getD []) c.toNat).foldl
        (fun (k : Core) x => k.loadProgram x.data) (s.dev.core c.toNat)).pm ∧ SameOutside s t)

/-- VS, HS and word-clock edges: a glitch is counted, the 16th good interval starts an acquisition where the Breath stands, the 16th bad one loses the source: With the Breath counting and the edge's source selected (VIDEO without HSEN, or WCLK), x the interval since the last accepted edge over the nominal one: x below 1/2 sets GLITCH, counts it and changes nothing else of the loop. The 16th interval within 0.1 %, in HOLDOVER or FREE and not refused, makes the source valid and enters ACQUIRE; the edge is the reference: BRT_EPOCH is the present position, the phase error 0, the position unmoved. The 16th one outside in TRACK sets RANGE, loses the source and enters HOLDOVER. With HSEN an HS edge begins the next line and its capture is kept; a VS edge after a wrong number of lines sets VIDFMT and measures nothing. -/
def Obligations.SourceEdgesSteerTheLoop : Prop :=
  ∀ s : State, s.dev.on BRT_STAT.RUNNING = true →
    (∀ (i : Instr) (src : Nat) (x : Rat), (i = .bthVsEdge ∧ src = 1 ∨ i = .bthWcEdge ∧ src = 2) → s.dev.brtSrc = src →
      (src = 1 → s.dev.on BRT_CTL.HSEN = false) → s.dev.edgeRatio = some x →
      (x * 2 < 1 → ∃ t, exec i s = .next t ∧ t.dev.g BRT_STAT.GLITCH = 1 ∧ t.dev.brt = s.dev.brt ∧
        t.dev.g BRT_NGLITCH = min (s.dev.g BRT_NGLITCH + 1) 0xFFFFFFFF ∧
        SameRegs s.dev t.dev [BRT_STAT.GLITCH.base, BRT_NGLITCH.base] ∧ SameOutside s t) ∧
      (999 / 1000 ≤ x → x ≤ 1001 / 1000 → s.dev.brt.inRange = 15 → s.dev.on BRT_STAT.BACKWARD = false →
        (s.dev.brtState = sHOLDOVER ∨ s.dev.brtState = sFREE) → s.dev.brt.hasEpoch = false → s.dev.brt.heardPos = none →
        s.dev.brt.rebaseReq = false → s.dev.moving = false →
        ∃ t, exec i s = .next t ∧ t.dev.brtState = sACQUIRE ∧ t.dev.g BRT_STAT.SRCOK = 1 ∧ t.dev.g BRT_PHERR = 0 ∧
          t.dev.g BRT_EPOCH_H * 2 ^ 32 + t.dev.g BRT_EPOCH_L = s.dev.brt.pos.toNat ∧ t.dev.brt.pos = s.dev.brt.pos ∧
          t.dev.brt.lastEdge = some s.dev.brt.tbase ∧ SameOutside s t) ∧
      (1 ≤ x * 2 → (x < 999 / 1000 ∨ 1001 / 1000 < x) → s.dev.brt.outRange = 15 → s.dev.brtState = sTRACK →
        s.dev.g BRT_HOLDMAX ≠ 0 →
        ∃ t, exec i s = .next t ∧ t.dev.brtState = sHOLDOVER ∧ t.dev.g BRT_STAT.RANGE = 1 ∧ t.dev.g BRT_STAT.SRCOK = 0 ∧
          t.dev.g BRT_NLOSS = min (s.dev.g BRT_NLOSS + 1) 0xFFFFFFFF ∧ t.dev.brt.pos = s.dev.brt.pos ∧
          t.dev.brt.holdStart = s.dev.brt.tbase ∧ SameOutside s t)) ∧
    (s.dev.brtSrc = 1 → s.dev.on BRT_CTL.HSEN = true →
      (∃ t, exec .bthHsEdge s = .next t ∧ t.dev.brt.hsCount = s.dev.brt.hsCount + 1 ∧ t.dev.brt.pos = s.dev.brt.pos ∧
        (s.dev.brt.hsOpen = true → s.dev.brt.hsCount + 1 < s.dev.g BRT_VID.VLINES →
          t.dev.brt.hsBuf = (s.dev.brt.hsCount + 1, s.dev.brt.pos) :: s.dev.brt.hsBuf) ∧
        SameRegs s.dev t.dev [] ∧ SameOutside s t) ∧
      (∀ x : Rat, s.dev.edgeRatio = some x → 999 / 1000 ≤ x → x ≤ 1001 / 1000 → s.dev.brt.hsOpen = true →
        s.dev.brt.hsCount ≠ s.dev.g BRT_VID.VLINES → s.dev.brt.vidBad < 3 →
        ∃ t, exec .bthVsEdge s = .next t ∧ t.dev.g BRT_STAT.VIDFMT = 1 ∧ t.dev.g BRT_PHERR = s.dev.g BRT_PHERR ∧
          t.dev.g BRT_FERR = s.dev.g BRT_FERR ∧ t.dev.brt.hsCount = 0 ∧ t.dev.brt.pos = s.dev.brt.pos ∧ SameOutside s t))

/-- A lost source leads to HOLDOVER and FREE; writes choose a source or a rebase; PLL loss mutes and tests; none of these rows moves the position: With the Breath counting. SOURCE_LOST from ACQUIRE or TRACK: HOLDOVER (FREE when BRT_HOLDMAX is 0), SRCOK clear, counted, in TRACK at the mean frequency. HOLDMAX_EXPIRY in HOLDOVER: FREE, or ACQUIRE with a valid source that is not refused. A host write of another SRC in a running device sets it, clears BACKWARD and enters FREE or ACQUIRE; during a move it waits, and a reserved code changes no source. REBASE after a refusal clears BACKWARD and enters ACQUIRE with a rebase due; otherwise it has no effect. A read of BRT_POS_L snapshots the position. PLL loss with no move under way sets PLLUNL, requests the mute and starts the relock test; PLL_RELOCK of a running test under its class limit, and a retry that locks in SAFE, end the mute request. -/
def Obligations.LossHoldsTheBreath : Prop :=
  ∀ s : State, s.dev.on BRT_STAT.RUNNING = true →
    (s.dev.brtSrc ≠ srcFREE → (s.dev.brtState = sACQUIRE ∨ s.dev.brtState = sTRACK) →
      ∃ t, exec .sourceLost s = .next t ∧ t.dev.brtState = (if s.dev.g BRT_HOLDMAX = 0 then sFREE else sHOLDOVER) ∧
        t.dev.g BRT_STAT.SRCOK = 0 ∧ t.dev.g BRT_NLOSS = min (s.dev.g BRT_NLOSS + 1) 0xFFFFFFFF ∧
        t.dev.g BRT_FERR = (if s.dev.brtState = sTRACK then (BitVec.ofInt 32 s.dev.meanFerr).toNat else s.dev.g BRT_FERR) ∧
        t.dev.brt.holdStart = s.dev.brt.tbase ∧ t.dev.brt.pos = s.dev.brt.pos ∧ SameOutside s t) ∧
    (s.dev.brtState = sHOLDOVER → (s.dev.on BRT_STAT.SRCOK = false ∨ s.dev.on BRT_STAT.BACKWARD = true) →
      ∃ t, exec .holdmaxExpiry s = .next t ∧ t.dev.brtState = sFREE ∧ t.dev.brt = s.dev.brt ∧ SameOutside s t) ∧
    (s.dev.brtState = sHOLDOVER → s.dev.on BRT_STAT.SRCOK = true → s.dev.on BRT_STAT.BACKWARD = false → s.dev.brtSrc ≠ srcFREE →
      ∃ t, exec .holdmaxExpiry s = .next t ∧ t.dev.brtState = sACQUIRE ∧ t.dev.brt.pos = s.dev.brt.pos ∧
        SameRegs s.dev t.dev [BRT_STAT.STATE.base] ∧ SameOutside s t) ∧
    (∀ src : BitVec 3, s.dev.running = true → s.dev.g BRT_CTL.REBASE = 0 →
      (s.dev.moving = false → src.toNat < 5 → src.toNat ≠ s.dev.brtSrc →
        ∃ t, exec (.brtSrcWrite .host src) s = .next t ∧ t.dev.brtSrc = src.toNat ∧ t.dev.g BRT_STAT.BACKWARD = 0 ∧
          t.dev.brtState = (if src = 0 then sFREE else sACQUIRE) ∧ t.dev.brt.hasEpoch = false ∧ t.dev.brt.pos = s.dev.brt.pos ∧
          SameRegs s.dev t.dev [BRT_CTL.SRC.base, BRT_STAT.STATE.base] ∧ SameOutside s t) ∧
      (s.dev.moving = true → src.toNat < 5 → ∃ t, exec (.brtSrcWrite .host src) s = .next t ∧ t.dev.brtSrc = s.dev.brtSrc ∧
        t.dev.brt = { s.dev.brt with srcPend := some src } ∧ SameOutside s t) ∧
      (5 ≤ src.toNat → ∃ t, exec (.brtSrcWrite .host src) s = .next t ∧ t.dev.brtSrc = s.dev.brtSrc ∧ t.dev.brt = s.dev.brt ∧
        SameOutside s t) ∧
      (s.dev.moving = false → s.dev.on BRT_STAT.BACKWARD = true → (s.dev.brtState = sHOLDOVER ∨ s.dev.brtState = sFREE) →
        ∃ t, exec (.rebase .host) s = .next t ∧ t.dev.g BRT_STAT.BACKWARD = 0 ∧ t.dev.brtState = sACQUIRE ∧
          t.dev.brt.rebaseReq = true ∧ t.dev.brtSrc = s.dev.brtSrc ∧ t.dev.brt.pos = s.dev.brt.pos ∧ SameOutside s t) ∧
      (s.dev.moving = false → s.dev.on BRT_STAT.BACKWARD = false →
        ∃ t, exec (.rebase .host) s = .next t ∧ t.dev.brt = s.dev.brt ∧ SameRegs s.dev t.dev [BRT_CTL.SRC.base] ∧ SameOutside s t)) ∧
    (∀ ag : Agent, s.dev.running = true → ∃ t, exec (.brtPosRead ag) s = .next t ∧
      t.dev.hrp.rdata.toNat = s.dev.brt.pos.toNat % 2 ^ 32 ∧ (t.dev.look 0x200C).toNat = s.dev.brt.pos.toNat / 2 ^ 32 ∧
      t.dev.brt = { s.dev.brt with snapPos := s.dev.brt.pos } ∧ SameRegs s.dev t.dev [] ∧ SameOutside s t) ∧
    (s.dev.brt.pllLocked = true → s.dev.moving = false → s.dev.on BRT_STAT.SLEW = false →
      ∃ t, exec .pllUnlock s = .next t ∧ t.dev.g BRT_STAT.PLLUNL = 1 ∧ bit (t.dev.g BEL_STAT.MREQ) 2 = true ∧
        t.dev.g BEL_STAT.MSTATE = (if s.dev.g BEL_STAT.MSTATE = 2 then 2 else 1) ∧
        t.dev.brt = { s.dev.brt with pllLocked := false } ∧
        (Test.of kPll 0 0 ∈ t.dev.flt.tests ∨ Test.of kPll 0 0 ∈ t.dev.flt.waiting) ∧ SameOutside s t) ∧
    (Test.of kPll 0 0 ∈ s.dev.flt.tests → (s.dev.g FLT_THR.LIMIT 7 = 0 ∨ s.dev.score 7 0 + 1 < s.dev.g FLT_THR.LIMIT 7) →
      ∃ t, exec .pllRelock s = .next t ∧ t.dev.brt.pllLocked = true ∧ bit (t.dev.g BEL_STAT.MREQ) 2 = false ∧
        t.dev.g FLT_NTRANS = min (s.dev.g FLT_NTRANS + 1) 0xFFFFFFFF ∧ t.dev.brt.pos = s.dev.brt.pos ∧ SameOutside s t) ∧
    (s.dev.mode = 4 → s.dev.on FLT_STAT.PLLDOWN = true →
      ∃ t, exec (.pllRelockRetry true) s = .next t ∧ t.dev.g FLT_STAT.PLLDOWN = 0 ∧ t.dev.brt.pllLocked = true ∧
        bit (t.dev.g BEL_STAT.MREQ) 2 = false ∧ t.dev.brt.pos = s.dev.brt.pos ∧ SameOutside s t)

/-- Beacons and delay exchanges: a copy on every port that is up, the path delay of R93, the phase error m1 + d − f1, and the takeover: In a running device with a beacon domain that is not secure. A master's BEACON_SEND queues on every port that can carry it a timed TC0 frame with its priority, rate, block and sequence; DELAY_REQUEST_SEND of a follower queues one request per plane. MASTER_TAKEOVER of a candidate that has heard nothing for TKO makes it the master. For a received packet that passed the first checks (d is the device without it): BEACON of the master, on the plane in use, in TRACK and no outlier, gives BRT_PHERR = m1 + d − f1 in nanoseconds without moving the position; one from a node that is neither the master nor outranks it changes nothing. DELAY_REQ is answered by a master alone, with the request's stamp and its own; DELAY_RESP keeps ((f1 − m1) + (m2 − f2)) ÷ 2 for its plane. -/
def Obligations.BeaconsCarryTheBreath : Prop :=
  ∀ s : State, s.dev.mac.length = 4 → s.dev.on BRT_STAT.RUNNING = true → s.dev.running = true →
    s.dev.on BLW_PD.SECURE (s.dev.g BLW_SECCTL.BPD) = false →
    (s.dev.on BRT_STAT.MASTER = true →
      ∃ t, exec .beaconSend s = .next t ∧ t.dev.brt.bcnSeq = s.dev.brt.bcnSeq + 1 ∧ t.dev.brt.pos = s.dev.brt.pos ∧
        SameRegs s.dev t.dev [BLW_TXPKT.base] ∧ SameOutside s t ∧
        ∀ n : Nat, n < 4 → if s.dev.portUp n = true ∧ s.dev.fits n 16 false = true then
            ∃ f, (t.dev.port n).tx = (s.dev.port n).tx ++ [f] ∧ f.kind = .beacon ∧ f.tc = 0 ∧ f.timed = true ∧ f.dst = s.dev.fabMc n ∧
              f.body.take 7 = [BitVec.ofNat 8 (s.dev.g BRT_FAB.FPRIO), BitVec.ofNat 8 (s.dev.g BRT_CTL.FS), BitVec.ofNat 8 s.dev.blk,
                BitVec.ofNat 8 (if s.dev.brtState = 2 ∨ s.dev.brtState = 3 then 1 else 0)] ++ leBytes 2 s.dev.brt.bcnSeq.toNat ++
                [BitVec.ofNat 8 n]
          else (t.dev.port n).tx = (s.dev.port n).tx) ∧
    (s.dev.follows = true → s.dev.on BRT_FMASTER.VALID = true → s.dev.brt.reqs.length = 4 →
      ∃ t, exec .delayRequestSend s = .next t ∧ t.dev.brt.pos = s.dev.brt.pos ∧ SameOutside s t ∧
        SameRegs s.dev t.dev [BLW_TXPKT.base] ∧
        ∀ n : Nat, n < 4 → s.dev.portUp n = true → s.dev.fits n 16 false = true →
          ∃ f q, (t.dev.port n).tx = (s.dev.port n).tx ++ [f] ∧ f.kind = .delay ∧ t.dev.brt.reqs.getD n none = some q ∧
            f.body.take 3 = leBytes 2 q.toNat ++ [BitVec.ofNat 8 n]) ∧
    (s.dev.on BRT_FAB.MASTEN = true → s.dev.on BRT_STAT.MASTER = false → s.dev.brtSrc ≠ srcFABRIC → s.dev.brt.heardOutrank = none →
      s.dev.g BRT_FAB.TKO * 100000 ≤ (s.dev.brt.tbase - s.dev.brt.listenFrom).toNat →
      ∃ t, exec .masterTakeover s = .next t ∧ t.dev.g BRT_STAT.MASTER = 1 ∧ t.dev.g BRT_FMASTER.NODE = s.dev.g BLW_NODE ∧
        t.dev.g BRT_FMASTER.PRIO = s.dev.g BRT_FAB.FPRIO ∧ t.dev.g BRT_FMASTER.VALID = 1 ∧ t.dev.brt.pos = s.dev.brt.pos ∧
        SameRegs s.dev t.dev [BRT_STAT.MASTER.base, BRT_FMASTER.NODE.base] ∧ SameOutside s t) ∧
    (∀ (d : Dev) (g : Got), s.dev.takePkt (isKind 0) = (d, some g) → g.h.sec = false → 16 ≤ g.h.plen →
      d.on BRT_STAT.RUNNING = true → d.running = true → d.mac.length = 4 → d.on BLW_PD.SECURE (d.g BLW_SECCTL.BPD) = false →
      d.on BRT_STAT.MASTER = false → d.on BRT_FAB.MASTEN = false → d.on BRT_FMASTER.VALID = true →
      (∀ dl : Int, d.g BRT_FMASTER.NODE = g.h.src → d.brtSrc = srcFABRIC → fieldAt g.body 1 1 = d.g BRT_CTL.FS → fieldAt g.body 2 1 = d.blk % 256 →
        d.bestPlane = some g.pkt.plane → d.kept g.pkt.plane = some dl → d.brtState = sTRACK → d.moving = false → d.brt.outRange < 15 →
        d.brt.firstMeas = false → d.brt.gaps.length = 4 → g.pkt.plane < 4 →
        (d.errNs (distance (g.h.spos + BitVec.ofInt 64 dl) g.pkt.stamp) - d.brt.phEst).natAbs ≤ 10000 →
        (distance (g.h.spos + BitVec.ofInt 64 dl) g.pkt.stamp).natAbs * 1000 ≤ d.fs * 65536 →
        ∃ t, exec .beacon s = .next t ∧ t.dev.brtState = sTRACK ∧ t.dev.brt.pos = d.brt.pos ∧ SameOutside s t ∧
          t.dev.g BRT_PHERR = (BitVec.ofInt 32 (d.errNs (distance (g.h.spos + BitVec.ofInt 64 dl) g.pkt.stamp))).toNat) ∧
      (d.g BRT_FMASTER.NODE ≠ g.h.src → outranks (fieldAt g.body 0 1) g.h.src (d.g BRT_FMASTER.PRIO) (d.g BRT_FMASTER.NODE) = false →
        exec .beacon s = .next { s with dev := d })) ∧
    (∀ (d : Dev) (g : Got), s.dev.takePkt (isKind 1) = (d, some g) → g.h.sec = false → 16 ≤ g.h.plen →
      d.on BRT_STAT.RUNNING = true → d.running = true → d.mac.length = 4 → d.on BLW_PD.SECURE (d.g BLW_SECCTL.BPD) = false →
      (d.on BRT_STAT.MASTER = false → exec .delayReq s = .next { s with dev := d }) ∧
      (∀ p : Nat, d.on BRT_STAT.MASTER = true → d.answerPlane g.pkt.plane = some p → d.portUp p = true → d.fits p 24 false = true →
        ∃ t f, exec .delayReq s = .next t ∧ (t.dev.port p).tx = (d.port p).tx ++ [f] ∧ f.kind = .delay ∧
          f.body = slice g.body 0 3 ++ List.replicate 5 0 ++ leBytes 8 g.h.spos.toNat ++ leBytes 8 g.pkt.stamp.toNat ∧
          (∀ n, n ≠ p → t.dev.port n = d.port n) ∧ SameRegs d t.dev [BLW_TXPKT.base] ∧ SameOutside s t)) ∧
    (∀ (d : Dev) (g : Got) (gap : Int) (p : Nat), s.dev.takePkt (isKind 2) = (d, some g) → g.h.sec = false → 24 ≤ g.h.plen →
      d.on BLW_PD.SECURE (d.g BLW_SECCTL.BPD) = false →
      d.follows = true → d.on BRT_FMASTER.VALID = true → g.h.src = d.g BRT_FMASTER.NODE → fieldAt g.body 2 1 = p → p < 4 →
      d.brt.reqs.getD p none = some (BitVec.ofNat 16 (fieldAt g.body 0 2)) → d.brt.gaps.getD p none = some gap → d.brt.delays.length = 4 →
      ∃ t, exec .delayResp s = .next t ∧ SameRegs d t.dev [] ∧ SameOutside s t ∧ t.dev.brt.pos = d.brt.pos ∧
        t.dev.brt.delays.getD p [] = ((gap + distance (BitVec.ofNat 64 (fieldAt g.body 0x10 8))
          (BitVec.ofNat 64 (fieldAt g.body 8 8))) / 2 :: d.brt.delays.getD p []).take 16)

/-- A word taken in goes to the store with the position it executes at; a late STRICT word and a reserved opcode are counted and discarded: In a running device with the Breath started, EVENT_INTAKE takes the head of the waiting source of lowest rank. A word with a main-store opcode (not ALL_OFF or SPILL_NOTE) and TARGET 0 enters the store behind the others at the first whole sample at or after the Breath, fraction 0, not late. One whose absolute target is at or after the Breath by at most 2^31 samples enters at its target. A STRICT one whose target lies before the Breath enters nothing and counts EVS_STALE. A reserved opcode enters nothing and counts EVS_BADOP. OTP, flash, TAP and pins stay. -/
def Obligations.IntakeJudgesAgainstTheBreath : Prop :=
  ∀ (s : State) (c : BitVec 4) (r : Nat) (w : Roari) (nd : Option (BitVec 12)), s.dev.on BRT_STAT.RUNNING = true →
    s.dev.running = true → s.dev.blw.evtDone = [] → r < 5 → s.dev.waiting c.toNat = some (r, w, nd, false) →
    ((w.op = 0 ∨ 11 < w.op) → ∃ t, exec (.eventIntake c none) s = .next t ∧ t.dev.evs.store = s.dev.evs.store ∧
      t.dev.g EVS_BADOP = min (s.dev.g EVS_BADOP + 1) 0xFFFFFFFF ∧ SameOutside s t) ∧
    ((1 ≤ w.op ∧ w.op ≤ 8 ∨ w.op = opMARK) →
      (w.w0 = 0 → ∃ t p, exec (.eventIntake c none) s = .next t ∧ t.dev.evs.store = s.dev.evs.store ++ [p] ∧ p.word = w ∧
        p.at_ = ceilPos s.dev.brt.pos ∧ p.frac = 0 ∧ p.rank = r ∧ p.late = false ∧ SameOutside s t) ∧
      (w.w0 ≠ 0 → w.rel = false → earlier w.w0 s.dev.brt.pos = false → distance w.w0 s.dev.brt.pos ≤ 2 ^ 31 * 65536 →
        ∃ t p, exec (.eventIntake c none) s = .next t ∧ t.dev.evs.store = s.dev.evs.store ++ [p] ∧ p.word = w ∧
          p.at_ = w.w0 ∧ p.frac = fracOf w.w0 ∧ p.rank = r ∧ p.late = false ∧ SameOutside s t) ∧
      (w.w0 ≠ 0 → w.rel = false → w.strict = true → earlier w.w0 s.dev.brt.pos = true →
        ∃ t, exec (.eventIntake c none) s = .next t ∧ t.dev.evs.store = s.dev.evs.store ∧
          t.dev.g EVS_STALE = min (s.dev.g EVS_STALE + 1) 0xFFFFFFFF ∧ SameOutside s t))

/-- Sixteen bytes written into a window slot inject one word as their agent's source, and the mailbox's last half submits its latch: In a running device: 16 bytes written by the host from the start of any slot of the ingress window join the host mailbox as one word while it has room, and by the USB engine the USB source's queue. A write of the mailbox's last half word with both byte lanes submits the latched 16 bytes. No register of OTP, flash, TAP or pins changes. -/
def Obligations.WindowAndMailboxInjectWords : Prop :=
  (∀ (s : State) (off : BitVec 12) (data : List Byte), s.dev.running = true → off.toNat % 16 = 0 → data.length = 16 →
    s.dev.evs.latchHost.length = 16 → s.dev.hrp.mbx.length < s.dev.rowsLeft 5 512 →
    ∃ t, exec (.ingressWindowWrite .host off data) s = .next t ∧ t.dev.hrp.mbx = s.dev.hrp.mbx ++ [roariBytes data] ∧
      t.dev.evs.latchHost = data ∧ SameOutside s t) ∧
  (∀ (s : State) (off : BitVec 12) (data : List Byte), s.dev.running = true → off.toNat % 16 = 0 → data.length = 16 →
    s.dev.evs.latchUsb.length = 16 →
    ∃ t, exec (.ingressWindowWrite .usb off data) s = .next t ∧ t.dev.evs.usbQ = s.dev.evs.usbQ ++ [roariBytes data] ∧
      SameRegs s.dev t.dev [] ∧ SameOutside s t) ∧
  (∀ (s : State) (data : Half), s.dev.running = true → s.dev.hrp.mbx.length < s.dev.rowsLeft 5 512 →
    s.dev.hrp.mbxLatch.length = 16 →
    ∃ t, exec (.mailboxWrite 7 data 3) s = .next t ∧
      t.dev.hrp.mbx = s.dev.hrp.mbx ++ [roariBytes (s.dev.hrp.mbxLatch.take 14 ++ leBytes 2 data.toNat)] ∧ SameOutside s t)

/-- Release takes the due word that comes first by target, source rank and intake order, and takes it out of the store: When release answers a word for an opcode, it is a due word of the stores with that opcode, and the stores hold no word of its intake number any more; every voice, Part record and bank byte is as before. No other due word comes before it, in every state whose due words lie within 2^62 of the Breath, where the serial comparison of R74 is an order. -/
def Obligations.ReleaseTakesTheWordInOrder : Prop :=
  ∀ (d e : Dev) (op : Nat) (p : Pend), d.release op = some (e, p) →
    p ∈ d.evs.panic ++ d.evs.store ∧ p.due d.brt.pos = true ∧ p.word.op = op ∧
    ((∀ q ∈ d.evs.panic ++ d.evs.store, q.due d.brt.pos = true → (d.brt.pos + 65536 - q.at_).toNat < 2 ^ 62) →
      ∀ q ∈ d.evs.panic ++ d.evs.store, q.due d.brt.pos = true → q.before p = false) ∧
    (∀ q ∈ e.evs.panic ++ e.evs.store, q.seq ≠ p.seq) ∧
    e.rda = d.rda ∧ e.val = d.val ∧ e.bnk = d.bnk

/-- A released NOTE_ON starts a voice in the Reed that lane packing chooses; NOTE_OFF, POLY_PRESS and PER_NOTE act on the matching voices: In a running device, for the word that the scheduler releases next (d is the device without it) on a used Part: a NOTE_ON of an unmuted poly Part below its limit, with its patch loaded and a Reed available, outside SAFE, adds one voice of that Part, note id, velocity and start position in the Reed that packing chooses; NOTE_OFF on a poly Part releases every matching voice that is neither released nor sustained, or marks it sustained while the pedal holds; POLY_PRESS and PER_NOTE kind 2 post their value to every matching voice that is not detached. No other voice changes, and OTP, flash, TAP and pins stay. The host Part's words (R229) are the spill statement's. -/
def Obligations.NoteWordsActOnVoices : Prop :=
  ∀ (s : State) (d : Dev) (p : Pend), s.dev.running = true → d.argOk p.word = true → d.hostWord p.word = false →
    (∀ (n : Nat) (wake : Bool), s.dev.release opNOTE_ON = some (d, p) → d.mode ≠ mSAFE → d.pMute p.word.part = false →
      p.spilled = false → d.pVoicing p.word.part = 0 → d.patchLoaded p.word.part = true →
      d.local_ p.word.part < d.pLimit p.word.part → d.available p.word.part 0 = true → d.packReed = some (n, wake) →
      ∃ t v, exec .noteOn s = .next t ∧ t.dev.rda.voices = d.rda.voices ++ [(n, v)] ∧ v.part.toNat = p.word.part ∧
        v.patchNo.toNat = d.pPatch p.word.part % 1024 ∧ v.nid.toNat = p.word.nid ∧ v.vel.toNat = p.word.vala ∧
        v.startPos = p.pos ∧ v.pitch = pitchOf p.word.valb ∧ v.released = false ∧ SameOutside s t) ∧
    (s.dev.release opNOTE_OFF = some (d, p) → d.pVoicing p.word.part = 0 →
      let hold : Bool := d.pSustain p.word.part && 0x8000 ≤ (sget 0 (p.word.part * 65536 + 64) d.val.ctl).toNat
      ∃ t, exec .noteOff s = .next t ∧ t.dev.rda.voices = d.rda.voices.map (fun e =>
        if d.matches p.word.part p.word.nid e.2 && !e.2.released && !e.2.sustained then
          (e.1, if hold then { e.2 with sustained := true } else e.2.release p.pos p.word.vala) else e) ∧
        SameOutside s t) ∧
    (s.dev.release opPOLY_PRESS = some (d, p) →
      ∃ t, exec .polyPress s = .next t ∧ t.dev.rda.voices = d.rda.voices.map (fun e =>
        if d.matches p.word.part p.word.nid e.2 && !e.2.detached then
          (e.1, e.2.post p.pos (.press (BitVec.ofNat 32 p.word.val32))) else e) ∧ SameOutside s t) ∧
    (s.dev.release opPER_NOTE = some (d, p) → p.word.valb / 16384 = 2 →
      ∃ t, exec .perNote s = .next t ∧ t.dev.rda.voices = d.rda.voices.map (fun e =>
        if d.matches p.word.part p.word.nid e.2 && !e.2.detached then
          (e.1, e.2.post p.pos (.pnBend (BitVec.ofNat 16 p.word.vala))) else e) ∧ SameOutside s t)

/-- CONTROL, PITCH_BEND, PROGRAM and PART_MODE change their Part's values; ALL_OFF cuts its voices; MARK latches its target and values: In a running device, for the word released next (d is the device without it) on a used Part, not on the host Part of spills: CONTROL (other than channel pressure and the sustain pedal) sets the Part's controller, PITCH_BEND its bend, each recorded for rendering at the word's position; PROGRAM to a loaded patch sets PATCH; PART_MODE 0 to 4 set VOICING, LIMIT, RESERVE, PRIO and MUTE; ALL_OFF with CUT and without FLUSH marks each voice it addresses to be cut at its position; MARK sets EVS_MARKPOS and EVS_MARKVAL. -/
def Obligations.PartWordsActOnTheirPart : Prop :=
  ∀ (s : State) (d : Dev) (p : Pend), s.dev.running = true → d.argOk p.word = true → d.hostWord p.word = false →
    (s.dev.release opCONTROL = some (d, p) → p.word.valb / 16384 ≠ 3 → p.word.valb ≠ 64 →
      ∃ t, exec .control s = .next t ∧
        sget 0 (p.word.part * 65536 + p.word.valb) t.dev.val.ctl = BitVec.ofNat 32 p.word.vala ∧
        (∀ k, k ≠ p.word.part * 65536 + p.word.valb → sget 0 k t.dev.val.ctl = sget 0 k d.val.ctl) ∧
        t.dev.rda.partEvs = d.rda.partEvs ++ [⟨p.pos, p.word.part, some p.word.valb, BitVec.ofNat 32 p.word.vala⟩] ∧
        t.dev.rda.voices = d.rda.voices ∧ SameRegs d t.dev [] ∧ SameOutside s t) ∧
    (s.dev.release opPITCH_BEND = some (d, p) →
      ∃ t, exec .pitchBend s = .next t ∧ sget 0x80000000 p.word.part t.dev.val.bend = BitVec.ofNat 32 p.word.val32 ∧
        (∀ k, k ≠ p.word.part → sget 0x80000000 k t.dev.val.bend = sget 0x80000000 k d.val.bend) ∧
        t.dev.rda.partEvs = d.rda.partEvs ++ [⟨p.pos, p.word.part, none, BitVec.ofNat 32 p.word.val32⟩] ∧
        t.dev.rda.voices = d.rda.voices ∧ SameRegs d t.dev [] ∧ SameOutside s t) ∧
    (s.dev.release opPROGRAM = some (d, p) → p.word.vala ≤ 1023 → d.flag RDA_PVALID p.word.vala = true →
      ∃ t, exec .program s = .next t ∧ t.dev.pPatch p.word.part = p.word.vala ∧ t.dev.rda.voices = d.rda.voices ∧
        SameOutside s t) ∧
    (s.dev.release opPART_MODE = some (d, p) →
      ∃ t, exec .partMode s = .next t ∧ t.dev.rda.voices = d.rda.voices ∧ SameOutside s t ∧
        (p.word.valb = 0 → t.dev.pVoicing p.word.part = p.word.vala % 4) ∧
        (p.word.valb = 1 → t.dev.pLimit p.word.part = p.word.vala) ∧
        (p.word.valb = 2 → t.dev.pReserve p.word.part = p.word.vala) ∧
        (p.word.valb = 3 → t.dev.pPrio p.word.part = p.word.vala % 256) ∧
        (p.word.valb = 4 → t.dev.pMute p.word.part = bit p.word.vala 0) ∧
        (5 ≤ p.word.valb → t.dev.val = d.val ∧ t.dev.g EVS_BADARG = min (d.g EVS_BADARG + 1) 0xFFFFFFFF)) ∧
    (s.dev.release opALL_OFF = some (d, p) → p.word.cut = true → p.word.flush = false →
      ∃ t, exec (.allOff false) s = .next t ∧ t.dev.rda.voices = d.rda.voices.map (fun e =>
        if offHits p.word e.2.part.toNat e.2.nid.toNat then
          (e.1, { e.2 with released := true, sustained := false, relPos := (if e.2.released then e.2.relPos else p.pos),
                           evs := e.2.evs ++ [⟨p.pos, .cut⟩] }) else e) ∧
        t.dev.evs.store = d.evs.store ∧ SameOutside s t) ∧
    (s.dev.release opMARK = some (d, p) →
      ∃ t, exec .mark s = .next t ∧ t.dev.g EVS_MARKPOS_L = p.at_.toNat % 2 ^ 32 ∧ t.dev.g EVS_MARKPOS_H = p.at_.toNat / 2 ^ 32 ∧
        t.dev.g EVS_MARKVAL.VALA = p.word.vala ∧ t.dev.g EVS_MARKVAL.VALB = p.word.valb ∧ t.dev.rda = d.rda ∧
        t.dev.val = d.val ∧ SameOutside s t)

/-- BLOCK_START, once the Breath is there, counts the block, lets the waiting writes act and starts every core's block; before, it does nothing: In a running device with the Breath running, after block k: while the Breath is still in block k, BLOCK_START changes nothing. Once it is past, the next block is k + 1 and SYS_BLKNUM shows it; Part-record writes, INVALIDATE commands and a library move that waited have acted, the move clearing every RDA_PVALID bit (when no INVALIDATE waits beside it); each core without a RESTART pending has DONE clear and, powered, its block-start interrupt pending; a core waiting in WAITB that may run goes on at the next instruction. -/
def Obligations.BlockStartPacesTheDevice : Prop :=
  ∀ (s : State) (k : Nat) (parity : List (BitVec 5)), s.dev.on BRT_STAT.RUNNING = true → s.dev.running = true →
    s.dev.rda.block = some k →
    (s.dev.blkNum < k + 1 → exec (.blockStart parity) s = .next s) ∧
    (k + 1 ≤ s.dev.blkNum → ∃ t, exec (.blockStart parity) s = .next t ∧ t.dev.rda.block = some (k + 1) ∧
      t.dev.g SYS_BLKNUM = (k + 1) % 2 ^ 32 ∧ t.dev.val.partPend = [] ∧ t.dev.rda.cmdPend = [] ∧ t.dev.rda.plibPend = none ∧
      (∀ b, s.dev.rda.plibPend = some b → s.dev.rda.cmdPend = [] →
        t.dev.g RDA_PLIB.BANK = b % 128 ∧ ∀ n, n < 1024 → t.dev.flag RDA_PVALID n = false) ∧
      (∀ c, c < 16 → c < s.dev.chn.length → (s.dev.core c).restart = false →
        (t.dev.core c).done = false ∧ ((s.dev.core c).pwr = true → (t.dev.core c).ipend.getLsbD 0 = true) ∧
        ((s.dev.core c).pwr = true → (s.dev.core c).mst = 0 → (s.dev.core c).dst = 0 → (s.dev.core c).run = true →
          (s.dev.core c).waiting = true → (t.dev.core c).waiting = false ∧ (t.dev.core c).pc = (s.dev.core c).pc + 1)) ∧
      SameOutside s t)

/-- INVALIDATE and VALIDATE, the library move, the Reed view and prefetch each change their own part of the Reed array: With no VALIDATE running, INVALIDATE waits for the block start and VALIDATE runs: no RDA_PVALID bit changes yet. VALIDATE_DONE records the first failing check of R188 in RDA_PSTAT.RES, sets the patch's bit exactly when there is none, and leaves every other patch's bit and all of memory. A host write of an even bank to RDA_PLIB waits for the block start, an odd one changes nothing. A host write of RDA_RSEL shows the Reed's voice. A granted or retried prefetch changes nothing; a missed one marks the window of that oscillator of a rendered voice of type 5 or 6 and nothing else. -/
def Obligations.PatchCommandsActOnTheLibrary : Prop :=
  ∀ s : State,
    (∀ n : BitVec 10, s.dev.on RDA_PSTAT.BUSY = false →
      (∃ t, exec (.invalidate n) s = .next t ∧ t.dev.rda.cmdPend = s.dev.rda.cmdPend ++ [(n.toNat, false)] ∧
        t.dev.g RDA_PSTAT.NUM = n.toNat ∧ SameRegs s.dev t.dev [RDA_PSTAT.NUM.base] ∧ SameOutside s t) ∧
      (∃ t, exec (.validate n) s = .next t ∧ t.dev.rda.validating = some n ∧ t.dev.g RDA_PSTAT.BUSY = 1 ∧
        t.dev.g RDA_PSTAT.NUM = n.toNat ∧ SameRegs s.dev t.dev [RDA_PSTAT.NUM.base] ∧ SameOutside s t)) ∧
    (∀ n : BitVec 10, s.dev.rda.validating = some n →
      ∃ t, exec .validateDone s = .next t ∧ t.dev.g RDA_PSTAT.RES = s.dev.checkPatch n.toNat ∧ t.dev.g RDA_PSTAT.BUSY = 0 ∧
        t.dev.flag RDA_PVALID n.toNat = decide (s.dev.checkPatch n.toNat = 0) ∧
        (∀ m, m < 1024 → m ≠ n.toNat → t.dev.flag RDA_PVALID m = s.dev.flag RDA_PVALID m) ∧ t.dev.bnk = s.dev.bnk ∧
        t.dev.rda.validating = none ∧ SameOutside s t) ∧
    (∀ v : Word, s.dev.running = true →
      (v.toNat % 2 = 0 → ∃ t, exec (.rdaPlibWrite .host v) s = .next t ∧ t.dev.rda.plibPend = some (v.toNat % 128) ∧
        SameRegs s.dev t.dev [] ∧ SameOutside s t) ∧
      (v.toNat % 2 = 1 → exec (.rdaPlibWrite .host v) s = .next s) ∧
      (∃ t, exec (.rdaRselWrite .host v) s = .next t ∧ t.dev.g RDA_RSEL.N = v.toNat % 4096 ∧ t.dev.rda = s.dev.rda ∧
        (∀ x, s.dev.rda.voices.lookup (v.toNat % 4096) = some x → s.dev.reedExists (v.toNat % 4096) = true →
          s.dev.g RDA_LANERET = 0 →
          t.dev.g RDA_RINFO0.STATE = (if x.elided then 3 else if x.released then 2 else 1) ∧
          t.dev.g RDA_RINFO0.PART = x.part.toNat ∧ t.dev.g RDA_RINFO0.PATCH = x.patchNo.toNat ∧
          t.dev.g RDA_RINFO1.NID = x.nid.toNat ∧ t.dev.g RDA_RINFO1.PEAK = x.peakLevel.toNat) ∧
        SameRegs s.dev t.dev [RDA_RSEL.N.base, RDA_RINFO0.STATE.base, RDA_RINFO1.NID.base] ∧ SameOutside s t)) ∧
    (∀ (r : BitVec 12) (i : BitVec 2), exec (.reedPrefetch r i .granted) s = .next s ∧
      exec (.reedPrefetch r i .retried) s = .next s ∧
      (∀ v, s.dev.rda.voices.lookup r.toNat = some v → v.started = true → v.elided = false → i.toNat < 3 →
        5 ≤ u8 v.patch (oscBase i.toNat) → u8 v.patch (oscBase i.toNat) ≤ 6 →
        exec (.reedPrefetch r i .missed) s = .next { s with dev := { s.dev with rda := { s.dev.rda with
          voices := s.dev.rda.voices.map (fun (e : Nat × Voice) =>
            if e.1 = r.toNat then (e.1, { e.2 with osc := setAt e.2.osc i.toNat { e.2.oscAt i.toNat with miss := true } }) else e) } } }))

/-- A host's leases: expiry releases the voice, freeing clears the bit, the offer follows KEEP, keepalives go out for each spilled note: LEASE_EXPIRY counts each lease that has been silent for LEASEMAX in VAL_LEASEEXP and releases its voice; voices neither come nor go. LEASE_FREE changes no voice and nothing in the scheduler. LEDGER_OFFER_UPDATE never withholds a claimed lease, and with hosting off withholds every other one. LEASE_KEEPALIVE posts one message for each spilled note that has been silent for a quarter of LEASEMAX and keeps the spill map's entries. OTP, flash, TAP and pins stay. -/
def Obligations.LeasesFollowTheLedger : Prop :=
  ∀ s : State,
    (∃ t, exec .leaseExpiry s = .next t ∧ SameOutside s t ∧ t.dev.rda.voices.map (·.1) = s.dev.rda.voices.map (·.1) ∧
      t.dev.g VAL_LEASEEXP = min (s.dev.g VAL_LEASEEXP + ((s.dev.syncLeases).val.leases.filter (fun e =>
        e.freeAt.isNone && s.dev.g VAL_LEASEMAX * 100000 ≤ (s.dev.brt.tbase - e.lastTb).toNat)).length) 0xFFFFFFFF ∧
      (∀ e ∈ (s.dev.syncLeases).val.leases, e.freeAt = none → s.dev.g VAL_LEASEMAX * 100000 ≤ (s.dev.brt.tbase - e.lastTb).toNat →
        ∀ r ∈ t.dev.rda.voices, r.2.lease = some e.lease → r.2.released = true)) ∧
    (∃ t, exec .leaseFree s = .next t ∧ SameOutside s t ∧ t.dev.rda = s.dev.rda ∧ t.dev.evs = s.dev.evs) ∧
    (∃ t, exec .ledgerOfferUpdate s = .next t ∧ SameOutside s t ∧ t.dev.rda = s.dev.rda ∧
      (s.dev.on VAL_CTL.HOSTEN = false →
        t.dev.val.withheld = (List.range 256).filter (fun l => !s.dev.claimed.contains l)) ∧
      (∀ l, l ∈ s.dev.claimed → l ∉ t.dev.val.withheld)) ∧
    (∃ t, exec .leaseKeepalive s = .next t ∧ SameOutside s t ∧ t.dev.rda = s.dev.rda ∧
      t.dev.blw.posted.length = s.dev.blw.posted.length +
        (s.dev.val.map.filter (fun e => s.dev.g VAL_LEASEMAX * 25000 ≤ (s.dev.brt.tbase - e.lastTb).toNat)).length ∧
      t.dev.val.map.length = s.dev.val.map.length)

/-- An offered NOTE_ON of a Part that spills always claims the lowest lease free in a peer's cached ledger; a late claim is abandoned: With no spill operation just ended, when the word that R136 offers next is a NOTE_ON of a Part with SPILLPOL 2, spilling enabled, an enabled peer, RETERR clear, room in the map, in SPILLMAX and among the claims, and the deadline not passed, and the first peer of the rotation shows a free bit i in its cached ledger word j: a claim on that peer, word and bit is added, and one CAS is posted on VAL_SPILL2.WQ. SPILL_DEADLINE with no operation just ended counts each claim whose entry is not posted by its deadline in VAL_SPILLLATE. A write of VAL_SPILL2 by the host that breaks a bound of R236 leaves the register unchanged; one within both sets it. -/
def Obligations.OffersClaimALease : Prop :=
  (∀ (s : State) (p : Pend) (k j i : Nat) (rest : List Nat), s.dev.blw.outcomes = [] → s.dev.on BRT_STAT.RUNNING = true →
    firstBy Pend.before ((s.dev.evs.panic ++ s.dev.evs.store).filter s.dev.offerDue) = some p →
    s.dev.claimPend p.seq = some p → p.word.op = opNOTE_ON →
    s.dev.pSpillPol p.word.part = 2 → s.dev.on VAL_CTL.SPILLEN = true → s.dev.on VAL_STAT.RETERR = false →
    ((s.dev.val.map.filter (fun e => e.part.toNat = p.word.part)).length < s.dev.pSpillMax p.word.part) →
    s.dev.val.map.length < 1024 → s.dev.val.claims.length < 64 → s.dev.val.claims.all (fun c => c.seq ≠ p.seq) = true →
    later s.dev.brt.pos (s.dev.deadline p.word.part p.pos) = false →
    ((List.range 16).map (fun i => (s.dev.val.lastPeer + 1 + i) % 16)).filter (fun k =>
      bit (s.dev.pPeers p.word.part) k && s.dev.on VAL_PEER.EN k &&
      (match s.dev.val.skipTb.lookup k with
        | some t => 1000000 ≤ (s.dev.brt.tbase - BitVec.ofNat 64 (t.toNat - 1)).toNat
        | none => true)) = k :: rest →
    s.dev.cachedFree k = some (j, i) →
    ∃ t c x, exec .spillOffer s = .next t ∧ t.dev.val.claims = s.dev.val.claims ++ [c] ∧ c.seq = p.seq ∧ c.peer = k ∧
      c.word = j ∧ c.bit = i ∧ c.stage = 0 ∧ t.dev.blw.posted = s.dev.blw.posted ++ [x] ∧ x.desc.op = xCAS ∧
      x.desc.raddr = s.dev.g VAL_PEER_LEDGER k + 8 * j ∧ x.desc.opnd0 = s.dev.cacheWord k j ∧
      x.wq.toNat = s.dev.g VAL_SPILL2.WQ ∧ SameOutside s t) ∧
  (∀ s : State, s.dev.blw.outcomes = [] → ∃ t, exec .spillDeadline s = .next t ∧ SameOutside s t ∧
    t.dev.g VAL_SPILLLATE = min (s.dev.g VAL_SPILLLATE + (s.dev.val.claims.filter (fun c =>
      c.stage = 0 && later s.dev.brt.pos c.deadline)).length) 0xFFFFFFFF ∧ t.dev.blw.posted = s.dev.blw.posted) ∧
  (∀ (s : State) (v : Word), s.dev.running = true →
    (s.dev.retBounds (bitsOf (s.dev.merged 0x4010 v).toNat 3 0) (bitsOf (s.dev.merged 0x4010 v).toNat 19 8) = false →
      exec (.valSpill2Write .host v) s = .next s) ∧
    (s.dev.retBounds (bitsOf (s.dev.merged 0x4010 v).toNat 3 0) (bitsOf (s.dev.merged 0x4010 v).toNat 19 8) = true →
      ∃ t, exec (.valSpill2Write .host v) s = .next t ∧ t.dev.reg 0x4010 = s.dev.merged 0x4010 v ∧
        t.dev.g VAL_STAT.RETERR = 0 ∧ SameOutside s t))

/-- A SPILL_NOTE for a claimed lease starts a voice on the host Part with the lease record's patch; one without a lease is discarded: In a running device, for a SPILL_NOTE released next on a used host Part with hosting enabled: when the lease bit is claimed by a peer and the note id's TAG (and the SEND source) match its record, the mode is SPILL_LOCAL, the patch is loaded, the Part is not muted and a Reed is free for it, outside SAFE, a voice with that lease and note id starts there. When the lease does not stand, no voice changes and VAL_LEASEBAD counts it. -/
def Obligations.SpillNotesStartOnTheHostPart : Prop :=
  ∀ (s : State) (d : Dev) (p : Pend), s.dev.running = true → s.dev.release opSPILL_NOTE = some (d, p) →
    d.argOk p.word = true →
    (d.leaseOk p.word p.node = false → ∃ t, exec .spillNote s = .next t ∧ t.dev.rda = d.rda ∧
      t.dev.g VAL_LEASEBAD = min (d.g VAL_LEASEBAD + 1) 0xFFFFFFFF ∧ SameOutside s t) ∧
    (∀ (e : Dev) (n : Nat) (wake : Bool), d.on VAL_CTL.HOSTEN = true → d.leaseOk p.word p.node = true →
      d.leaseField (p.word.nid % 256) 3 1 = 0 → d.mode ≠ mSAFE → d.pMute (d.g VAL_SPILL.HOSTPART) = false →
      d.flag RDA_PVALID (d.leaseField (p.word.nid % 256) 4 2 % 1024) = true →
      e = (d.syncLeases).mapLease (p.word.nid % 256) (fun x => { x with started := true }) →
      e.local_ (d.g VAL_SPILL.HOSTPART) < e.pLimit (d.g VAL_SPILL.HOSTPART) →
      e.available (d.g VAL_SPILL.HOSTPART) 0 = true → e.packReed = some (n, wake) →
      ∃ t v, exec .spillNote s = .next t ∧ t.dev.rda.voices = d.rda.voices ++ [(n, v)] ∧
        v.part.toNat = d.g VAL_SPILL.HOSTPART ∧ v.nid.toNat = p.word.nid ∧ v.lease = some (p.word.nid % 256) ∧
        v.retNode = none ∧ SameOutside s t)

/-- Each arithmetic instruction writes its exact result modulo 2^72, sets GOV when it leaves the range, and Z, N and E from it: For a core whose next instruction is the one named, with any moves that have nothing to wait for: CMAC, CMSU, CMPY, CMACJ and DMAC on a pair, MAC, MSU and MPY on halves, MAG, ADD, SUB, ADDX, TFR, NEG, ABS, CLR, ASL and ASR write the results of R257 into their accumulators (products of Q1.31 factors doubled, R256), set GOV when an exact result is out of range and Z, N and E from the first result. Operand, offset, mode, search and saved registers, other accumulators, and every other core are as before: loads and logic results come later. -/
def Obligations.AccumulatorInstructionsCompute : Prop :=
  ∀ (s : State) (c : BitVec 4) (k : Core) (xm ym : Mv) (p a b : BitVec 2) (n m : BitVec 3) (hx hy : BitVec 1) (sh : BitVec 5),
    Calm k xm ym →
    let A (i : Nat) : Int := (k.acc.getD i 0).toInt
    let re : Int := (halfOf (k.x.getD a.toNat 0) 0).toInt
    let im : Int := (halfOf (k.x.getD a.toNat 0) 1).toInt
    let yr : Int := (halfOf (k.y.getD b.toNat 0) 0).toInt
    let yi : Int := (halfOf (k.y.getD b.toNat 0) 1).toInt
    let xh : Int := (halfOf (k.x.getD a.toNat 0) hx.toNat).toInt
    let yh : Int := (halfOf (k.y.getD b.toNat 0) hy.toNat).toInt
    let e : Nat := 2 * p.toNat
    let o : Nat := 2 * p.toNat + 1
    (Next s c k (.cmac c p a b xm ym) false →
      Computes s c k (.cmac c p a b xm ym) [(e, A e + 2 * (re * yr - im * yi)), (o, A o + 2 * (re * yi + im * yr))]) ∧
    (Next s c k (.cmsu c p a b xm ym) false →
      Computes s c k (.cmsu c p a b xm ym) [(e, A e - 2 * (re * yr - im * yi)), (o, A o - 2 * (re * yi + im * yr))]) ∧
    (Next s c k (.cmpy c p a b xm ym) false →
      Computes s c k (.cmpy c p a b xm ym) [(e, 2 * (re * yr - im * yi)), (o, 2 * (re * yi + im * yr))]) ∧
    (Next s c k (.cmacj c p a b xm ym) false →
      Computes s c k (.cmacj c p a b xm ym) [(e, A e + 2 * (re * yr + im * yi)), (o, A o + 2 * (im * yr - re * yi))]) ∧
    (Next s c k (.dmac c p a b xm ym) false →
      Computes s c k (.dmac c p a b xm ym) [(e, A e + 2 * (re * yr)), (o, A o + 2 * (im * yi))]) ∧
    (Next s c k (.mac c n a hx b hy xm ym) false →
      Computes s c k (.mac c n a hx b hy xm ym) [(n.toNat, A n.toNat + 2 * (xh * yh))]) ∧
    (Next s c k (.msu c n a hx b hy xm ym) false →
      Computes s c k (.msu c n a hx b hy xm ym) [(n.toNat, A n.toNat - 2 * (xh * yh))]) ∧
    (Next s c k (.mpy c n a hx b hy xm ym) false → Computes s c k (.mpy c n a hx b hy xm ym) [(n.toNat, 2 * (xh * yh))]) ∧
    (Next s c k (.mag c n a xm ym) false → Computes s c k (.mag c n a xm ym) [(n.toNat, 2 * (re * re + im * im))]) ∧
    (Next s c k (.add c n m xm ym) false → Computes s c k (.add c n m xm ym) [(n.toNat, A n.toNat + A m.toNat)]) ∧
    (Next s c k (.sub c n m xm ym) false → Computes s c k (.sub c n m xm ym) [(n.toNat, A n.toNat - A m.toNat)]) ∧
    (Next s c k (.tfr c n m xm ym) false → Computes s c k (.tfr c n m xm ym) [(n.toNat, A m.toNat)]) ∧
    (Next s c k (.addx c n a hx xm ym) false → Computes s c k (.addx c n a hx xm ym) [(n.toNat, A n.toNat + xh * 2 ^ 32)]) ∧
    (Next s c k (.neg c n xm ym) false → Computes s c k (.neg c n xm ym) [(n.toNat, - A n.toNat)]) ∧
    (Next s c k (.abs c n xm ym) false → Computes s c k (.abs c n xm ym) [(n.toNat, max (A n.toNat) (- A n.toNat))]) ∧
    (Next s c k (.clr c n xm ym) false → Computes s c k (.clr c n xm ym) [(n.toNat, 0)]) ∧
    (Next s c k (.asl c n sh xm ym) false → Computes s c k (.asl c n sh xm ym) [(n.toNat, A n.toNat * 2 ^ sh.toNat)]) ∧
    (Next s c k (.asr c n sh xm ym) false → Computes s c k (.asr c n sh xm ym) [(n.toNat, A n.toNat / 2 ^ sh.toNat)])

/-- AND, OR and XOR send Xa's new value on its way; MAXI, MINI and MAXMIN keep the first extreme and its index; CLRMX resets them: For a core whose next instruction is the one named, with any moves that have nothing to wait for: AND, OR and XOR start the write of Xa, seen from the third instruction on (its timing is the model's choice, as a load's), and leave accumulators, flags and search registers. MAXI takes its operand into MXV and SIDX into MXI exactly when it is strictly greater, MINI likewise when strictly less, MAXMIN does both, and SIDX goes on by one in each. CLRMX sets MXV, MNV, MXI, MNI and SIDX to the values of R266. Accumulators and the Z, N and E flags stay in all of them. -/
def Obligations.LogicAndSearchInstructionsAct : Prop :=
  ∀ (s : State) (c : BitVec 4) (k : Core) (xm ym : Mv) (a b : BitVec 2) (src : MaxSrc), Calm k xm ym →
    let x : BitVec 64 := k.x.getD a.toNat 0
    let y : BitVec 64 := k.y.getD b.toNat 0
    let v : BitVec 32 := k.maxOperand src
    let gt : Bool := k.mxv.toInt < v.toInt
    let lt : Bool := v.toInt < k.mnv.toInt
    let keeps (t : State) : Prop := (t.dev.core c.toNat).acc = k.acc ∧ (t.dev.core c.toNat).st cZ = k.st cZ ∧
      (t.dev.core c.toNat).st cN = k.st cN ∧ (t.dev.core c.toNat).st cE = k.st cE ∧ (t.dev.core c.toNat).st cGOV = k.st cGOV ∧
      CoreKeeps k (t.dev.core c.toNat) ∧ OthersKeep s t c
    (Next s c k (.and c a b xm ym) false → ∃ t, exec (.and c a b xm ym) s = .next t ∧ keeps t ∧
      SameSearch k (t.dev.core c.toNat) ∧ (⟨3, BitVec.ofNat 8 a.toNat, x &&& y⟩ : Delayed) ∈ (t.dev.core c.toNat).pend) ∧
    (Next s c k (.or c a b xm ym) false → ∃ t, exec (.or c a b xm ym) s = .next t ∧ keeps t ∧
      SameSearch k (t.dev.core c.toNat) ∧ (⟨3, BitVec.ofNat 8 a.toNat, x ||| y⟩ : Delayed) ∈ (t.dev.core c.toNat).pend) ∧
    (Next s c k (.xor c a b xm ym) false → ∃ t, exec (.xor c a b xm ym) s = .next t ∧ keeps t ∧
      SameSearch k (t.dev.core c.toNat) ∧ (⟨3, BitVec.ofNat 8 a.toNat, x ^^^ y⟩ : Delayed) ∈ (t.dev.core c.toNat).pend) ∧
    (Next s c k (.maxi c src xm ym) false → ∃ t, exec (.maxi c src xm ym) s = .next t ∧ keeps t ∧
      (t.dev.core c.toNat).mxv = (if gt then v else k.mxv) ∧ (t.dev.core c.toNat).mxi = (if gt then k.sidx else k.mxi) ∧
      (t.dev.core c.toNat).mnv = k.mnv ∧ (t.dev.core c.toNat).mni = k.mni ∧ (t.dev.core c.toNat).sidx = k.sidx + 1) ∧
    (Next s c k (.mini c src xm ym) false → ∃ t, exec (.mini c src xm ym) s = .next t ∧ keeps t ∧
      (t.dev.core c.toNat).mnv = (if lt then v else k.mnv) ∧ (t.dev.core c.toNat).mni = (if lt then k.sidx else k.mni) ∧
      (t.dev.core c.toNat).mxv = k.mxv ∧ (t.dev.core c.toNat).mxi = k.mxi ∧ (t.dev.core c.toNat).sidx = k.sidx + 1) ∧
    (Next s c k (.maxmin c src xm ym) false → ∃ t, exec (.maxmin c src xm ym) s = .next t ∧ keeps t ∧
      (t.dev.core c.toNat).mxv = (if gt then v else k.mxv) ∧ (t.dev.core c.toNat).mxi = (if gt then k.sidx else k.mxi) ∧
      (t.dev.core c.toNat).mnv = (if lt then v else k.mnv) ∧ (t.dev.core c.toNat).mni = (if lt then k.sidx else k.mni) ∧
      (t.dev.core c.toNat).sidx = k.sidx + 1) ∧
    (Next s c k (.clrmx c xm ym) false → ∃ t, exec (.clrmx c xm ym) s = .next t ∧ keeps t ∧
      (t.dev.core c.toNat).mxv = 0x80000000 ∧ (t.dev.core c.toNat).mnv = 0x7FFFFFFF ∧ (t.dev.core c.toNat).mxi = 0 ∧
      (t.dev.core c.toNat).mni = 0 ∧ (t.dev.core c.toNat).sidx = 0)

/-- Loads from local memory come three instructions later, stores enter the buffer, pointers step at once; a reserved word faults: For a core whose next instruction is the move named, to a local address (below 0x4000) that no store-buffer entry overlaps: an X-side load of NOP, MOVA or MOVP of an operand register puts the memory's value on its way, seen from the third instruction on, and a store of any register puts its value (R259) with width and address into the buffer, behind the others when there are fewer than four; the pointer of a NOP or MOVP takes its stepped value at once. A load from a reserved address delivers 0 and sets AERR. A word with a reserved encoding stops the core with FCODE 1 at its address. -/
def Obligations.MovesReachLocalMemory : Prop :=
  ∀ (s : State) (c : BitVec 4) (k : Core), s.dev.chn.length = 16 →
    let J (t : State) : Core := t.dev.core c.toNat
    (∀ (reg : BitVec 6) (p mode : BitVec 3), reg.toNat < 24 → Calm k (.load reg p mode) .none →
      Next s c k (.nop c (.moves (.load reg p mode) .none none)) false →
      let g := k.genAddr p.toNat mode.toNat (wideCode reg.toNat)
      let a : Access := ⟨false, false, reg.toNat, g.1⟩
      g.1.toNat < 0x4000 → k.youngest a = none →
      ∃ t, exec (.nop c (.moves (.load reg p mode) .none none)) s = .next t ∧ OthersKeep s t c ∧ CoreKeeps k (J t) ∧
        (J t).acc = k.acc ∧ (J t).xm = k.xm ∧ (J t).ym = k.ym ∧ (J t).sb = k.sb ∧
        (J t).pend = k.pend ++ [⟨3, BitVec.ofNat 8 reg.toNat, k.readLocal false a.at_ a.wide⟩] ∧
        (J t).p = (match g.2 with
          | some v => setAt k.p p.toNat v
          | none => k.p)) ∧
    (∀ (store : Bool) (reg : BitVec 8) (p mode : BitVec 3), reg.toNat < 24 → k.sb.length < 4 →
      Next s c k (.movp c store true reg p mode none) false →
      let g := k.genAddr p.toNat mode.toNat (wideCode reg.toNat)
      let a : Access := ⟨true, store, reg.toNat, g.1⟩
      g.1.toNat < 0x4000 → (store = false → k.youngest a = none) →
      ∃ t, exec (.movp c store true reg p mode none) s = .next t ∧ OthersKeep s t c ∧ CoreKeeps k (J t) ∧ (J t).acc = k.acc ∧
        (J t).xm = k.xm ∧ (J t).ym = k.ym ∧
        (J t).sb = (if store then k.sb ++ [⟨true, a.at_, a.wide, (k.readCode reg.toNat).1, none⟩] else k.sb) ∧
        (J t).pend = (if store then k.pend else k.pend ++ [⟨3, reg, k.readLocal true a.at_ a.wide⟩]) ∧
        (J t).p = (match g.2 with
          | some v => setAt k.p p.toNat v
          | none => k.p)) ∧
    (∀ (reg : BitVec 8) (addr : Half), addr.toNat < 0x4000 → k.sb.length < 4 →
      Next s c k (.mova c true false reg addr none) false →
      let a : Access := ⟨false, true, reg.toNat, addr⟩
      ∃ t, exec (.mova c true false reg addr none) s = .next t ∧ OthersKeep s t c ∧ CoreKeeps k (J t) ∧ (J t).acc = k.acc ∧
        (J t).xm = k.xm ∧ (J t).ym = k.ym ∧ (J t).pend = k.pend ∧ (J t).p = k.p ∧
        (J t).sb = k.sb ++ [⟨false, a.at_, a.wide, (k.readCode reg.toNat).1, none⟩] ∧
        (J t).st cSAT = (k.st cSAT || (k.readCode reg.toNat).2)) ∧
    (∀ (ySpace : Bool) (reg : BitVec 8) (addr : Half), 0x4000 ≤ addr.toNat → addr.toNat < 0x8000 → reg.toNat < 24 →
      Next s c k (.mova c false ySpace reg addr none) false →
      ∃ t, exec (.mova c false ySpace reg addr none) s = .next t ∧ OthersKeep s t c ∧ CoreKeeps k (J t) ∧
        (J t).pend = k.pend ++ [⟨3, reg, 0⟩] ∧ (J t).st cAERR = true ∧ (J t).sb = k.sb) ∧
    (s.dev.atInstr c (.nop c .reserved) = some k → s.dev.flt.split = [] → s.dev.bnk.hand = [] → k.dst ≠ 3 →
      ∃ t, exec (.nop c .reserved) s = .next t ∧ (J t).fpc = (s.dev.core c.toNat).pc ∧ (J t).fcode = 1 ∧ (J t).stopped = true ∧
        (J t).run = false ∧ (J t).sb = [] ∧ (J t).dst = 2 ∧ SameOutside s t)

/-- Branches take effect after two delay slots; REP pushes a level; WAITB waits or goes on late; STOP and faults stop; interrupts save and vector: For a core whose next instruction is the one named: BRA, CALL, RET and RTI run two more instructions and then go to the target, LR or IPC (taken by the condition as R307 shows it), or past the slots; CALL writes LR with its address plus 3. REP and REPR with a count push a level with LC, LS and LE, with count 0 they go to LE + 1, with LE before LS they stop the core with FCODE 2. LOPEN drops every level, SYNCP leaves no write delayed, WAITB drains the buffer and clears BSP or sets DONE and waits, STOP stops the core with FCODE 6. INTERRUPT_ACCEPT saves PC and CST, clears IE, sets LSUSP, clears its pending bit and goes to its source's vector. -/
def Obligations.ControlInstructionsSequence : Prop :=
  ∀ (s : State) (c : BitVec 4) (k : Core), s.dev.chn.length = 16 →
    let J (t : State) : Core := t.dev.core c.toNat
    let jump (t : State) (target : BitVec 14) : Prop := (J t).pc = k.pc + 1 ∧ (J t).advance.pc = k.pc + 2 ∧
      (J t).advance.advance.pc = target ∧ (J t).acc = k.acc ∧ (J t).x = k.x ∧ (J t).y = k.y ∧ (J t).p = k.p ∧ OthersKeep s t c
    (∀ cond target, Next s c k (.bra c cond target) true →
      ∃ t, exec (.bra c cond target) s = .next t ∧ CoreKeeps k (J t) ∧
        jump t (if condMet cond.toNat k.cond2.toNat ((k.ipend &&& k.ien) ≠ 0) then target else k.pc + 3)) ∧
    (∀ target, Next s c k (.call c target) true →
      ∃ t, exec (.call c target) s = .next t ∧ jump t target ∧ (J t).lr = k.pc + 3) ∧
    (∀ cond, Next s c k (.ret c cond) true →
      ∃ t, exec (.ret c cond) s = .next t ∧ CoreKeeps k (J t) ∧
        jump t (if condMet cond.toNat k.cond2.toNat ((k.ipend &&& k.ien) ≠ 0) then k.lr else k.pc + 3)) ∧
    (Next s c k (.rti c) true → ∃ t, exec (.rti c) s = .next t ∧ CoreKeeps k (J t) ∧ jump t k.ipc ∧ (J t).slotRti = true) ∧
    (∀ count le, Next s c k (.rep c count le) true → (k.pc + 1).toNat ≤ le.toNat → k.ll < 4 →
      ∃ t, exec (.rep c count le) s = .next t ∧ OthersKeep s t c ∧ (J t).acc = k.acc ∧
        (if count = 0 then (J t).pc = le + 1 ∧ (J t).ll = k.ll ∧ (J t).lc = k.lc ∧ (J t).ls = k.ls ∧ (J t).le = k.le
         else (J t).pc = k.pc + 1 ∧ (J t).ll = k.ll + 1 ∧ (J t).lc = setAt k.lc k.ll count ∧
          (J t).ls = setAt k.ls k.ll (k.pc + 1) ∧ (J t).le = setAt k.le k.ll le)) ∧
    (∀ reg le, Next s c k (.repr c reg le) true → (k.pc + 1).toNat ≤ le.toNat → k.ll < 4 →
      let count : BitVec 16 := BitVec.ofNat 16 (k.readCode reg.toNat).1.toNat
      ∃ t, exec (.repr c reg le) s = .next t ∧ OthersKeep s t c ∧ (J t).acc = k.acc ∧
        (if count = 0 then (J t).pc = le + 1 ∧ (J t).ll = k.ll ∧ (J t).lc = k.lc
         else (J t).pc = k.pc + 1 ∧ (J t).ll = k.ll + 1 ∧ (J t).lc = setAt k.lc k.ll count ∧
          (J t).ls = setAt k.ls k.ll (k.pc + 1) ∧ (J t).le = setAt k.le k.ll le)) ∧
    (∀ count le, Next s c k (.rep c count le) true → le.toNat < (k.pc + 1).toNat → s.dev.flt.split = [] → k.dst ≠ 3 →
      ∃ t, exec (.rep c count le) s = .next t ∧ (J t).fcode = 2 ∧ (J t).stopped = true ∧ (J t).fpc = k.pc ∧ (J t).run = false) ∧
    (Next s c k (.lopen c) false → ∃ t, exec (.lopen c) s = .next t ∧ (J t).ll = 0 ∧ (J t).st cLSUSP = false ∧
      (J t).acc = k.acc ∧ CoreKeeps k (J t) ∧ OthersKeep s t c) ∧
    (Next s c k (.syncp c) true → ∃ t, exec (.syncp c) s = .next t ∧ (J t).pc = k.pc + 1 ∧ (J t).pend = [] ∧
      (J t).loopPend = [] ∧ (J t).pmPend = [] ∧ OthersKeep s t c) ∧
    (Next s c k (.waitb c) true → k.bsp = true → max k.mst.toNat k.dst.toNat ≠ 1 →
      ∃ t, exec (.waitb c) s = .next t ∧ (J t).bsp = false ∧ (J t).pc = k.pc + 1 ∧ (J t).sb = [] ∧ (J t).waiting = k.waiting ∧
        (J t).done = k.done ∧ CoreKeeps k (J t) ∧ OthersKeep s t c) ∧
    (Next s c k (.waitb c) true → (k.bsp = false ∨ max k.mst.toNat k.dst.toNat = 1) →
      ∃ t, exec (.waitb c) s = .next t ∧ (J t).waiting = true ∧ (J t).done = true ∧ (J t).pc = k.pc ∧ (J t).sb = [] ∧
        CoreKeeps k (J t) ∧ OthersKeep s t c) ∧
    (Next s c k (.stop c) true → s.dev.flt.split = [] → k.dst ≠ 3 →
      ∃ t, exec (.stop c) s = .next t ∧ (J t).stopped = true ∧ (J t).fcode = 6 ∧ (J t).fpc = k.pc ∧ (J t).dst = 2 ∧
        (J t).run = false ∧ (J t).sb = [] ∧ t.dev.not = s.dev.not ∧ SameOutside s t) ∧
    (∀ n : Nat, (s.dev.core c.toNat).canAccept = true → n < 4 →
      ((s.dev.core c.toNat).ipend &&& (s.dev.core c.toNat).ien).getLsbD n = true →
      (∀ m < n, ((s.dev.core c.toNat).ipend &&& (s.dev.core c.toNat).ien).getLsbD m = false) →
      ∃ t, exec (.interruptAccept c) s = .next t ∧ (J t).pc = BitVec.ofNat 14 (4 + 4 * n) ∧ (J t).ipc = (s.dev.core c.toNat).pc ∧
        (J t).icst = (s.dev.core c.toNat).cst ∧ (J t).st cIE = false ∧ (J t).st cLSUSP = true ∧
        (J t).ipend.getLsbD n = false ∧ (J t).waiting = false ∧ (J t).acc = (s.dev.core c.toNat).acc ∧ OthersKeep s t c)

/-- LDI and MOVR load as a load would; EVPOST posts or is refused; PMW and PMR reach program memory; LINV and NOTIFY act at once: For a core whose next instruction is the one named: LDI and MOVR of any code act as a load of that code, and an X register loaded by LDI with no other write on its way still holds its old value two instructions later and IMM, sign-extended, three later. EVPOST adds the word of Xa and Yb to a post queue of fewer than eight words and clears PREF, else it sets PREF, adds nothing and counts EVS_DROP. PMW's word waits five fetches, PMR loads the program word. LINV empties both line buffers; NOTIFY sets CHN_NOTE and raises CHN_NOTIFY where the queue has room. -/
def Obligations.CopiesPostsAndProgramWritesAct : Prop :=
  ∀ (s : State) (c : BitVec 4) (k : Core), s.dev.chn.length = 16 →
    let J (t : State) : Core := t.dev.core c.toNat
    (∀ (reg : BitVec 8) (imm : Word), Next s c k (.ldi c reg imm) false →
      ∃ t, exec (.ldi c reg imm) s = .next t ∧ J t = ((k.load reg.toNat (ext64 reg.toNat imm)).advance).done_ k ∧
        OthersKeep s t c ∧ SameRegs s.dev t.dev [] ∧
        (reg.toNat < 4 → k.pend = [] → k.loopPend = [] → k.x.length = 4 →
          (J t).front.front.x = k.x ∧ (J t).front.front.front.x.getD reg.toNat 0 = imm.signExtend 64)) ∧
    (∀ dst src : BitVec 8, Next s c k (.movr c dst src) false →
      ∃ t, exec (.movr c dst src) s = .next t ∧ OthersKeep s t c ∧ SameRegs s.dev t.dev [] ∧
        J t = (((k.stick cSAT (k.readCode src.toNat).2).load dst.toNat
          (if wideCode src.toNat && wideCode dst.toNat then (k.readCode src.toNat).1
           else ext64 dst.toNat (BitVec.ofNat 32 (k.readCode src.toNat).1.toNat))).advance).done_ k) ∧
    (∀ a b : BitVec 2, Next s c k (.evpost c a b) false →
      ∃ t, exec (.evpost c a b) s = .next t ∧ OthersKeep s t c ∧ (J t).acc = k.acc ∧ (J t).x = k.x ∧ (J t).y = k.y ∧
        (k.post.length < 8 → (J t).post = k.post ++ [⟨k.x.getD a.toNat 0, k.y.getD b.toNat 0⟩] ∧ (J t).pref = false ∧
          SameRegs s.dev t.dev []) ∧
        (8 ≤ k.post.length → (J t).post = k.post ∧ (J t).pref = true ∧
          t.dev.g EVS_DROP = min (s.dev.g EVS_DROP + 1) 0xFFFFFFFF ∧ SameRegs s.dev t.dev [EVS_DROP.base])) ∧
    (∀ (a : BitVec 2) (p : BitVec 3), Next s c k (.pmw c a p) false →
      ∃ t, exec (.pmw c a p) s = .next t ∧ OthersKeep s t c ∧ CoreKeeps k (J t) ∧ (J t).pmPend = k.pmPend ++
        [⟨5, BitVec.ofNat 14 (k.p.getD p.toNat 0).toNat, BitVec.ofNat 48 (k.x.getD a.toNat 0).toNat⟩]) ∧
    (∀ (a : BitVec 2) (p : BitVec 3), Next s c k (.pmr c a p) false → k.pmPend = [] →
      ∃ t, exec (.pmr c a p) s = .next t ∧ OthersKeep s t c ∧ CoreKeeps k (J t) ∧ (J t).pend = k.pend ++
        [⟨3, BitVec.ofNat 8 a.toNat, (sget 0 ((k.p.getD p.toNat 0).toNat % 16384) k.pm).setWidth 64⟩]) ∧
    (Next s c k (.linv c) false → ∃ t, exec (.linv c) s = .next t ∧ OthersKeep s t c ∧ CoreKeeps k (J t) ∧
      (J t).xline = none ∧ (J t).yline = none ∧ (J t).acc = k.acc ∧ SameRegs s.dev t.dev []) ∧
    (∀ v : Half, Next s c k (.notify c v) false → s.dev.not.q.length < s.dev.rowsLeft 6 256 →
      ∃ t, exec (.notify c v) s = .next t ∧ OthersKeep s t c ∧ (J t).note = v ∧ (J t).acc = k.acc ∧
        t.dev.not.q = s.dev.not.q ++ [noticeWord 7 5 (v.toNat % 4096) s.dev.not.lostNext (s.dev.brt.pos.toNat / 65536)])

/-- Buffer drain, line fill and timeout, outside access, power, RESTART, DOOR, window and view writes change the named core only: For an existing core, with no handover under way: STORE_BUFFER_DRAIN performs the oldest store; WINDOW_LINE_FILL gives the row requested, or, denied, makes the load take 0 with AERR and counts BNK_DENY; WINDOW_TIMEOUT ends the access with AERR; an outside write of an aligned 64-bit word changes that word only and a read gives it, and without power the word stays and the host sees HRP_STAT.BDENY. A host write in a running device: PWR 0 gates the core and empties its memories and registers, PWR 1 brings them up zeroed, RESTART waits while the core runs and starts a stopped ENABLED one at STARTPC, DOOR sets its interrupt, a window write sets the window and drops its line, a view write of an operand register shows in the view when the core stands still and is ignored while it runs. -/
def Obligations.CoresAreReachedFromOutside : Prop :=
  ∀ (s : State) (c : BitVec 4), s.dev.chn.length = 16 → s.dev.bnk.hand = [] →
    let k : Core := s.dev.core c.toNat
    let J (t : State) : Core := t.dev.core c.toNat
    (∀ (e : SbEnt) (tl : List SbEnt), k.sb = e :: tl → e.ext = none →
      ∃ t, exec (.storeBufferDrain c) s = .next t ∧ J t = Core.writeLocal { k with sb := tl } e.ySpace e.addr e.wide e.val ∧
        SameRegs s.dev t.dev [] ∧ OthersKeep s t c) ∧
    (∀ (y : Bool) (row : Nat), k.miss y = some row → s.dev.bnk.poison = [] →
      (s.dev.bankMay (2 + c.toNat) (bankOf row) false = true →
        ∃ t, exec (.windowLineFill c y) s = .next t ∧ (J t).line y = some (row, memBytes s.dev.bnk.mem row 64) ∧
          (J t).miss y = none ∧ SameRegs s.dev t.dev [] ∧ OthersKeep s t c) ∧
      (s.dev.bankMay (2 + c.toNat) (bankOf row) false = false →
        ∃ t, exec (.windowLineFill c y) s = .next t ∧ (J t).dead y = true ∧ (J t).st cAERR = true ∧ (J t).miss y = none ∧
          t.dev.g BNK_DENY = min (s.dev.g BNK_DENY + 1) 0xFFFFFFFF ∧ OthersKeep s t c) ∧
      (∃ t, exec (.windowTimeout c y) s = .next t ∧ (J t).dead y = true ∧ (J t).st cAERR = true ∧ (J t).miss y = none ∧
        OthersKeep s t c)) ∧
    (∀ (ag : Agent) (off : BitVec 18) (v : BitVec 64), off.toNat % 8 = 0 → off.toNat < 0x10000 →
      (k.pwr = true → ∃ t, exec (.outsideAccess ag c .x off true (some v)) s = .next t ∧
        (∀ i, sget 0 i (J t).xm = if i = off.toNat / 8 then v else sget 0 i k.xm) ∧ (J t).ym = k.ym ∧ (J t).pm = k.pm ∧
        SameRegs s.dev t.dev [] ∧ OthersKeep s t c) ∧
      (k.pwr = true → ∃ t, exec (.outsideAccess ag c .x off true none) s = .next t ∧
        t.dev.hrp.rdata = sget 0 (off.toNat / 8) k.xm ∧ J t = k ∧ SameRegs s.dev t.dev [] ∧ OthersKeep s t c) ∧
      (k.pwr = false → ∃ t, exec (.outsideAccess .host c .x off true (some v)) s = .next t ∧ J t = k ∧
        t.dev.g HRP_STAT.BDENY = 1 ∧ SameRegs s.dev t.dev [HRP_STAT.BDENY.base] ∧ OthersKeep s t c)) ∧
    (s.dev.running = true →
      (∃ t, exec (.chnPowerOff .host c) s = .next t ∧ (J t).pwr = false ∧ (J t).run = false ∧ (J t).xm = [] ∧ (J t).ym = [] ∧
        (J t).pm = [] ∧ (J t).acc = List.replicate 8 0 ∧ (J t).mst = (if k.mst = 3 then 3 else 2) ∧
        (J t).dst = (if k.dst = 3 then 3 else 2) ∧ OthersKeep s t c) ∧
      (k.pwr = false → s.dev.flt.split = [] → ∃ t, exec (.chnPowerOn .host c) s = .next t ∧ (J t).pwr = true ∧
        (J t).xm = [] ∧ (J t).ym = [] ∧ (J t).pm = [] ∧ (J t).acc = List.replicate 8 0 ∧ (J t).mst = k.mst ∧ OthersKeep s t c) ∧
      (k.pwr = true → k.run = true → k.mst = 0 → k.dst = 0 → (k.waiting && k.bsp) = false → s.dev.flt.split = [] →
        ∃ t, exec (.restart .host c) s = .next t ∧ (J t).restart = true ∧ (J t).pc = k.pc ∧ (J t).run = true ∧ OthersKeep s t c) ∧
      (k.pwr = true → k.run = false → k.mst = 0 → k.dst = 2 → s.dev.flt.split = [] →
        ∃ t, exec (.restart .host c) s = .next t ∧ (J t).restart = false ∧ (J t).pc = k.startpc ∧ (J t).run = true ∧
          (J t).dst = 0 ∧ (J t).stopped = false ∧ (J t).fcode = 0 ∧ (J t).ipend = 0 ∧ (J t).acc = k.acc ∧ OthersKeep s t c) ∧
      (∃ t, exec (.door .host c) s = .next t ∧ J t = { k with ipend := k.ipend ||| 2 } ∧ OthersKeep s t c) ∧
      (∀ (y : Bool) (v : Word), ∃ t, exec (.chnWindowWrite .host c y v) s = .next t ∧ OthersKeep s t c ∧
        J t = (if y then { k with ywin := v &&& 0x1FE0000, yline := none } else { k with xwin := v &&& 0x1FE0000, xline := none })) ∧
      (∀ (off : BitVec 11) (v : Word), 0x200 ≤ off.toNat → off.toNat < 0x240 → off.toNat % 4 = 0 →
        (k.run = true → exec (.coreRegisterViewWrite .host c off v) s = .next s) ∧
        (k.run = false → k.pwr = true → k.x.length = 4 → k.y.length = 4 →
          ∃ t, exec (.coreRegisterViewWrite .host c off v) s = .next t ∧ (J t).view off.toNat = v.toNat ∧ (J t).acc = k.acc ∧
            (∀ o, o ≠ off.toNat → o % 4 = 0 → (J t).view o = k.view o) ∧ OthersKeep s t c)))

/-- The port: reads, writes and atomics of an entitled agent act on their bytes only; a denied write changes none; of two writes of one word the owner's stands: On a bank with no handover in progress, no poisoned word and no error met, for requests within one row: a read by the owner that may read gives the bytes stored; a write by an owner that may write changes exactly its bytes; a Bellows ATOMIC_ADD as guest adds to its cell, returns the old value and changes no other byte; a host guest's write under RDONLY changes no byte, counts BNK_DENY and fills BNK_DENYLOG; of an owner's and a guest's write of a common word with the guest's wait not over, the owner's bytes are stored, the guest's are not, and BNK_COLL counts it. No other register changes. -/
def Obligations.BankPortServesItsInputs : Prop :=
  ∀ (s : State) (b : BitVec 7) (due : Bool), s.dev.bnk.hand = [] → s.dev.bnk.poison = [] →
    (∀ off n, (BankOp.read off n).wf = true → s.dev.bankMay (s.dev.g BNK_OWN.OWN b.toNat) b.toNat false = true →
      ∃ t, exec (.bankPortOperation b (some (.read off n)) none due []) s = .next t ∧
        t.dev.bnk.outOwner = (List.range n).map (fun (i : Nat) => sget 0 (b.toNat * 0x40000 + off + i) s.dev.bnk.mem) ∧
        t.dev.bnk.mem = s.dev.bnk.mem ∧ SameRegs s.dev t.dev [] ∧ SameOutside s t) ∧
    (∀ off l, (BankOp.write off l).wf = true → s.dev.bankMay (s.dev.g BNK_OWN.OWN b.toNat) b.toNat true = true →
      ∃ t, exec (.bankPortOperation b (some (.write off l)) none due []) s = .next t ∧
        (∀ x, sget 0 x t.dev.bnk.mem = if b.toNat * 0x40000 + off ≤ x ∧ x < b.toNat * 0x40000 + off + l.length then
          l.getD (x - (b.toNat * 0x40000 + off)) 0 else sget 0 x s.dev.bnk.mem) ∧ SameRegs s.dev t.dev [] ∧ SameOutside s t) ∧
    (∀ off v, (BankOp.atomicAdd off true v).wf = true → s.dev.g BNK_GUEST.GUEST b.toNat = 1 →
      s.dev.g BNK_OWN.OWN b.toNat ≠ 18 → s.dev.bankMay 18 b.toNat true = true →
      ∃ t, exec (.bankPortOperation b none (some (.atomicAdd off true v)) due []) s = .next t ∧
        t.dev.bnk.outGuest = memBytes s.dev.bnk.mem (b.toNat * 0x40000 + off) 8 ∧
        leNat (memBytes t.dev.bnk.mem (b.toNat * 0x40000 + off) 8) =
          (leNat (memBytes s.dev.bnk.mem (b.toNat * 0x40000 + off) 8) + v.toNat) % 2 ^ 64 ∧
        (∀ x, x < b.toNat * 0x40000 + off ∨ b.toNat * 0x40000 + off + 8 ≤ x →
          sget 0 x t.dev.bnk.mem = sget 0 x s.dev.bnk.mem) ∧ SameRegs s.dev t.dev [] ∧ SameOutside s t) ∧
    (∀ off l, (BankOp.write off l).wf = true → s.dev.g BNK_GUEST.GUEST b.toNat = 2 → s.dev.on BNK_GUEST.RDONLY b.toNat = true →
      s.dev.g BNK_OWN.OWN b.toNat ≠ 19 →
      ∃ t, exec (.bankPortOperation b none (some (.write off l)) due []) s = .next t ∧ t.dev.bnk.mem = s.dev.bnk.mem ∧
        t.dev.g BNK_DENY = min (s.dev.g BNK_DENY + 1) 0xFFFFFFFF ∧ t.dev.g BNK_STAT.DENIED = 1 ∧
        t.dev.g BNK_DENYLOG.BANK = b.toNat ∧ t.dev.g BNK_DENYLOG.AGENT = 19 ∧ t.dev.g BNK_DENYLOG.WR = 1 ∧
        t.dev.g BNK_DENYLOG.VALID = 1 ∧
        SameRegs s.dev t.dev [BNK_DENY.base, BNK_STAT.DENIED.base, BNK_DENYLOG.BANK.base] ∧ SameOutside s t) ∧
    (∀ off l off2 l2, (BankOp.write off l).wf = true → (BankOp.write off2 l2).wf = true → off / 8 = off2 / 8 →
      s.dev.bankMay (s.dev.g BNK_OWN.OWN b.toNat) b.toNat true = true → s.dev.g BNK_GUEST.GUEST b.toNat = 1 →
      s.dev.g BNK_OWN.OWN b.toNat ≠ 18 →
      ∃ t, exec (.bankPortOperation b (some (.write off l)) (some (.write off2 l2)) false []) s = .next t ∧
        (∀ x, sget 0 x t.dev.bnk.mem = if b.toNat * 0x40000 + off ≤ x ∧ x < b.toNat * 0x40000 + off + l.length then
          l.getD (x - (b.toNat * 0x40000 + off)) 0 else sget 0 x s.dev.bnk.mem) ∧
        t.dev.g BNK_COLL = min (s.dev.g BNK_COLL + 1) 0xFFFFFFFF ∧ SameRegs s.dev t.dev [BNK_COLL.base] ∧ SameOutside s t)

/-- A write of an owner or guest code starts a handover, BUSY holds until it completes; forced, it drops what was presented; salvage ends in retirement: In a running device: a host write of a new owner code below 22 to a bank that is not BUSY (and not a 0 to a DRAINING one) sets OWN and BUSY and starts the handover; while BUSY it sets BNK_STAT.HOERR and nothing else. A write of a new grant does the same on the guest input with RDONLY. HANDOVER_COMPLETE of an owner that has no store buffer leaves BUSY clear and memory alone. HANDOVER_FORCED counts BNK_FORCED, stores nothing and clears BUSY. SALVAGE_END of a DRAINING bank without a latched split retires it and lowers BNK_CAP. -/
def Obligations.OwnershipPassesByHandover : Prop :=
  ∀ (s : State) (b : BitVec 7) (v : Word),
    (s.dev.running = true → s.dev.on BNK_OWN.BUSY b.toNat = true →
      ∃ t, exec (.bnkOwnWrite .host b v) s = .next t ∧ t.dev.g BNK_STAT.HOERR = 1 ∧ t.dev.bnk = s.dev.bnk ∧
        SameRegs s.dev t.dev [BNK_STAT.HOERR.base] ∧ SameOutside s t) ∧
    (s.dev.running = true → s.dev.on BNK_OWN.BUSY b.toNat = false → v.toNat % 32 < 22 →
      v.toNat % 32 ≠ s.dev.g BNK_OWN.OWN b.toNat → (v.toNat % 32 = 0 → s.dev.g BNK_MODE.DST b.toNat ≠ 1) →
      ∃ t, exec (.bnkOwnWrite .host b v) s = .next t ∧ t.dev.g BNK_OWN.OWN b.toNat = v.toNat % 32 ∧
        t.dev.g BNK_OWN.BUSY b.toNat = 1 ∧
        t.dev.bnk = { s.dev.bnk with hand := s.dev.bnk.hand ++ [⟨b.toNat, false, s.dev.g BNK_OWN.OWN b.toNat⟩] } ∧
        SameRegs s.dev t.dev [BNK_OWN.OWN.off b.toNat] ∧ SameOutside s t) ∧
    (s.dev.running = true → s.dev.on BNK_GUEST.BUSY b.toNat = false → v.toNat % 4 < 3 →
      v.toNat % 4 ≠ s.dev.g BNK_GUEST.GUEST b.toNat →
      ∃ t, exec (.bnkGuestWrite .host b v) s = .next t ∧ t.dev.g BNK_GUEST.GUEST b.toNat = v.toNat % 4 ∧
        t.dev.g BNK_GUEST.RDONLY b.toNat = bitsOf v.toNat 2 2 ∧ t.dev.g BNK_GUEST.BUSY b.toNat = 1 ∧
        t.dev.bnk = { s.dev.bnk with hand := s.dev.bnk.hand ++ [⟨b.toNat, true, s.dev.g BNK_GUEST.GUEST b.toNat⟩] } ∧
        SameRegs s.dev t.dev [BNK_GUEST.GUEST.off b.toNat] ∧ SameOutside s t) ∧
    (∀ old, s.dev.bnk.hand = [⟨b.toNat, false, old⟩] → (old < 2 ∨ old = 18 ∨ 20 ≤ old) →
      ∃ t, exec (.handoverComplete b) s = .next t ∧ t.dev.bnk = { s.dev.bnk with hand := [] } ∧
        t.dev.g BNK_OWN.BUSY b.toNat = 0 ∧ t.dev.g BNK_OWN.OWN b.toNat = s.dev.g BNK_OWN.OWN b.toNat ∧
        SameRegs s.dev t.dev [BNK_OWN.OWN.off b.toNat] ∧ SameOutside s t) ∧
    (∀ old, s.dev.bnk.hand = [⟨b.toNat, false, old⟩] →
      ∃ t, exec (.handoverForced b) s = .next t ∧ t.dev.bnk = { s.dev.bnk with hand := [] } ∧
        t.dev.g BNK_OWN.BUSY b.toNat = 0 ∧ t.dev.g BNK_FORCED = min (s.dev.g BNK_FORCED + 1) 0xFFFFFFFF ∧
        SameRegs s.dev t.dev [BNK_OWN.OWN.off b.toNat, BNK_FORCED.base, BNK_DENY.base, BNK_STAT.DENIED.base,
          BNK_DENYLOG.BANK.base, HRP_STAT.BDENY.base] ∧ SameOutside s t) ∧
    (s.dev.g BNK_MODE.DST b.toNat = 1 → s.dev.flt.split.lookup (2 * 256 + b.toNat) = none →
      ∃ t, exec (.salvageEnd b) s = .next t ∧ t.dev.g BNK_MODE.DST b.toNat = 3 ∧ t.dev.flag BNK_RET b.toNat = true ∧
        t.dev.g BNK_CAP = s.dev.g BNK_CAP - 1 ∧ t.dev.bnk = s.dev.bnk ∧ t.dev.g BNK_OWN.OWN b.toNat = s.dev.g BNK_OWN.OWN b.toNat ∧
        SameOutside s t)

/-- Rows are fetched with the route's gain; at queue exit each channel presents its code, underflows without one, and presents 0 while MUTED: In a running device with the Breath counting. BELL_ROW_FETCH of a channel that is there, routed from a mix bus, with the next row r rendered, kept, due and not yet past: the sixteen codes of row r, each the sample times the gain and saturated, join the queue, and the next row is r + 16. QUEUE_EXIT of the sample after the last one, p = that sample less BEL_PLAT: with the mute UNMUTED and at gain 1 a routed ENABLED channel that is not in an episode presents its code for p and keeps only later ones; without a code it begins an underflow of 64 samples and sets its BEL_UFL bit. MUTED at gain 0 every channel that leaves presents 0. A master SAP_FRAME gives the position its received slots once; a slave frame's samples go to the nearest whole position, or count a slip where it is taken. SAP_CLOCK_LOSS sets CLKLOSS. -/
def Obligations.BellFetchesAndPresentsCodes : Prop :=
  ∀ s : State, s.dev.running = true → s.dev.on BRT_STAT.RUNNING = true →
    (∀ (c : BitVec 7) (r cur : Nat), s.dev.outExists c.toNat = true → s.dev.slaveOut c.toNat = false →
      s.dev.est kOut c.toNat ≠ RETIRED → (s.dev.outCh c.toNat).lat = none → (s.dev.outCh c.toNat).row = some r →
      s.dev.g BEL_ROUTE.TYPE c.toNat = 1 → (s.dev.outCh c.toNat).q.length ≤ 48 → s.dev.rda.block = some cur →
      r + 16 ≤ cur * s.dev.blk → s.dev.bel.busFrom ≤ r → cur * s.dev.blk ≤ r + 512 →
      r + s.dev.g BEL_PLAT ≤ whole s.dev.brt.pos + 48 →
      whole s.dev.brt.pos ≤ r + s.dev.g BEL_PLAT → (∀ m ∈ s.dev.bel.exitAt, m < r + s.dev.g BEL_PLAT) →
      ∃ t, exec (.bellRowFetch c) s = .next t ∧ (t.dev.outCh c.toNat).row = some (r + 16) ∧
        (t.dev.outCh c.toNat).q = (s.dev.outCh c.toNat).q ++ (List.range 16).map (fun (i : Nat) => (r + i, codeClip (roundQ
          (((sget 0 (busKey (s.dev.g BEL_ROUTE.BUS c.toNat) (r + i)) s.dev.rda.bus : Int) : Rat) * gainOf (s.dev.g BEL_ROUTE.GAIN c.toNat))))) ∧
        (∀ n, n ≠ c.toNat → t.dev.outCh n = s.dev.outCh n) ∧ SameRegs s.dev t.dev [BEL_CLIP.base] ∧ SameOutside s t) ∧
    (∀ m : Nat, s.dev.bel.exitAt = some m → m + 1 ≤ whole s.dev.brt.pos → s.dev.g BEL_PLAT ≤ m + 1 →
      ∃ t, exec .queueExit s = .next t ∧ t.dev.bel.exitAt = some (m + 1) ∧ SameOutside s t ∧
        (s.dev.g BEL_STAT.MSTATE = 0 → s.dev.bel.g = 1 →
          ∀ c : Nat, c < 112 → s.dev.outExists c = true → s.dev.slaveOut c = false → s.dev.est kOut c = ENABLED →
            s.dev.g BEL_ROUTE.TYPE c ≠ 0 → s.dev.on BEL_OSTATE.SHORT c = false → (s.dev.outCh c).ufl = 0 →
            (∀ v : Int, (s.dev.outCh c).q.find? (fun e => e.1 = m + 1 - s.dev.g BEL_PLAT) = some (m + 1 - s.dev.g BEL_PLAT, v) →
              (t.dev.outCh c).shown = v ∧ (t.dev.outCh c).ufl = 0 ∧
              (t.dev.outCh c).q = (s.dev.outCh c).q.filter (fun e => m + 1 - s.dev.g BEL_PLAT < e.1)) ∧
            ((s.dev.outCh c).q.find? (fun e => e.1 = m + 1 - s.dev.g BEL_PLAT) = none →
              (t.dev.outCh c).ufl = 1 ∧ (t.dev.outCh c).left = 64 ∧ (t.dev.outCh c).shown = roundQ (s.dev.outCh c).last ∧
              t.dev.flag BEL_UFL c = true)) ∧
        (s.dev.g BEL_STAT.MSTATE = 2 → s.dev.bel.g = 0 →
          ∀ c : Nat, c < 112 → s.dev.outExists c = true → s.dev.slaveOut c = false → (t.dev.outCh c).shown = 0)) ∧
    (∀ (p : BitVec 2) (slots : List Word) (n : Nat), s.dev.on SAP_CTL.RXEN p.toNat = true →
      s.dev.on SAP_CTL.TXEN p.toNat = false → s.dev.on SAP_CTL.SLAVE p.toNat = false →
      s.dev.bel.sapAt.getD p.toNat none ≠ some (whole s.dev.brt.pos) →
      ∃ t, exec (.sapFrame p slots n) s = .next t ∧ SameRegs s.dev t.dev [] ∧ SameOutside s t ∧
        t.dev.bel.sapIn = s.dev.bel.sapIn ++ [(p.toNat, whole s.dev.brt.pos, slots.map slotCode)]) ∧
    (∀ (p : BitVec 2) (slots : List Word) (at_ : Nat), s.dev.on SAP_CTL.RXEN p.toNat = true →
      s.dev.on SAP_CTL.TXEN p.toNat = false → s.dev.on SAP_CTL.SLAVE p.toNat = true →
      at_ = (s.dev.brt.pos.toNat + 32768) / 65536 → (∀ cur ∈ s.dev.rda.block, cur * s.dev.blk ≤ at_) →
      ((∀ e ∈ s.dev.bel.sapIn, ¬(e.1 = p.toNat ∧ e.2.1 = at_)) →
        ∃ t, exec (.sapFrame p slots (s.dev.g SAP_CTL.SLOTS p.toNat * 32)) s = .next t ∧ SameRegs s.dev t.dev [] ∧
          SameOutside s t ∧ t.dev.bel.sapIn = s.dev.bel.sapIn ++ [(p.toNat, at_, slots.map slotCode)]) ∧
      ((∃ e ∈ s.dev.bel.sapIn, e.1 = p.toNat ∧ e.2.1 = at_) →
        ∃ t, exec (.sapFrame p slots (s.dev.g SAP_CTL.SLOTS p.toNat * 32)) s = .next t ∧ t.dev.bel.sapIn = s.dev.bel.sapIn ∧
          t.dev.g SAP_STAT.SLIP p.toNat = 1 ∧ SameOutside s t ∧
          t.dev.g SAP_SLIP p.toNat = min (s.dev.g SAP_SLIP p.toNat + 1) 0xFFFFFFFF)) ∧
    (∀ p : BitVec 2, s.dev.on SAP_CTL.SLAVE p.toNat = true → s.dev.on SAP_CTL.RXEN p.toNat = true →
      ∃ t, exec (.sapClockLoss p) s = .next t ∧ t.dev.g SAP_STAT.CLKLOSS p.toNat = 1 ∧
        t.dev.bel.sapIn = s.dev.bel.sapIn ∧ SameOutside s t)

/-- The mute's ramp ends in MUTED or UNMUTED; HMUTE and BEL_PLAT request it; a new latency is applied at MUTED with every queue emptied; PAUSE ends: MUTE_RAMP_END: a falling ramp at gain 0 with a request active ends in MUTED, MUTE_OUT high, and applies a waiting BEL_PLAT with every queue empty; a rising one at gain 1 ends UNMUTED. A host write of HMUTE in a running device sets the request and turns UNMUTED or RAMPUP into RAMPDOWN; its end, with no other request, turns RAMPDOWN into RAMPUP. A BEL_PLAT outside 3 × SYS_BLK to 512 changes nothing; inside, in RUN or DEFAULTS, it waits for the mute, and applies at once in MUTED. PAUSE_RESUME clears PAUSE and waits for the first sample at the held position. -/
def Obligations.MuteAndLatencyWaitForTheRamp : Prop :=
  ∀ s : State,
    (s.dev.g BEL_STAT.MSTATE = 1 → s.dev.bel.g ≤ 0 → s.dev.g BEL_STAT.MREQ ≠ 0 → s.dev.brt.move = none → s.dev.mode ≠ 4 →
      ∃ t, exec .muteRampEnd s = .next t ∧ t.dev.g BEL_STAT.MSTATE = 2 ∧ t.dev.muteOut = true ∧
        t.dev.g BEL_STAT.MREQ = s.dev.g BEL_STAT.MREQ ∧ t.dev.brt = s.dev.brt ∧ SameOutside s t ∧
        (s.dev.bel.platPend = none → t.dev.bel = s.dev.bel ∧ SameRegs s.dev t.dev [BEL_STAT.MSTATE.base]) ∧
        (∀ v, s.dev.bel.platPend = some v → v ≤ 512 → t.dev.g BEL_PLAT = v ∧ t.dev.bel.platPend = none ∧
          (∀ n, (t.dev.outCh n).q = []) ∧ SameRegs s.dev t.dev [BEL_STAT.MSTATE.base, BEL_PLAT.base])) ∧
    (s.dev.g BEL_STAT.MSTATE = 3 → 1 ≤ s.dev.bel.g →
      ∃ t, exec .muteRampEnd s = .next t ∧ t.dev.g BEL_STAT.MSTATE = 0 ∧ t.dev.bel = s.dev.bel ∧
        SameRegs s.dev t.dev [BEL_STAT.MSTATE.base] ∧ SameOutside s t) ∧
    (s.dev.running = true → s.dev.on BEL_MUTE.HMUTE = false →
      ∃ t, exec (.hmuteWrite .host true) s = .next t ∧ t.dev.g BEL_MUTE.HMUTE = 1 ∧
        t.dev.g BEL_MUTE.RAMP = s.dev.g BEL_MUTE.RAMP ∧ bit (t.dev.g BEL_STAT.MREQ) 4 = true ∧
        t.dev.g BEL_STAT.MSTATE = (if s.dev.g BEL_STAT.MSTATE = 2 then 2 else 1) ∧
        SameRegs s.dev t.dev [BEL_MUTE.HMUTE.base, BEL_STAT.MSTATE.base] ∧ SameOutside s t) ∧
    (s.dev.running = true → s.dev.on BEL_MUTE.HMUTE = true → s.dev.g BEL_STAT.MREQ = 16 → s.dev.g BEL_STAT.MSTATE = 1 →
      ∃ t, exec (.hmuteWrite .host false) s = .next t ∧ t.dev.g BEL_MUTE.HMUTE = 0 ∧ t.dev.g BEL_STAT.MREQ = 0 ∧
        t.dev.g BEL_STAT.MSTATE = 3 ∧ t.dev.bel = s.dev.bel ∧
        SameRegs s.dev t.dev [BEL_MUTE.HMUTE.base, BEL_STAT.MSTATE.base] ∧ SameOutside s t) ∧
    (∀ v : Word, s.dev.running = true →
      (v.toNat % 1024 < 3 * s.dev.blk ∨ 512 < v.toNat % 1024 → exec (.belPlatWrite .host v) s = .next s) ∧
      (3 * s.dev.blk ≤ v.toNat % 1024 → v.toNat % 1024 ≤ 512 → (s.dev.mode = 2 ∨ s.dev.mode = 3) →
        ∃ t, exec (.belPlatWrite .host v) s = .next t ∧ bit (t.dev.g BEL_STAT.MREQ) 5 = true ∧ SameOutside s t ∧
          (s.dev.g BEL_STAT.MSTATE ≠ 2 → t.dev.g BEL_STAT.MSTATE = 1 ∧ t.dev.bel.platPend = some (v.toNat % 1024) ∧
            t.dev.g BEL_PLAT = s.dev.g BEL_PLAT ∧ t.dev.bel.out = s.dev.bel.out) ∧
          (s.dev.g BEL_STAT.MSTATE = 2 → t.dev.g BEL_STAT.MSTATE = 2 ∧ t.dev.bel.platPend = none ∧
            t.dev.g BEL_PLAT = v.toNat % 1024 ∧ (∀ n, (t.dev.outCh n).q = [])))) ∧
    (s.dev.on BRT_STAT.PAUSE = true → ∃ t, exec .pauseResume s = .next t ∧ t.dev.g BRT_STAT.PAUSE = 0 ∧
      t.dev.brt = { s.dev.brt with waitRelease := some s.dev.brt.pos } ∧ SameRegs s.dev t.dev [BRT_STAT.PAUSE.base] ∧
      SameOutside s t)

/-- Two bad read-back windows start the test; a failed step blames the monitor or the DAC; shorts and compliance flags act on their output alone: READBACK_WINDOW on an ENABLED line output whose monitor works, with no test under way and a code presented since start-up: a difference within BEL_RBTOL clears the run, a first bad one counts, a second starts the self-test. READBACK_TEST_STEP_END of a running test: a passed step leads to the next, a failure in step 1 or 2 sets MONRET, one in step 3 retires the output, a pass in step 3 that stays under the class limit counts BEL_RBMIS. LO_CURRENT_LIMIT sets SHORT and presents 0, LO_SHORT_RETRY clears it once the limit no longer holds. CO_COMPLIANCE_FLAG sets COMPL, counts and tests, CO_LOAD_RETRY clears LOAD once compliance holds. OTP, flash, TAP and pins stay, and no voice changes. -/
def Obligations.OutputsAreSupervised : Prop :=
  ∀ s : State, s.dev.bel.rbBad.length = 8 → s.dev.bel.rbStep.length = 8 →
    (∀ (lo : BitVec 3) (diff : Half), s.dev.est kOut lo.toNat = ENABLED → s.dev.on BEL_OSTATE.MONRET lo.toNat = false →
      s.dev.bel.started = true → s.dev.bel.rbStep.getD lo.toNat 0 = 0 →
      ∃ t, exec (.readbackWindow lo diff) s = .next t ∧ SameOutside s t ∧ t.dev.rda = s.dev.rda ∧
        (diff.toInt ≤ (BitVec.ofNat 16 (s.dev.g BEL_RBTOL)).toInt → t.dev.bel.rbBad.getD lo.toNat 0 = 0 ∧ t.dev.flt = s.dev.flt) ∧
        ((BitVec.ofNat 16 (s.dev.g BEL_RBTOL)).toInt < diff.toInt → s.dev.bel.rbBad.getD lo.toNat 0 = 0 →
          t.dev.bel.rbBad.getD lo.toNat 0 = 1 ∧ t.dev.flt = s.dev.flt) ∧
        ((BitVec.ofNat 16 (s.dev.g BEL_RBTOL)).toInt < diff.toInt → s.dev.bel.rbBad.getD lo.toNat 0 = 1 →
          t.dev.bel.rbBad.getD lo.toNat 0 = 0 ∧ t.dev.bel.rbStep.getD lo.toNat 0 = 1 ∧
          (Test.of kOut lo.toNat 0 ∈ t.dev.flt.tests ∨ Test.of kOut lo.toNat 0 ∈ t.dev.flt.waiting))) ∧
    (∀ lo : BitVec 3, Test.of kOut lo.toNat 0 ∈ s.dev.flt.tests →
      (s.dev.bel.rbStep.getD lo.toNat 0 < 3 → ∃ t, exec (.readbackTestStepEnd lo true) s = .next t ∧
        t.dev.bel.rbStep.getD lo.toNat 0 = s.dev.bel.rbStep.getD lo.toNat 0 + 1 ∧ t.dev.flt = s.dev.flt ∧
        SameRegs s.dev t.dev [] ∧ SameOutside s t) ∧
      ((s.dev.bel.rbStep.getD lo.toNat 0 = 1 ∨ s.dev.bel.rbStep.getD lo.toNat 0 = 2) →
        ∃ t, exec (.readbackTestStepEnd lo false) s = .next t ∧ t.dev.g BEL_OSTATE.MONRET lo.toNat = 1 ∧
          t.dev.g BEL_OSTATE.DST lo.toNat = s.dev.g BEL_OSTATE.DST lo.toNat ∧ t.dev.bel.rbStep.getD lo.toNat 0 = 0 ∧
          t.dev.rda = s.dev.rda ∧ SameOutside s t) ∧
      (s.dev.bel.rbStep.getD lo.toNat 0 = 3 →
        (∃ t, exec (.readbackTestStepEnd lo false) s = .next t ∧ t.dev.g BEL_OSTATE.DST lo.toNat = 3 ∧
          t.dev.bel.rbStep.getD lo.toNat 0 = 0 ∧ t.dev.rda = s.dev.rda ∧ SameOutside s t) ∧
        ((s.dev.g FLT_THR.LIMIT 4 = 0 ∨ s.dev.score 4 lo.toNat + 1 < s.dev.g FLT_THR.LIMIT 4) →
          ∃ t, exec (.readbackTestStepEnd lo true) s = .next t ∧
            t.dev.g BEL_RBMIS = min (s.dev.g BEL_RBMIS + 1) 0xFFFFFFFF ∧
            t.dev.g BEL_OSTATE.DST lo.toNat = s.dev.g BEL_OSTATE.DST lo.toNat ∧ t.dev.bel.rbStep.getD lo.toNat 0 = 0 ∧
            t.dev.rda = s.dev.rda ∧ SameOutside s t))) ∧
    (∀ lo : BitVec 3, s.dev.est kOut lo.toNat ≠ RETIRED → s.dev.on BEL_OSTATE.SHORT lo.toNat = false →
      ∃ t, exec (.loCurrentLimit lo) s = .next t ∧ t.dev.g BEL_OSTATE.SHORT lo.toNat = 1 ∧
        (t.dev.outCh lo.toNat).shown = 0 ∧ (∀ n, n ≠ lo.toNat → t.dev.outCh n = s.dev.outCh n) ∧ t.dev.flt = s.dev.flt ∧
        t.dev.rda = s.dev.rda ∧ SameOutside s t) ∧
    (∀ (lo : BitVec 3) (holds : Bool), s.dev.on BEL_OSTATE.SHORT lo.toNat = true →
      ∃ t, exec (.loShortRetry lo holds) s = .next t ∧ t.dev.on BEL_OSTATE.SHORT lo.toNat = holds ∧
        SameRegs s.dev t.dev [BEL_OSTATE.SHORT.off lo.toNat] ∧ t.dev.bel = s.dev.bel ∧ SameOutside s t) ∧
    (∀ co : BitVec 2, s.dev.est kOut (8 + co.toNat) ≠ RETIRED → s.dev.on BEL_OSTATE.LOAD (8 + co.toNat) = false →
      ∃ t, exec (.coComplianceFlag co) s = .next t ∧ bit (t.dev.g BEL_COSTAT.COMPL) co.toNat = true ∧
        t.dev.g BEL_COMPLN = min (s.dev.g BEL_COMPLN + 1) 0xFFFFFFFF ∧ t.dev.bel = s.dev.bel ∧
        (Test.of kOut (8 + co.toNat) 0 ∈ t.dev.flt.tests ∨ Test.of kOut (8 + co.toNat) 0 ∈ t.dev.flt.waiting) ∧
        t.dev.rda = s.dev.rda ∧ SameOutside s t) ∧
    (∀ (co : BitVec 2) (holds : Bool), s.dev.on BEL_OSTATE.LOAD (8 + co.toNat) = true →
      ∃ t, exec (.coLoadRetry co holds) s = .next t ∧ t.dev.on BEL_OSTATE.LOAD (8 + co.toNat) = !holds ∧
        SameRegs s.dev t.dev [BEL_OSTATE.LOAD.off (8 + co.toNat)] ∧ t.dev.bel = s.dev.bel ∧ SameOutside s t)

/-- A received frame is judged by space, length, FCS and address and sorted by EtherType; delivery and transmission take the lowest class first: On a port of a running device that is up and under no self-test. FRAME_RECEIVE: without MAXFRM free bytes the frame is dropped and counted in RXDROP; with them, a runt counts RXRUNT, a bad FCS RXFCS and 8 in the link error counter, an address that no rule accepts RXFILT, and an accepted untagged frame waits for delivery, Kreovouri in its header's class, foreign in TC3; one longer than MAXFRM keeps its first MAXFRM bytes marked OVS. FRAME_DELIVERY takes the first frame of the lowest class: Kreovouri to the transport, unless OVS, foreign into the next slot of the ring with length, flags, class and stamp, dropped where the ring is off. FRAME_TRANSMIT puts the first frame of the lowest class that the port may send on the line. -/
def Obligations.FramesAreReceivedAndSent : Prop :=
  ∀ (s : State) (n : BitVec 2), s.dev.mac.length = 4 → s.dev.running = true → s.dev.portUp n.toNat = true →
    (s.dev.port n.toNat).testing = 0 →
    let P (t : State) : Port := t.dev.port n.toNat
    let same (t : State) : Prop := SameOutside s t ∧ t.dev.bnk = s.dev.bnk ∧ ∀ m, m ≠ n.toNat → t.dev.port m = s.dev.port m
    (∀ f : Frame, 32768 < s.dev.rxUsed n.toNat + s.dev.g MAC_MAXFRM n.toNat →
      ∃ t, exec (.frameReceive n f) s = .next t ∧ t.dev.mac = s.dev.mac ∧ same t ∧
        t.dev.g MAC_RXDROP n.toNat = min (s.dev.g MAC_RXDROP n.toNat + 1) 0xFFFFFFFF ∧
        SameRegs s.dev t.dev [MAC_RXDROP.off n.toNat]) ∧
    (∀ f : Frame, s.dev.rxUsed n.toNat + s.dev.g MAC_MAXFRM n.toNat ≤ 32768 →
      (f.bytes.length < 60 → ∃ t, exec (.frameReceive n f) s = .next t ∧ t.dev.mac = s.dev.mac ∧ same t ∧
        t.dev.g MAC_RXRUNT n.toNat = min (s.dev.g MAC_RXRUNT n.toNat + 1) 0xFFFFFFFF ∧
        SameRegs s.dev t.dev [MAC_RXRUNT.off n.toNat]) ∧
      (60 ≤ f.bytes.length → f.bytes.length + 4 ≤ s.dev.g MAC_MAXFRM n.toNat → f.fcsOk = false →
        (P s).crcAt.length < 15 → s.dev.g MAC_LEC.VALUE n.toNat + 8 < 1000 →
        ∃ t, exec (.frameReceive n f) s = .next t ∧ (P t).rx = (P s).rx ∧ (P t).tx = (P s).tx ∧ same t ∧
          t.dev.g MAC_RXFCS n.toNat = min (s.dev.g MAC_RXFCS n.toNat + 1) 0xFFFFFFFF ∧
          t.dev.g MAC_LEC.VALUE n.toNat = s.dev.g MAC_LEC.VALUE n.toNat + 8) ∧
      (60 ≤ f.bytes.length → f.bytes.length + 4 ≤ s.dev.g MAC_MAXFRM n.toNat → f.fcsOk = true → f.lost = false → (P s).good < 999 →
        let e := beNat (slice f.bytes 12 2)
        (s.dev.accepts n.toNat (f.bytes.take 6) = false → ∃ t, exec (.frameReceive n f) s = .next t ∧ (P t).rx = (P s).rx ∧
          t.dev.g MAC_RXFILT n.toNat = min (s.dev.g MAC_RXFILT n.toNat + 1) 0xFFFFFFFF ∧ same t ∧
          SameRegs s.dev t.dev [MAC_RXFILT.off n.toNat, MAC_RXOK.off n.toNat]) ∧
        (s.dev.accepts n.toNat (f.bytes.take 6) = true → e ∉ [0x8100, 0x8808, 0x88CC] →
          ∃ t g, exec (.frameReceive n f) s = .next t ∧ (P t).rx = (P s).rx ++ [g] ∧ g.bytes = f.bytes ∧ g.ovs = false ∧
            g.stamp = s.dev.brt.pos ∧ g.ety.toNat = e ∧ g.body = f.bytes.drop 14 ∧ same t ∧
            g.tc.toNat = (if e = s.dev.g BLW_ETYPE then (f.bytes.getD 16 0).toNat % 4 else 3) ∧
            SameRegs s.dev t.dev [MAC_RXOK.off n.toNat])) ∧
      (64 ≤ s.dev.g MAC_MAXFRM n.toNat → s.dev.g MAC_MAXFRM n.toNat < f.bytes.length + 4 → f.fcsOk = true → f.lost = false →
        s.dev.accepts n.toNat (f.bytes.take 6) = true → beNat (slice f.bytes 12 2) ∉ [0x8100, 0x8808, 0x88CC] →
        ∃ t g, exec (.frameReceive n f) s = .next t ∧ (P t).rx = (P s).rx ++ [g] ∧ g.ovs = true ∧
          g.bytes = (f.bytes ++ leBytes 4 (crc32 f.bytes)).take (s.dev.g MAC_MAXFRM n.toNat) ∧ same t ∧
          t.dev.g MAC_RXOVS n.toNat = min (s.dev.g MAC_RXOVS n.toNat + 1) 0xFFFFFFFF ∧
          SameRegs s.dev t.dev [MAC_RXOVS.off n.toNat])) ∧
    (∀ (a b : List RxFrame) (f : RxFrame), (P s).rx = a ++ f :: b → (∀ x ∈ a, f.tc < x.tc) → (∀ x ∈ b, f.tc ≤ x.tc) →
      (f.ety.toNat = s.dev.g BLW_ETYPE → ∃ t, exec (.frameDelivery n) s = .next t ∧ (P t).rx = a ++ b ∧ same t ∧
        SameRegs s.dev t.dev [] ∧ t.dev.blw.inbox = (if f.ovs then s.dev.blw.inbox
          else s.dev.blw.inbox ++ [⟨n.toNat, f.stamp, f.body.take 48, f.body.drop 48⟩])) ∧
      (f.ety.toNat ≠ s.dev.g BLW_ETYPE → s.dev.g MAC_FFQ_CFG.SLOT n.toNat = 0 →
        ∃ t, exec (.frameDelivery n) s = .next t ∧ (P t).rx = a ++ b ∧ same t ∧ t.dev.blw = s.dev.blw ∧
          t.dev.g MAC_FFDROP n.toNat = min (s.dev.g MAC_FFDROP n.toNat + 1) 0xFFFFFFFF ∧
          SameRegs s.dev t.dev [MAC_FFDROP.off n.toNat]) ∧
      (f.ety.toNat ≠ s.dev.g BLW_ETYPE →
        let base := s.dev.g MAC_FFQ_BASE n.toNat * 64
        let slot := s.dev.g MAC_FFQ_CFG.SLOT n.toNat * 64
        let num := s.dev.g MAC_FFQ_CFG.NSLOT n.toNat
        let head := s.dev.g MAC_FFQ_HEAD n.toNat
        2 ≤ num → base < bankEnd → bankOf (base + slot * num - 1) = bankOf base → s.dev.g BNK_OWN.OWN (bankOf base) = 19 →
        s.dev.bankMay 19 (bankOf base) true = true → s.dev.bnk.hand = [] → s.dev.bnk.poison = [] → head < num →
        16 + f.bytes.length ≤ slot → f.bytes.length < 65536 → (head + 1) % num ≠ s.dev.g MAC_FFQ_TAIL n.toNat →
        ∃ t, exec (.frameDelivery n) s = .next t ∧ (P t).rx = a ++ b ∧ t.dev.g MAC_FFQ_HEAD n.toNat = (head + 1) % num ∧
          memBytes t.dev.bnk.mem (base + head * slot) (16 + f.bytes.length) = leBytes 2 f.bytes.length ++
            [BitVec.ofNat 8 (b2n f.ovs + 2 * b2n f.tagged), BitVec.ofNat 8 f.tc.toNat] ++ List.replicate 4 0 ++
            leBytes 8 f.endAt.toNat ++ f.bytes ∧
          (∀ x, x < base + head * slot ∨ base + head * slot + 16 + f.bytes.length ≤ x →
            sget 0 x t.dev.bnk.mem = sget 0 x s.dev.bnk.mem) ∧ t.dev.blw = s.dev.blw ∧ SameOutside s t)) ∧
    (∀ (a b : List TxFrame) (f : TxFrame), (P s).tx = a ++ f :: b → (∀ x ∈ a, f.tc < x.tc) → (∀ x ∈ b, f.tc ≤ x.tc) →
      s.dev.on MAC_STAT.LPITX n.toNat = false → (s.dev.est kPort n.toNat = ENABLED ∨ f.tc = 0) →
      ∃ t, exec (.frameTransmit n) s = .next t ∧ (P t).tx = a ++ b ∧ (P t).rx = (P s).rx ∧ same t ∧
        (P t).line = some (s.dev.lineBytes n.toNat f, s.dev.brt.pos) ∧
        t.dev.g MAC_TXOK n.toNat = min (s.dev.g MAC_TXOK n.toNat + 1) 0xFFFFFFFF ∧ SameRegs s.dev t.dev [MAC_TXOK.off n.toNat])

/-- Link, mode, low-power idle, LLDP and error counter of a port follow their rows; no other port and no bank byte changes: For each port n: LINK_UP of a port with a mode sets LINK and, with LLDP on in a running device, queues an LLDPDU; LINK_DOWN clears LINK and low-power idle, counts LINKDN, discards and counts the queue and drops the neighbour record. AUTO_NEGOTIATION_FAIL sets ANFAIL. A MAC_MODE_WRITE by the host that changes MODE alone takes the link down, drops the record and keeps the link error counter. LPI_ENTRY of an idle port enters low-power idle, LPI_EXIT leaves it and sends the queued frame; the partner's idle shows in LPIRX. LLDP_TRANSMIT queues an LLDPDU, LLDP_TTL_EXPIRY drops the record. LEC_CLEAR sets the counter to 0; a PCS block error below QUARANTINE adds 4. -/
def Obligations.LinksFollowTheLine : Prop :=
  ∀ (s : State) (p : BitVec 2), s.dev.mac.length = 4 →
    let n := p.toNat
    let P (t : State) : Port := t.dev.port n
    let same (t : State) : Prop := SameOutside s t ∧ t.dev.bnk = s.dev.bnk ∧ t.dev.rda = s.dev.rda ∧
      ∀ m, m ≠ n → t.dev.port m = s.dev.port m
    (s.dev.macMode n ≠ 0 → s.dev.on MAC_STAT.LINK n = false → s.dev.est kPort n < 2 →
      ∃ t, exec (.linkUp p) s = .next t ∧ t.dev.g MAC_STAT.LINK n = 1 ∧ same t ∧
        (P t).tx = (if s.dev.on MAC_CTL.LLDPEN n && s.dev.running then (P s).tx ++ [s.dev.lldpFrame n 120] else (P s).tx)) ∧
    (s.dev.on MAC_STAT.LINK n = true →
      ∃ t, exec (.linkDown p) s = .next t ∧ t.dev.g MAC_STAT.LINK n = 0 ∧ t.dev.g MAC_STAT.LPITX n = 0 ∧ t.dev.g MAC_STAT.LPIRX n = 0 ∧
        (P t).tx = [] ∧ (P t).nbr = none ∧ same t ∧ t.dev.g MAC_LINKDN n = min (s.dev.g MAC_LINKDN n + 1) 0xFFFFFFFF ∧
        t.dev.g MAC_TXDISC n = min (s.dev.g MAC_TXDISC n + (P s).tx.length) 0xFFFFFFFF) ∧
    (s.dev.macMode n = 1 → s.dev.on MAC_CTL.ANEN n = true → s.dev.on MAC_STAT.LINK n = false →
      ∃ t, exec (.autoNegotiationFail p) s = .next t ∧ t.dev.g MAC_STAT.ANFAIL n = 1 ∧ t.dev.g MAC_STAT.LINK n = 0 ∧
        SameRegs s.dev t.dev [MAC_STAT.LINK.off n] ∧ t.dev.mac = s.dev.mac ∧ same t) ∧
    (∀ v : Word, s.dev.running = true → (P s).testing = 0 → s.dev.flt.split = [] → v.toNat % 4 = s.dev.g MAC_CTL.MST n →
      bitsOf v.toNat 4 2 ≤ 4 → bitsOf v.toNat 4 2 ≠ s.dev.macMode n → s.dev.est kPort n < 2 →
      ∃ t, exec (.macModeWrite .host p v) s = .next t ∧ t.dev.macMode n = bitsOf v.toNat 4 2 ∧ t.dev.g MAC_STAT.LINK n = 0 ∧
        (P t).nbr = none ∧ (P t).gated = decide (bitsOf v.toNat 4 2 = 0) ∧ same t ∧ t.dev.est kPort n = s.dev.est kPort n ∧
        t.dev.g MAC_LEC.VALUE n = s.dev.g MAC_LEC.VALUE n ∧ (s.dev.on MAC_STAT.LINK n = true → (P t).tx = [])) ∧
    (s.dev.portUp n = true → s.dev.on MAC_CTL.EEEEN n = true → 2 ≤ s.dev.macMode n → (P s).tx = [] →
      s.dev.on MAC_STAT.LPITX n = false → (P s).testing = 0 → (P s).nbr = none →
      ∃ t, exec (.lpiEntry p) s = .next t ∧ t.dev.g MAC_STAT.LPITX n = 1 ∧ t.dev.mac = s.dev.mac ∧ same t ∧
        t.dev.g MAC_LPIENT n = min (s.dev.g MAC_LPIENT n + 1) 0xFFFFFFFF ∧
        SameRegs s.dev t.dev [MAC_STAT.LPITX.off n, MAC_LPIENT.off n]) ∧
    (∀ f : TxFrame, s.dev.portUp n = true → s.dev.on MAC_STAT.LPITX n = true → (P s).testing = 0 → (P s).tx = [f] →
      (s.dev.est kPort n = ENABLED ∨ f.tc = 0) →
      ∃ t, exec (.lpiExit p) s = .next t ∧ t.dev.g MAC_STAT.LPITX n = 0 ∧ (P t).tx = [] ∧ same t ∧
        (P t).line = some (s.dev.lineBytes n f, s.dev.brt.pos) ∧ SameRegs s.dev t.dev [MAC_STAT.LPITX.off n, MAC_TXOK.off n]) ∧
    (∀ e : Bool, s.dev.portUp n = true → 2 ≤ s.dev.macMode n →
      ∃ t, exec (.partnerLowPowerIdle p e) s = .next t ∧ t.dev.on MAC_STAT.LPIRX n = e ∧ t.dev.mac = s.dev.mac ∧ same t ∧
        SameRegs s.dev t.dev [MAC_STAT.LPIRX.off n]) ∧
    (s.dev.running = true → s.dev.portUp n = true → s.dev.on MAC_CTL.LLDPEN n = true →
      ∃ t, exec (.lldpTransmit p) s = .next t ∧ (P t).tx = (P s).tx ++ [s.dev.lldpFrame n 120] ∧ SameRegs s.dev t.dev [] ∧ same t) ∧
    (∀ r : Nbr, (P s).nbr = some r → ∃ t, exec (.lldpTtlExpiry p) s = .next t ∧ (P t).nbr = none ∧ t.dev.g MAC_LLDP.VALID n = 0 ∧
      t.dev.g MAC_STAT.EEEOK n = 0 ∧ (P t).tx = (P s).tx ∧ same t) ∧
    (s.dev.running = true → (P s).testing = 0 → (P s).gated = false →
      ∃ t, exec (.lecClear .host p) s = .next t ∧ t.dev.g MAC_LEC.VALUE n = 0 ∧ t.dev.g MAC_STAT.LECLVL n = 0 ∧ t.dev.mac = s.dev.mac ∧
        SameRegs s.dev t.dev [MAC_LEC.VALUE.off n, MAC_STAT.LECLVL.off n] ∧ same t) ∧
    (s.dev.macMode n ≠ 0 → s.dev.est kPort n ≤ 1 → (P s).testing = 0 → s.dev.g MAC_LEC.VALUE n + 4 < 1000 →
      ∃ t, exec (.pcsBlockError p) s = .next t ∧ t.dev.g MAC_LEC.VALUE n = s.dev.g MAC_LEC.VALUE n + 4 ∧ t.dev.mac = s.dev.mac ∧
        t.dev.g MAC_PCSERR n = min (s.dev.g MAC_PCSERR n + 1) 0xFFFFFFFF ∧ same t)

/-- A received packet is discarded unanswered by its header, its node or its age, and counted; a clear packet that passes is taken, counted and judged further: For each request, ACK, NAK and RESP command and one packet p waiting: while EN is 0 it is discarded uncounted; a malformed header counts BADHDR, another node's MISDIR, the device's own is dropped uncounted. A clear packet of the command's operation counts RXPKT; older than BLW_MPL or with an MPOS before EPOS it counts STALE, more than 100 us ahead FUTURE, and nothing else happens. Otherwise it is taken from the front with its payload for the further checks. An answer that names no message in flight then only counts BLW_DUP, and a NAK BLW_NAKRX too. -/
def Obligations.FirstChecksOfAReceivedPacket : Prop :=
  ∀ (s : State) (p : Pkt) (c : Instr) (op : Nat),
    (c, op) ∈ [(Instr.write none, 1), (.read, 2), (.send none, 3), (.atomicAdd false, 4), (.cas false, 5), (.mgmt, 7), (.ack, 8), (.nak, 9), (.resp, 10)] →
    s.dev.blw.inbox = [p] →
    let h := readHdr p.hdr
    let good := goodHdr h p.hdr.length p.rest.length
    let gone : Dev := { s.dev with blw := { s.dev.blw with inbox := [] } }
    let age := distance s.dev.brt.pos h.spos
    (s.dev.on BLW_CTL.EN = false → h.op ≠ xBEACON → exec c s = .next { s with dev := gone }) ∧
    (s.dev.on BLW_CTL.EN = true →
      (good = false → exec c s = .next { s with dev := gone.cnt BLW_BADHDR }) ∧
      (good = true → h.dst ≠ 0xFFF → h.dst ≠ s.dev.node → exec c s = .next { s with dev := gone.cnt BLW_MISDIR }) ∧
      (good = true → h.dst = 0xFFF ∨ h.dst = s.dev.node → h.src = s.dev.node → exec c s = .next { s with dev := gone }) ∧
      (good = true → h.dst = 0xFFF ∨ h.dst = s.dev.node → h.src ≠ s.dev.node → h.sec = false → h.op = op →
        (age > (s.dev.mpl : Int) → exec c s = .next { s with dev := (gone.cnt BLW_RXPKT).cnt BLW_STALE }) ∧
        (age < -(s.dev.usPos 100 : Int) → exec c s = .next { s with dev := (gone.cnt BLW_RXPKT).cnt BLW_FUTURE }) ∧
        (age ≤ (s.dev.mpl : Int) → -(s.dev.usPos 100 : Int) ≤ age →
          (∀ e : Pos, s.dev.blw.epos = some e → earlier h.mpos e = true →
            exec c s = .next { s with dev := (gone.cnt BLW_RXPKT).cnt BLW_STALE }) ∧
          ((∀ e : Pos, s.dev.blw.epos = some e → earlier h.mpos e = false) →
            s.dev.takePkt (fun x => x.op = op) = (gone.cnt BLW_RXPKT, some ⟨p, h, p.rest.take h.plen⟩) ∧
            (op ≥ 8 → s.dev.on BLW_PD.EN h.pd = true → s.dev.on BLW_PD.SECURE h.pd = false → s.dev.blw.outcomes = [] →
              s.dev.named h = none → exec c s = .next { s with dev :=
                (if op = 9 then (gone.cnt BLW_RXPKT).cnt BLW_NAKRX else gone.cnt BLW_RXPKT).cnt BLW_DUP })))))

/-- A descriptor at CI starts a message or ends LOCALERR; a trigger holds it until its counter is there; host atomics and stream blocks start messages too: On an enabled work queue of a running device with EN 1 and a usable plane, for the descriptor x that the Bellows reads at CI (d is the device after the read): untriggered and well formed it becomes a message and CI advances; malformed or in a domain that is off, it ends LOCALERR. With TRIG it stays until its counter is at or past the threshold, then starts, or with EVT its bytes queue as words. BLW_HA_CMD.GO posts one atomic with the operands of the BLW_HA registers, and while one is in flight nothing. A transmit slot's ready block becomes one WRITE with header and samples; with 4 in flight it is a MISS. STREAM_RESEND_STOP frees the tags of the blocks past P + LAT + B. -/
def Obligations.WorkStartsInPostingOrder : Prop :=
  ∀ (s : State) (q : BitVec 6), s.dev.blw.outcomes = [] →
    (∀ (d : Dev) (x : Desc), s.dev.queueRuns q.toNat = true → s.dev.blw.posted = [] → s.dev.descAt q.toNat = some (d, x) → d.blw.outcomes = [] →
      d.g BLW_WQ_CFG.DEPTH q.toNat ≤ 12 →
      let ci := (d.g BLW_WQ_CI q.toNat + 1) % 2 ^ d.g BLW_WQ_CFG.DEPTH q.toNat
      let wf := d.descOk x true && d.pdOk (d.g BLW_WQ_CFG.PD q.toNat)
      let starts (c : Instr) : Prop := ∃ t m, exec c s = .next t ∧ t.dev.blw.msgs = d.blw.msgs ++ [m] ∧ some m.tag = d.newTag ∧ m.desc = x ∧
        m.wq = some q ∧ m.kind = .queue ∧ m.next = 0 ∧ m.mtu = d.mtu ∧ m.acked = [] ∧ m.ended = none ∧ t.dev.g BLW_WQ_CI q.toNat = ci ∧
        SameRegs d t.dev (BLW_WQ_CI.off q.toNat :: blwShown) ∧ t.dev.bnk = d.bnk ∧ t.dev.mac = d.mac ∧ SameOutside s t
      let fails (c : Instr) : Prop := ∃ t, exec c s = .next t ∧ t.dev.blw.msgs = d.blw.msgs ∧ t.dev.g BLW_WQ_CI q.toNat = ci ∧
        Completed d t.dev q x stLOCALERR 0 0 ∧ t.dev.mac = d.mac ∧ SameOutside s t ∧
        SameRegs d t.dev [BLW_WQ_CI.off q.toNat, BLW_CQ_PI.off (d.g BLW_WQ_CFG.CQ q.toNat)]
      let free := d.newTag.isSome ∧ d.mustWait q x = false ∧ (x.op = xSEND → x.fence = true → d.fenceFailed q x = none)
      let due := trigDue (d.g BLW_TRIG (x.ctr % 64)) x.thresh
      (x.trig = false → wf = true → free → starts (.workRequestStart q)) ∧
      (x.trig = false → wf = false → CqReady d (d.g BLW_WQ_CFG.CQ q.toNat) → fails (.workRequestStart q)) ∧
      (x.trig = true → exec (.workRequestStart q) s = .next { s with dev := d }) ∧
      (x.trig = true → due = false → exec (.triggerEnabled q) s = .next { s with dev := d }) ∧
      (x.trig = true → due = true → x.evt = false → wf = true → free → starts (.triggerEnabled q)) ∧
      (x.trig = true → due = true → x.evt = false → wf = false → CqReady d (d.g BLW_WQ_CFG.CQ q.toNat) → fails (.triggerEnabled q)) ∧
      (x.trig = true → due = true → x.evt = true → x.bad = false → x.len % 16 = 0 → x.len ≤ 1024 → BlwMay d x.laddr x.len →
        ∃ t, exec (.triggerEnabled q) s = .next t ∧ t.dev.blw.msgs = d.blw.msgs ∧ t.dev.g BLW_WQ_CI q.toNat = ci ∧ t.dev.bnk = d.bnk ∧
          t.dev.evs.trigQ.map (·.1) = d.evs.trigQ.map (·.1) ++
            (List.range (x.len / 16)).map (fun i => roariBytes (memBytes d.bnk.mem (x.laddr + 16 * i) 16)) ∧
          t.dev.evs.store = d.evs.store ∧ SameRegs d t.dev [BLW_WQ_CI.off q.toNat] ∧ SameOutside s t)) ∧
    (∀ ag : Agent, s.dev.mayWrite ag 0x18080 = true →
      (s.dev.hostAtomicBusy = true → ∃ t, exec (.hostAtomicGo ag) s = .next t ∧ t.dev.blw = s.dev.blw ∧ t.dev.bnk = s.dev.bnk ∧
        SameRegs s.dev t.dev [] ∧ SameOutside s t) ∧
      (s.dev.hostAtomicBusy = false → ∃ t p, exec (.hostAtomicGo ag) s = .next t ∧ t.dev.blw.posted = s.dev.blw.posted ++ [p] ∧
        p.kind = .hostAtomic ∧ p.wq.toNat = s.dev.g BLW_HA_CMD.WQ ∧ p.desc.op = (if s.dev.on BLW_HA_CMD.CAS then xCAS else xADD) ∧
        p.desc.dnode.toNat = s.dev.g BLW_HA_CMD.NODE ∧ p.desc.w64 = s.dev.on BLW_HA_CMD.W64 ∧ p.desc.raddr = s.dev.g BLW_HA_ADDR ∧
        p.desc.rkey = s.dev.g BLW_HA_RKEY ∧ p.desc.opnd0.toNat = s.dev.g BLW_HA_OP0_L + s.dev.g BLW_HA_OP0_H * 2 ^ 32 ∧
        p.desc.opnd1.toNat = s.dev.g BLW_HA_OP1_L + s.dev.g BLW_HA_OP1_H * 2 ^ 32 ∧ p.desc.signal = false ∧ t.dev.blw.msgs = s.dev.blw.msgs ∧
        t.dev.bnk = s.dev.bnk ∧ SameRegs s.dev t.dev [] ∧ SameOutside s t)) ∧
    (∀ (k : Nat) (data : List (List Int)), s.dev.strSends q.toNat = true → s.dev.running = true → s.dev.mode ≠ mSAFE → s.dev.on BLW_CTL.EN = true →
      s.dev.strReady q.toNat = some (k, data) → sget 0 q.toNat s.dev.blw.strNext ≤ k * s.dev.blk → s.dev.pdOk (s.dev.g BLW_STR.PD q.toNat) = true →
      let held := (s.dev.blw.msgs.filter (fun m => m.kind = .stream && m.own = q.toNat)).length
      (held < 4 → s.dev.newTag.isSome →
        ∃ t m, exec (.streamBlockSend q) s = .next t ∧ t.dev.blw.msgs = s.dev.blw.msgs ++ [m] ∧ m.kind = .stream ∧ m.own = q.toNat ∧
          m.desc.op = xWRITE ∧ m.desc.tc = 2 ∧ m.desc.dnode.toNat = s.dev.g BLW_STR.NODE q.toNat ∧ m.desc.rkey = s.dev.g BLW_STR_RKEY q.toNat ∧
          m.desc.raddr = s.dev.strAddr q.toNat + s.dev.strEntry q.toNat (k * s.dev.blk) * s.dev.strSize q.toNat ∧
          m.data = some (leBytes 8 (k * s.dev.blk * 65536) ++ leBytes 4 (s.dev.g BLW_STR_MASK q.toNat) ++ leBytes 2 s.dev.node ++
            [BitVec.ofNat 8 q.toNat, 0] ++ data.flatMap (fun l => l.flatMap (fun v => leBytes 4 (BitVec.ofInt 32 v).toNat))) ∧
          t.dev.bnk = s.dev.bnk ∧ SameRegs s.dev t.dev blwShown ∧ SameOutside s t) ∧
      (4 ≤ held → s.dev.g BLW_STR.DIR q.toNat = 0 → ∃ t, exec (.streamBlockSend q) s = .next t ∧ t.dev.blw.msgs = s.dev.blw.msgs ∧
          t.dev.g BLW_STR_MISS.MISS q.toNat = min (s.dev.g BLW_STR_MISS.MISS q.toNat + 1) 65535 ∧
          SameRegs s.dev t.dev [BLW_STR_MISS.MISS.off q.toNat, BLW_STRMISS.base] ∧ SameOutside s t)) ∧
    ((s.dev.blw.msgs.map (·.tag)).Nodup →
      ∃ t, exec (.streamResendStop q) s = .next t ∧ t.dev.blw.msgs = s.dev.blw.msgs.filter (fun m =>
          !(m.ended.isNone && m.own = q.toNat && s.dev.blockOver m)) ∧ t.dev.bnk = s.dev.bnk ∧ SameRegs s.dev t.dev blwShown ∧ SameOutside s t)

/-- Packets leave on the plane of the round robin; a timer expiry resends with RETX or ends the message; waits, lives and derivations end as the rules say: For a message m in flight under a tag. PACKET_SEND of a clear unicast message queues packet NEXT with its header and payload on the plane chosen and notes it. RETRANSMIT_TIMEOUT resends it on the next plane in rotation with RETX, counting BLW_RETX and a retry, or with RETRIES used up ends the message with RETRY. NAK_RESEND_WAIT_END resends without a retry. MESSAGE_LIFETIME_END ends it with TIMEOUT, or BUSY where a packet still waits after one. ACK_DELAY_EXPIRY sends an ACK of what is placed; RECORD_EXPIRY frees what has outlived MPOS + MLIFE + MPL, records counted as abandoned. COMPLETION_SPACE_WAIT_END writes the entry that waited. KEY_DERIVATION_DONE puts the pair key in the cache and returns its packets. SECURE_COUNTER_WAIT_END sends the packet that waited under the new counter. -/
def Obligations.PacketsAreSentAndResent : Prop :=
  ∀ (s : State), s.dev.blw.outcomes = [] →
    (∀ (tag : BitVec 12) (m : Msg), s.dev.msg tag = some m → m.ended = none → s.dev.on BLW_CTL.EN = true → s.dev.running = true →
      s.dev.on BLW_PD.SECURE m.pd.toNat = false → m.desc.dnode ≠ 0xFFF → m.desc.panic = false →
      (∀ (d e : Dev) (p : Nat) (body : List Byte), m.sendable = true → s.dev.lifeOver m = false →
        let m1 : Msg := if m.next = 0 then { m with mpos := s.dev.brt.pos } else m
        let n := if m.desc.op = xREAD then 8 else if m.desc.isAtomic then m.desc.mlen else pktLen m.desc.len m.mtu m.next
        s.dev.wrr n false = some (d, p) → (d.setMsg m1).payload m1 m.next = (e, some body) → CanSend e p body.length →
        e.on BLW_PD.SECURE m.pd.toNat = false → e.blw.outcomes = [] →
        ∃ t, exec (.packetSend tag) s = .next t ∧ Queued e t.dev p (e.msgHdr m1 m.next body.length false) body ∧
          t.dev.blw.msgs = (e.setMsg { m1 with next := m.next + 1, pkts := m1.pkts ++ [⟨m.next, p, 0, 0, 0⟩] }).blw.msgs ∧
          t.dev.bnk = e.bnk ∧ SameRegs e t.dev [BLW_TXPKT.base] ∧ SameOutside s t) ∧
      (∀ (e : Dev) (p : PktSt) (body : List Byte), m.pkts.find? (fun x => x.psn = p.psn) = some p → p.psn < 8192 → s.dev.lifeOver m = false →
        m.desc.op ≠ xREAD → (s.dev.blw.msgs.map (·.tag)).Nodup →
        let np := s.dev.nextPlane p.plane
        let m2 (r w : Nat) : Msg := { m with pkts := m.pkts.map (fun x => if x.psn = p.psn then { p with retries := r, plane := w, wait := 0 } else x) }
        let resent (c : Instr) (r w : Nat) : Prop := ∃ t, exec c s = .next t ∧ Queued e t.dev w (e.msgHdr (m2 r w) p.psn body.length true) body ∧
          t.dev.blw.msgs = (s.dev.setMsg (m2 r w)).blw.msgs ∧ SameOutside s t ∧ SameRegs e t.dev [BLW_TXPKT.base]
        (p.wait = 0 → p.retries < s.dev.g BLW_RTO.RETRIES → s.dev.usable np = true → s.dev.portUp np = true →
          ((s.dev.cnt BLW_RETX).setMsg (m2 (p.retries + 1) np)).payload (m2 (p.retries + 1) np) p.psn = (e, some body) →
          CanSend e np body.length → e.on BLW_PD.SECURE m.pd.toNat = false → e.blw = (s.dev.setMsg (m2 (p.retries + 1) np)).blw →
          resent (.retransmitTimeout tag (BitVec.ofNat 13 p.psn)) (p.retries + 1) np) ∧
        (p.wait = 0 → s.dev.g BLW_RTO.RETRIES ≤ p.retries → m.kind = .queue → CqReady s.dev (s.dev.g BLW_WQ_CFG.CQ (m.wq.getD 0).toNat) →
          ∃ t, exec (.retransmitTimeout tag (BitVec.ofNat 13 p.psn)) s = .next t ∧ MsgEnds s.dev t.dev m stRETRY 0 ∧
            t.dev.g BLW_FAILED = min (s.dev.g BLW_FAILED + 1) 0xFFFFFFFF ∧ SameOutside s t ∧
            SameRegs s.dev t.dev (BLW_FAILED.base :: BLW_CQ_PI.off (s.dev.g BLW_WQ_CFG.CQ (m.wq.getD 0).toNat) :: blwShown ++ noticeRegs)) ∧
        (∀ w : Nat, (p.wait = 1 ∧ w = np) ∨ (p.wait = 2 ∧ w = p.plane) → s.dev.portUp w = true →
          (s.dev.setMsg (m2 p.retries w)).payload (m2 p.retries w) p.psn = (e, some body) → CanSend e w body.length →
          e.on BLW_PD.SECURE m.pd.toNat = false → e.blw = (s.dev.setMsg (m2 p.retries w)).blw →
          resent (.nakResendWaitEnd tag (BitVec.ofNat 13 p.psn)) p.retries w)) ∧
      (s.dev.mlifeOver m = true → m.kind = .queue → CqReady s.dev (s.dev.g BLW_WQ_CFG.CQ (m.wq.getD 0).toNat) →
        ∃ t, exec (.messageLifetimeEnd tag) s = .next t ∧
          MsgEnds s.dev t.dev m (if m.pkts.any (fun p => p.wait = 1) then stBUSY else stTIMEOUT) 0 ∧ SameOutside s t ∧
          SameRegs s.dev t.dev (BLW_FAILED.base :: BLW_CQ_PI.off (s.dev.g BLW_WQ_CFG.CQ (m.wq.getD 0).toNat) :: blwShown))) ∧
    (∀ (r : Rec) (a b : List Rec) (p : Nat), s.dev.blw.recs = a ++ r :: b → (∀ x ∈ a ++ b, ¬(x.src = r.src ∧ x.tag = r.tag)) → r.since ≠ 0 →
      (readHdr r.hdr).cast = false → (readHdr r.hdr).sec = false → (readHdr r.hdr).src ≠ 0xFFF → s.dev.answerPlane r.plane = some p → CanSend s.dev p 8 →
      ∃ t, exec (.ackDelayExpiry r.src r.tag) s = .next t ∧ t.dev.blw.recs = a ++ { r with since := 0 } :: b ∧ t.dev.bnk = s.dev.bnk ∧
        Queued s.dev t.dev p (s.dev.answerHdr (readHdr r.hdr) xACK 0 r.base 8 0 r.bytes) (leBytes 8 (bitmapFrom r.placed r.base)) ∧
        SameRegs s.dev t.dev [BLW_TXPKT.base] ∧ SameOutside s t) ∧
    (∀ src tag : BitVec 12,
      let past (m : Pos) : Bool := later s.dev.brt.pos (m + BitVec.ofNat 64 (s.dev.usPos (s.dev.g BLW_MLIFE * 1000) + s.dev.mpl))
      (s.dev.blw.recs.all (fun r => r.op ≠ xSEND)) = true → s.dev.blw.recs.Nodup →
      ∃ t, exec (.recordExpiry src tag) s = .next t ∧
        t.dev.blw.recs = s.dev.blw.recs.filter (fun r => !(r.src = src && r.tag = tag && past r.mpos)) ∧
        t.dev.blw.done = s.dev.blw.done.filter (fun e => !(e.src = src && e.tag = tag && past e.mpos)) ∧
        t.dev.blw.atom = s.dev.blw.atom.filter (fun e => !(e.src = src && e.tag = tag && past e.mpos)) ∧
        t.dev.g BLW_ABANDON = min (s.dev.g BLW_ABANDON + (s.dev.blw.recs.filter (fun r => r.src = src && r.tag = tag && past r.mpos)).length) 0xFFFFFFFF ∧
        t.dev.bnk = s.dev.bnk ∧ SameRegs s.dev t.dev (BLW_ABANDON.base :: blwShown) ∧ SameOutside s t) ∧
    (∀ (c : BitVec 6) (e : List Byte) (o : Option (BitVec 12)), s.dev.blw.cqWait = [(c, e, o)] → e.length = 32 →
      s.dev.cqRoom c.toNat = true → s.dev.g BLW_CQ_CFG.DEPTH c.toNat ≤ 12 → s.dev.on BLW_CQ_CFG.NOTIFY c.toNat = false →
      BlwMay s.dev (s.dev.g BLW_CQ_BASE c.toNat * 64 + s.dev.g BLW_CQ_PI c.toNat * 32) 32 →
      ∃ t, exec (.completionSpaceWaitEnd c) s = .next t ∧ t.dev.blw.cqWait = [] ∧
        Placed s.dev t.dev (s.dev.g BLW_CQ_BASE c.toNat * 64 + s.dev.g BLW_CQ_PI c.toNat * 32) e ∧
        t.dev.g BLW_CQ_PI c.toNat = (s.dev.g BLW_CQ_PI c.toNat + 1) % s.dev.cqSize c.toNat ∧
        (∀ x ∈ t.dev.blw.msgs, some x.tag ≠ o) ∧ SameRegs s.dev t.dev (BLW_CQ_PI.off c.toNat :: blwShown) ∧ SameOutside s t) ∧
    (∀ (e : Derive) (rest : List Derive) (k : List Byte), s.dev.blw.derive = e :: rest → e.tx = [] → s.dev.blw.keys.getD e.id.slot.toNat none = some k →
      s.dev.cacheRoom ≠ 0 →
      ∃ t, exec .keyDerivationDone s = .next t ∧ t.dev.blw.derive = rest ∧ t.dev.blw.inbox = e.rx ++ s.dev.blw.inbox ∧
        t.dev.blw.cache.head? = some (e.id, Config.hmac k (kdfInput e.id)) ∧ t.dev.blw.msgs = s.dev.blw.msgs ∧
        SameRegs s.dev t.dev [] ∧ SameOutside s t) ∧
    (∀ (e : SecFrame) (p v : Nat) (k : List Byte) (rest : List (PairId × List Byte)), s.dev.blw.pctrWait = [e] → e.planes = [p] →
      s.dev.slotSends e.slot.toNat = true → s.dev.nextPctr e.slot.toNat = some v → s.dev.mac.length = 4 → p < 4 → s.dev.portUp p = true →
      s.dev.est kPort p = ENABLED → s.dev.fits p (readHdr e.frame.hdr).plen (readHdr e.frame.hdr).sec = true →
      s.dev.blw.cache = (pairOf e.slot.toNat (s.dev.g BLW_KEYSLOT.EPOCH e.slot.toNat) (readHdr e.frame.hdr).src (readHdr e.frame.hdr).dst, k) :: rest →
      ∃ t f, exec .secureCounterWaitEnd s = .next t ∧ t.dev.blw.pctrWait = [] ∧ t.dev.blw.pctr.toNat = v % 2 ^ 48 ∧
        s.dev.slotD e.slot.toNat * 1024 ≤ (v : Int) ∧ (v : Int) < (s.dev.slotD e.slot.toNat + 1) * 1024 ∧ s.dev.blw.pctr.toNat < v ∧
        (t.dev.port p).tx = (s.dev.port p).tx ++ [f] ∧ f.key = some k ∧ f.body = e.frame.body ∧
        f.pre = leBytes 6 v ++ leBytes 2 (s.dev.g BLW_KEYSLOT.EPOCH e.slot.toNat) ∧
        SameRegs s.dev t.dev [BLW_PCTR_L.base, BLW_PCTR_H.base, BLW_TXPKT.base] ∧ SameOutside s t)

/-- A clear WRITE or SEND that passes the checks is placed where it says, completed by its byte count and acknowledged; else logged, refused or a duplicate: For a clear packet g to this node that passed the first checks (d: the device without it). A one-packet WRITE stores exactly its payload at ADDR, leaves a done entry, advances the region's counter where BUMP and TEN are set and is acknowledged DONE; a first packet of a longer message is stored and recorded without an answer below N packets. A region violation stores nothing, writes the log entry, counts VIOL and is answered NAK VIOLATION; a packet of a done message counts DUP and is acknowledged with DUP and DONE; one that the bank discards counts BNK_COLL and is answered COLLIDED. A one-packet SEND fills the slot at HEAD with header and message, HEAD advances and the queue's counter with TEN; on a queue not enabled it is answered NOQ. -/
def Obligations.TargetPlacesAndAnswers : Prop :=
  ∀ (s : State) (d : Dev) (g : Got) (p : Nat), g.h.sec = false → g.h.cast = false → g.h.src ≠ 0xFFF → g.body.length = g.h.plen →
    goodHdr g.h 48 g.pkt.rest.length = true → g.h = readHdr g.pkt.hdr → d.answerPlane g.pkt.plane = some p → CanSend d p 8 →
    (∀ r ∈ d.blw.recs, ¬(r.src.toNat = g.h.src ∧ r.tag.toNat = g.h.tag)) →
    let ack (e : Dev) : Prop := Queued d e p (d.answerHdr g.h xACK fDONE 1 8 0 g.h.plen) (leBytes 8 0)
    let nak (e : Dev) (code : Nat) : Prop := Queued d e p (d.answerHdr g.h xNAK 0 g.h.psn 0 code 0) [] ∧
      e.g BLW_NAKTX = min (d.g BLW_NAKTX + 1) 0xFFFFFFFF
    let fin (e : Dev) : Prop := e.blw.recs = d.blw.recs ∧ e.blw.done = d.blw.done.filter (fun x =>
        !(x.src.toNat = g.h.src && x.tag.toNat = g.h.tag)) ++ [⟨BitVec.ofNat 12 g.h.src, BitVec.ofNat 12 g.h.tag, g.h.mpos, 1, 0⟩]
    let bumped (e : Dev) (c : Bool) (k : Nat) : Prop := e.g BLW_TRIG k = if c then (d.g BLW_TRIG k + 1) % 2 ^ 32 else d.g BLW_TRIG k
    let one : Prop := g.h.psn = 0 ∧ g.h.mlen = g.h.plen ∧ 1 ≤ g.h.plen
    (s.dev.takeReq xWRITE true = (d, some g) →
      let rg := d.region (g.h.rkey % 1024)
      let tr := bitsOf rg.attr.toNat 15 10
      (d.regionCheck g.h g.h.plen 2 = none → d.doneOf g.h = none → d.recRoom = true →
        (one → BlwMay d g.h.addr g.h.plen → d.protDead (1088 + tr) = false →
          ∃ t, exec (.write none) s = .next t ∧ Placed d t.dev g.h.addr g.body ∧ fin t.dev ∧ ack t.dev ∧
            bumped t.dev (g.h.bump && rg.attr.getLsbD 16) tr ∧
            SameRegs d t.dev (BLW_TXPKT.base :: BLW_TRIG.off tr :: blwShown) ∧ SameOutside s t) ∧
        (g.h.psn * g.h.plen < g.h.mlen → g.h.plen < g.h.mlen → g.h.mlen ≤ 16777216 → g.h.psn < 64 → 2 ≤ d.g BLW_ACK.N →
          BlwMay d g.h.addr g.h.plen →
          ∃ t r, exec (.write none) s = .next t ∧ Placed d t.dev g.h.addr g.body ∧ t.dev.blw.recs = d.blw.recs ++ [r] ∧
            r.src.toNat = g.h.src ∧ r.tag.toNat = g.h.tag ∧ r.mpos = g.h.mpos ∧ r.placed = [g.h.psn] ∧ r.bytes = g.h.plen ∧
            r.mlen = g.h.mlen ∧ r.since = 1 ∧ t.dev.mac = d.mac ∧ SameRegs d t.dev blwShown ∧ SameOutside s t) ∧
        (one → BlwMay d g.h.addr g.h.plen → d.g BNK_OWN.OWN (bankOf g.h.addr) ≠ 18 → d.g BNK_GUEST.GUEST (bankOf g.h.addr) = 1 →
          ∃ t, exec (.write (some 0)) s = .next t ∧ t.dev.bnk.mem = d.bnk.mem ∧ t.dev.blw.recs = d.blw.recs ∧ nak t.dev 3 ∧
            t.dev.g BNK_COLL = min (d.g BNK_COLL + 1) 0xFFFFFFFF ∧ SameOutside s t ∧
            SameRegs d t.dev [BLW_TXPKT.base, BLW_NAKTX.base, BNK_COLL.base])) ∧
      (∀ v : Nat, d.regionCheck g.h g.h.plen 2 = some v →
        ∃ t, exec (.write none) s = .next t ∧ t.dev.bnk = d.bnk ∧ t.dev.blw.recs = d.blw.recs ∧ nak t.dev 2 ∧
          t.dev.g BLW_VIOL = min (d.g BLW_VIOL + 1) 0xFFFFFFFF ∧ t.dev.g BLW_VLOGHEAD.IDX = (d.g BLW_VLOGHEAD.IDX + 1) % 32 ∧
          (t.dev.reg (BLW_VLOG.off (4 * d.g BLW_VLOGHEAD.IDX))).toNat = g.h.src + xWRITE * 2 ^ 16 + v * 2 ^ 24 ∧
          (t.dev.reg (BLW_VLOG.off (4 * d.g BLW_VLOGHEAD.IDX + 1))).toNat = g.h.pd + g.h.rkey % 1024 * 2 ^ 16 ∧
          (t.dev.reg (BLW_VLOG.off (4 * d.g BLW_VLOGHEAD.IDX + 2))).toNat = g.h.addr ∧ SameOutside s t ∧
          SameRegs d t.dev ([BLW_TXPKT.base, BLW_NAKTX.base, BLW_VIOL.base, BLW_VLOGHEAD.IDX.base] ++
            (List.range 4).map (fun k => BLW_VLOG.off (4 * d.g BLW_VLOGHEAD.IDX + k)) ++ noticeRegs)) ∧
      (∀ e : DoneEnt, d.regionCheck g.h g.h.plen 2 = none → one → d.doneOf g.h = some e →
        ∃ t, exec (.write none) s = .next t ∧ t.dev.bnk = d.bnk ∧ t.dev.blw.done = d.blw.done ∧ t.dev.blw.recs = d.blw.recs ∧
          t.dev.g BLW_DUP = min (d.g BLW_DUP + 1) 0xFFFFFFFF ∧
          Queued d t.dev p (d.answerHdr g.h xACK (fDUP + fDONE) e.cnt 8 0 g.h.mlen) (leBytes 8 0) ∧
          SameRegs d t.dev [BLW_TXPKT.base, BLW_DUP.base] ∧ SameOutside s t)) ∧
    (s.dev.takeReq xSEND true = (d, some g) → g.h.aux < 64 → d.on BLW_RQX.ANYPD g.h.aux = true ∨ d.g BLW_RQX.PD g.h.aux = g.h.pd → d.doneOf g.h = none →
      one → g.h.mlen ≤ 65536 → g.h.addr = 0 →
      let q := g.h.aux
      (∀ i : Nat, d.on BLW_RQ_CFG.EN q = true → 16 + g.h.mlen ≤ d.slotSize q → d.recRoom = true → d.claims q = [] → d.freeSlot q = some i →
        2 ≤ d.g BLW_RQ_CFG.NSLOT q → BlwMay d (d.slotAddr q i) (d.slotSize q) → d.on BLW_RQ_CFG.CQEN q = false →
        d.on EVS_QSEL.EVQEN = false ∨ d.g EVS_QSEL.EVQ ≠ q → d.on EVS_QSEL.SPQEN = false ∨ d.g EVS_QSEL.SPQ ≠ q →
        d.protDead (1088 + d.g BLW_RQX.TRIG q) = false →
        ∃ t, exec (.send none) s = .next t ∧ fin t.dev ∧ ack t.dev ∧ t.dev.g BLW_RQ_HEAD q = (i + 1) % d.g BLW_RQ_CFG.NSLOT q ∧
          Placed d t.dev (d.slotAddr q i) (leBytes 4 g.h.mlen ++ leBytes 2 g.h.src ++ [BitVec.ofNat 8 g.h.tc, 0] ++ leBytes 8 g.h.mpos.toNat ++ g.body) ∧
          bumped t.dev (d.on BLW_RQX.TEN q) (d.g BLW_RQX.TRIG q) ∧ t.dev.blw.slots = d.blw.slots ∧
          SameRegs d t.dev (BLW_TXPKT.base :: BLW_RQ_HEAD.off q :: BLW_TRIG.off (d.g BLW_RQX.TRIG q) :: blwShown) ∧ SameOutside s t) ∧
      (d.on BLW_RQ_CFG.EN q = false → ∃ t, exec (.send none) s = .next t ∧ t.dev.bnk = d.bnk ∧ t.dev.blw.recs = d.blw.recs ∧ nak t.dev 5 ∧
          SameRegs d t.dev [BLW_TXPKT.base, BLW_NAKTX.base] ∧ SameOutside s t))

/-- READ answers with the bytes, an atomic acts once and answers with the old value, MGMT runs its entries for the one manager alone: For a clear packet g to this node that passed the first checks (d: the device without it). A one-packet READ of readable bytes is answered by a RESP with them and changes no byte. ATOMIC_ADD adds its operand, CAS stores its swap value where the compare value stands, and either is answered with the old value and cached; found in the cache it changes nothing and is answered from it with DUP, counting BLW_DUP. MGMT from another node or while BLW_MGMT.EN is 0 is a violation that changes no register; from the manager, its entries run in order: a write of BLW_MRIDX, a read of it, and a write outside the permitted offsets, which is skipped with bit 1 set in the answer. -/
def Obligations.TargetReadsAtomicsAndManagement : Prop :=
  ∀ (s : State) (d : Dev) (g : Got) (p : Nat), g.h.sec = false → g.h.cast = false → g.h.src ≠ 0xFFF → g.body.length = g.h.plen →
    goodHdr g.h 48 g.pkt.rest.length = true → g.h = readHdr g.pkt.hdr → d.answerPlane g.pkt.plane = some p → CanSend d p 2048 →
    (s.dev.takeReq xREAD false = (d, some g) → d.regionCheck g.h g.h.mlen 1 = none → g.h.aux < 4 → 1 ≤ g.h.mlen → g.h.mlen ≤ mtuOf g.h.aux →
      g.h.psn = 0 → g.h.rcount = 1 → fieldAt g.body 0 8 = 0 → BlwMay d g.h.addr g.h.mlen →
      ∃ t, exec .read s = .next t ∧ t.dev.bnk = d.bnk ∧ t.dev.blw = d.blw ∧
        Queued d t.dev p (d.answerHdr g.h xRESP 0 0 g.h.mlen 0 0) (memBytes d.bnk.mem g.h.addr g.h.mlen) ∧
        SameRegs d t.dev [BLW_TXPKT.base] ∧ SameOutside s t) ∧
    (∀ (c : Instr) (op : Nat) (cas : Bool), (c, op, cas) ∈ [(Instr.atomicAdd false, xADD, false), (.cas false, xCAS, true)] →
      s.dev.takeReq op false = (d, some g) →
      let n := if g.h.w64 then 8 else 4
      let old := leNat (memBytes d.bnk.mem g.h.addr n)
      let op0 := fieldAt g.body 0 n
      let new := if cas then (if old = op0 then fieldAt g.body n n else old) else (old + op0) % 2 ^ (8 * n)
      let held : List DoneEnt := d.blw.atom.filter (fun e => e.src.toNat = g.h.src && e.tag.toNat = g.h.tag && e.mpos = g.h.mpos)
      d.regionCheck g.h n 3 = none → g.h.addr % n = 0 → g.h.psn = 0 → BlwMay d g.h.addr n →
      (held = [] → d.blw.atom.length + d.rowsLost 3 < 1024 →
        ∃ t, exec c s = .next t ∧ Placed d t.dev g.h.addr (leBytes n new) ∧
          t.dev.blw.atom = d.blw.atom ++ [⟨BitVec.ofNat 12 g.h.src, BitVec.ofNat 12 g.h.tag, g.h.mpos, 1, BitVec.ofNat 64 old⟩] ∧
          Queued d t.dev p (d.answerHdr g.h xRESP 0 0 n 0 0) (leBytes n old) ∧
          SameRegs d t.dev (BLW_TXPKT.base :: blwShown) ∧ SameOutside s t) ∧
      (∀ e : DoneEnt, held = [e] →
        ∃ t, exec c s = .next t ∧ t.dev.bnk = d.bnk ∧ t.dev.blw = d.blw ∧ t.dev.g BLW_DUP = min (d.g BLW_DUP + 1) 0xFFFFFFFF ∧
          Queued d t.dev p (d.answerHdr g.h xRESP fDUP 0 n 0 0) (leBytes n e.old.toNat) ∧
          SameRegs d t.dev [BLW_TXPKT.base, BLW_DUP.base] ∧ SameOutside s t)) ∧
    (s.dev.takeReq xMGMT true = (d, some g) → d.on BLW_MGMT.SEC = false → d.doneOf g.h = none → d.recOf g.h = none → g.h.psn = 0 →
      (d.on BLW_MGMT.EN = false ∨ g.h.src ≠ d.g BLW_MGMT.NODE →
        ∃ t, exec .mgmt s = .next t ∧ t.dev.blw.done = d.blw.done ∧ t.dev.bnk = d.bnk ∧ t.dev.g BLW_VIOL = min (d.g BLW_VIOL + 1) 0xFFFFFFFF ∧
          Queued d t.dev p (d.answerHdr g.h xNAK 0 0 0 2 0) [] ∧
          (t.dev.reg (BLW_VLOG.off (4 * d.g BLW_VLOGHEAD.IDX))).toNat = g.h.src + xMGMT * 2 ^ 16 + 8 * 2 ^ 24 ∧ SameOutside s t ∧
          SameRegs d t.dev ([BLW_TXPKT.base, BLW_NAKTX.base, BLW_VIOL.base, BLW_VLOGHEAD.IDX.base] ++
            (List.range 4).map (fun k => BLW_VLOG.off (4 * d.g BLW_VLOGHEAD.IDX + k)) ++ noticeRegs)) ∧
      (∀ v : Word, d.on BLW_MGMT.EN = true → (d.reg BLW_MRIDX.base).toNat < 1024 → g.h.src = d.g BLW_MGMT.NODE → d.recRoom = true →
        g.body = leBytes 4 0x40019031 ++ leBytes 4 v.toNat ++ leBytes 4 0x40019030 ++ leBytes 4 0 ++ leBytes 4 0x40022001 ++ leBytes 4 1 →
        ∃ t, exec .mgmt s = .next t ∧ t.dev.g BLW_MRIDX = v.toNat % 1024 ∧ t.dev.bnk = d.bnk ∧
          t.dev.blw.done.getLast? = some ⟨BitVec.ofNat 12 g.h.src, BitVec.ofNat 12 g.h.tag, g.h.mpos, 1, 0⟩ ∧
          Queued d t.dev p (d.answerHdr g.h xRESP 0 0 24 0 0) (leBytes 4 0x40019031 ++ leBytes 4 v.toNat ++ leBytes 4 0x40019030 ++
            leBytes 4 (v.toNat % 1024) ++ leBytes 4 0x40022003 ++ leBytes 4 1) ∧
          SameRegs d t.dev (BLW_MRIDX.base :: BLW_TXPKT.base :: blwShown) ∧ SameOutside s t))

/-- An ACK with DONE, an ending NAK or the last RESP ends the message it names with its status; a lesser ACK stops timers, BUSY and COLLIDED make its packet wait: For an answer g that passed the first checks and names message m in flight (d: the device without it), m of a queue whose completion queue can take an entry. ACK of a WRITE or SEND: DONE ends it OK; else the packets below the base and in the bitmap count as acknowledged, and nothing ends. NAK counts BLW_NAKRX: codes 2, 4, 5, 6, 7 end it RAV (counted), INVREQ, NOQ, TOOLONG, BNKERR; BUSY makes its packet wait 20 us, then double up to 1,280; COLLIDED makes it wait and counts BLW_NCOLL. RESP of an atomic ends it OK with the old value as result; of a one-packet READ it stores the bytes at LADDR and frees the tag. -/
def Obligations.AnswersEndMessages : Prop :=
  ∀ (s : State) (d : Dev) (g : Got) (m : Msg), answerChecks d g.h = none → d.named g.h = some m → d.blw.outcomes = [] → m.kind = .queue →
    CqReady d (d.g BLW_WQ_CFG.CQ (m.wq.getD 0).toNat) →
    let ends (c : Instr) (m : Msg) (status : Nat) (result : BitVec 64) (regs : List Nat) : Prop := ∃ t, exec c s = .next t ∧
      MsgEnds d t.dev m status result ∧ t.dev.mac = d.mac ∧
      SameRegs d t.dev (BLW_CQ_PI.off (d.g BLW_WQ_CFG.CQ (m.wq.getD 0).toNat) :: blwShown ++ regs) ∧ SameOutside s t
    let waits (m : Msg) (regs : List Nat) : Prop := ∃ t, exec .nak s = .next t ∧ t.dev.blw.msgs = (d.setMsg m).blw.msgs ∧ t.dev.bnk = d.bnk ∧
      SameRegs d t.dev (BLW_NAKRX.base :: regs) ∧ SameOutside s t
    (s.dev.takePkt (fun h => h.op = xACK) = (d, some g) → m.desc.op = xWRITE ∨ m.desc.op = xSEND →
      let l := (List.range m.count).filter (fun k => k < g.h.psn || (k < g.h.psn + 64 && bit (fieldAt g.body 0 8) (k - g.h.psn)))
      (g.h.done = true → ends .ack (m.ack (List.range m.count)) stOK 0 []) ∧
      (g.h.done = false → l.length ≠ m.count → ∃ t, exec .ack s = .next t ∧ t.dev.blw.msgs = (d.setMsg (m.ack l)).blw.msgs ∧
        t.dev.bnk = d.bnk ∧ SameRegs d t.dev [] ∧ SameOutside s t)) ∧
    (s.dev.takePkt (fun h => h.op = xNAK) = (d, some g) →
      (g.h.aux = 2 → ends .nak m stRAV 0 [BLW_NAKRX.base, BLW_RAV.base]) ∧ (g.h.aux = 4 → ends .nak m stINVREQ 0 [BLW_NAKRX.base]) ∧
      (g.h.aux = 5 → ends .nak m stNOQ 0 [BLW_NAKRX.base]) ∧ (g.h.aux = 6 → ends .nak m stTOOLONG 0 [BLW_NAKRX.base]) ∧
      (g.h.aux = 7 → ends .nak m stBNKERR 0 [BLW_NAKRX.base]) ∧
      (∀ p : PktSt, m.pkts.find? (fun x => x.psn = g.h.psn) = some p →
        (g.h.aux = 1 → waits (m.setPkt { p with wait := 1, busyUs := if p.busyUs = 0 then 20 else min 1280 (2 * p.busyUs) }) []) ∧
        (g.h.aux = 3 → waits (m.setPkt { p with wait := 2 }) [BLW_NCOLL.base]))) ∧
    (s.dev.takePkt (fun h => h.op = xRESP) = (d, some g) →
      (m.desc.isAtomic = true → ends .resp { m with acked := [0] } stOK (BitVec.ofNat 64 (fieldAt g.body 0 m.desc.width)) []) ∧
      (m.desc.op = xREAD → m.count = 1 → m.acked = [] → g.h.psn = 0 → g.h.addr = 0 → g.h.plen = m.desc.len → m.desc.len ≤ m.mtu →
        g.body.length = g.h.plen → BlwMay d m.desc.laddr m.desc.len → m.desc.signal = false →
        ∃ t, exec .resp s = .next t ∧ t.dev.blw.msgs = d.blw.msgs.filter (fun x => decide (x.tag ≠ m.tag)) ∧
          Placed d t.dev m.desc.laddr g.body ∧ t.dev.mac = d.mac ∧ SameRegs d t.dev blwShown ∧ SameOutside s t))

/-- Enabling the transport sets EN, EPOS and node addresses, disabling ends everything; key commands load, renew and erase slots; a region lies in one space: For every agent that may write the registers. A write that sets EN while BLW_NODE is 0xFFF does nothing; otherwise from 0 it sets EN and MTU, EPOS to the Breath position and each MACp_ADDR to the node address. A write of EN 0 leaves no message in flight, record, done entry, cached atomic or EPOS. LOAD of a wrapped entry that authenticates with no reserved value fills its slot; one that does not counts KEYBAD with error AUTH and leaves the slots; outside the three owners' banks error RANGE. EPOCH takes a newer epoch and base and clears REWIND, else error EPOCH. ERASE empties the slot. A write of BLW_MR_ATTR stores the attributes; with VALID for a range outside the spaces of R514 it leaves VALID 0 and sets MRERR. -/
def Obligations.FabricIsGuardedByRegisters : Prop :=
  ∀ (s : State) (ag : Agent), s.dev.mayWrite ag 0x18000 = true →
    (∀ v : Word, s.dev.node = 0xFFF → exec (.transportEnable ag v) s = .next s) ∧
    (∀ v : Word, s.dev.node ≠ 0xFFF → s.dev.on BLW_CTL.EN = false →
      ∃ t, exec (.transportEnable ag v) s = .next t ∧ t.dev.g BLW_CTL.EN = 1 ∧ t.dev.g BLW_CTL.MTU = bitsOf v.toNat 2 1 ∧
        t.dev.blw = { s.dev.blw with epos := some s.dev.brt.pos } ∧ t.dev.mac = s.dev.mac ∧ t.dev.bnk = s.dev.bnk ∧
        (∀ p : Nat, p < 4 → t.dev.g MAC_ADDR_L p = leNat ((nodeAddr s.dev.node p).take 4) ∧
          t.dev.g MAC_ADDR_H p = leNat ((nodeAddr s.dev.node p).drop 4)) ∧
        SameRegs s.dev t.dev (BLW_CTL.EN.base :: (List.range 4).flatMap (fun p => [MAC_ADDR_L.off p, MAC_ADDR_H.off p])) ∧ SameOutside s t) ∧
    (∀ v : Word, s.dev.on BLW_CTL.EN = true → s.dev.blw.outcomes = [] →
      ∃ t, exec (.transportDisable ag v) s = .next t ∧ t.dev.g BLW_CTL.EN = 0 ∧ t.dev.blw.recs = [] ∧ t.dev.blw.done = [] ∧
        t.dev.blw.atom = [] ∧ t.dev.blw.epos = none ∧ (∀ m ∈ t.dev.blw.msgs, m.ended.isSome) ∧ SameOutside s t ∧
        (s.dev.blw.msgs = [] → s.dev.blw.recs = [] → SameRegs s.dev t.dev (BLW_CTL.EN.base :: blwShown) ∧ t.dev.bnk = s.dev.bnk)) ∧
    (let src := s.dev.g BLW_KEYSRC * 16
     let e := memBytes s.dev.bnk.mem src 80
     let k := fieldAt e 0 1
     let inBank := src + 79 < bankEnd ∧ bankOf (src + 79) = bankOf src ∧ s.dev.g BNK_OWN.OWN (bankOf src) ∈ [18, 19, 20]
     let plain := Config.gcmOpen s.otp.wrapKey (slice e 0x10 12) (slice e 0 0x20) (slice e 0x20 48)
     (∀ key : List Byte, inBank → plain = some key → k < 16 → fieldAt e 1 1 = 0 → fieldAt e 4 4 = 0 → fieldAt e 0xE 2 = 0 → fieldAt e 0x1C 4 = 0 →
        s.dev.protDead (1152 + k) = false → k < s.dev.blw.keys.length →
        ∃ t, exec (.keyLoad ag) s = .next t ∧ t.dev.blw.keys = setAt s.dev.blw.keys k (some key) ∧ t.dev.g BLW_KEYRES.ERR = 0 ∧
          t.dev.g BLW_KEYSLOT.VALID k = 1 ∧ t.dev.g BLW_KEYSLOT.EPOCH k = fieldAt e 2 2 ∧ t.dev.ebase k = fieldAt e 8 6 ∧
          (∀ x ∈ t.dev.blw.cache, x.1.slot.toNat ≠ k) ∧ t.dev.bnk = s.dev.bnk ∧ SameOutside s t ∧
          SameRegs s.dev t.dev [BLW_KEYRES.ERR.base, BLW_KEYSLOT.EPOCH.off k, BLW_KEYSLOT_EB_L.off k, BLW_KEYSLOT_EB_H.off k]) ∧
     (inBank → plain = none → ∃ t, exec (.keyLoad ag) s = .next t ∧ t.dev.blw = s.dev.blw ∧ t.dev.g BLW_KEYRES.ERR = 2 ∧
        t.dev.g BLW_KEYBAD = min (s.dev.g BLW_KEYBAD + 1) 0xFFFFFFFF ∧ SameOutside s t ∧
        SameRegs s.dev t.dev (BLW_KEYRES.ERR.base :: BLW_KEYBAD.base :: noticeRegs)) ∧
     (¬ inBank → ∃ t, exec (.keyLoad ag) s = .next t ∧ t.dev.blw = s.dev.blw ∧ t.dev.g BLW_KEYRES.ERR = 1 ∧
        SameRegs s.dev t.dev [BLW_KEYRES.ERR.base] ∧ SameOutside s t)) ∧
    (∀ k : BitVec 4,
      let new := s.dev.g BLW_KEYARG.EPOCH
      (newerSeq 16 new (s.dev.g BLW_KEYSLOT.EPOCH k.toNat) = true →
        ∃ t, exec (.keyEpoch ag k) s = .next t ∧ t.dev.g BLW_KEYSLOT.EPOCH k.toNat = new ∧ t.dev.g BLW_KEYSLOT.REWIND k.toNat = 0 ∧
          t.dev.ebase k.toNat = s.dev.g BLW_KEYEB_L + s.dev.g BLW_KEYEB_H * 2 ^ 32 ∧ t.dev.g BLW_KEYRES.ERR = 0 ∧
          t.dev.blw.keys = s.dev.blw.keys ∧ SameOutside s t ∧ SameRegs s.dev t.dev [BLW_KEYRES.ERR.base, BLW_KEYSLOT.EPOCH.off k.toNat,
            BLW_KEYSLOT_EB_L.off k.toNat, BLW_KEYSLOT_EB_H.off k.toNat]) ∧
      (newerSeq 16 new (s.dev.g BLW_KEYSLOT.EPOCH k.toNat) = false →
        ∃ t, exec (.keyEpoch ag k) s = .next t ∧ t.dev.g BLW_KEYRES.ERR = 3 ∧ t.dev.blw = s.dev.blw ∧
          SameRegs s.dev t.dev [BLW_KEYRES.ERR.base] ∧ SameOutside s t) ∧
      (∃ t, exec (.keyErase ag k) s = .next t ∧ t.dev.blw.keys = setAt s.dev.blw.keys k.toNat none ∧ t.dev.g BLW_KEYSLOT.VALID k.toNat = 0 ∧
        t.dev.g BLW_KEYSLOT.EPOCH k.toNat = 0 ∧ (∀ x ∈ t.dev.blw.cache, x.1.slot.toNat ≠ k.toNat) ∧ SameOutside s t ∧
        SameRegs s.dev t.dev [BLW_KEYRES.ERR.base, BLW_KEYSLOT.EPOCH.off k.toNat, BLW_KEYSLOT_EB_L.off k.toNat, BLW_KEYSLOT_EB_H.off k.toNat])) ∧
    (∀ v : Word,
      let i := s.dev.g BLW_MRIDX
      let r := s.dev.region i
      let fits := regionFits r.base.toNat r.len.toNat
      s.dev.protDead i = false →
      (v.getLsbD 0 = false ∨ fits = true → ∃ t, exec (.mrAttrWrite ag v) s = .next t ∧
        t.dev.region i = { r with attr := v &&& 0x1FFFF } ∧ (∀ j, j ≠ i → t.dev.region j = s.dev.region j) ∧
        SameRegs s.dev t.dev [] ∧ SameOutside s t) ∧
      (v.getLsbD 0 = true → fits = false → ∃ t, exec (.mrAttrWrite ag v) s = .next t ∧
        t.dev.region i = { r with attr := v &&& 0x1FFFE } ∧ (∀ j, j ≠ i → t.dev.region j = s.dev.region j) ∧
        t.dev.g BLW_SECSTAT.MRERR = 1 ∧ SameRegs s.dev t.dev [BLW_SECSTAT.MRERR.base] ∧ SameOutside s t))

/-- Attachment, reset, standard requests, suspend, resume and remote wake change the USB port's state as the rules say and leave the rest of the device: In a device that is awake with no update held by USB and another Breath source: USB_ATTACH of an enabled, unconnected port turns the pull-up on at the speed of the handshake (FSONLY: full) with the channel counts cut to the rate's limits; USB_DETACH returns to detached; BUS_RESET to default, counted, FIFOs empty. SET_ADDRESS, SET_CONFIGURATION, REMOTE_WAKE_ENABLE and SET_INTERFACE act in their states, a request that the device does not have is a STALL. USB_SUSPEND sets state 4 and counts; USB_RESUME returns to the state before it, counting WAKEMERGE where an own wake had not begun; REMOTE_WAKE drives K once with its reason, and is a resume where the bus leaves idle. A packet error only counts USB_RXERR. -/
def Obligations.UsbAttachesAndSleeps : Prop :=
  ∀ s : State,
    let u := s.dev.usb
    let st := USB_STAT.VBUS.base
    let stays (t : State) (regs : List Nat) : Prop := OnlyUsb s.dev t.dev ∧ SameRegs s.dev t.dev regs ∧ SameOutside s t
    (∀ hs : Bool, s.dev.running = true → s.dev.on USB_CTL.EN = true → s.dev.on USB_STAT.CONN = false →
      let h := hs && !s.dev.on USB_CTL.FSONLY
      let lim := usbLimit h s.dev.rateClass
      ∃ t, exec (.usbAttach hs) s = .next t ∧ t.dev.g USB_STAT.CONN = 1 ∧ t.dev.g USB_STAT.VBUS = 1 ∧ t.dev.g USB_STAT.STATE = 1 ∧
        t.dev.g USB_STAT.SPEED = (if h then 2 else 1) ∧ t.dev.usb.outCh = min (s.dev.g USB_ACFG.OUTCH) lim ∧
        t.dev.usb.inCh = min (s.dev.g USB_ACFG.INCH) lim ∧ t.dev.usb.vidpid = s.dev.reg USB_ID.VID.base ∧
        (lim < s.dev.g USB_ACFG.OUTCH ∨ lim < s.dev.g USB_ACFG.INCH → t.dev.g USB_STAT.ACLAMP = 1) ∧ t.dev.g USB_STAT.MALT = 0 ∧
        t.dev.usb.fifo = [] ∧ t.dev.usb.ep3 = [] ∧ stays t (st :: USB_AFILL.base :: noticeRegs)) ∧
    (s.dev.boot.upd = none → s.dev.on USB_STAT.CONN = true → s.dev.brtSrc ≠ srcUSB →
      ∃ t, exec .usbDetach s = .next t ∧ t.dev.g USB_STAT.CONN = 0 ∧ t.dev.g USB_STAT.VBUS = 0 ∧ t.dev.g USB_STAT.STATE = 0 ∧
        t.dev.g USB_STAT.SPEED = 0 ∧ t.dev.usb.fifo = [] ∧ t.dev.usb.notices = [] ∧ t.dev.usb.ep4 = [] ∧
        stays t (st :: USB_AFILL.base :: noticeRegs)) ∧
    (s.dev.boot.upd = none → s.dev.on USB_STAT.CONN = true → s.dev.mode ≠ mIDLE → s.dev.mode ≠ mDORMANT → s.dev.pwr.entering = none →
      ∃ t, exec .busReset s = .next t ∧ t.dev.g USB_STAT.STATE = 1 ∧ t.dev.g USB_STAT.RWENA = 0 ∧ t.dev.g USB_STAT.AOUT = 0 ∧
        t.dev.g USB_STAT.SPEED = s.dev.g USB_STAT.SPEED ∧ t.dev.usb.addr = 0 ∧ t.dev.usb.fifo = [] ∧ t.dev.usb.notices = [] ∧
        t.dev.g USB_BUSRESET = min (s.dev.g USB_BUSRESET + 1) 0xFFFFFFFF ∧ stays t [st, USB_AFILL.base, USB_BUSRESET.base]) ∧
    (∀ a : BitVec 7, s.dev.usbState = 1 ∨ s.dev.usbState = 2 →
      ∃ t, exec (.setAddress a) s = .next t ∧ t.dev.usbState = (if a = 0 then 1 else 2) ∧ t.dev.usb = { u with ep0 := some [], addr := a } ∧
        stays t [st]) ∧
    (s.dev.usbState = 2 ∨ s.dev.usbState = 3 →
      (∃ t, exec (.setConfiguration 1) s = .next t ∧ t.dev.usbState = 3 ∧ t.dev.g USB_STAT.AOUT = 0 ∧ t.dev.g USB_STAT.AIN = 0 ∧
        t.dev.g USB_STAT.MALT = 0 ∧ t.dev.usb.ep0 = some [] ∧ t.dev.usb.fifo = [] ∧ stays t [st, USB_AFILL.base]) ∧
      (∃ t, exec (.setConfiguration 0) s = .next t ∧ t.dev.usbState = 2 ∧ t.dev.usb.ep0 = some [] ∧ stays t [st, USB_AFILL.base]) ∧
      (∀ c : Byte, 2 ≤ c.toNat → ∃ t, exec (.setConfiguration c) s = .next t ∧ t.dev.usb = { u with ep0 := none } ∧ stays t []) ∧
      (∀ on : Bool, ∃ t, exec (.remoteWakeEnable on) s = .next t ∧ t.dev.on USB_STAT.RWENA = on ∧ t.dev.usb = { u with ep0 := some [] } ∧
        stays t [st])) ∧
    (s.dev.usbState = 3 →
      (∀ a : Byte, a.toNat < 2 → u.outCh ≠ 0 → ∃ t, exec (.setInterface 1 a) s = .next t ∧
        t.dev.usb = { u with ep0 := some [], altPend := u.altPend ++ [(1, a)] } ∧ stays t []) ∧
      (∀ a : Byte, a.toNat < 2 → u.inCh ≠ 0 → ∃ t, exec (.setInterface 2 a) s = .next t ∧
        t.dev.usb = { u with ep0 := some [], altPend := u.altPend ++ [(2, a)] } ∧ stays t []) ∧
      (∀ a : Byte, a.toNat < 2 → ∃ t, exec (.setInterface 3 a) s = .next t ∧ t.dev.g USB_STAT.MALT = a.toNat ∧
        t.dev.usb.ep0 = some [] ∧ t.dev.usb.altPend = u.altPend ∧ stays t [st]) ∧
      (∀ i : Byte, 4 < i.toNat → ∃ t, exec (.setInterface i 0) s = .next t ∧ t.dev.usb = { u with ep0 := none } ∧ stays t []) ∧
      (∀ (r : Nat) (q : ClockReq), r = s.dev.fs → q ∈ [ClockReq.getCur, .setCur r] →
        ∃ t, exec (.clockRequest q) s = .next t ∧ t.dev.usb = { u with ep0 := some (if q = .getCur then leBytes 4 r else []) } ∧ stays t []) ∧
      (∃ t, exec (.clockRequest .getValid) s = .next t ∧ t.dev.usb = { u with ep0 := some [if s.dev.brtState = sTRACK ∨ s.dev.brtState = sFREE then 1 else 0] } ∧ stays t []) ∧
      (∀ r : Nat, r ≠ s.dev.fs → ∃ t, exec (.clockRequest (.setCur r)) s = .next t ∧ t.dev.usb = { u with ep0 := none } ∧ stays t [])) ∧
    (s.dev.usbLive = true →
      (∃ t, exec (.getDescriptor 1 0) s = .next t ∧ stays t [] ∧ t.dev.usb = { u with ep0 := some (byteList [18, 1, 0x00, 0x02, 0xEF, 0x02, 0x01, 64] ++ leBytes 4 u.vidpid.toNat ++ byteList [0x00, 0x0B, 1, 2, 3, 1]) }) ∧
      (∃ t, exec (.getDescriptor 3 3) s = .next t ∧ stays t [] ∧ t.dev.usb = { u with ep0 := some (byteList [34, 3] ++ (hexDigits s.otp.serial.toNat).flatMap (fun c => leBytes 2 c)) }) ∧
      (∃ t, exec (.getDescriptor 5 0) s = .next t ∧ stays t [] ∧ t.dev.usb = { u with ep0 := none }) ∧
      (s.dev.g PWR_CTL.SUSPM = 0 → s.dev.brtSrc ≠ srcUSB →
        ∃ t, exec .usbSuspend s = .next t ∧ t.dev.usbState = 4 ∧ t.dev.usb.prior.toNat = s.dev.usbState ∧ t.dev.usb.fifo = [] ∧
          t.dev.usb.sof = [] ∧ t.dev.g USB_SUSPENDS = min (s.dev.g USB_SUSPENDS + 1) 0xFFFFFFFF ∧
          stays t (st :: USB_AFILL.base :: USB_SUSPENDS.base :: noticeRegs))) ∧
    (s.dev.usbState = 4 → s.dev.mode ≠ mIDLE → s.dev.mode ≠ mDORMANT → s.dev.pwr.entering = none → u.prior.toNat ≤ 3 →
      (∃ t, exec .usbResume s = .next t ∧ t.dev.usbState = u.prior.toNat ∧ t.dev.g USB_STAT.RWPEND = 0 ∧ t.dev.usb.rwReason = none ∧
        t.dev.usb.drivingK = false ∧ stays t (st :: USB_WAKEMERGE.base :: noticeRegs) ∧ t.dev.g USB_WAKEMERGE =
          (if u.rwReason.isSome && !u.drivingK then min (s.dev.g USB_WAKEMERGE + 1) 0xFFFFFFFF else s.dev.g USB_WAKEMERGE)) ∧
      (u.rwReason.isSome → exec (.remoteWake true) s = exec .usbResume s) ∧
      (∀ r : BitVec 4, u.rwReason = some r → u.drivingK = false →
        ∃ t, exec (.remoteWake false) s = .next t ∧ t.dev.usb = { u with drivingK := true } ∧ t.dev.g USB_WAKE.REASON = r.toNat ∧
          t.dev.g USB_RWAKE = min (s.dev.g USB_RWAKE + 1) 0xFFFFFFFF ∧ stays t [USB_RWAKE.base, USB_WAKE.REASON.base])) ∧
    (s.dev.on USB_STAT.CONN = true → ∃ t, exec .usbPacketError s = .next t ∧ t.dev.usb = u ∧
      t.dev.g USB_RXERR = min (s.dev.g USB_RXERR + 1) 0xFFFFFFFF ∧ stays t [USB_RXERR.base])

/-- A start of frame captures the Breath and gives feedback; OUT frames take their places; MIDI messages become words, discovery is answered, REGWR writes: In a configured running port: START_OF_FRAME captures the position, applies waiting alternate settings and hands over the IN frames; every eighth one at high speed shows F, the Breath's advance over 64 microframes plus 8 x (OUTLAT - FILL) within 656. The first OUT frame takes the next whole position plus OUTLAT; a broken length counts USB_AFMT. A note on, as a USB MIDI 1.0 packet or as a MIDI 2.0 packet, becomes one NOTE_ON word for its bound Part; reserved code indexes count USB_MIDIERR, other message types EVS_IGNORED. The first JR timestamp anchors its group at JRDLY. Endpoint, configuration and block requests are answered on EP3. REGWR writes one permitted register, else counts MIDI_SYXERR. EP5 carries up to 8 notices, oldest first. -/
def Obligations.UsbCarriesAudioAndMidi : Prop :=
  ∀ s : State, s.dev.usbState = 3 → s.dev.running = true → s.dev.on BRT_STAT.RUNNING = true →
    let u := s.dev.usb
    let stays (t : State) (regs : List Nat) : Prop := OnlyUsb s.dev t.dev ∧ SameRegs s.dev t.dev regs ∧ SameOutside s t
    let words (t : State) (w : Roari) : Prop := t.dev.evs = { s.dev.evs with usbQ := s.dev.evs.usbQ ++ [w] } ∧ t.dev.usb = u ∧
      SameRegs s.dev t.dev [] ∧ SameOutside s t ∧ { t.dev with evs := s.dev.evs } = s.dev
    (s.dev.brtSrc ≠ srcUSB → u.fifo = [] → u.next = none →
      (u.altPend = [] → s.dev.on USB_STAT.AOUT = false →
        ∃ t, exec .startOfFrame s = .next t ∧ t.dev.usb = { u with sof := (s.dev.brt.pos :: u.sof).take 65, sofs := u.sofs + 1, inReady := u.inFrames, inFrames := [] } ∧
          stays t [USB_AFILL.base, USB_AUNDER.base]) ∧
      (∀ a : Byte, a.toNat < 2 → u.altPend = [(1, a)] → s.dev.g USB_STAT.SPEED = 2 → (u.sofs + 1) % 8 ≠ 0 →
        ∃ t, exec .startOfFrame s = .next t ∧ t.dev.g USB_STAT.AOUT = a.toNat ∧ t.dev.usb.altPend = [] ∧ t.dev.usb.fifo = [] ∧
          stays t [USB_STAT.AOUT.base, USB_AFILL.base, USB_AUNDER.base]) ∧
      (∀ old : Pos, u.altPend = [] → s.dev.on USB_STAT.AOUT = true → s.dev.g USB_STAT.SPEED = 2 → (u.sofs + 1) % 8 = 0 → u.sof[63]? = some old →
        ∃ t, exec .startOfFrame s = .next t ∧ t.dev.g USB_FB = (BitVec.ofInt 32 ((s.dev.brt.pos - old).toInt / 64 +
            clampI (-656) 656 (8 * ((s.dev.g USB_ACFG.OUTLAT : Int) - 0)))).toNat ∧
          stays t [USB_FB.base, USB_AFILL.base, USB_AUNDER.base])) ∧
    (∀ l : List Byte, s.dev.on USB_STAT.AOUT = true → 1 ≤ u.outCh →
      (l.length % (4 * u.outCh) ≠ 0 → ∃ t, exec (.audioOutPacket l) s = .next t ∧ t.dev.usb = u ∧
        t.dev.g USB_AFMT = min (s.dev.g USB_AFMT + 1) 0xFFFFFFFF ∧ stays t [USB_AFMT.base]) ∧
      (l.length = 4 * u.outCh → u.fifo = [] → u.next = none → ∃ t, exec (.audioOutPacket l) s = .next t ∧
        t.dev.usb = { u with fifo := [(List.range u.outCh).map (fun i => slotCode (BitVec.ofNat 32 (fieldAt l (4 * i) 4)))], next := some (whole (ceilPos s.dev.brt.pos) + s.dev.g USB_ACFG.OUTLAT) } ∧
        t.dev.g USB_AFILL = 1 ∧ stays t [USB_AFILL.base, USB_AUNDER.base])) ∧
    (s.dev.on USB_STAT.AIN = true → ∃ t, exec .audioInPacket s = .next t ∧ t.dev.usb = { u with inSent := u.inReady, inReady := [] } ∧ stays t []) ∧
    (∀ grp ch note p : Nat, grp < 16 → ch < 16 → note < 128 → s.dev.boundParts inUSB grp ch = [p] → s.dev.room = true →
      (∀ v : Nat, 1 ≤ v → v < 128 → s.dev.g USB_STAT.MALT = 0 →
        ∃ t, exec (.usbMidiEventPacket (BitVec.ofNat 32 (grp * 16 + 9 + (0x90 + ch) * 2 ^ 8 + note * 2 ^ 16 + v * 2 ^ 24))) s = .next t ∧
          words t (roariOf 0 opNOTE_ON p (note * 512) (widen7 v) (note * 512))) ∧
      (∀ v : Nat, v < 65536 → s.dev.g USB_STAT.MALT = 1 → (s.dev.evs.jr.getD grp JrAnchor.zero).next = none →
        ∃ t, exec (.universalMidiPacket [BitVec.ofNat 32 (4 * 2 ^ 28 + grp * 2 ^ 24 + (0x90 + ch) * 2 ^ 16 + note * 2 ^ 8),
            BitVec.ofNat 32 (v * 65536)]) s = .next t ∧ words t (roariOf 0 opNOTE_ON p (note * 512) v (note * 512)))) ∧
    (∀ pkt : Word, s.dev.room = true → s.dev.g USB_STAT.MALT = 0 → pkt.toNat % 16 < 2 →
      ∃ t, exec (.usbMidiEventPacket pkt) s = .next t ∧ t.dev.usb = u ∧ t.dev.g USB_MIDIERR = min (s.dev.g USB_MIDIERR + 1) 0xFFFFFFFF ∧
        stays t [USB_MIDIERR.base]) ∧
    (∀ w : Word, s.dev.room = true → s.dev.g USB_STAT.MALT = 1 → w.toNat / 2 ^ 28 = 5 →
      ∃ t, exec (.universalMidiPacket [w, 0, 0, 0]) s = .next t ∧ t.dev.usb = u ∧ t.dev.g EVS_IGNORED = min (s.dev.g EVS_IGNORED + 1) 0xFFFFFFFF ∧
        stays t [EVS_IGNORED.base]) ∧
    (s.dev.g USB_STAT.MALT = 1 →
      (∀ (grp : BitVec 4) (ts : Half), s.dev.on EVS_CTL.JREN = true → s.dev.evs.jr.length = 16 →
        s.dev.evs.jr.getD grp.toNat JrAnchor.zero = JrAnchor.zero →
        let at_ := s.dev.brt.pos + posOf (s.dev.g EVS_CTL.JRDLY)
        ∃ t, exec (.jrTimestamp grp ts) s = .next t ∧ t.dev.evs.jr = setAt s.dev.evs.jr grp.toNat ⟨true, ts, 0, at_, some at_⟩ ∧
          { t.dev with evs := { t.dev.evs with jr := s.dev.evs.jr } } = s.dev ∧ SameOutside s t) ∧
      (∃ t, exec (.endpointDiscovery 1) s = .next t ∧ t.dev.usb = { u with ep3 := [0xF0010101, 0x81000302, 0, 0] } ∧ stays t []) ∧
      (∀ (pr : Byte) (jr : Bool), ∃ t, exec (.streamConfigurationRequest pr jr) s = .next t ∧ t.dev.usb =
        { u with ep3 := [BitVec.ofNat 32 (0xF0060000 + pr.toNat * 256 + if jr then 2 else 0), 0, 0, 0] } ∧ stays t []) ∧
      (∃ t, exec (.functionBlockDiscovery 0 1) s = .next t ∧ t.dev.usb = { u with ep3 := [0xF0118001, 0x00100000, 0, 0] } ∧ stays t [])) ∧
    (∀ (a v : Word), s.dev.on MIDI_SYX.EN = true →
      (a = 0x40019030 → ∃ t, exec (.regwr a v) s = .next t ∧ t.dev.g BLW_MRIDX = v.toNat % 1024 ∧ t.dev.usb = u ∧ stays t [BLW_MRIDX.base]) ∧
      (loadable a.toNat = false → a ≠ 0x40021000 → ∃ t, exec (.regwr a v) s = .next t ∧ t.dev.usb = u ∧
        t.dev.g MIDI_SYXERR = min (s.dev.g MIDI_SYXERR + 1) 0xFFFFFFFF ∧ stays t [MIDI_SYXERR.base])) ∧
    (u.notices ≠ [] → ∃ t, exec .noticePacket s = .next t ∧ t.dev.usb = { u with ep5 := u.notices.take 8, notices := u.notices.drop 8 } ∧ stays t [])

/-- A vendor command acts on its whole range and is answered with its status; a range outside the table acts on nothing; a console frame carries the lock exchange: In a configured running port with room in the event store: REG_READ of a register is answered OK with its value, REG_WRITE writes it; MEM_READ and MEM_WRITE of a range in a bank that the USB engine may use return and store exactly its bytes; LOCK carries the message to the lock agent and its reply back. A misaligned address is answered RANGE, too little data LENGTH, each counted in USB_VCMDERR with no other effect but the response. A console frame on UART1 in console mode with the right CRC is answered by a frame with the lock agent's reply; one with a wrong CRC only counts LCK_FRAMEERR. -/
def Obligations.VendorCommandsAreAnswered : Prop :=
  ∀ s : State,
    (s.dev.vendorUp = true → ∀ seq : Half,
      let u := s.dev.usb
      let said (t : State) (cmd status addr : Nat) (data : List Byte) : Prop := SameOutside s t ∧
        t.dev.usb = { u with ep4 := u.ep4 ++ ([BitVec.ofNat 8 cmd, BitVec.ofNat 8 status] ++ leBytes 2 seq.toNat ++ leBytes 4 addr ++ leBytes 4 data.length ++ leBytes 4 0 ++ data) }
      let fails (c : Instr) (cmd status addr : Nat) : Prop := ∃ t, exec c s = .next t ∧ said t cmd status addr [] ∧
        t.dev.g USB_VCMDERR = min (s.dev.g USB_VCMDERR + 1) 0xFFFFFFFF ∧ SameRegs s.dev t.dev [USB_VCMDERR.base] ∧ OnlyUsb s.dev t.dev
      ((s.dev.reg BLW_MRIDX.base).toNat < 1024 → ∃ t, exec (.regRead seq 0x40019030 4) s = .next t ∧
        said t 1 0 0x40019030 (leBytes 4 (s.dev.g BLW_MRIDX)) ∧ SameRegs s.dev t.dev [] ∧ OnlyUsb s.dev t.dev) ∧
      (∀ v : Word, ∃ t, exec (.regWrite seq 0x40019030 4 (leBytes 4 v.toNat)) s = .next t ∧ said t 2 0 0x40019030 [] ∧
        t.dev.g BLW_MRIDX = v.toNat % 1024 ∧ SameRegs s.dev t.dev [BLW_MRIDX.base] ∧ OnlyUsb s.dev t.dev) ∧
      (∀ a n : Word, a.toNat % 4 ≠ 0 → fails (.regRead seq a n) 1 2 a.toNat ∧ fails (.memRead seq a n) 3 2 a.toNat ∧
        ∀ l : List Byte, fails (.regWrite seq a n l) 2 2 a.toNat ∧ fails (.memWrite seq a n l) 4 2 a.toNat) ∧
      fails (.regWrite seq 0x40019030 4 []) 2 5 0x40019030 ∧
      (∀ (a n : Word) (l : List Byte), memRange a.toNat n.toNat = true → a.toNat < bankEnd → s.dev.bankMay 20 (bankOf a.toNat) true = true →
        s.dev.bnk.hand = [] → s.dev.bnk.poison = [] →
        (∃ t, exec (.memRead seq a n) s = .next t ∧ said t 3 0 a.toNat (memBytes s.dev.bnk.mem a.toNat n.toNat) ∧ t.dev.bnk = s.dev.bnk ∧
          SameRegs s.dev t.dev [] ∧ OnlyUsb s.dev t.dev) ∧
        (l.length = n.toNat → ∃ t, exec (.memWrite seq a n l) s = .next t ∧ said t 4 0 a.toNat [] ∧ Placed s.dev t.dev a.toNat l ∧
          SameRegs s.dev t.dev [] ∧ { t.dev with regs := s.dev.regs, usb := s.dev.usb, bnk := s.dev.bnk } = s.dev)) ∧
      (s.dev.lockUp = true → s.dev.boot.done = true → ∃ t, exec (.lock seq 2 [1, 0]) s = .next t ∧
        said t 5 0 0 ([1, 0, 0, 0] ++ s.dev.getState) ∧ SameRegs s.dev t.dev [])) ∧
    (s.dev.on UART_CTL.MODE 1 = false → s.dev.lockUp = true → s.dev.boot.done = true → s.dev.uart.length = 2 →
      ((s.dev.ser 1).frame = consoleWrap 1 [1, 0] → ∃ t, exec (.consoleFrame false) s = .next t ∧ (t.dev.ser 1).frame = [] ∧
        (t.dev.ser 1).sent = consoleWrap 1 ([1, 0, 0, 0] ++ s.dev.getState) ∧ t.dev.ser 0 = s.dev.ser 0 ∧ SameRegs s.dev t.dev [] ∧ SameOutside s t) ∧
      (∀ c : List Byte, c.length = 4 → c ≠ leBytes 4 (crc32 [1, 2, 0, 1, 0]) → (s.dev.ser 1).frame = [0xA5, 1, 2, 0, 1, 0] ++ c →
        ∃ t, exec (.consoleFrame false) s = .next t ∧ (t.dev.ser 1).frame = [] ∧ (t.dev.ser 1).sent = (s.dev.ser 1).sent ∧
          t.dev.g LCK_FRAMEERR = min (s.dev.g LCK_FRAMEERR + 1) 0xFFFFFFFF ∧ OnlyUart s.dev t.dev 1 ∧ SameRegs s.dev t.dev [LCK_FRAMEERR.base] ∧
          SameOutside s t))

/-- MIDI bytes drive the running status, a received character enters its FIFO or sets OE, DATA reads clear the flags that STAT showed, the head is sent: In a running device that is not going to sleep, receiver on. UART0 in MIDI mode: a channel status byte sets the running status, a data byte without one counts UART0_NOSTAT, a byte of a note on completes it as one word for its bound Part, a framing error counts and ends the status. In general or host mode a good character enters the receive FIFO, at 16 bytes it is dropped, sets OE and counts it. A STAT read returns the flags; a DATA read gives the oldest byte and clears the flags that STAT has returned. A byte written enters the transmit FIFO, or at 16 bytes counts TXDROP; UART_TRANSMIT_CHARACTER sends the oldest. Nothing else of the device changes. -/
def Obligations.UartsReceiveAndSend : Prop :=
  ∀ (s : State) (u : BitVec 1), s.dev.running = true → s.dev.pwr.entering = none → s.dev.uart.length = 2 →
    let n := u.toNat
    let p := s.dev.ser n
    let stays (t : State) (regs : List Nat) : Prop := OnlyUart s.dev t.dev n ∧ SameRegs s.dev t.dev regs ∧ SameOutside s t
    let read (t : State) (v : Nat) : Prop := t.dev.hrp = { s.dev.hrp with rdata := BitVec.ofNat 64 v } ∧
      { t.dev with uart := s.dev.uart, hrp := s.dev.hrp, regs := s.dev.regs } = s.dev ∧ SameRegs s.dev t.dev [] ∧
      (∀ m, m ≠ n → t.dev.ser m = s.dev.ser m) ∧ SameOutside s t
    (s.dev.on UART_CTL.RXEN 0 = true → s.dev.on UART_CTL.MODE 0 = false → s.dev.on HRP_WAKE.MIDI = false → s.dev.on USB_RWEN.MIDI = false → n = 0 →
      (∀ b : Byte, 0x80 ≤ b.toNat → b.toNat < 0xF0 → ∃ t, exec (.uartReceiveCharacter 0 b false false false) s = .next t ∧
        t.dev.ser 0 = { p with last := b, status := some b, data := [], syx := none } ∧ stays t []) ∧
      (∀ b : Byte, b.toNat < 0x80 → p.syx = none → p.status = none → ∃ t, exec (.uartReceiveCharacter 0 b false false false) s = .next t ∧
        t.dev.ser 0 = { p with last := b } ∧ t.dev.g UART0_NOSTAT = min (s.dev.g UART0_NOSTAT + 1) 0xFFFFFFFF ∧ stays t [UART0_NOSTAT.base]) ∧
      (∀ (b note v : Byte) (k : Nat), 0x90 ≤ b.toNat → b.toNat < 0xA0 → note.toNat < 0x80 → 0 < v.toNat → v.toNat < 0x80 → p.syx = none →
        p.status = some b → p.data = [note] → s.dev.boundParts inUART 0 (b.toNat % 16) = [k] →
        let w := roariOf 0 opNOTE_ON k (note.toNat * 512) (widen7 v.toNat) (note.toNat * 512)
        s.dev.canTake w = true →
        ∃ t, exec (.uartReceiveCharacter 0 v false false false) s = .next t ∧ t.dev.ser 0 = { p with last := v, data := [] } ∧
          t.dev.evs = { s.dev.evs with uartQ := s.dev.evs.uartQ ++ [w] } ∧ SameRegs s.dev t.dev [] ∧ SameOutside s t ∧
          { t.dev with evs := s.dev.evs, uart := s.dev.uart, regs := s.dev.regs } = s.dev) ∧
      (∀ b : Byte, ∃ t, exec (.uartReceiveCharacter 0 b true false false) s = .next t ∧
        t.dev.ser 0 = { p with fe := true, last := b, status := none, data := [], syx := none } ∧
        t.dev.g UART_FECNT 0 = min (s.dev.g UART_FECNT 0 + 1) 0xFFFFFFFF ∧ stays t [UART_FECNT.off 0])) ∧
    (s.dev.on UART_CTL.RXEN n = true → s.dev.on UART_CTL.MODE n = true → s.dev.on UART_CTL.DBITS n = true → ∀ b : Byte,
      (p.rx.length < 16 → ∃ t, exec (.uartReceiveCharacter u b false false false) s = .next t ∧
        t.dev.ser n = { p with last := b, rx := p.rx ++ [b] } ∧ stays t []) ∧
      (16 ≤ p.rx.length → ∃ t, exec (.uartReceiveCharacter u b false false false) s = .next t ∧ t.dev.ser n = { p with last := b, oe := true } ∧
        t.dev.g UART_OECNT n = min (s.dev.g UART_OECNT n + 1) 0xFFFFFFFF ∧ stays t [UART_OECNT.off n])) ∧
    (∀ ag : Agent,
      (∃ t, exec (.uartStatRead ag u) s = .next t ∧ t.dev.ser n = { p with seen := BitVec.ofNat 4 p.flags } ∧ read t (p.stat % 2 ^ 32)) ∧
      (∀ (b : Byte) (l : List Byte), s.dev.on UART_CTL.MODE n = true → p.rx = b :: l →
        ∃ t, exec (.uartDataRead ag u) s = .next t ∧ read t b.toNat ∧ t.dev.ser n =
          { p with rx := l, fe := p.fe && !p.seen.getLsbD 0, pe := p.pe && !p.seen.getLsbD 1, oe := p.oe && !p.seen.getLsbD 2, brk := p.brk && !p.seen.getLsbD 3, seen := 0 }) ∧
      (∀ b : Byte, n = 0 ∨ s.dev.on UART_CTL.MODE n = true → s.dev.mayWrite ag 0x1E808 = true →
        (p.tx.length < 16 → ∃ t, exec (.uartDataWrite ag u b) s = .next t ∧ t.dev.ser n = { p with tx := p.tx ++ [b] } ∧ stays t []) ∧
        (16 ≤ p.tx.length → ∃ t, exec (.uartDataWrite ag u b) s = .next t ∧ t.dev.ser n = p ∧
          t.dev.g UART_TXDROP n = min (s.dev.g UART_TXDROP n + 1) 0xFFFFFFFF ∧ stays t [UART_TXDROP.off n]))) ∧
    (∀ (b : Byte) (l : List Byte), s.dev.on UART_CTL.TXEN n = true → p.tx = b :: l →
      ∃ t, exec (.uartTransmitCharacter u) s = .next t ∧ t.dev.ser n = { p with tx := l, sent := [b] } ∧ stays t [])

/-- A low half snapshots the high one and has the read's effects; a held low half commits with its high half; RES words consume, other words lock their copy: While the host is not marked asleep and the port answers, for every assigned register but the exceptions of R617: a read of the low half returns it, keeps the high half under the register's tag and has the read's effects (a counter clears); the high half comes from that snapshot or from the register and has no effect. A written low half is held, a different one held before dropped with HALFDROP; the high half of the same register commits both, without a held half RW fields of the low half stay. Unassigned offsets read 0 and set UNMAP. A RES word's read consumes the visible copy, another word's locks it, and the lock's timeout shows a pending result as torn and counts HRP_RTEAR. In IDLE and DORMANT reads return 0 and writes do nothing. -/
def Obligations.HostReadsAndWritesHalves : Prop :=
  ∀ (s : State) (off : BitVec 21),
    let o := off.toNat / 4 * 4
    let tag : BitVec 21 := BitVec.ofNat 21 o
    let rests (t : State) (regs : List Nat) : Prop := { t.dev with hrp := s.dev.hrp, regs := s.dev.regs } = s.dev ∧ SameRegs s.dev t.dev regs ∧ SameOutside s t
    let plain := mapped o = true ∧ isMbx o = false ∧ isUartData o = false ∧ o ≠ 0x1F840 ∧ o ≠ 0x1F844
    (s.dev.hostUp = true → s.dev.on HRP_WAKE.HSLEEP = false → s.dev.on HRP_WAKE.DWAKE = false → s.dev.hrp.groups.length = 5 →
      (plain → exec (.hostLowHalfRead off) s = .next { s with dev :=
        { s.dev.readEffect o with hrp := { (s.dev.readEffect o).hrp with hd := lowHalf (s.dev.look o), snapTag := some tag, snap := highHalf (s.dev.look o) } } }) ∧
      (o = BLW_TXPKT.base → ∃ t, exec (.hostLowHalfRead off) s = .next t ∧ t.dev.hrp.hd.toNat = s.dev.g BLW_TXPKT % 65536 ∧
        t.dev.g BLW_TXPKT = 0 ∧ rests t [BLW_TXPKT.base]) ∧
      (plain → s.dev.snap64 o = none → exec (.hostHighHalfRead off) s = .next { s with dev := { s.dev with
        hrp := { s.dev.hrp with hd := if s.dev.hrp.snapTag = some tag then s.dev.hrp.snap else highHalf (s.dev.look o) } } }) ∧
      (∀ x : Half, plain → ∃ t, exec (.hostLowHalfWrite off x 3) s = .next t ∧ t.dev.hrp = { s.dev.hrp with held := some (tag, x) } ∧
        (∀ h ∈ s.dev.hrp.held, h.1 ≠ tag → t.dev.g HRP_STAT.HALFDROP = 1) ∧
        rests t (if s.dev.hrp.held = none ∨ s.dev.hrp.held.map (·.1) = some tag then [] else [HRP_STAT.HALFDROP.base])) ∧
      (∀ x lo : Half, o = BLW_MRIDX.base → s.dev.running = true →
        (s.dev.hrp.held = some (tag, lo) → ∃ t, exec (.hostHighHalfWrite off x 3) s = .next t ∧ t.dev.g BLW_MRIDX = lo.toNat % 1024 ∧
          t.dev.hrp = { s.dev.hrp with held := none } ∧ rests t [BLW_MRIDX.base]) ∧
        (s.dev.hrp.held = none → ∃ t, exec (.hostHighHalfWrite off x 3) s = .next t ∧ t.dev.g BLW_MRIDX = s.dev.g BLW_MRIDX ∧
          t.dev.hrp = s.dev.hrp ∧ rests t [BLW_MRIDX.base])) ∧
      (o < 0x100000 → mapped o = false →
        (∃ t, exec (.hostLowHalfRead off) s = .next t ∧ t.dev.hrp.hd = 0 ∧ t.dev.g HRP_STAT.UNMAP = 1 ∧ rests t [HRP_STAT.UNMAP.base]) ∧
        (∀ (x : Half) (be : BitVec 2), be ≠ 0 → ∃ t, exec (.hostLowHalfWrite off x be) s = .next t ∧ t.dev.hrp = s.dev.hrp ∧
          t.dev.g HRP_STAT.UNMAP = 1 ∧ rests t [HRP_STAT.UNMAP.base])) ∧
      (∀ g : Group,
        let G := s.dev.grp (Group.idx g)
        (∃ t, exec (.resWordRead g) s = .next t ∧ t.dev.hrp.hd = lowHalf (G.res (Group.idx g)) ∧ t.dev.grp (Group.idx g) = G.consume ∧
          (G.locked = false → (t.dev.grp (Group.idx g)).words = G.words ∧ (t.dev.grp (Group.idx g)).rdy = false ∧ (t.dev.grp (Group.idx g)).torn = false) ∧
          (∀ i, i ≠ (Group.idx g) → t.dev.grp i = s.dev.grp i) ∧ rests t []) ∧
        (∀ w : BitVec 5, ∃ t, exec (.resultGroupRead g w) s = .next t ∧ t.dev.grp (Group.idx g) = { G with locked := true } ∧
          t.dev.hrp.hd = lowHalf (G.words.getD (w.toNat % [32, 16, 2, 16, 3].getD (Group.idx g) 1) 0) ∧ (∀ i, i ≠ (Group.idx g) → t.dev.grp i = s.dev.grp i) ∧ rests t []) ∧
        (∀ r : List Word × Byte × Word, G.locked = true → G.pend = some r → ∃ t, exec (.resultLockTimeout g) s = .next t ∧
          (t.dev.grp (Group.idx g)).words = r.1 ∧ (t.dev.grp (Group.idx g)).rseq = r.2.1 ∧ (t.dev.grp (Group.idx g)).torn = true ∧ (t.dev.grp (Group.idx g)).rdy = true ∧
          (t.dev.grp (Group.idx g)).locked = false ∧ (∀ i, i ≠ (Group.idx g) → t.dev.grp i = s.dev.grp i) ∧
          t.dev.g HRP_RTEAR = min (s.dev.g HRP_RTEAR + 1) 0xFFFFFFFF ∧ rests t [HRP_RTEAR.base]))) ∧
    (s.dev.mode = mIDLE ∨ s.dev.mode = mDORMANT → ∀ (x : Half) (be : BitVec 2),
      exec (.hostLowHalfWrite off x be) s = .next s ∧ exec (.hostHighHalfWrite off x be) s = .next s ∧
      ∀ c ∈ [Instr.hostLowHalfRead off, .hostHighHalfRead off],
        exec c s = .next { s with dev := { s.dev with hrp := { s.dev.hrp with hd := 0 } } })

/-- The mailbox latch submits at its last byte; the aperture reads its line and buffers its writes; the notice read removes the head; the wake pins clear HSLEEP: In a running device whose host is not marked asleep: a half written into the mailbox latch lands there; the last one appends the word, or at a full mailbox counts HRP_MBXREF. An aperture read returns the line's word, locks the copy and starts a fill for another row; a write enters the write buffer or, at 16, sets WOVF; performed on a bank that the host may write it stores exactly its bytes; a completed fill makes the row's bytes a new result. REFRESH and a write of HRP_APBASE start a fill, HRP_CXSEL empties the export group. NOTICE_READ moves the head into the holding register. HWAKE of an awake device clears HSLEEP and releases DWAKE_N with its notice; DWAKE_ASSERT drives it with the reason of the prepared wake. -/
def Obligations.MailboxApertureAndWakesWork : Prop :=
  ∀ s : State, s.dev.running = true → s.dev.hrp.groups.length = 5 →
    let h := s.dev.hrp
    let rests (t : State) (regs : List Nat) : Prop := { t.dev with hrp := h, regs := s.dev.regs } = s.dev ∧ SameRegs s.dev t.dev regs ∧ SameOutside s t
    (s.dev.on HRP_WAKE.HSLEEP = false → s.dev.on HRP_WAKE.DWAKE = false →
      (∀ (i : BitVec 3) (x : Half), h.mbxLatch.length = 16 →
        let l := setAt (setAt h.mbxLatch (2 * i.toNat) (BitVec.ofNat 8 x.toNat)) (2 * i.toNat + 1) (BitVec.ofNat 8 (x.toNat / 256))
        (i ≠ 7 → ∃ t, exec (.mailboxWrite i x 3) s = .next t ∧ t.dev.hrp = { h with mbxLatch := l } ∧ rests t []) ∧
        (i = 7 → h.mbx.length < s.dev.rowsLeft 5 512 → ∃ t, exec (.mailboxWrite i x 3) s = .next t ∧
          t.dev.hrp = { h with mbxLatch := l, mbx := h.mbx ++ [roariBytes l] } ∧ rests t [HRP_MBXSTAT.COUNT.base]) ∧
        (i = 7 → s.dev.rowsLeft 5 512 ≤ h.mbx.length → ∃ t, exec (.mailboxWrite i x 3) s = .next t ∧ t.dev.hrp = { h with mbxLatch := l } ∧
          t.dev.g HRP_MBXSTAT.REFUSED = 1 ∧ t.dev.g HRP_MBXREF = min (s.dev.g HRP_MBXREF + 1) 0xFFFFFFFF ∧
          rests t [HRP_MBXSTAT.COUNT.base, HRP_MBXREF.base])) ∧
      (∀ off : BitVec 20,
        let a := s.dev.apAddr (off.toNat / 2 * 2)
        let row := a / 64 * 64
        let G := s.dev.grp gAperture
        let w := G.words.getD (a % 64 / 4) 0
        (apKind a = 1 ∨ apKind a = 2 → ∃ t, exec (.apertureRead off) s = .next t ∧ t.dev.hrp.hd = (if a % 4 = 0 then lowHalf w else highHalf w) ∧
          t.dev.grp gAperture = { G with locked := true } ∧ t.dev.hrp.fill = (if s.dev.buffered = some row then h.fill else some row) ∧
          t.dev.hrp.line = h.line ∧ t.dev.hrp.wbuf.length = h.wbuf.length ∧ rests t []) ∧
        (∀ x : Half, apKind a ≠ 0 →
          (h.wbuf.length < 16 → h.line = none → h.fill = none → ∃ t, exec (.apertureWrite off x 3) s = .next t ∧ t.dev.hrp =
            { h with wbuf := h.wbuf ++ [⟨a, [(a, BitVec.ofNat 8 x.toNat), (a + 1, BitVec.ofNat 8 (x.toNat / 256))], false⟩] } ∧ rests t []) ∧
          (16 ≤ h.wbuf.length → ∃ t, exec (.apertureWrite off x 3) s = .next t ∧ t.dev.hrp = h ∧ t.dev.g HRP_STAT.WOVF = 1 ∧
            rests t [HRP_STAT.WOVF.base]))) ∧
      (∀ (n : BitVec 64) (q : List (BitVec 64)), s.dev.not.q = n :: q → ∃ t, exec (.noticeRead false) s = .next t ∧
        t.dev.not = { s.dev.not with q := q, hold := n } ∧ t.dev.hrp = { h with hd := BitVec.ofNat 16 n.toNat } ∧
        { t.dev with not := s.dev.not, hrp := h } = s.dev ∧ SameOutside s t) ∧
      (s.dev.not.q = [] → ∃ t, exec (.noticeRead false) s = .next t ∧ t.dev.not = { s.dev.not with hold := 0 } ∧ t.dev.hrp = { h with hd := 0 } ∧
        { t.dev with not := s.dev.not, hrp := h } = s.dev ∧ SameOutside s t)) ∧
    (∀ (e : ApWrite) (l : List ApWrite) (a : Nat), h.wbuf = e :: l → e.data.head?.map (·.1) = some a → a + e.data.length ≤ bankEnd →
      bankOf (a + e.data.length - 1) = bankOf a → s.dev.bankMay 19 (bankOf a) true = true → s.dev.bnk.hand = [] → s.dev.bnk.poison = [] →
      ∃ t, exec (.apertureWritePerform false) s = .next t ∧ t.dev.hrp = { h with wbuf := l } ∧ Placed s.dev t.dev a (e.data.map (·.2)) ∧
        SameRegs s.dev t.dev [] ∧ { t.dev with hrp := h, bnk := s.dev.bnk, regs := s.dev.regs } = s.dev ∧ SameOutside s t) ∧
    (∀ row : Nat, h.fill = some row → h.wbuf = [] → h.fresh = [] → row % 64 = 0 → row + 64 ≤ bankEnd → s.dev.bankMay 19 (bankOf row) false = true →
      s.dev.bnk.hand = [] → s.dev.bnk.poison = [] → (s.dev.grp gAperture).locked = false →
      ∃ t, exec (.apertureFillComplete []) s = .next t ∧ t.dev.hrp.line = some (row, memBytes s.dev.bnk.mem row 64) ∧ t.dev.hrp.fill = none ∧
        (t.dev.grp gAperture).words = rowWords (memBytes s.dev.bnk.mem row 64) ∧ (t.dev.grp gAperture).rdy = true ∧
        (t.dev.grp gAperture).rseq = (s.dev.grp gAperture).count + 1 ∧ rests t []) ∧
    (∀ (ag : Agent) (v : Word), s.dev.mayWrite ag 0x1F808 = true →
      (∃ t, exec (.refresh ag) s = .next t ∧ t.dev.hrp.fill = some (s.dev.lineRow / 64 * 64) ∧ t.dev.hrp.fresh = [] ∧ t.dev.hrp.line = h.line ∧ rests t []) ∧
      (∃ t, exec (.hrpApbaseWrite ag v) s = .next t ∧ (t.dev.reg HRP_APBASE.base).toNat / 2 ^ 20 = v.toNat / 2 ^ 20 ∧
        t.dev.hrp.fill = some (v.toNat / 2 ^ 20 * 2 ^ 20) ∧ t.dev.hrp.line = h.line ∧ rests t [HRP_APBASE.base]) ∧
      (∃ t, exec (.hrpCxselWrite ag v) s = .next t ∧ t.dev.g HRP_CXSEL.CORE = v.toNat % 16 ∧
        t.dev.grp gChanter = { GroupSt.reset 16 with count := (s.dev.grp gChanter).count } ∧
        (∀ i, i ≠ gChanter → t.dev.grp i = s.dev.grp i) ∧ rests t [HRP_CXSEL.CORE.base])) ∧
    (s.dev.pwr.entering = none → s.dev.on USB_RWEN.HWAKE = false →
      (s.dev.on HRP_WAKE.DWAKE = false → h.dwakePrep = none → ∃ t, exec .hwake s = .next t ∧ t.dev.g HRP_WAKE.HSLEEP = 0 ∧
        t.dev.hrp = h ∧ rests t [HRP_WAKE.HSLEEP.base]) ∧
      (s.dev.on HRP_WAKE.DWAKE = true → h.dwakePrep = none → s.dev.not.q.length < s.dev.rowsLeft 6 256 → s.dev.usbState = 0 →
        ∃ t, exec .hwake s = .next t ∧ t.dev.g HRP_WAKE.HSLEEP = 0 ∧ t.dev.g HRP_WAKE.DWAKE = 0 ∧
          t.dev.not.q = s.dev.not.q ++ [noticeWord 16 1 (s.dev.g HRP_WAKE.REASON) s.dev.not.lostNext (s.dev.brt.pos.toNat / 65536)] ∧
          { t.dev with regs := s.dev.regs, not := s.dev.not } = s.dev ∧ SameRegs s.dev t.dev [HRP_WAKE.HSLEEP.base] ∧ SameOutside s t)) ∧
    (∀ r : BitVec 4, h.dwakePrep = some r → s.dev.on HRP_WAKE.HSLEEP = true → s.dev.on HRP_WAKE.DWAKE = false →
      ∃ t, exec .dwakeAssert s = .next t ∧ t.dev.g HRP_WAKE.DWAKE = 1 ∧ t.dev.g HRP_WAKE.REASON = r.toNat ∧ t.dev.hrp = { h with dwakePrep := none } ∧
        t.dev.g HRP_DWAKES = min (s.dev.g HRP_DWAKES + 1) 0xFFFFFFFF ∧ rests t [HRP_WAKE.HSLEEP.base, HRP_DWAKES.base])

/-- Enabling loads CNT from RLD, a zero tick raises its event and reloads or stops, a match acts on the pin, a capture sets OVR over an unread one: For each channel of a running device: TIMER_ENABLE of a stopped channel loads CNT from RLD and runs it, TIMER_DISABLE stops it with CNT kept, an IOMODE that becomes an output takes IOINIT. TIMER_ZERO of a running channel at 0 on the TB clock sets ZF, sets the timer interrupt of the cores that name it and reloads CNT, or with ONESHOT stops it with EN and RUN 0. TIMER_MATCH after a match sets MF and applies MACT. TIMER_CAPTURE of the selected event takes TBASE or CNT into CAP and sets CAPF, over an unread one OVR too; TIMER_CAP_READ gives CAP and clears CAPF. -/
def Obligations.TimersCountAndCapture : Prop :=
  ∀ (s : State) (c : BitVec 3), s.dev.running = true → s.dev.tim.ch.length = 8 →
    let n := c.toNat
    let ch := s.dev.tch n
    let rests (t : State) (regs : List Nat) : Prop := SameRegs s.dev t.dev regs ∧ SameOutside s t ∧ { t.dev with regs := s.dev.regs, tim := s.dev.tim } = s.dev ∧
      t.dev.tim.wdtSub = s.dev.tim.wdtSub ∧ ∀ m, m ≠ n → t.dev.tch m = s.dev.tch m
    (∀ (ag : Agent) (v : Word), s.dev.mayWrite ag 0x1F000 = true → bitsOf v.toNat 3 2 = 0 →
      (s.dev.on TIM_CTL.EN n = false → s.dev.g TIM_CTL.IOMODE n = 0 → bitsOf v.toNat 17 16 = 0 →
        ∃ t, exec (.timerEnable ag c v) s = .next t ∧ t.dev.g TIM_CTL.EN n = 1 ∧ t.dev.g TIM_STAT.RUN n = 1 ∧
          t.dev.g TIM_CNT n = s.dev.g TIM_RLD n ∧ t.dev.tch n = { ch with psc := 0, matchDue := false } ∧
          rests t [TIM_CTL.EN.off n, TIM_CNT.off n, TIM_STAT.RUN.off n]) ∧
      (s.dev.on TIM_CTL.EN n = true → s.dev.g TIM_CTL.IOMODE n = 0 → bitsOf v.toNat 17 16 = 0 →
        ∃ t, exec (.timerDisable ag c v) s = .next t ∧ t.dev.g TIM_CTL.EN n = 0 ∧ t.dev.g TIM_STAT.RUN n = 0 ∧
          t.dev.g TIM_CNT n = s.dev.g TIM_CNT n ∧ t.dev.tch n = ch ∧ rests t [TIM_CTL.EN.off n, TIM_STAT.RUN.off n]) ∧
      (s.dev.g TIM_CTL.EN n = bitsOf v.toNat 0 0 → s.dev.g TIM_CTL.IOMODE n = 0 → bitsOf v.toNat 17 16 ∈ [1, 2] →
        ∃ t, exec (.timerIomodeWrite ag c v) s = .next t ∧ t.dev.g TIM_CTL.IOMODE n = bitsOf v.toNat 17 16 ∧
          (t.dev.tch n).io = v.getLsbD 18 ∧ t.dev.g TIM_CNT n = s.dev.g TIM_CNT n ∧ rests t [TIM_CTL.EN.off n, TIM_STAT.RUN.off n])) ∧
    (s.dev.on TIM_STAT.RUN n = true → s.dev.g TIM_CTL.CLKSRC n = 0 → s.dev.g TIM_CNT n = 0 → s.dev.on TIM_CTL.NZ n = false →
      (n = 7 ∨ s.dev.g TIM_CTL.CLKSRC (n + 1) ≠ 1) →
      ∃ t, exec (.timerZero c) s = .next t ∧ t.dev.g TIM_STAT.ZF n = 1 ∧ (t.dev.tch n).psc = 0 ∧
        t.dev.chn = s.dev.chn.map (fun (k : Core) => if k.pwr && k.tsel.toNat = n then { k with ipend := k.ipend ||| 8 } else k) ∧
        (s.dev.on TIM_CTL.ONESHOT n = true → t.dev.g TIM_CTL.EN n = 0 ∧ t.dev.g TIM_STAT.RUN n = 0 ∧ t.dev.g TIM_CNT n = 0) ∧
        (s.dev.on TIM_CTL.ONESHOT n = false → t.dev.g TIM_CNT n = s.dev.g TIM_RLD n ∧ t.dev.g TIM_STAT.RUN n = 1 ∧
          (t.dev.tch n).matchDue = decide (s.dev.g TIM_RLD n = s.dev.g TIM_MAT n)) ∧
        (s.dev.g TIM_CTL.IOMODE n ≠ 0 → (t.dev.tch n).io = (match s.dev.g TIM_CTL.ZACT n with
          | 0 => ch.io
          | 1 => true
          | 2 => false
          | _ => !ch.io)) ∧
        SameRegs s.dev t.dev [TIM_CTL.EN.off n, TIM_STAT.ZF.off n, TIM_CNT.off n] ∧ SameOutside s t ∧
        { t.dev with regs := s.dev.regs, tim := s.dev.tim, chn := s.dev.chn } = s.dev ∧ ∀ m, m ≠ n → t.dev.tch m = s.dev.tch m) ∧
    (ch.matchDue = true → ∃ t, exec (.timerMatch c) s = .next t ∧ t.dev.g TIM_STAT.MF n = 1 ∧ (t.dev.tch n).matchDue = false ∧
      (s.dev.g TIM_CTL.IOMODE n ≠ 0 → (t.dev.tch n).io = (match s.dev.g TIM_CTL.MACT n with
        | 0 => ch.io
        | 1 => true
        | 2 => false
        | _ => !ch.io)) ∧ rests t [TIM_STAT.MF.off n]) ∧
    (∀ l : Bool, s.dev.g TIM_CTL.IOMODE n = 0 → s.dev.on TIM_CTL.NC n = false →
      let k := s.dev.g TIM_CTL.CSRC n
      let hit := (k = 1 ∧ ch.pad = false ∧ l = true) ∨ (k = 2 ∧ ch.pad = true ∧ l = false) ∨ (k = 3 ∧ ch.pad ≠ l) ∨
        ((k = 7 ∨ k = 8) ∧ s.dev.on BRT_STAT.RUNNING = true ∧ s.dev.on BRT_STAT.PAUSE = false) ∨ (4 ≤ k ∧ k ≤ 13 ∧ k ≠ 7 ∧ k ≠ 8)
      ∃ t, exec (.timerCapture c l) s = .next t ∧ t.dev.tch n = { ch with pad := l } ∧ t.dev.on TIM_STAT.IOLVL n = l ∧
        (hit → t.dev.g TIM_STAT.CAPF n = 1 ∧ t.dev.g TIM_CAP n =
          (if s.dev.on TIM_CTL.CAPSEL n then s.dev.g TIM_CNT n else s.dev.brt.tbase.toNat % 2 ^ 32) ∧
          (s.dev.on TIM_STAT.CAPF n = true → t.dev.g TIM_STAT.OVR n = 1) ∧
          (s.dev.on TIM_STAT.CAPF n = false → t.dev.g TIM_STAT.OVR n = s.dev.g TIM_STAT.OVR n)) ∧
        (¬hit → t.dev.g TIM_CAP n = s.dev.g TIM_CAP n ∧ t.dev.g TIM_STAT.CAPF n = s.dev.g TIM_STAT.CAPF n) ∧
        rests t [TIM_CAP.off n, TIM_STAT.CAPF.off n]) ∧
    (∀ ag : Agent, ∃ t, exec (.timerCapRead ag c) s = .next t ∧ t.dev.g TIM_STAT.CAPF n = 0 ∧ t.dev.hrp = { s.dev.hrp with rdata := BitVec.ofNat 64 (s.dev.g TIM_CAP n) } ∧
      SameRegs s.dev t.dev [TIM_STAT.CAPF.off n] ∧ { t.dev with regs := s.dev.regs, hrp := s.dev.hrp } = s.dev ∧ SameOutside s t)

/-- A kick restarts the count, the expiry warns, the bite enters SAFE or restarts the device; LOCK holds WDT_CTL until a reset; a wrong key is counted: In a running device: the key, or DONE of the named core with KSRC set, restarts an enabled watchdog at TMO and clears WARN; any other key sets BADKEY and counts it. WDT_WARN of an enabled watchdog outside the warn stage sets WARN and counts GRACE. WDT_BITE in the warn stage with ACT 0 sets WRST and repeats start-up (at step 3 or, with no copy to read, in DEFAULTS); with ACT 1 it enters SAFE, EN cleared, or under LOCK counting from TMO again. WDT_LOCK sets LOCK and leaves the rest of WDT_CTL; then a write of WDT_CTL by the host changes nothing. -/
def Obligations.WatchdogWarnsAndBites : Prop :=
  ∀ s : State, s.dev.running = true →
    let rests (t : State) (regs : List Nat) : Prop := SameRegs s.dev t.dev regs ∧ SameOutside s t ∧
      { t.dev with regs := s.dev.regs, tim := { s.dev.tim with wdtSub := t.dev.tim.wdtSub }, not := s.dev.not, hrp := s.dev.hrp, usb := s.dev.usb } =
        { s.dev with tim := { s.dev.tim with wdtSub := t.dev.tim.wdtSub } }
    (∀ k : Kick, s.dev.on WDT_CTL.EN = true →
      (k = .key 0xC35A ∨ (∃ c : BitVec 4, k = .core c ∧ s.dev.on WDT_CTL.KSRC = true ∧ s.dev.g WDT_CTL.KCORE = c.toNat ∧
        (s.dev.core c.toNat).waiting = true ∧ (s.dev.core c.toNat).done = true)) →
      ∃ t, exec (.wdtKick k) s = .next t ∧ t.dev.g WDT_REM = s.dev.g WDT_TMO.TMO ∧ t.dev.g WDT_STAT.WARN = 0 ∧ t.dev.tim.wdtSub = 0 ∧
        rests t [WDT_REM.base, WDT_STAT.WARN.base]) ∧
    (∀ k : Half, k ≠ 0xC35A → ∃ t, exec (.wdtKick (.key k)) s = .next t ∧ t.dev.g WDT_STAT.BADKEY = 1 ∧
      t.dev.g WDT_NBADKEY = min (s.dev.g WDT_NBADKEY + 1) 0xFFFFFFFF ∧ t.dev.tim = s.dev.tim ∧ rests t [WDT_STAT.BADKEY.base, WDT_NBADKEY.base]) ∧
    (s.dev.on WDT_CTL.EN = true → s.dev.on WDT_STAT.WARN = false →
      ∃ t, exec .wdtWarn s = .next t ∧ t.dev.g WDT_STAT.WARN = 1 ∧ t.dev.g WDT_REM = s.dev.g WDT_CTL.GRACE ∧
        rests t (WDT_REM.base :: WDT_STAT.WARN.base :: noticeRegs)) ∧
    (s.dev.on WDT_CTL.EN = true → s.dev.on WDT_STAT.WARN = true →
      (s.dev.on WDT_CTL.ACT = false → ∃ t, exec .wdtBite s = .next t ∧ (t.dev.mode = mBOOT ∨ t.dev.mode = mDEFAULTS) ∧
        t.dev.g WDT_STAT.WRST = 1 ∧ t.dev.rda.voices = [] ∧ t.dev.evs.store = [] ∧ t.dev.brt.tbase = 0 ∧ { t with dev := s.dev } = s) ∧
      (s.dev.on WDT_CTL.ACT = true → ∃ t, exec .wdtBite s = .next t ∧ t.dev.mode = mSAFE ∧
        t.dev.g WDT_STAT.WARN = 0 ∧
        (if s.dev.on WDT_CTL.LOCK then t.dev.g WDT_CTL.EN = 1 ∧ t.dev.g WDT_REM = s.dev.g WDT_TMO.TMO else t.dev.g WDT_CTL.EN = 0))) ∧
    (∀ ag : Agent, s.dev.mayWrite ag 0x1F200 = true → s.dev.on WDT_CTL.LOCK = false → s.dev.g WDT_CTL.GRACE ≠ 0 →
      ∃ t, exec (.wdtLock ag) s = .next t ∧ t.dev.g WDT_CTL.LOCK = 1 ∧ t.dev.g WDT_CTL.EN = s.dev.g WDT_CTL.EN ∧
        t.dev.g WDT_CTL.ACT = s.dev.g WDT_CTL.ACT ∧ t.dev.g WDT_CTL.GRACE = s.dev.g WDT_CTL.GRACE ∧ rests t [WDT_CTL.LOCK.base]) ∧
    (∀ v : Word, s.dev.on WDT_CTL.LOCK = true → exec (.registerWrite .host 0x1F200 v) s = .next s)

/-- A request changes the mode or is refused with its code; IDLE and DORMANT are entered, completed, cancelled and left; voltage, supplies and temperature act: For an agent that may write PWR_CTL in a running device: a request of the table of modes has its effect (SAFE with cause 6 and TC1 to TC3 ended, SERVICE, the settings mode, or BUSY and PRIOR before IDLE and DORMANT), any other sets RQERR to the lowest reason, BUSY first, with its notice, and nothing else. The entry frees voices, ghosts, the spill map and, for DORMANT, the scheduler's words; its completion sets the mode and counts it. A wake returns to PRIOR with the lowest source in WREASON, or to SAFE for a fault that waited; from DORMANT without RET the memories and patches are lost, and a context error restarts the device; during an entry it cancels it. VID_STEP moves CODE by one within CEIL and FLOOR, an alarm by two; BOW and HOT follow their events and 125 degrees enters SAFE. -/
def Obligations.ModesChangeAsRequested : Prop :=
  ∀ s : State,
    let d := s.dev
    let m := d.mode
    let src (v : Nat) : List Nat := match v with
      | 2 => [mSAFE, mSERVICE]
      | 4 => [mRUN, mDEFAULTS, mSERVICE]
      | 7 => [mRUN, mDEFAULTS]
      | _ => [mRUN, mDEFAULTS, mSAFE]
    let sleep (v : Nat) : Prop := v = 5 ∨ v = 6
    let code (v : Nat) : Nat := if d.on PWR_STAT.BUSY then 6 else if m ∉ src v then 1 else if sleep v ∧ d.g BEL_STAT.MSTATE ≠ 2 then 2
      else if sleep v ∧ d.g USB_STAT.STATE ∈ [1, 2, 3] then 3 else if sleep v ∧ d.boot.upd.isSome then 4
      else if v = 7 ∧ (d.g LCK_STAT.SCOPES).testBit 0 = false then 5 else 0
    let told (t : State) (regs : List Nat) : Prop := SameRegs d t.dev (regs ++ noticeRegs) ∧ SameOutside s t
    let more (f : Fld) (t : State) (n : Nat) : Prop := t.dev.g f = min (d.g f + n) 0xFFFFFFFF
    (∀ ag : Agent, d.running = true → d.mayWrite ag 0x21000 = true →
      (∀ c v, (c, v) ∈ [(Instr.reqLeave ag, 2), (.reqSafe ag, 4), (.reqIdle ag, 5), (.reqDormant ag, 6), (.reqService ag, 7)] → code v ≠ 0 →
        ∃ t, exec c s = .next t ∧ t.dev.g PWR_STAT.RQERR = code v ∧ t.dev.mode = m ∧ OnlyUsb d t.dev ∧ told t [PWR_STAT.RQERR.base] ∧
          (d.not.q.length < d.rowsLeft 6 256 →
            t.dev.not.q = d.not.q ++ [noticeWord 18 1 (code v) d.not.lostNext (d.brt.pos.toNat / 65536)])) ∧
      (code 2 = 0 → m = mSERVICE → ∃ t, exec (.reqLeave ag) s = .next t ∧ t.dev.mode = d.settingsMode ∧ OnlyUsb d t.dev ∧ told t [SYS_MODE.MODE.base]) ∧
      (code 2 = 0 → m = mSAFE → (d.on BRT_STAT.RUNNING = true → d.brt.pllLocked = true) → signed 16 (d.g PWR_TEMP.TJ) < 2000 →
        ∃ t, exec (.reqLeave ag) s = .next t ∧ t.dev.mode = d.settingsMode ∧ (t.dev.g BEL_STAT.MREQ).testBit 3 = false ∧
          OnlyUsb d t.dev ∧ told t [SYS_MODE.MODE.base, BEL_STAT.MREQ.base]) ∧
      (code 4 = 0 → ∃ t, exec (.reqSafe ag) s = .next t ∧ t.dev.mode = mSAFE ∧ t.dev.g FLT_STAT.SAFECAUSE = 6 ∧ more FLT_NSAFE t 1 ∧
        (t.dev.g BEL_STAT.MREQ).testBit 3 = true ∧ (∀ x ∈ t.dev.blw.msgs, x.desc.tc = 0 ∨ x.ended.isSome = true) ∧
        (d.g BEL_STAT.MSTATE ≠ 2 → t.dev.rda = d.rda ∧ t.dev.g BEL_STAT.MSTATE = 1) ∧ t.dev.evs = d.evs ∧ t.dev.chn = d.chn ∧
        (d.on CFG_STAT.FLOGNA = false → d.boot.pend.length < 8 → d.on PWR_STAT.BOW = false →
          ∃ e, t.dev.boot.pend = d.boot.pend ++ [e] ∧ e.ftype = 1 ∧ e.stamp = d.brt.pos) ∧ SameOutside s t) ∧
      (∀ c v w, (c, v, w) ∈ [(Instr.reqIdle ag, 5, mIDLE), (.reqDormant ag, 6, mDORMANT)] → code v = 0 →
        ∃ t, exec c s = .next t ∧ t.dev.mode = m ∧ t.dev.g PWR_STAT.BUSY = 1 ∧ t.dev.g PWR_STAT.PRIOR = m ∧
          t.dev.pwr = { d.pwr with entering := some (BitVec.ofNat 3 w), reqBlk := d.blkNum, entered := false } ∧
          { t.dev with regs := d.regs, pwr := d.pwr } = d ∧ SameRegs d t.dev [PWR_STAT.BUSY.base] ∧ SameOutside s t) ∧
      (code 7 = 0 → ∃ t, exec (.reqService ag) s = .next t ∧ t.dev.mode = mSERVICE ∧ OnlyUsb d t.dev ∧ told t [SYS_MODE.MODE.base])) ∧
    (∀ k : BitVec 3, d.pwr.entering = some k → k.toNat = mIDLE ∨ k.toNat = mDORMANT →
      (d.pwr.entered = false → d.pwr.reqBlk < d.blkNum → d.flt.tests = [] →
        ∃ t, exec .powerDownEntry s = .next t ∧ t.dev.rda.voices = [] ∧ t.dev.rda.ghosts = [] ∧ t.dev.val.map = [] ∧
          t.dev.val.withheld = List.range 256 ∧ t.dev.blw.recs = [] ∧ t.dev.blw.done = [] ∧ t.dev.g BLW_CTL.EN = d.g BLW_CTL.EN ∧
          t.dev.pwr.entered = true ∧ t.dev.mode = m ∧ SameOutside s t ∧
          (k.toNat = mIDLE → t.dev.evs.store = d.evs.store ∧ t.dev.evs.panic = d.evs.panic) ∧
          (k.toNat = mDORMANT → t.dev.evs.store = [] ∧ t.dev.evs.panic = [] ∧ more PWR_DISC t (d.evs.store.length + d.evs.panic.length))) ∧
      (d.pwr.entered = true → d.boot.pend = [] →
        ∃ t, exec .idleDormantEntryComplete s = .next t ∧ t.dev.mode = k.toNat ∧ t.dev.g PWR_STAT.BUSY = 0 ∧ t.dev.pwr.entering = none ∧
          SameOutside s t ∧ (k.toNat = mIDLE → more PWR_NIDLE t 1 ∧ { t.dev with regs := d.regs, pwr := d.pwr } = d ∧
            SameRegs d t.dev [SYS_MODE.MODE.base, PWR_STAT.BUSY.base, PWR_NIDLE.base]) ∧
          (k.toNat = mDORMANT → more PWR_NDORM t 1 ∧ t.dev.brt.pllLocked = false))) ∧
    (∀ (w : Byte) (r : Nat) (l : List Nat), d.wakeSources w.toNat = r :: l →
      (w.getLsbD 0 = true → r = 1) ∧ (∀ k ∈ l, r < k) ∧
      (m = mIDLE ∨ m = mDORMANT → ∃ t, exec (.wake w false) s = .next t ∧ t.dev.g PWR_STAT.WREASON = r ∧ t.dev.pwr.crit = none ∧
        t.dev.mode = (if d.pwr.crit = none then d.g PWR_STAT.PRIOR else mSAFE) ∧ SameOutside s t ∧
        (m = mIDLE → t.dev.bnk.mem = d.bnk.mem ∨ d.pwr.crit ≠ none) ∧
        (m = mIDLE → d.pwr.crit = none → t.dev.rda.voices = d.rda.voices) ∧
        (m = mDORMANT → d.on PWR_CTL.RET = false → d.pwr.crit = none → t.dev.g PWR_STAT.LOST = 1 ∧ t.dev.bnk.mem = [] ∧
          ∀ i, i < 32 → t.dev.reg (RDA_PVALID.off i) = 0)) ∧
      (m = mDORMANT → ∃ t, exec (.wake w true) s = .next t ∧ (t.dev.mode = mBOOT ∨ t.dev.mode = mDEFAULTS) ∧ t.dev.brt.tbase = 0 ∧
        { t with dev := d } = s) ∧
      (d.running = true → d.pwr.entering.isSome = true → ∃ t, exec (.wake w false) s = .next t ∧ t.dev.mode = m ∧ t.dev.g PWR_STAT.BUSY = 0 ∧
        t.dev.g PWR_STAT.WREASON = r ∧ more PWR_ABORT t 1 ∧ t.dev.pwr.entering = none ∧ t.dev.rda = d.rda ∧ SameOutside s t)) ∧
    (d.running = true →
      let c := d.g PWR_VID.CODE
      let lo := d.g PWR_VID.CEIL
      let hi := d.g PWR_VID.FLOOR
      let again : Prop := c ≤ lo ∧ ∃ x, d.pwr.lastAlarm = some x ∧ (d.brt.tbase - x).toNat ≤ 100000000
      (∀ b : Bool, ∃ t, exec (.vidStep b) s = .next t ∧ { t.dev with regs := d.regs } = d ∧ SameRegs d t.dev [PWR_VID.CODE.base] ∧ SameOutside s t ∧
        t.dev.g PWR_VID.CODE = if d.on PWR_VID.AUTO = false then c else if b then (if c < hi then c + 1 else c) else (if lo < c then c - 1 else c)) ∧
      (∃ t, exec .voltageAlarm s = .next t ∧ t.dev.g PWR_VID.CODE = max (min c lo) (c - 2) ∧ t.dev.pwr.halved = true ∧
        t.dev.pwr.lastAlarm = some d.brt.tbase ∧ more PWR_VIDALM t 1 ∧ SameOutside s t ∧
        (again → t.dev.mode = mSAFE ∧ t.dev.g FLT_STAT.SAFECAUSE = 4) ∧
        (¬again → OnlyUsb { d with pwr := t.dev.pwr } t.dev ∧ told t [PWR_VID.CODE.base, PWR_VIDALM.base]))) ∧
    exec .clockHalveEnd s = .next { s with dev := { d with pwr := { d.pwr with halved := false } } } ∧
    (m ≠ mRESET → d.on PWR_STAT.BOW = false → ∃ t, exec .brownOutWarning s = .next t ∧ t.dev.g PWR_STAT.BOW = 1 ∧ t.dev.g PWR_STAT.BOWSEEN = 1 ∧
      more PWR_NBOW t 1 ∧ t.dev.mode = m ∧ OnlyUsb d t.dev ∧ told t [PWR_STAT.BOW.base, PWR_NBOW.base]) ∧
    (∃ t, exec .brownOutClear s = .next t ∧ t.dev.g PWR_STAT.BOW = 0 ∧ t.dev.g PWR_STAT.BOWSEEN = d.g PWR_STAT.BOWSEEN ∧
      { t.dev with regs := d.regs } = d ∧ SameRegs d t.dev [PWR_STAT.BOW.base] ∧ SameOutside s t) ∧
    (∀ (tj : Half) (c : Instr), c = .hot tj ∨ c = .temperatureLimit tj → m ≠ mRESET →
      let lim : Int := (d.g PWR_TEMP.THOT : Int) * 16
      let limit : Prop := 2000 ≤ tj.toInt ∧ signed 16 (d.g PWR_TEMP.TJ) < 2000
      ∃ t, exec c s = .next t ∧ t.dev.g PWR_TEMP.TJ = tj.toNat ∧ t.dev.g PWR_TEMP.THOT = d.g PWR_TEMP.THOT ∧ SameOutside s t ∧
        t.dev.g PWR_STAT.HOT = (if lim ≤ tj.toInt then 1 else if tj.toInt ≤ lim - 80 then 0 else d.g PWR_STAT.HOT) ∧
        (limit → t.dev.g FLT_STAT.SAFECAUSE = 3 ∧ (d.running = true → t.dev.mode = mSAFE) ∧
          (m = mIDLE ∨ m = mDORMANT → t.dev.mode = m ∧ t.dev.pwr.crit = some 3)) ∧
        (¬limit → t.dev.mode = m ∧ OnlyUsb d t.dev ∧ told t [PWR_TEMP.TJ.base, PWR_STAT.HOT.base]))

/-- A passed test scores, a failed or LIMIT-reaching one retires its unit and is logged; decay, abort, splits and management writes follow their rules: For a running test with none waiting behind it: a verdict that passes below LIMIT counts FLT_NTRANS and adds to the unit's score, one that fails or brings the score to LIMIT counts FLT_NLAST, with score 0 at LIMIT; the result group takes unit, class, verdict, duration and row. A lasting verdict takes its unit: row or PM row to a spare, bank to DRAINING, lane, core, port or output to RETIRED (no other lane or core with it), monitor to MONRET, PLL to SAFE with cause 1, table row out of use; kinds 3 to 7 append an entry of FTYPE 4. An aborted test is counted and scores nothing. A due score falls by one, an upset one is 0. STATE_SPLIT logs and latches once. MST_WRITE stores the state and releases a latched split. On a work queue, which no fault logic restricts, it takes DST to ENABLED (the model's reading, notes/assumptions/36). -/
def Obligations.SelfTestsEndInVerdicts : Prop :=
  ∀ s : State, s.dev.chn.length = 16 → s.dev.mac.length = 4 → s.dev.hrp.groups.length = 5 →
    let d := s.dev
    let more (f : Fld) (t : State) : Prop := t.dev.g f = min (d.g f + 1) 0xFFFFFFFF
    (∀ (u : UnitId) (step : BitVec 2) (micros : Nat),
      let k := u.kind.toNat
      let i := u.index.toNat
      let row := u.row.toNat
      let x := unitTest u
      let cls := classOf k i
      let old := d.score cls (scoreIdx k i)
      let limit := d.g FLT_THR.LIMIT cls
      let scored : Prop := cls ≠ 15 ∧ limit ≠ 0
      let readback : Prop := k = 6 ∧ i < 8
      let shown (t : State) (v at_ : Nat) : Prop := (d.grp gSelftest).locked = false → (t.dev.grp gSelftest).rdy = true ∧
        (t.dev.grp gSelftest).words = [BitVec.ofNat 32 (k * 256 + i + cls * 2 ^ 16 + v * 2 ^ 20), BitVec.ofNat 32 (min micros 0xFFFFFFFF), BitVec.ofNat 32 at_]
      let rowOrZero := if k = 1 ∨ k = 8 then row else 0
      x ∈ d.flt.tests → (∀ y ∈ d.flt.waiting, y.kind ≠ u.kind ∨ y.index ≠ u.index) →
      ((scored → old + 1 < limit) → ∃ t, exec (.selftestVerdict u true step micros) s = .next t ∧ t.dev.flt.tests = d.flt.tests.erase x ∧
        more FLT_NTRANS t ∧ t.dev.g FLT_NLAST = d.g FLT_NLAST ∧ shown t 0 rowOrZero ∧ SameOutside s t ∧
        (scored → t.dev.score cls (scoreIdx k i) = old + 1) ∧ (¬scored → t.dev.flt.scores = d.flt.scores)) ∧
      (∀ pass : Bool, (pass = true → scored ∧ limit ≤ old + 1) → ∃ t, exec (.selftestVerdict u pass step micros) s = .next t ∧
        t.dev.flt.tests = d.flt.tests.erase x ∧ more FLT_NLAST t ∧ t.dev.g FLT_NTRANS = d.g FLT_NTRANS ∧ SameOutside s t ∧
        (pass = true → t.dev.score cls (scoreIdx k i) = 0) ∧ (¬readback → shown t (if pass then 2 else 1) rowOrZero) ∧
        (k = 1 → i < 128 → d.dst kBank i = 0 → d.g BNK_HEALTH.SPUSED i < 8 →
          t.dev.bnk.remaps = d.bnk.remaps ++ [(i, row, d.g BNK_HEALTH.SPUSED i)] ∧ t.dev.g BNK_HEALTH.SPUSED i = d.g BNK_HEALTH.SPUSED i + 1) ∧
        (k = 2 → i < 128 → d.dst kBank i = 0 → t.dev.dst kBank i = 1) ∧
        (k = 3 → i < 32 → t.dev.dst kLane i = 3 ∧ ∀ j, j < 32 → j ≠ i → t.dev.dst kLane j = d.dst kLane j) ∧
        (k = 4 → i < 16 → t.dev.dst kCore i = 3 ∧ ∀ j, j ≠ i → t.dev.core j = d.core j) ∧
        (k = 5 → i < 4 → t.dev.dst kPort i = 3 ∧ (t.dev.port i).gated = true) ∧
        (k = 6 → i < 112 → 8 ≤ i ∨ pass = true ∨ step = 0 ∨ step = 3 → t.dev.dst kOut i = 3) ∧
        (k = 6 → i < 8 → pass = false → step = 1 ∨ step = 2 → t.dev.g BEL_OSTATE.MONRET i = 1 ∧ t.dev.dst kOut i = d.dst kOut i) ∧
        (k = 7 → i < 8 → t.dev.g BEL_OSTATE.MONRET i = 1) ∧
        (k = 8 → i < 16 → d.pmSpares i < 2 → t.dev.flt.pmRows = d.flt.pmRows ++ [(i, row, d.pmSpares i)] ∧ t.dev.core i = d.core i) ∧
        (k = 10 → d.running = true → t.dev.mode = mSAFE ∧ t.dev.g FLT_STAT.SAFECAUSE = 1 ∧ t.dev.g FLT_STAT.PLLDOWN = 1) ∧
        (k = 11 → t.dev.flt.tableRows = d.flt.tableRows ++ [(i, row)]) ∧
        (k ∈ [3, 4, 5, 7] ∨ k = 6 ∧ 8 ≤ i → d.on CFG_STAT.FLOGNA = false → d.on PWR_STAT.BOW = false → d.boot.pend.length < 8 →
          ∃ e, t.dev.boot.pend = d.boot.pend ++ [e] ∧ e.ftype = 4 ∧ e.detail = BitVec.ofNat 32 (k + i * 16))) ∧
      (∃ t, exec (.selftestAbort u) s = .next t ∧ t.dev.flt.tests = d.flt.tests.erase x ∧ more FLT_NABORT t ∧ t.dev.flt.scores = d.flt.scores ∧
        t.dev.g FLT_NLAST = d.g FLT_NLAST ∧ SameOutside s t ∧ ((d.grp gSelftest).locked = false →
          (t.dev.grp gSelftest).words = [BitVec.ofNat 32 (k * 256 + i + cls * 2 ^ 16 + 3 * 2 ^ 20), 0, BitVec.ofNat 32 rowOrZero]))) ∧
    (∀ (c : BitVec 4) (n : Byte),
      let keep (t : State) : Prop := SameOutside s t ∧ ∀ a b, b < 256 → (a ≠ c.toNat ∨ b ≠ n.toNat) → t.dev.score a b = d.score a b
      let since := sget 0 (c.toNat * 256 + n.toNat) d.flt.scoreAt
      (n.toNat < classCount c.toNat → d.score c.toNat n.toNat ≠ 0 → d.g FLT_THR.DECAY c.toNat ≠ 0 →
        since + d.g FLT_THR.DECAY c.toNat * 100000000 ≤ d.brt.tbase.toNat →
        ∃ t, exec (.scoreDecay c n false) s = .next t ∧ t.dev.score c.toNat n.toNat = d.score c.toNat n.toNat - 1 ∧
          { t.dev with flt := d.flt } = d ∧ keep t) ∧
      (∃ t, exec (.scoreDecay c n true) s = .next t ∧ t.dev.score c.toNat n.toNat = 0 ∧ more FLT_SELFECC t ∧ t.dev.flt.tests = d.flt.tests ∧
        OnlyUsb { d with flt := t.dev.flt } t.dev ∧ SameRegs d t.dev (FLT_SELFECC.base :: noticeRegs) ∧ keep t)) ∧
    (∀ (k : BitVec 4) (n : Byte), k.toNat ∈ [2, 3, 4, 5, 6, 9] → n.toNat < unitCount k.toNat →
      let i := n.toNat
      let u := unitCode k.toNat i
      (d.mst k.toNat i < d.dst k.toNat i → d.flt.split.lookup u = none → d.testing k.toNat i = false →
        ∃ t, exec (.stateSplit k n) s = .next t ∧ t.dev.g FLT_SPLITLOG.UNIT = u ∧ t.dev.g FLT_SPLITLOG.DST = d.dst k.toNat i ∧
          t.dev.g FLT_SPLITLOG.MST = d.mst k.toNat i ∧ t.dev.g FLT_SPLITLOG.VALID = 1 ∧ more FLT_NSPLIT t ∧
          t.dev.flt = { d.flt with split := d.flt.split ++ [(u, d.dst k.toNat i)] } ∧ OnlyUsb { d with flt := t.dev.flt } t.dev ∧
          SameRegs d t.dev ([FLT_SPLITLOG.UNIT.base, FLT_NSPLIT.base] ++ noticeRegs) ∧ SameOutside s t) ∧
      ((d.flt.split.lookup u).isSome = true → exec (.stateSplit k n) s = .next s) ∧
      (∀ (ag : Agent) (v : BitVec 2), d.mayWrite ag (mstReg k.toNat i) = true → (∀ e ∈ d.flt.split, e.2 ≤ 3) →
        ∃ t, exec (.mstWrite ag k n v) s = .next t ∧ t.dev.mst k.toNat i = v.toNat ∧ t.dev.flt.split.lookup u = none ∧
          (k.toNat ≠ 4 → t.dev.dst k.toNat i = (match (if k.toNat = 9 then some 0 else d.flt.split.lookup u) with
            | some l => if d.dst k.toNat i = 3 then 3 else l
            | none => d.dst k.toNat i)) ∧
          (∀ j, j < unitCount k.toNat → j ≠ i → t.dev.mst k.toNat j = d.mst k.toNat j ∧ t.dev.dst k.toNat j = d.dst k.toNat j) ∧ SameOutside s t))

/-- CHALLENGE, RESPOND and PASSWORD outside their method are answered METHOD and change nothing; RELOCK in OPEN does nothing; GETSTATE is always answered: In a device that is up and past step 7, on every carrier: CHALLENGE and RESPOND outside LOCKED-CR and PASSWORD outside LOCKED-PW, SEALED included, are answered METHOD with no other effect (none is judged or logged: flash, count and waiting entries stay); in OPEN, RELOCK is answered OK with no other effect; GETSTATE is answered OK in every lock state and gives the state, the scopes, the count, BLOCKED, the wait and the serial number. -/
def Obligations.LockMessagesAreAnsweredInEveryState : Prop :=
  ∀ (s : State) (k : Carrier), s.dev.lockUp = true → s.dev.boot.done = true →
    (∀ scope : Byte, scope.toNat ≤ 7 → s.dev.lck.state ≠ 2 →
      exec (.challenge k scope) s = .next { s with dev := { s.dev with lck := { s.dev.lck with reply := [2, 4, 0, 0] } } }) ∧
    (∀ body : List Byte, 16 ≤ body.length → body.length ≤ 62 → s.dev.lck.state ≠ 2 →
      exec (.respond k body) s = .next { s with dev := { s.dev with lck := { s.dev.lck with reply := [3, 4, 0, 0] } } }) ∧
    (∀ (scope : Byte) (body : List Byte), scope.toNat ≤ 7 → 16 ≤ body.length → body.length ≤ 62 → s.dev.lck.state ≠ 1 →
      exec (.password k scope body) s = .next { s with dev := { s.dev with lck := { s.dev.lck with reply := [4, 4, 0, 0] } } }) ∧
    (s.dev.lck.state = 0 →
      exec (.relock k) s = .next { s with dev := { s.dev with lck := { s.dev.lck with reply := [5, 0, 0, 0] } } }) ∧
    exec (.getstate k) s = .next { s with dev := { s.dev with lck := { s.dev.lck with
      reply := [1, 0, 0, 0] ++ s.dev.getState } } }

/-- An attempt is logged before it is judged; a match clears the count and opens the scopes, a mismatch counts and starts the delay: In a running device whose fault log can be written, not BLOCKED and with no delay left: CHALLENGE in LOCKED-CR leaves a nonce bound to the carrier and the scope, in place of any other. RESPOND on the nonce's carrier uses it up; equal to the first 16 bytes of the HMAC over nonce, serial number and scope, it is answered OK with count 0 and the nonce's scopes open, else WRONG with the count one higher (at most 16) and the delay of R758. PASSWORD in LOCKED-PW is judged by SHA-256 over salt and password in the same way. In both cases the failure entry of LFC count + 1 is written first. -/
def Obligations.ChallengeAndPasswordJudge : Prop :=
  ∀ (s : State) (k : Carrier), s.dev.lockUp = true → s.dev.boot.done = true →
    (∀ scope : Byte, scope.toNat ≤ 7 → s.dev.lck.state = 2 →
      ∃ t n, exec (.challenge k scope) s = .next t ∧ t.dev.lck.nonce = some n ∧ n.car = k ∧ n.scope = scope ∧
        n.bytes.length = 16 ∧ (∀ off, t.dev.reg off = s.dev.reg off) ∧ SameOutside s t) ∧
    (s.dev.noLog = false → s.dev.on LCK_STAT.BLOCKED = false → s.dev.lck.wait = 0 →
      (∀ (n : Nonce) (body : List Byte), s.dev.lck.state = 2 → s.dev.lck.nonce = some n → n.car = k → 16 ≤ body.length → body.length ≤ 62 →
        ∃ t, exec (.respond k body) s = .next t ∧ t.dev.lck.nonce = none ∧ t.otp = s.otp ∧ t.tap = s.tap ∧ t.pins = s.pins ∧
          (if body.take 16 = (Config.hmac (s.otp.key.getD []) (n.bytes ++ s.dev.serialBytes ++ [n.scope])).take 16 then
            t.dev.g LCK_STAT.COUNT = 0 ∧ t.dev.g LCK_STAT.SCOPES = s.dev.g LCK_STAT.SCOPES ||| n.scope.toNat % 8 ∧
              t.dev.lck.reply = [3, 0, 0, 0]
          else t.dev.g LCK_STAT.COUNT = min 16 (s.dev.g LCK_STAT.COUNT + 1) ∧
            t.dev.lck.wait = retryDelay (min 16 (s.dev.g LCK_STAT.COUNT + 1)) ∧ t.dev.lck.reply = [3, 1, 0, 0])) ∧
      (∀ (scope : Byte) (body : List Byte), s.dev.lck.state = 1 → scope.toNat ≤ 7 → 16 ≤ body.length → body.length ≤ 62 →
        ∃ t, exec (.password k scope body) s = .next t ∧ t.otp = s.otp ∧ t.tap = s.tap ∧ t.pins = s.pins ∧
          (if some (Config.sha256 (s.otp.salt.getD [] ++ body.take 16)) = s.otp.pwHash then
            t.dev.g LCK_STAT.COUNT = 0 ∧ t.dev.g LCK_STAT.SCOPES = s.dev.g LCK_STAT.SCOPES ||| scope.toNat % 8 ∧
              t.dev.lck.reply = [4, 0, 0, 0]
          else t.dev.g LCK_STAT.COUNT = min 16 (s.dev.g LCK_STAT.COUNT + 1) ∧
            t.dev.lck.wait = retryDelay (min 16 (s.dev.g LCK_STAT.COUNT + 1)) ∧ t.dev.lck.reply = [4, 1, 0, 0])))

/-- Relocking closes every open scope outside OPEN: by message, by LCK_CTL and through LCK_HCMD; a nonce ends: Outside OPEN with a scope open, a RELOCK message in a running device, and a write of 1 to LCK_CTL.RELOCK by the host, leave no scope open; a device in SERVICE goes back to its settings mode. LCK_HCMD.GO carries the message in LCK_BUF: a RELOCK of two bytes closes the scopes too, with DONE set and a response of four bytes. NONCE_EXPIRY leaves no nonce and changes nothing else. -/
def Obligations.RelockClosesTheScopes : Prop :=
  ∀ s : State,
    (∀ k : Carrier, s.dev.lockUp = true → s.dev.boot.done = true → s.dev.lck.state ≠ 0 → s.dev.g LCK_STAT.SCOPES ≠ 0 →
      ∃ t, exec (.relock k) s = .next t ∧ t.dev.g LCK_STAT.SCOPES = 0 ∧ t.dev.lck.reply = [5, 0, 0, 0] ∧
        (s.dev.mode = 7 → t.dev.mode = s.dev.settingsMode) ∧ SameOutside s t) ∧
    (s.dev.running = true → s.dev.lck.state ≠ 0 → s.dev.g LCK_STAT.SCOPES ≠ 0 →
      ∃ t, exec (.lckCtlRelock .host) s = .next t ∧ t.dev.g LCK_STAT.SCOPES = 0 ∧
        (s.dev.mode = 7 → t.dev.mode = s.dev.settingsMode) ∧ SameOutside s t) ∧
    (s.dev.running = true → s.dev.boot.done = true → s.dev.g LCK_HCMD.LEN = 2 → s.dev.lockBuf.take 2 = [5, 0] →
      s.dev.lck.state ≠ 0 → s.dev.g LCK_STAT.SCOPES ≠ 0 →
      ∃ t, exec (.lckHcmdGo .host) s = .next t ∧ t.dev.g LCK_STAT.SCOPES = 0 ∧ t.dev.g LCK_HSTAT.DONE = 1 ∧
        t.dev.g LCK_HSTAT.RLEN = 4 ∧ t.dev.g LCK_BUF 0 = 5 ∧ SameOutside s t) ∧
    (∃ t, exec .nonceExpiry s = .next t ∧ t = { s with dev := { s.dev with lck := { s.dev.lck with nonce := none } } })

/-- The OTP commands program each field once, from LCK_BUF, and move the programmed state forward: In OPEN, or with scope TEST open in a locked state that is not SEALED, the host's LCK_OTPCMD in a running device: SETPW with no hash programmed writes salt and hash from LCK_BUF, SETKEY with no key the key; LOCKPW with a hash moves a programmed OPEN to LOCKED-PW, LOCKCR with a key a programmed OPEN or LOCKED-PW to LOCKED-CR, and SEAL with its four bytes to SEALED. Each leaves ERR 0. The lock state in force and every register but LCK_OTPRES stay. -/
def Obligations.OtpCommandsProgramOnce : Prop :=
  ∀ s : State, s.dev.running = true → s.dev.otpOpen = true →
    (s.otp.pwHash = none → ∃ t, exec (.setpw .host) s = .next t ∧
      t.otp = { s.otp with salt := some (slice s.dev.lockBuf 0 16), pwHash := some (slice s.dev.lockBuf 16 32) } ∧
      t.dev.g LCK_OTPRES.ERR = 0 ∧ SameRegs s.dev t.dev [LCK_OTPRES.ERR.base] ∧ t.dev.lck = s.dev.lck ∧ t.flash = s.flash) ∧
    (s.otp.key = none → ∃ t, exec (.setkey .host) s = .next t ∧
      t.otp = { s.otp with key := some (slice s.dev.lockBuf 0 32) } ∧
      t.dev.g LCK_OTPRES.ERR = 0 ∧ SameRegs s.dev t.dev [LCK_OTPRES.ERR.base] ∧ t.dev.lck = s.dev.lck ∧ t.flash = s.flash) ∧
    (s.otp.lock = 0 → s.otp.pwHash ≠ none → ∃ t, exec (.lockpw .host) s = .next t ∧ t.otp = { s.otp with lock := 1 } ∧
      t.dev.g LCK_OTPRES.ERR = 0 ∧ SameRegs s.dev t.dev [LCK_OTPRES.ERR.base] ∧ t.dev.lck = s.dev.lck ∧ t.flash = s.flash) ∧
    ((s.otp.lock = 0 ∨ s.otp.lock = 1) → s.otp.key ≠ none → ∃ t, exec (.lockcr .host) s = .next t ∧
      t.otp = { s.otp with lock := 2 } ∧
      t.dev.g LCK_OTPRES.ERR = 0 ∧ SameRegs s.dev t.dev [LCK_OTPRES.ERR.base] ∧ t.dev.lck = s.dev.lck ∧ t.flash = s.flash) ∧
    (s.dev.lockBuf.take 4 = [0x5E, 0xA1, 0xED, 0x00] → ∃ t, exec (.sealLock .host) s = .next t ∧ t.otp = { s.otp with lock := 3 } ∧
      t.dev.g LCK_OTPRES.ERR = 0 ∧ SameRegs s.dev t.dev [LCK_OTPRES.ERR.base] ∧ t.dev.lck = s.dev.lck ∧ t.flash = s.flash)

/-- In SERVICE, LCK_SVC copies a fault-log sector and starts a self-test: In SERVICE, with the fault log open and 4 KiB at LCK_SVCADDR in a bank that the host port owns, FLOGRD by the host ends with DONE set and the bank write of the sector's 4,096 bytes performed; TEST by the host either has the test of UNIT running or waiting, or ends at once with DONE. OTP and flash stay. Outside SERVICE neither has an effect beyond SECT and UNIT. -/
def Obligations.ServiceFunctionsRunInService : Prop :=
  (∀ s : State, s.dev.mode = 7 →
    (∀ base : Nat, s.dev.boot.logAt = some base →
      (s.dev.plainWrite 0x22024 (s.dev.svcWord 2)).srcOwned false (s.dev.reg LCK_SVCADDR.base).toNat 4096 = true →
      ∃ t, exec (.flogrd .host) s = .next t ∧ t.dev.g LCK_SVC.DONE = 1 ∧
        t.dev.bnk.mem = (((s.dev.plainWrite 0x22024 (s.dev.svcWord 2)).bnkWrite oHost (s.dev.reg LCK_SVCADDR.base).toNat
          (s.flash.read (base + 4096 * s.dev.g LCK_SVC.SECT) 4096)).dev).bnk.mem ∧ SameOutside s t) ∧
    (∃ t, exec (.serviceTest .host) s = .next t ∧ SameOutside s t ∧
      (t.dev.g LCK_SVC.DONE = 1 ∨
        ∃ x : Test, t.dev.lck.svc = some x ∧ x.kind.toNat = bitsOf (s.dev.g LCK_SVC.UNIT) 11 8 ∧
          x.index.toNat = bitsOf (s.dev.g LCK_SVC.UNIT) 7 0 ∧ (x ∈ t.dev.flt.tests ∨ x ∈ t.dev.flt.waiting)))) ∧
  (∀ s : State, s.dev.mode ≠ 7 → s.dev.running = true →
    exec (.flogrd .host) s = .next { s with dev := s.dev.plainWrite 0x22024 (s.dev.svcWord 2) } ∧
    exec (.serviceTest .host) s = .next { s with dev := s.dev.plainWrite 0x22024 (s.dev.svcWord 1) })

/-- The TAP selects IDCODE, EXTEST, SAMPLE/PRELOAD or BYPASS; a private code stops while DEBUG and TEST are open; a register write acts on its field kinds: Once the power-on detector has released: TAP_RESET and IDCODE select the identification register 0x140962B3; SAMPLE/PRELOAD and EXTEST capture 267 cells (what the device drives and enables on each of the 89 balls, RESET_N's level), the first loading the update latches, which during EXTEST own every ball with an output; BYPASS and, while DEBUG or TEST is closed, every private code select the one-bit register, and a private code while both are open stops, for the spec gives it no effect (Config's free values, notes/assumptions/6, stand for the levels on undriven balls). A write of a Bell register that has no further effect and no reserved values sets the RW bits, clears W1C bits and sets W1S bits written with 1, and leaves every other bit and register. -/
def Obligations.TestPortAndRegisterWritesAct : Prop :=
  (∀ s : State, s.pins.por = true →
    let cell (t : State) (n : Nat) : Bool := t.tap.dr.getD n false
    let captured (t : State) : Prop := t.tap.dr.length = 267 ∧ cell t 195 = s.pins.resetN ∧
      (∀ k, k < 89 → cell t (3 * k + 2) = decide (s.dev.drives (balls.getD k .resetN) ≠ .hiZ) ∧
        ∀ b : Bool, s.dev.drives (balls.getD k .resetN) = .level b → cell t (3 * k + 1) = b) ∧ { t with tap := s.tap, dev := { t.dev with free := s.dev.free } } = s
    (∀ c : Instr, c = .tapReset ∨ c = .idcode → ∃ t, exec c s = .next t ∧ t.tap.ir = 2 ∧ t.tap.latch = s.tap.latch ∧ t.tap.dr.length = 32 ∧
      (∀ n, n < 32 → cell t n = Nat.testBit 0x140962B3 n) ∧ { t with tap := s.tap } = s) ∧
    (∃ t, exec .extest s = .next t ∧ t.tap.ir = 0 ∧ t.tap.latch = s.tap.latch ∧ captured t ∧
      ∀ k, k < 89 → (balls.getD k .resetN).inputOnly = false → t.ballOut k =
        if s.tap.latch.getD (3 * k + 2) false then .level (s.tap.latch.getD (3 * k + 1) false) else .hiZ) ∧
    (∀ l : List Bool, l.length = 267 → ∃ t, exec (.samplePreload l) s = .next t ∧ t.tap.ir = 1 ∧ t.tap.latch = l ∧ captured t) ∧
    (∀ c : BitVec 5, c = 31 ∨ (3 ≤ c.toNat ∧ s.dev.g LCK_STAT.SCOPES / 2 % 4 ≠ 3) → ∃ t, exec (.bypass c) s = .next t ∧
      t.tap = { s.tap with ir := c, dr := [false] } ∧ { t with tap := s.tap } = s) ∧
    (∀ c : BitVec 5, 3 ≤ c.toNat → c ≠ 31 → s.dev.g LCK_STAT.SCOPES / 2 % 4 = 3 → exec (.bypass c) s = .fault .privateInstruction)) ∧
  (∀ (s : State) (ag : Agent) (off : BitVec 20) (v : Word),
    let o := off.toNat
    s.dev.mayWrite ag o = true → o / 0x1000 = 0x1C → o ≠ 0x1C004 → o ≠ 0x1C008 → ¬(0x1C400 ≤ o ∧ o < 0x1C780) → ∀ r, rowOf o = some r → r.ok = [] →
    ∃ t, exec (.registerWrite ag off v) s = .next t ∧ { t.dev with regs := s.dev.regs } = s.dev ∧ SameRegs s.dev t.dev [o] ∧ SameOutside s t ∧
      ∀ n, n < 32 → (t.dev.reg o).getLsbD n =
        (if r.w1s.getLsbD n && v.getLsbD n then true else if r.w1c.getLsbD n && v.getLsbD n then false
         else if r.rw.getLsbD n then v.getLsbD n else (s.dev.reg o).getLsbD n))
end

