-- ==== Sys2Proof/Laws/Table.lean ====
section
/-!
SUPPORT. Laws of the sparse tables (registers, memories, flash): read after write for every table, and that a write or a
filter keeps the canonical form.
-/
namespace Sys2Proof.Machine

theorem sget_sdel {α : Type} (d : α) (k j : Nat) (m : Sparse α) :
    sget d j (sdel k m) = if j = k then d else sget d j m := by
  induction m with
  | nil => simp [sdel, sget]
  | cons e t ih =>
    obtain ⟨i, u⟩ := e
    by_cases h : i = k
    · subst h
      simp only [sdel, if_pos, ih, sget]
      split
      · rfl
      · rename_i h; rw [if_neg (fun e => h e.symm)]
    · simp only [sdel, if_neg h, sget, ih]
      split
      · rename_i h2; subst h2; rw [if_neg h]
      · rfl

theorem sget_sins {α : Type} (d v : α) (k j : Nat) (m : Sparse α) (hm : ∀ e ∈ m, e.1 ≠ k) :
    sget d j (sins k v m) = if j = k then v else sget d j m := by
  induction m with
  | nil =>
    simp only [sins, sget]
    by_cases h : k = j
    · rw [if_pos h, if_pos h.symm]
    · rw [if_neg h, if_neg (fun e => h e.symm)]
  | cons e t ih =>
    obtain ⟨i, u⟩ := e
    have hi : i ≠ k := hm (i, u) (by simp)
    have ht := ih (fun e he => hm e (by simp [he]))
    simp only [sins]
    split
    · simp only [sget]
      by_cases h : k = j
      · rw [if_pos h, if_pos h.symm]
      · rw [if_neg h, if_neg (c := j = k) (fun e => h e.symm)]
    · simp only [sget, ht]
      split
      · rename_i h2; subst h2; rw [if_neg hi]
      · rfl

theorem not_mem_sdel {α : Type} (k : Nat) (m : Sparse α) : ∀ e ∈ sdel k m, e.1 ≠ k := by
  induction m with
  | nil => simp [sdel]
  | cons e t ih =>
    obtain ⟨i, u⟩ := e
    simp only [sdel]
    split
    · exact ih
    · rename_i h
      intro e he
      rcases List.mem_cons.1 he with rfl | he
      · exact h
      · exact ih e he

/-- Read after write, whatever the table. -/
theorem sget_sput {α : Type} [DecidableEq α] (d v : α) (k j : Nat) (m : Sparse α) :
    sget d j (sput d k v m) = if j = k then v else sget d j m := by
  unfold sput
  split
  · rename_i h; subst h; exact sget_sdel v k j m
  · rw [sget_sins d v k j _ (not_mem_sdel k m), sget_sdel]
    split <;> rfl

@[simp] theorem sget_sput_same {α : Type} [DecidableEq α] (d v : α) (k : Nat) (m : Sparse α) :
    sget d k (sput d k v m) = v := by rw [sget_sput, if_pos rfl]

/-- A write leaves every other key, also where the two sides read an unlisted key differently. -/
theorem sget_sput_other {α : Type} [DecidableEq α] (d d' v : α) (k j : Nat) (m : Sparse α) (h : j ≠ k) :
    sget d' j (sput d k v m) = sget d' j m := by
  unfold sput
  split
  · rw [sget_sdel, if_neg h]
  · rw [sget_sins d' v k j _ (not_mem_sdel k m), sget_sdel, if_neg h, if_neg h]

/-! ### The canonical form -/

theorem sabove_mono {α : Type} (m : Sparse α) (a b : Nat) (hab : a ≤ b) (h : sabove b m = true) : sabove a m = true := by
  cases m with
  | nil => rfl
  | cons e t =>
    simp only [sabove, Bool.and_eq_true, decide_eq_true_eq] at h ⊢
    exact ⟨by omega, h.2⟩

theorem sabove_filter {α : Type} (p : Nat × α → Bool) (m : Sparse α) (b : Nat) (h : sabove b m = true) :
    sabove b (m.filter p) = true := by
  induction m generalizing b with
  | nil => rfl
  | cons e t ih =>
    obtain ⟨i, u⟩ := e
    simp only [sabove, Bool.and_eq_true, decide_eq_true_eq] at h
    simp only [List.filter]
    split
    · simp only [sabove, Bool.and_eq_true, decide_eq_true_eq]
      exact ⟨h.1, ih _ h.2⟩
    · exact ih b (sabove_mono t b (i + 1) (by omega) h.2)

/-- A filter (an erased sector) keeps the canonical form. -/
theorem swf_filter {α : Type} [DecidableEq α] (d : Nat → α) (p : Nat × α → Bool) (m : Sparse α) (h : swf d m = true) :
    swf d (m.filter p) = true := by
  simp only [swf, Bool.and_eq_true, List.all_eq_true, List.mem_filter] at h ⊢
  exact ⟨sabove_filter p m 0 h.1, fun e he => h.2 e he.1⟩

theorem sdel_eq_filter {α : Type} (k : Nat) (m : Sparse α) : sdel k m = m.filter (fun e => e.1 ≠ k) := by
  induction m with
  | nil => rfl
  | cons e t ih =>
    obtain ⟨i, u⟩ := e
    by_cases h : i = k
    · simp [sdel, h, ih]
    · simp [sdel, h, ih]

theorem sabove_sins {α : Type} (k : Nat) (v : α) (m : Sparse α) (b : Nat) (hb : b ≤ k) (hk : ∀ e ∈ m, e.1 ≠ k)
    (h : sabove b m = true) : sabove b (sins k v m) = true := by
  induction m generalizing b with
  | nil => simp [sins, sabove, hb]
  | cons e t ih =>
    obtain ⟨i, u⟩ := e
    have hi : i ≠ k := hk (i, u) (by simp)
    simp only [sabove, Bool.and_eq_true, decide_eq_true_eq] at h
    simp only [sins]
    split
    · simp only [sabove, Bool.and_eq_true, decide_eq_true_eq]
      exact ⟨hb, by omega, h.2⟩
    · simp only [sabove, Bool.and_eq_true, decide_eq_true_eq]
      exact ⟨h.1, ih (i + 1) (by omega) (fun e he => hk e (by simp [he])) h.2⟩

theorem mem_sins {α : Type} (k : Nat) (v : α) (m : Sparse α) (e : Nat × α) (h : e ∈ sins k v m) : e = (k, v) ∨ e ∈ m := by
  induction m with
  | nil => simpa [sins] using h
  | cons a t ih =>
    obtain ⟨i, u⟩ := a
    simp only [sins] at h
    split at h
    · simpa using h
    · rcases List.mem_cons.1 h with rfl | h
      · simp
      · rcases ih h with h | h
        · exact .inl h
        · exact .inr (by simp [h])

/-- A write keeps the canonical form. -/
theorem swf_sput {α : Type} [DecidableEq α] (d : Nat → α) (k : Nat) (v : α) (m : Sparse α) (h : swf d m = true) :
    swf d (sput (d k) k v m) = true := by
  unfold sput
  have hf : swf d (sdel k m) = true := by rw [sdel_eq_filter]; exact swf_filter d _ m h
  split
  · exact hf
  · rename_i hv
    simp only [swf, Bool.and_eq_true, List.all_eq_true] at hf ⊢
    refine ⟨sabove_sins k v _ 0 (Nat.zero_le k) (not_mem_sdel k m) hf.1, fun e he => ?_⟩
    rcases mem_sins k v _ e he with rfl | he
    · simpa using hv
    · exact hf.2 e he

end Sys2Proof.Machine
end

