-- ==== Sys2Proof/Laws/Regs.lean ====
section
/-!
SUPPORT. Laws of registers and fields: what a word reads after `putBits`, a register after `setReg`, a field after `s`, `sIf`
and `cnt`, each for every state.
-/
namespace Sys2Proof.Machine

/-! ### Bits of a word -/

theorem bitsOf_lt (n hi lo : Nat) : bitsOf n hi lo < 2 ^ (hi + 1 - lo) := Nat.mod_lt _ (Nat.two_pow_pos _)

theorem bitsOf_testBit (n hi lo i : Nat) : (bitsOf n hi lo).testBit i = (decide (i < hi + 1 - lo) && n.testBit (lo + i)) := by
  simp [bitsOf, Nat.testBit_mod_two_pow, Nat.testBit_shiftRight]

/-- A bit of a word after `putBits`. -/
theorem putBits_testBit (w : Word) (hi lo v i : Nat) (hhi : hi < 32) (hlo : lo ≤ hi) :
    (putBits w hi lo v).toNat.testBit i =
      if lo ≤ i ∧ i ≤ hi then v.testBit (i - lo) else w.toNat.testBit i := by
  have hw := w.isLt
  set n := w.toNat with hn
  have e1 : n = n % 2 ^ lo + 2 ^ lo * (bitsOf n hi lo + 2 ^ (hi + 1 - lo) * (n / 2 ^ (hi + 1))) := by
    have h1 : 2 ^ (hi + 1) = 2 ^ lo * 2 ^ (hi + 1 - lo) := by rw [← pow_add]; congr 1; omega
    rw [bitsOf, Nat.shiftRight_eq_div_pow, h1, ← Nat.div_div_eq_div_mul]
    rw [Nat.mod_add_div, Nat.mod_add_div]
  have e2 : n - bitsOf n hi lo * 2 ^ lo + v % 2 ^ (hi + 1 - lo) * 2 ^ lo =
      n % 2 ^ lo + 2 ^ lo * (v % 2 ^ (hi + 1 - lo) + 2 ^ (hi + 1 - lo) * (n / 2 ^ (hi + 1))) := by
    have hle : bitsOf n hi lo * 2 ^ lo ≤ n := by
      conv_rhs => rw [e1]
      rw [Nat.mul_add, Nat.mul_comm (bitsOf n hi lo)]; omega
    zify [hle]
    have e1' : (n : Int) = ((n % 2 ^ lo : Nat) : Int) +
        ((2 ^ lo * (bitsOf n hi lo + 2 ^ (hi + 1 - lo) * (n / 2 ^ (hi + 1))) : Nat) : Int) := by exact_mod_cast e1
    push_cast at e1' ⊢
    linarith
  have hlt : n % 2 ^ lo + 2 ^ lo * (v % 2 ^ (hi + 1 - lo) + 2 ^ (hi + 1 - lo) * (n / 2 ^ (hi + 1))) < 2 ^ 32 := by
    have a1 : n % 2 ^ lo < 2 ^ lo := Nat.mod_lt _ (Nat.two_pow_pos _)
    have a2 : v % 2 ^ (hi + 1 - lo) < 2 ^ (hi + 1 - lo) := Nat.mod_lt _ (Nat.two_pow_pos _)
    have a3 : n / 2 ^ (hi + 1) < 2 ^ (31 - hi) := by
      rw [Nat.div_lt_iff_lt_mul (Nat.two_pow_pos _), ← pow_add]
      have : 31 - hi + (hi + 1) = 32 := by omega
      rw [this]; exact hw
    have a4 : v % 2 ^ (hi + 1 - lo) + 2 ^ (hi + 1 - lo) * (n / 2 ^ (hi + 1)) < 2 ^ (32 - lo) := by
      have : 2 ^ (32 - lo) = 2 ^ (hi + 1 - lo) * 2 ^ (31 - hi) := by rw [← pow_add]; congr 1; omega
      rw [this]
      calc _ < 2 ^ (hi + 1 - lo) + 2 ^ (hi + 1 - lo) * (n / 2 ^ (hi + 1)) := by omega
        _ = 2 ^ (hi + 1 - lo) * (n / 2 ^ (hi + 1) + 1) := by ring
        _ ≤ _ := Nat.mul_le_mul_left _ a3
    have a5 : 2 ^ 32 = 2 ^ lo * 2 ^ (32 - lo) := by rw [← pow_add]; congr 1; omega
    rw [a5]
    calc _ < 2 ^ lo + 2 ^ lo * (v % 2 ^ (hi + 1 - lo) + 2 ^ (hi + 1 - lo) * (n / 2 ^ (hi + 1))) := by omega
      _ = 2 ^ lo * (v % 2 ^ (hi + 1 - lo) + 2 ^ (hi + 1 - lo) * (n / 2 ^ (hi + 1)) + 1) := by ring
      _ ≤ _ := Nat.mul_le_mul_left _ a4
  have hval : (putBits w hi lo v).toNat =
      2 ^ lo * (2 ^ (hi + 1 - lo) * (n / 2 ^ (hi + 1)) + v % 2 ^ (hi + 1 - lo)) + n % 2 ^ lo := by
    rw [putBits, BitVec.toNat_ofNat, ← hn, e2, Nat.mod_eq_of_lt hlt]; ring
  rw [hval, Nat.testBit_two_pow_mul_add _ (Nat.mod_lt _ (Nat.two_pow_pos _))]
  split
  · rename_i h
    rw [Nat.testBit_mod_two_pow, if_neg (by omega)]; simp [h]
  · rename_i h
    rw [Nat.testBit_two_pow_mul_add _ (Nat.mod_lt _ (Nat.two_pow_pos _))]
    split
    · rename_i h2
      rw [Nat.testBit_mod_two_pow, if_pos (by omega)]; simp [h2]
    · rename_i h2
      rw [if_neg (by omega), Nat.testBit_div_two_pow]
      congr 1; omega

/-- The field that was put reads back. -/
theorem bitsOf_putBits_same (w : Word) (hi lo v : Nat) (hhi : hi < 32) (hlo : lo ≤ hi) :
    bitsOf (putBits w hi lo v).toNat hi lo = v % 2 ^ (hi + 1 - lo) := by
  apply Nat.eq_of_testBit_eq
  intro i
  rw [bitsOf_testBit, putBits_testBit w hi lo v _ hhi hlo, Nat.testBit_mod_two_pow]
  by_cases h : i < hi + 1 - lo
  · rw [if_pos (by omega)]; simp [h]
  · simp [h]

/-- A field that shares no bit with the one that was put is as before. -/
theorem bitsOf_putBits_other (w : Word) (hi lo v h2 l2 : Nat) (hhi : hi < 32) (hlo : lo ≤ hi) (hd : h2 < lo ∨ hi < l2) :
    bitsOf (putBits w hi lo v).toNat h2 l2 = bitsOf w.toNat h2 l2 := by
  apply Nat.eq_of_testBit_eq
  intro i
  rw [bitsOf_testBit, bitsOf_testBit, putBits_testBit w hi lo v _ hhi hlo]
  by_cases h : i < h2 + 1 - l2
  · rw [if_neg (by omega)]
  · simp [h]

/-! ### Registers -/

theorem reg_setReg (d : Dev) (o p : Nat) (v : Word) : (d.setReg o v).reg p = if p = o then v else d.reg p := by
  unfold Dev.reg Dev.setReg
  split
  · rename_i h; subst h; exact sget_sput_same _ _ _ _
  · rename_i h; exact sget_sput_other _ _ _ _ _ _ h

@[simp] theorem reg_setReg_same (d : Dev) (o : Nat) (v : Word) : (d.setReg o v).reg o = v := by rw [reg_setReg, if_pos rfl]

theorem reg_setReg_other (d : Dev) (o p : Nat) (v : Word) (h : p ≠ o) : (d.setReg o v).reg p = d.reg p := by
  rw [reg_setReg, if_neg h]

/-! ### Fields -/

theorem reg_s (d : Dev) (f : Fld) (v i p : Nat) :
    (d.s f v i).reg p = if p = f.off i then putBits (d.reg (f.off i)) f.hi f.lo v else d.reg p := reg_setReg _ _ _ _

theorem reg_s_other (d : Dev) (f : Fld) (v i p : Nat) (h : p ≠ f.off i) : (d.s f v i).reg p = d.reg p :=
  reg_setReg_other _ _ _ _ h

/-- A field reads what was stored in it, to its width. -/
theorem g_s_same (d : Dev) (f : Fld) (v i : Nat) (hhi : f.hi < 32 := by decide) (hlo : f.lo ≤ f.hi := by decide) :
    (d.s f v i).g f i = v % 2 ^ (f.hi + 1 - f.lo) := by
  rw [Dev.g, reg_s, if_pos rfl, bitsOf_putBits_same _ _ _ _ hhi hlo]

/-- A field of another register is as before. -/
theorem g_s_reg (d : Dev) (f g : Fld) (v i j : Nat) (h : g.off j ≠ f.off i) : (d.s f v i).g g j = d.g g j := by
  rw [Dev.g, reg_s_other _ _ _ _ _ h, Dev.g]

/-- A field that shares no bit with the one stored is as before. -/
theorem g_s_bits (d : Dev) (f g : Fld) (v i j : Nat) (hhi : f.hi < 32 := by decide) (hlo : f.lo ≤ f.hi := by decide)
    (h : g.hi < f.lo ∨ f.hi < g.lo) : (d.s f v i).g g j = d.g g j := by
  unfold Dev.g
  rw [reg_s]
  split
  · rename_i e; rw [bitsOf_putBits_other _ _ _ _ _ _ hhi hlo h, e]
  · rfl

/-- A counter after an advance (R10). -/
theorem g_cnt_same (d : Dev) (f : Fld) (i n : Nat) (hhi : f.hi < 32 := by decide) (hlo : f.lo ≤ f.hi := by decide) :
    (d.cnt f i n).g f i = min (d.g f i + n) (2 ^ (f.hi + 1 - f.lo) - 1) := by
  rw [Dev.cnt, g_s_same _ _ _ _ hhi hlo, Nat.mod_eq_of_lt]
  have := Nat.two_pow_pos (f.hi + 1 - f.lo)
  omega

theorem reg_cnt_other (d : Dev) (f : Fld) (i n p : Nat) (h : p ≠ f.off i) : (d.cnt f i n).reg p = d.reg p :=
  reg_s_other _ _ _ _ _ h

end Sys2Proof.Machine
end

