-- ==== Sys2Proof/Laws/State.lean ====
section
/-!
SUPPORT. State after the shared updates, a lemma for each part of the device and each update: registers and fields, counters,
free values, cores, ports, UARTs, result groups, bank memory. `onDev` leaves all but the device proper.
-/
namespace Sys2Proof.Machine

/-! ### Commands whose effect is on the device proper -/

@[simp] theorem onDev_eq_next (f : Dev → Dev) (s t : State) : onDev f s = .next t ↔ t = { s with dev := f s.dev } := by
  simp only [onDev, Host.Outcome.next.injEq]; exact eq_comm

theorem onDev_completes (f : Dev → Dev) (s : State) : ∃ t, onDev f s = .next t := ⟨_, rfl⟩

/-! ### `Dev.setReg` -/

@[simp] theorem Dev.setReg_not (d : Dev) (o : Nat) (v : Word) : (d.setReg o v).not = d.not := rfl
@[simp] theorem Dev.setReg_brt (d : Dev) (o : Nat) (v : Word) : (d.setReg o v).brt = d.brt := rfl
@[simp] theorem Dev.setReg_evs (d : Dev) (o : Nat) (v : Word) : (d.setReg o v).evs = d.evs := rfl
@[simp] theorem Dev.setReg_val (d : Dev) (o : Nat) (v : Word) : (d.setReg o v).val = d.val := rfl
@[simp] theorem Dev.setReg_rda (d : Dev) (o : Nat) (v : Word) : (d.setReg o v).rda = d.rda := rfl
@[simp] theorem Dev.setReg_chn (d : Dev) (o : Nat) (v : Word) : (d.setReg o v).chn = d.chn := rfl
@[simp] theorem Dev.setReg_bnk (d : Dev) (o : Nat) (v : Word) : (d.setReg o v).bnk = d.bnk := rfl
@[simp] theorem Dev.setReg_bel (d : Dev) (o : Nat) (v : Word) : (d.setReg o v).bel = d.bel := rfl
@[simp] theorem Dev.setReg_mac (d : Dev) (o : Nat) (v : Word) : (d.setReg o v).mac = d.mac := rfl
@[simp] theorem Dev.setReg_blw (d : Dev) (o : Nat) (v : Word) : (d.setReg o v).blw = d.blw := rfl
@[simp] theorem Dev.setReg_usb (d : Dev) (o : Nat) (v : Word) : (d.setReg o v).usb = d.usb := rfl
@[simp] theorem Dev.setReg_uart (d : Dev) (o : Nat) (v : Word) : (d.setReg o v).uart = d.uart := rfl
@[simp] theorem Dev.setReg_hrp (d : Dev) (o : Nat) (v : Word) : (d.setReg o v).hrp = d.hrp := rfl
@[simp] theorem Dev.setReg_tim (d : Dev) (o : Nat) (v : Word) : (d.setReg o v).tim = d.tim := rfl
@[simp] theorem Dev.setReg_pwr (d : Dev) (o : Nat) (v : Word) : (d.setReg o v).pwr = d.pwr := rfl
@[simp] theorem Dev.setReg_flt (d : Dev) (o : Nat) (v : Word) : (d.setReg o v).flt = d.flt := rfl
@[simp] theorem Dev.setReg_boot (d : Dev) (o : Nat) (v : Word) : (d.setReg o v).boot = d.boot := rfl
@[simp] theorem Dev.setReg_lck (d : Dev) (o : Nat) (v : Word) : (d.setReg o v).lck = d.lck := rfl
@[simp] theorem Dev.setReg_free (d : Dev) (o : Nat) (v : Word) : (d.setReg o v).free = d.free := rfl

/-! ### `Dev.s` -/

@[simp] theorem Dev.s_not (d : Dev) (f : Fld) (v i : Nat) : (d.s f v i).not = d.not := rfl
@[simp] theorem Dev.s_brt (d : Dev) (f : Fld) (v i : Nat) : (d.s f v i).brt = d.brt := rfl
@[simp] theorem Dev.s_evs (d : Dev) (f : Fld) (v i : Nat) : (d.s f v i).evs = d.evs := rfl
@[simp] theorem Dev.s_val (d : Dev) (f : Fld) (v i : Nat) : (d.s f v i).val = d.val := rfl
@[simp] theorem Dev.s_rda (d : Dev) (f : Fld) (v i : Nat) : (d.s f v i).rda = d.rda := rfl
@[simp] theorem Dev.s_chn (d : Dev) (f : Fld) (v i : Nat) : (d.s f v i).chn = d.chn := rfl
@[simp] theorem Dev.s_bnk (d : Dev) (f : Fld) (v i : Nat) : (d.s f v i).bnk = d.bnk := rfl
@[simp] theorem Dev.s_bel (d : Dev) (f : Fld) (v i : Nat) : (d.s f v i).bel = d.bel := rfl
@[simp] theorem Dev.s_mac (d : Dev) (f : Fld) (v i : Nat) : (d.s f v i).mac = d.mac := rfl
@[simp] theorem Dev.s_blw (d : Dev) (f : Fld) (v i : Nat) : (d.s f v i).blw = d.blw := rfl
@[simp] theorem Dev.s_usb (d : Dev) (f : Fld) (v i : Nat) : (d.s f v i).usb = d.usb := rfl
@[simp] theorem Dev.s_uart (d : Dev) (f : Fld) (v i : Nat) : (d.s f v i).uart = d.uart := rfl
@[simp] theorem Dev.s_hrp (d : Dev) (f : Fld) (v i : Nat) : (d.s f v i).hrp = d.hrp := rfl
@[simp] theorem Dev.s_tim (d : Dev) (f : Fld) (v i : Nat) : (d.s f v i).tim = d.tim := rfl
@[simp] theorem Dev.s_pwr (d : Dev) (f : Fld) (v i : Nat) : (d.s f v i).pwr = d.pwr := rfl
@[simp] theorem Dev.s_flt (d : Dev) (f : Fld) (v i : Nat) : (d.s f v i).flt = d.flt := rfl
@[simp] theorem Dev.s_boot (d : Dev) (f : Fld) (v i : Nat) : (d.s f v i).boot = d.boot := rfl
@[simp] theorem Dev.s_lck (d : Dev) (f : Fld) (v i : Nat) : (d.s f v i).lck = d.lck := rfl
@[simp] theorem Dev.s_free (d : Dev) (f : Fld) (v i : Nat) : (d.s f v i).free = d.free := rfl

/-! ### `Dev.cnt` -/

@[simp] theorem Dev.cnt_not (d : Dev) (f : Fld) (i n : Nat) : (d.cnt f i n).not = d.not := rfl
@[simp] theorem Dev.cnt_brt (d : Dev) (f : Fld) (i n : Nat) : (d.cnt f i n).brt = d.brt := rfl
@[simp] theorem Dev.cnt_evs (d : Dev) (f : Fld) (i n : Nat) : (d.cnt f i n).evs = d.evs := rfl
@[simp] theorem Dev.cnt_val (d : Dev) (f : Fld) (i n : Nat) : (d.cnt f i n).val = d.val := rfl
@[simp] theorem Dev.cnt_rda (d : Dev) (f : Fld) (i n : Nat) : (d.cnt f i n).rda = d.rda := rfl
@[simp] theorem Dev.cnt_chn (d : Dev) (f : Fld) (i n : Nat) : (d.cnt f i n).chn = d.chn := rfl
@[simp] theorem Dev.cnt_bnk (d : Dev) (f : Fld) (i n : Nat) : (d.cnt f i n).bnk = d.bnk := rfl
@[simp] theorem Dev.cnt_bel (d : Dev) (f : Fld) (i n : Nat) : (d.cnt f i n).bel = d.bel := rfl
@[simp] theorem Dev.cnt_mac (d : Dev) (f : Fld) (i n : Nat) : (d.cnt f i n).mac = d.mac := rfl
@[simp] theorem Dev.cnt_blw (d : Dev) (f : Fld) (i n : Nat) : (d.cnt f i n).blw = d.blw := rfl
@[simp] theorem Dev.cnt_usb (d : Dev) (f : Fld) (i n : Nat) : (d.cnt f i n).usb = d.usb := rfl
@[simp] theorem Dev.cnt_uart (d : Dev) (f : Fld) (i n : Nat) : (d.cnt f i n).uart = d.uart := rfl
@[simp] theorem Dev.cnt_hrp (d : Dev) (f : Fld) (i n : Nat) : (d.cnt f i n).hrp = d.hrp := rfl
@[simp] theorem Dev.cnt_tim (d : Dev) (f : Fld) (i n : Nat) : (d.cnt f i n).tim = d.tim := rfl
@[simp] theorem Dev.cnt_pwr (d : Dev) (f : Fld) (i n : Nat) : (d.cnt f i n).pwr = d.pwr := rfl
@[simp] theorem Dev.cnt_flt (d : Dev) (f : Fld) (i n : Nat) : (d.cnt f i n).flt = d.flt := rfl
@[simp] theorem Dev.cnt_boot (d : Dev) (f : Fld) (i n : Nat) : (d.cnt f i n).boot = d.boot := rfl
@[simp] theorem Dev.cnt_lck (d : Dev) (f : Fld) (i n : Nat) : (d.cnt f i n).lck = d.lck := rfl
@[simp] theorem Dev.cnt_free (d : Dev) (f : Fld) (i n : Nat) : (d.cnt f i n).free = d.free := rfl

/-! ### `Dev.sIf` -/

@[simp] theorem Dev.sIf_not (d : Dev) (c : Bool) (f : Fld) (v i : Nat) : (d.sIf c f v i).not = d.not := by unfold Dev.sIf; split <;> rfl
@[simp] theorem Dev.sIf_brt (d : Dev) (c : Bool) (f : Fld) (v i : Nat) : (d.sIf c f v i).brt = d.brt := by unfold Dev.sIf; split <;> rfl
@[simp] theorem Dev.sIf_evs (d : Dev) (c : Bool) (f : Fld) (v i : Nat) : (d.sIf c f v i).evs = d.evs := by unfold Dev.sIf; split <;> rfl
@[simp] theorem Dev.sIf_val (d : Dev) (c : Bool) (f : Fld) (v i : Nat) : (d.sIf c f v i).val = d.val := by unfold Dev.sIf; split <;> rfl
@[simp] theorem Dev.sIf_rda (d : Dev) (c : Bool) (f : Fld) (v i : Nat) : (d.sIf c f v i).rda = d.rda := by unfold Dev.sIf; split <;> rfl
@[simp] theorem Dev.sIf_chn (d : Dev) (c : Bool) (f : Fld) (v i : Nat) : (d.sIf c f v i).chn = d.chn := by unfold Dev.sIf; split <;> rfl
@[simp] theorem Dev.sIf_bnk (d : Dev) (c : Bool) (f : Fld) (v i : Nat) : (d.sIf c f v i).bnk = d.bnk := by unfold Dev.sIf; split <;> rfl
@[simp] theorem Dev.sIf_bel (d : Dev) (c : Bool) (f : Fld) (v i : Nat) : (d.sIf c f v i).bel = d.bel := by unfold Dev.sIf; split <;> rfl
@[simp] theorem Dev.sIf_mac (d : Dev) (c : Bool) (f : Fld) (v i : Nat) : (d.sIf c f v i).mac = d.mac := by unfold Dev.sIf; split <;> rfl
@[simp] theorem Dev.sIf_blw (d : Dev) (c : Bool) (f : Fld) (v i : Nat) : (d.sIf c f v i).blw = d.blw := by unfold Dev.sIf; split <;> rfl
@[simp] theorem Dev.sIf_usb (d : Dev) (c : Bool) (f : Fld) (v i : Nat) : (d.sIf c f v i).usb = d.usb := by unfold Dev.sIf; split <;> rfl
@[simp] theorem Dev.sIf_uart (d : Dev) (c : Bool) (f : Fld) (v i : Nat) : (d.sIf c f v i).uart = d.uart := by unfold Dev.sIf; split <;> rfl
@[simp] theorem Dev.sIf_hrp (d : Dev) (c : Bool) (f : Fld) (v i : Nat) : (d.sIf c f v i).hrp = d.hrp := by unfold Dev.sIf; split <;> rfl
@[simp] theorem Dev.sIf_tim (d : Dev) (c : Bool) (f : Fld) (v i : Nat) : (d.sIf c f v i).tim = d.tim := by unfold Dev.sIf; split <;> rfl
@[simp] theorem Dev.sIf_pwr (d : Dev) (c : Bool) (f : Fld) (v i : Nat) : (d.sIf c f v i).pwr = d.pwr := by unfold Dev.sIf; split <;> rfl
@[simp] theorem Dev.sIf_flt (d : Dev) (c : Bool) (f : Fld) (v i : Nat) : (d.sIf c f v i).flt = d.flt := by unfold Dev.sIf; split <;> rfl
@[simp] theorem Dev.sIf_boot (d : Dev) (c : Bool) (f : Fld) (v i : Nat) : (d.sIf c f v i).boot = d.boot := by unfold Dev.sIf; split <;> rfl
@[simp] theorem Dev.sIf_lck (d : Dev) (c : Bool) (f : Fld) (v i : Nat) : (d.sIf c f v i).lck = d.lck := by unfold Dev.sIf; split <;> rfl
@[simp] theorem Dev.sIf_free (d : Dev) (c : Bool) (f : Fld) (v i : Nat) : (d.sIf c f v i).free = d.free := by unfold Dev.sIf; split <;> rfl

/-! ### `Dev.setFlag` -/

@[simp] theorem Dev.setFlag_not (d : Dev) (f : Fld) (i : Nat) (b : Bool) : (d.setFlag f i b).not = d.not := rfl
@[simp] theorem Dev.setFlag_brt (d : Dev) (f : Fld) (i : Nat) (b : Bool) : (d.setFlag f i b).brt = d.brt := rfl
@[simp] theorem Dev.setFlag_evs (d : Dev) (f : Fld) (i : Nat) (b : Bool) : (d.setFlag f i b).evs = d.evs := rfl
@[simp] theorem Dev.setFlag_val (d : Dev) (f : Fld) (i : Nat) (b : Bool) : (d.setFlag f i b).val = d.val := rfl
@[simp] theorem Dev.setFlag_rda (d : Dev) (f : Fld) (i : Nat) (b : Bool) : (d.setFlag f i b).rda = d.rda := rfl
@[simp] theorem Dev.setFlag_chn (d : Dev) (f : Fld) (i : Nat) (b : Bool) : (d.setFlag f i b).chn = d.chn := rfl
@[simp] theorem Dev.setFlag_bnk (d : Dev) (f : Fld) (i : Nat) (b : Bool) : (d.setFlag f i b).bnk = d.bnk := rfl
@[simp] theorem Dev.setFlag_bel (d : Dev) (f : Fld) (i : Nat) (b : Bool) : (d.setFlag f i b).bel = d.bel := rfl
@[simp] theorem Dev.setFlag_mac (d : Dev) (f : Fld) (i : Nat) (b : Bool) : (d.setFlag f i b).mac = d.mac := rfl
@[simp] theorem Dev.setFlag_blw (d : Dev) (f : Fld) (i : Nat) (b : Bool) : (d.setFlag f i b).blw = d.blw := rfl
@[simp] theorem Dev.setFlag_usb (d : Dev) (f : Fld) (i : Nat) (b : Bool) : (d.setFlag f i b).usb = d.usb := rfl
@[simp] theorem Dev.setFlag_uart (d : Dev) (f : Fld) (i : Nat) (b : Bool) : (d.setFlag f i b).uart = d.uart := rfl
@[simp] theorem Dev.setFlag_hrp (d : Dev) (f : Fld) (i : Nat) (b : Bool) : (d.setFlag f i b).hrp = d.hrp := rfl
@[simp] theorem Dev.setFlag_tim (d : Dev) (f : Fld) (i : Nat) (b : Bool) : (d.setFlag f i b).tim = d.tim := rfl
@[simp] theorem Dev.setFlag_pwr (d : Dev) (f : Fld) (i : Nat) (b : Bool) : (d.setFlag f i b).pwr = d.pwr := rfl
@[simp] theorem Dev.setFlag_flt (d : Dev) (f : Fld) (i : Nat) (b : Bool) : (d.setFlag f i b).flt = d.flt := rfl
@[simp] theorem Dev.setFlag_boot (d : Dev) (f : Fld) (i : Nat) (b : Bool) : (d.setFlag f i b).boot = d.boot := rfl
@[simp] theorem Dev.setFlag_lck (d : Dev) (f : Fld) (i : Nat) (b : Bool) : (d.setFlag f i b).lck = d.lck := rfl
@[simp] theorem Dev.setFlag_free (d : Dev) (f : Fld) (i : Nat) (b : Bool) : (d.setFlag f i b).free = d.free := rfl

/-! ### `Dev.drawn` -/

@[simp] theorem Dev.drawn_regs (d : Dev) : (d.drawn).regs = d.regs := rfl
@[simp] theorem Dev.drawn_not (d : Dev) : (d.drawn).not = d.not := rfl
@[simp] theorem Dev.drawn_brt (d : Dev) : (d.drawn).brt = d.brt := rfl
@[simp] theorem Dev.drawn_evs (d : Dev) : (d.drawn).evs = d.evs := rfl
@[simp] theorem Dev.drawn_val (d : Dev) : (d.drawn).val = d.val := rfl
@[simp] theorem Dev.drawn_rda (d : Dev) : (d.drawn).rda = d.rda := rfl
@[simp] theorem Dev.drawn_chn (d : Dev) : (d.drawn).chn = d.chn := rfl
@[simp] theorem Dev.drawn_bnk (d : Dev) : (d.drawn).bnk = d.bnk := rfl
@[simp] theorem Dev.drawn_bel (d : Dev) : (d.drawn).bel = d.bel := rfl
@[simp] theorem Dev.drawn_mac (d : Dev) : (d.drawn).mac = d.mac := rfl
@[simp] theorem Dev.drawn_blw (d : Dev) : (d.drawn).blw = d.blw := rfl
@[simp] theorem Dev.drawn_usb (d : Dev) : (d.drawn).usb = d.usb := rfl
@[simp] theorem Dev.drawn_uart (d : Dev) : (d.drawn).uart = d.uart := rfl
@[simp] theorem Dev.drawn_hrp (d : Dev) : (d.drawn).hrp = d.hrp := rfl
@[simp] theorem Dev.drawn_tim (d : Dev) : (d.drawn).tim = d.tim := rfl
@[simp] theorem Dev.drawn_pwr (d : Dev) : (d.drawn).pwr = d.pwr := rfl
@[simp] theorem Dev.drawn_flt (d : Dev) : (d.drawn).flt = d.flt := rfl
@[simp] theorem Dev.drawn_boot (d : Dev) : (d.drawn).boot = d.boot := rfl
@[simp] theorem Dev.drawn_lck (d : Dev) : (d.drawn).lck = d.lck := rfl

/-! ### `Dev.setCore` -/

@[simp] theorem Dev.setCore_regs (d : Dev) (c : Nat) (v : Core) : (d.setCore c v).regs = d.regs := rfl
@[simp] theorem Dev.setCore_not (d : Dev) (c : Nat) (v : Core) : (d.setCore c v).not = d.not := rfl
@[simp] theorem Dev.setCore_brt (d : Dev) (c : Nat) (v : Core) : (d.setCore c v).brt = d.brt := rfl
@[simp] theorem Dev.setCore_evs (d : Dev) (c : Nat) (v : Core) : (d.setCore c v).evs = d.evs := rfl
@[simp] theorem Dev.setCore_val (d : Dev) (c : Nat) (v : Core) : (d.setCore c v).val = d.val := rfl
@[simp] theorem Dev.setCore_rda (d : Dev) (c : Nat) (v : Core) : (d.setCore c v).rda = d.rda := rfl
@[simp] theorem Dev.setCore_bnk (d : Dev) (c : Nat) (v : Core) : (d.setCore c v).bnk = d.bnk := rfl
@[simp] theorem Dev.setCore_bel (d : Dev) (c : Nat) (v : Core) : (d.setCore c v).bel = d.bel := rfl
@[simp] theorem Dev.setCore_mac (d : Dev) (c : Nat) (v : Core) : (d.setCore c v).mac = d.mac := rfl
@[simp] theorem Dev.setCore_blw (d : Dev) (c : Nat) (v : Core) : (d.setCore c v).blw = d.blw := rfl
@[simp] theorem Dev.setCore_usb (d : Dev) (c : Nat) (v : Core) : (d.setCore c v).usb = d.usb := rfl
@[simp] theorem Dev.setCore_uart (d : Dev) (c : Nat) (v : Core) : (d.setCore c v).uart = d.uart := rfl
@[simp] theorem Dev.setCore_hrp (d : Dev) (c : Nat) (v : Core) : (d.setCore c v).hrp = d.hrp := rfl
@[simp] theorem Dev.setCore_tim (d : Dev) (c : Nat) (v : Core) : (d.setCore c v).tim = d.tim := rfl
@[simp] theorem Dev.setCore_pwr (d : Dev) (c : Nat) (v : Core) : (d.setCore c v).pwr = d.pwr := rfl
@[simp] theorem Dev.setCore_flt (d : Dev) (c : Nat) (v : Core) : (d.setCore c v).flt = d.flt := rfl
@[simp] theorem Dev.setCore_boot (d : Dev) (c : Nat) (v : Core) : (d.setCore c v).boot = d.boot := rfl
@[simp] theorem Dev.setCore_lck (d : Dev) (c : Nat) (v : Core) : (d.setCore c v).lck = d.lck := rfl
@[simp] theorem Dev.setCore_free (d : Dev) (c : Nat) (v : Core) : (d.setCore c v).free = d.free := rfl

/-! ### `Dev.setPort` -/

@[simp] theorem Dev.setPort_regs (d : Dev) (n : Nat) (v : Port) : (d.setPort n v).regs = d.regs := rfl
@[simp] theorem Dev.setPort_not (d : Dev) (n : Nat) (v : Port) : (d.setPort n v).not = d.not := rfl
@[simp] theorem Dev.setPort_brt (d : Dev) (n : Nat) (v : Port) : (d.setPort n v).brt = d.brt := rfl
@[simp] theorem Dev.setPort_evs (d : Dev) (n : Nat) (v : Port) : (d.setPort n v).evs = d.evs := rfl
@[simp] theorem Dev.setPort_val (d : Dev) (n : Nat) (v : Port) : (d.setPort n v).val = d.val := rfl
@[simp] theorem Dev.setPort_rda (d : Dev) (n : Nat) (v : Port) : (d.setPort n v).rda = d.rda := rfl
@[simp] theorem Dev.setPort_chn (d : Dev) (n : Nat) (v : Port) : (d.setPort n v).chn = d.chn := rfl
@[simp] theorem Dev.setPort_bnk (d : Dev) (n : Nat) (v : Port) : (d.setPort n v).bnk = d.bnk := rfl
@[simp] theorem Dev.setPort_bel (d : Dev) (n : Nat) (v : Port) : (d.setPort n v).bel = d.bel := rfl
@[simp] theorem Dev.setPort_blw (d : Dev) (n : Nat) (v : Port) : (d.setPort n v).blw = d.blw := rfl
@[simp] theorem Dev.setPort_usb (d : Dev) (n : Nat) (v : Port) : (d.setPort n v).usb = d.usb := rfl
@[simp] theorem Dev.setPort_uart (d : Dev) (n : Nat) (v : Port) : (d.setPort n v).uart = d.uart := rfl
@[simp] theorem Dev.setPort_hrp (d : Dev) (n : Nat) (v : Port) : (d.setPort n v).hrp = d.hrp := rfl
@[simp] theorem Dev.setPort_tim (d : Dev) (n : Nat) (v : Port) : (d.setPort n v).tim = d.tim := rfl
@[simp] theorem Dev.setPort_pwr (d : Dev) (n : Nat) (v : Port) : (d.setPort n v).pwr = d.pwr := rfl
@[simp] theorem Dev.setPort_flt (d : Dev) (n : Nat) (v : Port) : (d.setPort n v).flt = d.flt := rfl
@[simp] theorem Dev.setPort_boot (d : Dev) (n : Nat) (v : Port) : (d.setPort n v).boot = d.boot := rfl
@[simp] theorem Dev.setPort_lck (d : Dev) (n : Nat) (v : Port) : (d.setPort n v).lck = d.lck := rfl
@[simp] theorem Dev.setPort_free (d : Dev) (n : Nat) (v : Port) : (d.setPort n v).free = d.free := rfl

/-! ### `Dev.setSer` -/

@[simp] theorem Dev.setSer_regs (d : Dev) (u : Nat) (v : Uart) : (d.setSer u v).regs = d.regs := rfl
@[simp] theorem Dev.setSer_not (d : Dev) (u : Nat) (v : Uart) : (d.setSer u v).not = d.not := rfl
@[simp] theorem Dev.setSer_brt (d : Dev) (u : Nat) (v : Uart) : (d.setSer u v).brt = d.brt := rfl
@[simp] theorem Dev.setSer_evs (d : Dev) (u : Nat) (v : Uart) : (d.setSer u v).evs = d.evs := rfl
@[simp] theorem Dev.setSer_val (d : Dev) (u : Nat) (v : Uart) : (d.setSer u v).val = d.val := rfl
@[simp] theorem Dev.setSer_rda (d : Dev) (u : Nat) (v : Uart) : (d.setSer u v).rda = d.rda := rfl
@[simp] theorem Dev.setSer_chn (d : Dev) (u : Nat) (v : Uart) : (d.setSer u v).chn = d.chn := rfl
@[simp] theorem Dev.setSer_bnk (d : Dev) (u : Nat) (v : Uart) : (d.setSer u v).bnk = d.bnk := rfl
@[simp] theorem Dev.setSer_bel (d : Dev) (u : Nat) (v : Uart) : (d.setSer u v).bel = d.bel := rfl
@[simp] theorem Dev.setSer_mac (d : Dev) (u : Nat) (v : Uart) : (d.setSer u v).mac = d.mac := rfl
@[simp] theorem Dev.setSer_blw (d : Dev) (u : Nat) (v : Uart) : (d.setSer u v).blw = d.blw := rfl
@[simp] theorem Dev.setSer_usb (d : Dev) (u : Nat) (v : Uart) : (d.setSer u v).usb = d.usb := rfl
@[simp] theorem Dev.setSer_hrp (d : Dev) (u : Nat) (v : Uart) : (d.setSer u v).hrp = d.hrp := rfl
@[simp] theorem Dev.setSer_tim (d : Dev) (u : Nat) (v : Uart) : (d.setSer u v).tim = d.tim := rfl
@[simp] theorem Dev.setSer_pwr (d : Dev) (u : Nat) (v : Uart) : (d.setSer u v).pwr = d.pwr := rfl
@[simp] theorem Dev.setSer_flt (d : Dev) (u : Nat) (v : Uart) : (d.setSer u v).flt = d.flt := rfl
@[simp] theorem Dev.setSer_boot (d : Dev) (u : Nat) (v : Uart) : (d.setSer u v).boot = d.boot := rfl
@[simp] theorem Dev.setSer_lck (d : Dev) (u : Nat) (v : Uart) : (d.setSer u v).lck = d.lck := rfl
@[simp] theorem Dev.setSer_free (d : Dev) (u : Nat) (v : Uart) : (d.setSer u v).free = d.free := rfl

/-! ### `Dev.setGrp` -/

@[simp] theorem Dev.setGrp_regs (d : Dev) (i : Nat) (g : GroupSt) : (d.setGrp i g).regs = d.regs := rfl
@[simp] theorem Dev.setGrp_not (d : Dev) (i : Nat) (g : GroupSt) : (d.setGrp i g).not = d.not := rfl
@[simp] theorem Dev.setGrp_brt (d : Dev) (i : Nat) (g : GroupSt) : (d.setGrp i g).brt = d.brt := rfl
@[simp] theorem Dev.setGrp_evs (d : Dev) (i : Nat) (g : GroupSt) : (d.setGrp i g).evs = d.evs := rfl
@[simp] theorem Dev.setGrp_val (d : Dev) (i : Nat) (g : GroupSt) : (d.setGrp i g).val = d.val := rfl
@[simp] theorem Dev.setGrp_rda (d : Dev) (i : Nat) (g : GroupSt) : (d.setGrp i g).rda = d.rda := rfl
@[simp] theorem Dev.setGrp_chn (d : Dev) (i : Nat) (g : GroupSt) : (d.setGrp i g).chn = d.chn := rfl
@[simp] theorem Dev.setGrp_bnk (d : Dev) (i : Nat) (g : GroupSt) : (d.setGrp i g).bnk = d.bnk := rfl
@[simp] theorem Dev.setGrp_bel (d : Dev) (i : Nat) (g : GroupSt) : (d.setGrp i g).bel = d.bel := rfl
@[simp] theorem Dev.setGrp_mac (d : Dev) (i : Nat) (g : GroupSt) : (d.setGrp i g).mac = d.mac := rfl
@[simp] theorem Dev.setGrp_blw (d : Dev) (i : Nat) (g : GroupSt) : (d.setGrp i g).blw = d.blw := rfl
@[simp] theorem Dev.setGrp_usb (d : Dev) (i : Nat) (g : GroupSt) : (d.setGrp i g).usb = d.usb := rfl
@[simp] theorem Dev.setGrp_uart (d : Dev) (i : Nat) (g : GroupSt) : (d.setGrp i g).uart = d.uart := rfl
@[simp] theorem Dev.setGrp_tim (d : Dev) (i : Nat) (g : GroupSt) : (d.setGrp i g).tim = d.tim := rfl
@[simp] theorem Dev.setGrp_pwr (d : Dev) (i : Nat) (g : GroupSt) : (d.setGrp i g).pwr = d.pwr := rfl
@[simp] theorem Dev.setGrp_flt (d : Dev) (i : Nat) (g : GroupSt) : (d.setGrp i g).flt = d.flt := rfl
@[simp] theorem Dev.setGrp_boot (d : Dev) (i : Nat) (g : GroupSt) : (d.setGrp i g).boot = d.boot := rfl
@[simp] theorem Dev.setGrp_lck (d : Dev) (i : Nat) (g : GroupSt) : (d.setGrp i g).lck = d.lck := rfl
@[simp] theorem Dev.setGrp_free (d : Dev) (i : Nat) (g : GroupSt) : (d.setGrp i g).free = d.free := rfl

/-! ### `Dev.putMem` -/

@[simp] theorem Dev.putMem_regs (d : Dev) (a : Nat) (l : List Byte) : (d.putMem a l).regs = d.regs := rfl
@[simp] theorem Dev.putMem_not (d : Dev) (a : Nat) (l : List Byte) : (d.putMem a l).not = d.not := rfl
@[simp] theorem Dev.putMem_brt (d : Dev) (a : Nat) (l : List Byte) : (d.putMem a l).brt = d.brt := rfl
@[simp] theorem Dev.putMem_evs (d : Dev) (a : Nat) (l : List Byte) : (d.putMem a l).evs = d.evs := rfl
@[simp] theorem Dev.putMem_val (d : Dev) (a : Nat) (l : List Byte) : (d.putMem a l).val = d.val := rfl
@[simp] theorem Dev.putMem_rda (d : Dev) (a : Nat) (l : List Byte) : (d.putMem a l).rda = d.rda := rfl
@[simp] theorem Dev.putMem_chn (d : Dev) (a : Nat) (l : List Byte) : (d.putMem a l).chn = d.chn := rfl
@[simp] theorem Dev.putMem_bel (d : Dev) (a : Nat) (l : List Byte) : (d.putMem a l).bel = d.bel := rfl
@[simp] theorem Dev.putMem_mac (d : Dev) (a : Nat) (l : List Byte) : (d.putMem a l).mac = d.mac := rfl
@[simp] theorem Dev.putMem_blw (d : Dev) (a : Nat) (l : List Byte) : (d.putMem a l).blw = d.blw := rfl
@[simp] theorem Dev.putMem_usb (d : Dev) (a : Nat) (l : List Byte) : (d.putMem a l).usb = d.usb := rfl
@[simp] theorem Dev.putMem_uart (d : Dev) (a : Nat) (l : List Byte) : (d.putMem a l).uart = d.uart := rfl
@[simp] theorem Dev.putMem_hrp (d : Dev) (a : Nat) (l : List Byte) : (d.putMem a l).hrp = d.hrp := rfl
@[simp] theorem Dev.putMem_tim (d : Dev) (a : Nat) (l : List Byte) : (d.putMem a l).tim = d.tim := rfl
@[simp] theorem Dev.putMem_pwr (d : Dev) (a : Nat) (l : List Byte) : (d.putMem a l).pwr = d.pwr := rfl
@[simp] theorem Dev.putMem_flt (d : Dev) (a : Nat) (l : List Byte) : (d.putMem a l).flt = d.flt := rfl
@[simp] theorem Dev.putMem_boot (d : Dev) (a : Nat) (l : List Byte) : (d.putMem a l).boot = d.boot := rfl
@[simp] theorem Dev.putMem_lck (d : Dev) (a : Nat) (l : List Byte) : (d.putMem a l).lck = d.lck := rfl
@[simp] theorem Dev.putMem_free (d : Dev) (a : Nat) (l : List Byte) : (d.putMem a l).free = d.free := rfl

@[simp] theorem Dev.drawn_free (d : Dev) : d.drawn.free = d.free + 1 := rfl

/-! ### Elements of the arrays of units -/

theorem getD_setAt {α : Type} (l : List α) (i j : Nat) (v x : α) :
    (setAt l i v).getD j x = if j = i ∧ i < l.length then v else l.getD j x := by
  simp only [setAt, List.getD_eq_getElem?_getD, List.getElem?_modify]
  by_cases h : i = j
  · subst h
    by_cases hl : i < l.length
    · simp [hl]
    · simp [hl]
  · rw [if_neg (fun e => h e.1.symm)]
    simp [h]

@[simp] theorem length_setAt {α : Type} (l : List α) (i : Nat) (v : α) : (setAt l i v).length = l.length := by
  simp [setAt]

theorem core_setCore (d : Dev) (c j : Nat) (v : Core) :
    (d.setCore c v).core j = if j = c ∧ c < d.chn.length then v else d.core j := getD_setAt _ _ _ _ _

theorem port_setPort (d : Dev) (n j : Nat) (v : Port) :
    (d.setPort n v).port j = if j = n ∧ n < d.mac.length then v else d.port j := getD_setAt _ _ _ _ _

theorem ser_setSer (d : Dev) (u j : Nat) (v : Uart) :
    (d.setSer u v).ser j = if j = u ∧ u < d.uart.length then v else d.ser j := getD_setAt _ _ _ _ _

theorem grp_setGrp (d : Dev) (i j : Nat) (g : GroupSt) :
    (d.setGrp i g).grp j = if j = i ∧ i < d.hrp.groups.length then g else d.grp j := getD_setAt _ _ _ _ _

end Sys2Proof.Machine
end

