-- ==== Sys2Proof/Laws/Notices.lean ====
section
/-!
SUPPORT. What raising a notice and starting a self-test can do: the queue after a notice, the registers it may change, and the
parts of the device that either leaves.
-/
namespace Sys2Proof.Machine

/-- `e` differs from `d` at most in registers, notices, the USB port and the host port. -/
def NoticeFrame (d e : Dev) : Prop :=
  ∃ r n u h, e = { d with regs := r, not := n, usb := u, hrp := h }

theorem NoticeFrame.refl (d : Dev) : NoticeFrame d d := ⟨_, _, _, _, rfl⟩

theorem NoticeFrame.trans {a b c : Dev} (h : NoticeFrame a b) (k : NoticeFrame b c) : NoticeFrame a c := by
  obtain ⟨_, _, _, _, rfl⟩ := h
  obtain ⟨_, _, _, _, rfl⟩ := k
  exact ⟨_, _, _, _, rfl⟩

/-! ### Wakes -/

theorem Dev.prepDwake_frame (d : Dev) (en : Fld) (r : Nat) : NoticeFrame d (d.prepDwake en r) := by
  unfold Dev.prepDwake
  split
  · exact ⟨_, _, _, _, rfl⟩
  · exact .refl d

theorem Dev.prepRwake_frame (d : Dev) (en : Fld) (r : Nat) : NoticeFrame d (d.prepRwake en r) := by
  unfold Dev.prepRwake
  split
  · exact ⟨_, _, _, _, rfl⟩
  · exact .refl d

theorem reg_prepDwake (d : Dev) (en : Fld) (r o : Nat) : (d.prepDwake en r).reg o = d.reg o := by
  unfold Dev.prepDwake; split <;> rfl

theorem reg_prepRwake (d : Dev) (en : Fld) (r o : Nat) (h : o ≠ USB_STAT.RWPEND.base) :
    (d.prepRwake en r).reg o = d.reg o := by
  unfold Dev.prepRwake
  split
  · exact reg_s_other _ _ _ _ _ (by simpa [Fld.off] using h)
  · rfl

@[simp] theorem Dev.prepDwake_not (d : Dev) (en : Fld) (r : Nat) : (d.prepDwake en r).not = d.not := by
  unfold Dev.prepDwake; split <;> rfl

@[simp] theorem Dev.prepRwake_not (d : Dev) (en : Fld) (r : Nat) : (d.prepRwake en r).not = d.not := by
  unfold Dev.prepRwake
  split
  · exact Dev.s_not _ _ _ _
  · rfl

/-! ### Notices -/

/-- A notice changes registers, the queue, the USB port's notices and the wakes, nothing else. -/
theorem Dev.raise_frame (d : Dev) (src code unit : Nat) : NoticeFrame d (d.raise src code unit) := by
  unfold Dev.raise
  split
  · have step : ∀ e : Dev, NoticeFrame d e → NoticeFrame d
        (if e.irqSrc src then (e.prepDwake HRP_WAKE.NOTICE 1).prepRwake USB_RWEN.NOTICE 1 else e) := by
      intro e h
      split
      · exact h.trans ((Dev.prepDwake_frame _ _ _).trans (Dev.prepRwake_frame _ _ _))
      · exact h
    refine step _ ?_
    split
    · split <;> exact ⟨_, _, _, _, rfl⟩
    · exact ⟨_, _, _, _, rfl⟩
  · exact ⟨_, _, _, _, rfl⟩

theorem Dev.raiseOnce_frame (d : Dev) (src code unit key : Nat) : NoticeFrame d (d.raiseOnce src code unit key) := by
  unfold Dev.raiseOnce
  split
  · exact .refl d
  · exact .trans ⟨_, _, _, _, rfl⟩ (Dev.raise_frame _ _ _ _)

/-- With room the notice enters the queue at its end; else the next one says that notices were lost. -/
theorem Dev.raise_not (d : Dev) (src code unit : Nat) :
    (d.raise src code unit).not =
      if d.not.q.length < d.rowsLeft 6 256 then
        { d.not with
          q := d.not.q ++ [noticeWord src code unit d.not.lostNext (d.brt.pos.toNat / 65536)], lostNext := false }
      else { d.not with lostNext := true } := by
  unfold Dev.raise
  split
  · have step : ∀ (e : Dev) (n : Notices), e.not = n →
        (if e.irqSrc src then (e.prepDwake HRP_WAKE.NOTICE 1).prepRwake USB_RWEN.NOTICE 1 else e).not = n := by
      intro e n h
      split
      · rw [Dev.prepRwake_not, Dev.prepDwake_not, h]
      · exact h
    refine step _ _ ?_
    split
    · split <;> rfl
    · rfl
  · rfl

@[simp] theorem Dev.raise_brt (d : Dev) (src code unit : Nat) : (d.raise src code unit).brt = d.brt := by
  obtain ⟨_, _, _, _, h⟩ := d.raise_frame src code unit; rw [h]
@[simp] theorem Dev.raise_evs (d : Dev) (src code unit : Nat) : (d.raise src code unit).evs = d.evs := by
  obtain ⟨_, _, _, _, h⟩ := d.raise_frame src code unit; rw [h]
@[simp] theorem Dev.raise_val (d : Dev) (src code unit : Nat) : (d.raise src code unit).val = d.val := by
  obtain ⟨_, _, _, _, h⟩ := d.raise_frame src code unit; rw [h]
@[simp] theorem Dev.raise_rda (d : Dev) (src code unit : Nat) : (d.raise src code unit).rda = d.rda := by
  obtain ⟨_, _, _, _, h⟩ := d.raise_frame src code unit; rw [h]
@[simp] theorem Dev.raise_chn (d : Dev) (src code unit : Nat) : (d.raise src code unit).chn = d.chn := by
  obtain ⟨_, _, _, _, h⟩ := d.raise_frame src code unit; rw [h]
@[simp] theorem Dev.raise_bnk (d : Dev) (src code unit : Nat) : (d.raise src code unit).bnk = d.bnk := by
  obtain ⟨_, _, _, _, h⟩ := d.raise_frame src code unit; rw [h]
@[simp] theorem Dev.raise_bel (d : Dev) (src code unit : Nat) : (d.raise src code unit).bel = d.bel := by
  obtain ⟨_, _, _, _, h⟩ := d.raise_frame src code unit; rw [h]
@[simp] theorem Dev.raise_mac (d : Dev) (src code unit : Nat) : (d.raise src code unit).mac = d.mac := by
  obtain ⟨_, _, _, _, h⟩ := d.raise_frame src code unit; rw [h]
@[simp] theorem Dev.raise_blw (d : Dev) (src code unit : Nat) : (d.raise src code unit).blw = d.blw := by
  obtain ⟨_, _, _, _, h⟩ := d.raise_frame src code unit; rw [h]
@[simp] theorem Dev.raise_uart (d : Dev) (src code unit : Nat) : (d.raise src code unit).uart = d.uart := by
  obtain ⟨_, _, _, _, h⟩ := d.raise_frame src code unit; rw [h]
@[simp] theorem Dev.raise_tim (d : Dev) (src code unit : Nat) : (d.raise src code unit).tim = d.tim := by
  obtain ⟨_, _, _, _, h⟩ := d.raise_frame src code unit; rw [h]
@[simp] theorem Dev.raise_pwr (d : Dev) (src code unit : Nat) : (d.raise src code unit).pwr = d.pwr := by
  obtain ⟨_, _, _, _, h⟩ := d.raise_frame src code unit; rw [h]
@[simp] theorem Dev.raise_flt (d : Dev) (src code unit : Nat) : (d.raise src code unit).flt = d.flt := by
  obtain ⟨_, _, _, _, h⟩ := d.raise_frame src code unit; rw [h]
@[simp] theorem Dev.raise_boot (d : Dev) (src code unit : Nat) : (d.raise src code unit).boot = d.boot := by
  obtain ⟨_, _, _, _, h⟩ := d.raise_frame src code unit; rw [h]
@[simp] theorem Dev.raise_lck (d : Dev) (src code unit : Nat) : (d.raise src code unit).lck = d.lck := by
  obtain ⟨_, _, _, _, h⟩ := d.raise_frame src code unit; rw [h]
@[simp] theorem Dev.raise_free (d : Dev) (src code unit : Nat) : (d.raise src code unit).free = d.free := by
  obtain ⟨_, _, _, _, h⟩ := d.raise_frame src code unit; rw [h]

@[simp] theorem Dev.raiseOnce_brt (d : Dev) (src code unit key : Nat) : (d.raiseOnce src code unit key).brt = d.brt := by
  obtain ⟨_, _, _, _, h⟩ := d.raiseOnce_frame src code unit key; rw [h]
@[simp] theorem Dev.raiseOnce_evs (d : Dev) (src code unit key : Nat) : (d.raiseOnce src code unit key).evs = d.evs := by
  obtain ⟨_, _, _, _, h⟩ := d.raiseOnce_frame src code unit key; rw [h]
@[simp] theorem Dev.raiseOnce_val (d : Dev) (src code unit key : Nat) : (d.raiseOnce src code unit key).val = d.val := by
  obtain ⟨_, _, _, _, h⟩ := d.raiseOnce_frame src code unit key; rw [h]
@[simp] theorem Dev.raiseOnce_rda (d : Dev) (src code unit key : Nat) : (d.raiseOnce src code unit key).rda = d.rda := by
  obtain ⟨_, _, _, _, h⟩ := d.raiseOnce_frame src code unit key; rw [h]
@[simp] theorem Dev.raiseOnce_chn (d : Dev) (src code unit key : Nat) : (d.raiseOnce src code unit key).chn = d.chn := by
  obtain ⟨_, _, _, _, h⟩ := d.raiseOnce_frame src code unit key; rw [h]
@[simp] theorem Dev.raiseOnce_bnk (d : Dev) (src code unit key : Nat) : (d.raiseOnce src code unit key).bnk = d.bnk := by
  obtain ⟨_, _, _, _, h⟩ := d.raiseOnce_frame src code unit key; rw [h]
@[simp] theorem Dev.raiseOnce_bel (d : Dev) (src code unit key : Nat) : (d.raiseOnce src code unit key).bel = d.bel := by
  obtain ⟨_, _, _, _, h⟩ := d.raiseOnce_frame src code unit key; rw [h]
@[simp] theorem Dev.raiseOnce_mac (d : Dev) (src code unit key : Nat) : (d.raiseOnce src code unit key).mac = d.mac := by
  obtain ⟨_, _, _, _, h⟩ := d.raiseOnce_frame src code unit key; rw [h]
@[simp] theorem Dev.raiseOnce_blw (d : Dev) (src code unit key : Nat) : (d.raiseOnce src code unit key).blw = d.blw := by
  obtain ⟨_, _, _, _, h⟩ := d.raiseOnce_frame src code unit key; rw [h]
@[simp] theorem Dev.raiseOnce_uart (d : Dev) (src code unit key : Nat) : (d.raiseOnce src code unit key).uart = d.uart := by
  obtain ⟨_, _, _, _, h⟩ := d.raiseOnce_frame src code unit key; rw [h]
@[simp] theorem Dev.raiseOnce_tim (d : Dev) (src code unit key : Nat) : (d.raiseOnce src code unit key).tim = d.tim := by
  obtain ⟨_, _, _, _, h⟩ := d.raiseOnce_frame src code unit key; rw [h]
@[simp] theorem Dev.raiseOnce_pwr (d : Dev) (src code unit key : Nat) : (d.raiseOnce src code unit key).pwr = d.pwr := by
  obtain ⟨_, _, _, _, h⟩ := d.raiseOnce_frame src code unit key; rw [h]
@[simp] theorem Dev.raiseOnce_flt (d : Dev) (src code unit key : Nat) : (d.raiseOnce src code unit key).flt = d.flt := by
  obtain ⟨_, _, _, _, h⟩ := d.raiseOnce_frame src code unit key; rw [h]
@[simp] theorem Dev.raiseOnce_boot (d : Dev) (src code unit key : Nat) : (d.raiseOnce src code unit key).boot = d.boot := by
  obtain ⟨_, _, _, _, h⟩ := d.raiseOnce_frame src code unit key; rw [h]
@[simp] theorem Dev.raiseOnce_lck (d : Dev) (src code unit key : Nat) : (d.raiseOnce src code unit key).lck = d.lck := by
  obtain ⟨_, _, _, _, h⟩ := d.raiseOnce_frame src code unit key; rw [h]
@[simp] theorem Dev.raiseOnce_free (d : Dev) (src code unit key : Nat) : (d.raiseOnce src code unit key).free = d.free := by
  obtain ⟨_, _, _, _, h⟩ := d.raiseOnce_frame src code unit key; rw [h]

/-- The registers that a notice may change: the count of lost ones with its flag, the USB drop count, a pending remote
wake. -/
theorem reg_raise (d : Dev) (src code unit o : Nat) (h1 : o ≠ HRP_NOTLOST.base) (h2 : o ≠ HRP_NOTCNT.LOSTF.base)
    (h3 : o ≠ USB_NOTDROP.base) (h4 : o ≠ USB_STAT.RWPEND.base) : (d.raise src code unit).reg o = d.reg o := by
  unfold Dev.raise
  split
  · have step : ∀ e : Dev, e.reg o = d.reg o →
        (if e.irqSrc src then (e.prepDwake HRP_WAKE.NOTICE 1).prepRwake USB_RWEN.NOTICE 1 else e).reg o = d.reg o := by
      intro e h
      split
      · rw [reg_prepRwake _ _ _ _ h4, reg_prepDwake, h]
      · exact h
    refine step _ ?_
    split
    · split
      · rfl
      · exact reg_cnt_other _ _ _ _ _ (by simpa [Fld.off] using h3)
    · rfl
  · rw [reg_s_other _ _ _ _ _ (by simpa [Fld.off] using h2), reg_cnt_other _ _ _ _ _ (by simpa [Fld.off] using h1)]
    rfl

/-! ### Self-tests -/

/-- Starting a self-test changes registers and the lists of tests. -/
theorem Dev.startTest_frame (d : Dev) (kind i row : Nat) :
    ∃ r f, d.startTest kind i row = { d with regs := r, flt := f } := by
  unfold Dev.startTest
  simp only
  repeat' split
  all_goals exact ⟨_, _, rfl⟩

theorem reg_startTest (d : Dev) (kind i row o : Nat) (h1 : o ≠ FLT_NTESTS.base) (h2 : o ≠ FLT_STAT.TESTS.base) :
    (d.startTest kind i row).reg o = d.reg o := by
  unfold Dev.startTest
  simp only
  repeat' split
  · rfl
  · rfl
  · rfl
  · rw [Dev.beginTest, Dev.showTests, reg_s_other _ _ _ _ _ (by simpa [Fld.off] using h2),
      reg_cnt_other _ _ _ _ _ (by simpa [Fld.off] using h1)]
    rfl

@[simp] theorem Dev.startTest_not (d : Dev) (kind i row : Nat) : (d.startTest kind i row).not = d.not := by
  obtain ⟨_, _, h⟩ := d.startTest_frame kind i row; rw [h]
@[simp] theorem Dev.startTest_brt (d : Dev) (kind i row : Nat) : (d.startTest kind i row).brt = d.brt := by
  obtain ⟨_, _, h⟩ := d.startTest_frame kind i row; rw [h]
@[simp] theorem Dev.startTest_evs (d : Dev) (kind i row : Nat) : (d.startTest kind i row).evs = d.evs := by
  obtain ⟨_, _, h⟩ := d.startTest_frame kind i row; rw [h]
@[simp] theorem Dev.startTest_val (d : Dev) (kind i row : Nat) : (d.startTest kind i row).val = d.val := by
  obtain ⟨_, _, h⟩ := d.startTest_frame kind i row; rw [h]
@[simp] theorem Dev.startTest_rda (d : Dev) (kind i row : Nat) : (d.startTest kind i row).rda = d.rda := by
  obtain ⟨_, _, h⟩ := d.startTest_frame kind i row; rw [h]
@[simp] theorem Dev.startTest_chn (d : Dev) (kind i row : Nat) : (d.startTest kind i row).chn = d.chn := by
  obtain ⟨_, _, h⟩ := d.startTest_frame kind i row; rw [h]
@[simp] theorem Dev.startTest_bnk (d : Dev) (kind i row : Nat) : (d.startTest kind i row).bnk = d.bnk := by
  obtain ⟨_, _, h⟩ := d.startTest_frame kind i row; rw [h]
@[simp] theorem Dev.startTest_bel (d : Dev) (kind i row : Nat) : (d.startTest kind i row).bel = d.bel := by
  obtain ⟨_, _, h⟩ := d.startTest_frame kind i row; rw [h]
@[simp] theorem Dev.startTest_mac (d : Dev) (kind i row : Nat) : (d.startTest kind i row).mac = d.mac := by
  obtain ⟨_, _, h⟩ := d.startTest_frame kind i row; rw [h]
@[simp] theorem Dev.startTest_blw (d : Dev) (kind i row : Nat) : (d.startTest kind i row).blw = d.blw := by
  obtain ⟨_, _, h⟩ := d.startTest_frame kind i row; rw [h]
@[simp] theorem Dev.startTest_usb (d : Dev) (kind i row : Nat) : (d.startTest kind i row).usb = d.usb := by
  obtain ⟨_, _, h⟩ := d.startTest_frame kind i row; rw [h]
@[simp] theorem Dev.startTest_uart (d : Dev) (kind i row : Nat) : (d.startTest kind i row).uart = d.uart := by
  obtain ⟨_, _, h⟩ := d.startTest_frame kind i row; rw [h]
@[simp] theorem Dev.startTest_hrp (d : Dev) (kind i row : Nat) : (d.startTest kind i row).hrp = d.hrp := by
  obtain ⟨_, _, h⟩ := d.startTest_frame kind i row; rw [h]
@[simp] theorem Dev.startTest_tim (d : Dev) (kind i row : Nat) : (d.startTest kind i row).tim = d.tim := by
  obtain ⟨_, _, h⟩ := d.startTest_frame kind i row; rw [h]
@[simp] theorem Dev.startTest_pwr (d : Dev) (kind i row : Nat) : (d.startTest kind i row).pwr = d.pwr := by
  obtain ⟨_, _, h⟩ := d.startTest_frame kind i row; rw [h]
@[simp] theorem Dev.startTest_boot (d : Dev) (kind i row : Nat) : (d.startTest kind i row).boot = d.boot := by
  obtain ⟨_, _, h⟩ := d.startTest_frame kind i row; rw [h]
@[simp] theorem Dev.startTest_lck (d : Dev) (kind i row : Nat) : (d.startTest kind i row).lck = d.lck := by
  obtain ⟨_, _, h⟩ := d.startTest_frame kind i row; rw [h]
@[simp] theorem Dev.startTest_free (d : Dev) (kind i row : Nat) : (d.startTest kind i row).free = d.free := by
  obtain ⟨_, _, h⟩ := d.startTest_frame kind i row; rw [h]

end Sys2Proof.Machine
end

