-- ==== Sys2Proof/Laws/Memory.lean ====
section
/-!
SUPPORT. Laws of the banks' memory and of the flash: read after write for a run of bytes, and that every operation keeps the
canonical form (`Memory.wf`, `swf`).
-/
namespace Sys2Proof.Machine

/-! ### Runs of bytes -/

/-- What an address reads as after a run of bytes is stored. -/
theorem sget_memPut (l : List Byte) (m : Sparse Byte) (a x : Nat) :
    sget 0 x (memPut m a l) = if a ≤ x ∧ x < a + l.length then l.getD (x - a) 0 else sget 0 x m := by
  induction l generalizing m a with
  | nil => simp only [memPut, List.length_nil]; rw [if_neg (by omega)]
  | cons b t ih =>
    simp only [memPut, ih, sget_sput, List.length_cons]
    by_cases h : x = a
    · subst h
      rw [if_neg (by omega), if_pos rfl, if_pos (by omega)]
      simp
    · by_cases h2 : a ≤ x ∧ x < a + (t.length + 1)
      · rw [if_pos (by omega), if_pos h2]
        obtain ⟨k, hk⟩ : ∃ k, x - a = k + 1 := ⟨x - a - 1, by omega⟩
        rw [show x - (a + 1) = k by omega, hk]
        simp
      · rw [if_neg (by omega), if_neg h, if_neg h2]

/-- The bytes of a run read back. -/
theorem memBytes_memPut (l : List Byte) (m : Sparse Byte) (a : Nat) : memBytes (memPut m a l) a l.length = l := by
  induction l generalizing m a with
  | nil => rfl
  | cons b t ih =>
    simp only [memPut, List.length_cons, memBytes, ih]
    rw [sget_memPut, if_neg (by omega), sget_sput_same]

@[simp] theorem length_memBytes (m : Sparse Byte) (a n : Nat) : (memBytes m a n).length = n := by
  induction n generalizing a with
  | zero => rfl
  | succ n ih => simp [memBytes, ih]

@[simp] theorem Dev.putMem_mem (d : Dev) (a : Nat) (l : List Byte) : (d.putMem a l).bnk.mem = memPut d.bnk.mem a l := rfl

/-! ### The canonical form of the banks' memory -/

theorem memPut_wf (l : List Byte) (m : Sparse Byte) (a : Nat) (h : Memory.wf m = true) : Memory.wf (memPut m a l) = true := by
  induction l generalizing m a with
  | nil => exact h
  | cons b t ih => exact ih _ _ (swf_sput (fun _ => 0) a b m h)

/-- Reset memory lists nothing. -/
theorem reset_memory_wf : Memory.wf State.reset.dev.bnk.mem = true := rfl

/-- A property that each element's step keeps holds after the whole fold. -/
theorem foldl_keeps {α β : Type} (P : β → Prop) (f : β → α → β) (l : List α) (b : β) (h : P b)
    (hs : ∀ b a, P b → P (f b a)) : P (l.foldl f b) := by
  induction l generalizing b with
  | nil => exact h
  | cons a t ih => exact ih _ (hs _ _ h)

/-- The banks' memory is in canonical form. -/
structure Dev.MemWf (d : Dev) : Prop where
  form : Memory.wf d.bnk.mem = true

theorem Dev.MemWf.of_eq {d e : Dev} (h : d.MemWf) (he : e.bnk.mem = d.bnk.mem) : e.MemWf := ⟨he ▸ h.form⟩

theorem Dev.putMem_wf (d : Dev) (a : Nat) (l : List Byte) (h : d.MemWf) : (d.putMem a l).MemWf :=
  ⟨memPut_wf _ _ _ h.form⟩

@[simp] theorem Dev.showPoison_bnk (d : Dev) (b : Nat) : (d.showPoison b).bnk = d.bnk := Dev.s_bnk _ _ _ _

@[simp] theorem Dev.poison_mem (d : Dev) (w : Nat) : (d.poison w).bnk.mem = d.bnk.mem := by
  unfold Dev.poison
  split
  · rfl
  · rw [Dev.showPoison_bnk]

@[simp] theorem Dev.unpoison_mem (d : Dev) (w : Nat) : (d.unpoison w).bnk.mem = d.bnk.mem := by
  unfold Dev.unpoison
  split
  · rw [Dev.showPoison_bnk]
  · rfl

@[simp] theorem Dev.poisonRow_mem (d : Dev) (b r : Nat) : (d.poisonRow b r).bnk.mem = d.bnk.mem := by
  unfold Dev.poisonRow
  exact foldl_keeps (fun e : Dev => e.bnk.mem = d.bnk.mem) (fun d k => d.poison (b * 32768 + r * 8 + k)) _ _ rfl
    (fun e a h => by rw [Dev.poison_mem]; exact h)

@[simp] theorem Dev.eccSingle_mem (d : Dev) (w : Nat) : (d.eccSingle w).bnk.mem = d.bnk.mem := by
  unfold Dev.eccSingle
  split
  · rfl
  · rw [Dev.startTest_bnk, Dev.s_bnk, Dev.cnt_bnk]

theorem Dev.eccDouble_wf (d : Dev) (w : Nat) (h : d.MemWf) : (d.eccDouble w).MemWf := by
  unfold Dev.eccDouble
  split
  · exact h
  · refine Dev.MemWf.of_eq (Dev.putMem_wf d.drawn (w * 8) (leBytes 8 (d.draw 64).toNat) ⟨h.form⟩) ?_
    simp only [Dev.startTest_bnk, Dev.raise_bnk, Dev.s_bnk, Dev.cnt_bnk, Dev.poison_mem]

theorem Dev.eccEvents_wf (d : Dev) (a n : Nat) (ecc : List Ecc) (h : d.MemWf) : (d.eccEvents a n ecc).MemWf := by
  unfold Dev.eccEvents
  exact foldl_keeps Dev.MemWf _ _ _ h (fun e x he => by
    cases x
    · simp only; split
      · exact he.of_eq (Dev.eccSingle_mem _ _)
      · exact he
    · simp only; split
      · exact Dev.eccDouble_wf _ _ he
      · exact he)

@[simp] theorem Dev.memRead_bnk (d : Dev) (a n : Nat) : (d.memRead a n).1.bnk = d.bnk := by
  unfold Dev.memRead; exact Dev.cnt_bnk _ _ _ _

theorem Dev.wordWrite_wf (d : Dev) (a : Nat) (l : List Byte) (h : d.MemWf) : (d.wordWrite a l).MemWf := by
  unfold Dev.wordWrite
  simp only
  split
  · exact (Dev.putMem_wf _ _ _ (Dev.putMem_wf _ _ _ h)).of_eq (Dev.unpoison_mem _ _)
  · exact (Dev.putMem_wf _ _ _ h).of_eq (Dev.unpoison_mem _ _)

theorem Dev.memWrite_wf (d : Dev) (a : Nat) (l : List Byte) (h : d.MemWf) : (d.memWrite a l).MemWf := by
  unfold Dev.memWrite
  exact foldl_keeps Dev.MemWf _ _ _ h (fun _ _ he => Dev.wordWrite_wf _ _ _ he)

theorem Dev.drainOwner_wf (d : Dev) (b o : Nat) (h : d.MemWf) : (d.drainOwner b o).MemWf := by
  unfold Dev.drainOwner
  split
  · simp only
    refine Dev.MemWf.of_eq ?_ (congrArg Banks.mem (Dev.setCore_bnk _ _ _))
    exact foldl_keeps Dev.MemWf _ _ _ h (fun _ _ he => Dev.memWrite_wf _ _ _ he)
  · split
    · have hw : ∀ l : List ApWrite,
          (l.foldl (fun d e => e.data.foldl (fun (d : Dev) p => d.memWrite p.1 [p.2]) d) d).MemWf :=
        fun l => foldl_keeps Dev.MemWf _ _ _ h
          (fun _ _ he => foldl_keeps Dev.MemWf _ _ _ he (fun _ _ hf => Dev.memWrite_wf _ _ _ hf))
      exact ⟨(hw _).form⟩
    · exact h

@[simp] theorem Dev.closeHandover_mem (d : Dev) (b : Nat) (g : Bool) : (d.closeHandover b g).bnk.mem = d.bnk.mem := by
  unfold Dev.closeHandover
  simp only
  split <;> rw [Dev.s_bnk]

theorem Dev.settle_wf (d : Dev) (b : Nat) (g : Bool) (h : d.MemWf) : (d.settle b g).MemWf := by
  unfold Dev.settle
  split
  · refine Dev.MemWf.of_eq ?_ (Dev.closeHandover_mem _ _ _)
    split
    · exact h
    · exact Dev.drainOwner_wf _ _ _ h
  · exact h

theorem Dev.settled_wf (d : Dev) (b : Nat) (h : d.MemWf) : (d.settled b).MemWf :=
  Dev.settle_wf _ _ _ (Dev.settle_wf _ _ _ h)

@[simp] theorem Dev.deny_bnk (d : Dev) (b a : Nat) (w : Bool) : (d.deny b a w).bnk = d.bnk := by
  unfold Dev.deny
  refine (Dev.s_bnk _ _ _ _).trans ((Dev.s_bnk _ _ _ _).trans ((Dev.s_bnk _ _ _ _).trans ((Dev.s_bnk _ _ _ _).trans ?_)))
  exact (Dev.s_bnk _ _ _ _).trans (Dev.cnt_bnk _ _ _ _)

theorem Dev.bnkRow_wf (d : Dev) (agent a n : Nat) (h : d.MemWf) : (d.bnkRow agent a n).dev.MemWf := by
  unfold Dev.bnkRow
  simp only
  split
  · exact (Dev.settled_wf _ _ h).of_eq (congrArg Banks.mem (Dev.memRead_bnk _ _ _))
  · exact (Dev.settled_wf _ _ h).of_eq (congrArg Banks.mem (Dev.deny_bnk _ _ _ _))

theorem Dev.bnkRowWrite_wf (d : Dev) (agent a : Nat) (l : List Byte) (h : d.MemWf) : (d.bnkRowWrite agent a l).dev.MemWf := by
  unfold Dev.bnkRowWrite
  simp only
  split
  · exact Dev.memWrite_wf _ _ _ (Dev.settled_wf _ _ h)
  · exact (Dev.settled_wf _ _ h).of_eq (congrArg Banks.mem (Dev.deny_bnk _ _ _ _))

/-- A read of a range (it completes a handover that it meets) keeps the form. -/
theorem Dev.bnkRead_wf (d : Dev) (agent a n : Nat) (h : d.MemWf) : (d.bnkRead agent a n).dev.MemWf := by
  unfold Dev.bnkRead
  exact foldl_keeps (fun r : BnkRes => r.dev.MemWf) _ _ _ h (fun r p hr => by
    split
    · exact hr
    · exact Dev.bnkRow_wf _ _ _ _ hr)

/-- A write of a range keeps the form. -/
theorem Dev.bnkWrite_wf (d : Dev) (agent a : Nat) (l : List Byte) (h : d.MemWf) : (d.bnkWrite agent a l).dev.MemWf := by
  unfold Dev.bnkWrite
  exact foldl_keeps (fun r : BnkRes => r.dev.MemWf) _ _ _ h (fun r p hr => by
    split
    · exact hr
    · exact Dev.bnkRowWrite_wf _ _ _ _ hr)

/-- An atomic keeps the form. -/
theorem Dev.bnkAtomic_wf (d : Dev) (agent a : Nat) (c w : Bool) (x y : BitVec 64) (h : d.MemWf) :
    (d.bnkAtomic agent a c w x y).dev.MemWf := by
  unfold Dev.bnkAtomic
  simp only
  split
  · have hr : ((d.settled (bankOf a)).memRead a (if w then 8 else 4)).1.MemWf :=
      (Dev.settled_wf _ _ h).of_eq (congrArg Banks.mem (Dev.memRead_bnk _ _ _))
    split
    · exact Dev.memWrite_wf _ _ _ hr
    · exact hr
  · exact (Dev.settled_wf _ _ h).of_eq (congrArg Banks.mem (Dev.deny_bnk _ _ _ _))

/-- A bank fill of the image keeps the form. -/
theorem Dev.fillBank_wf (d : Dev) (a : Nat) (l : List Byte) (h : d.MemWf) : (d.fillBank a l).MemWf := by
  unfold Dev.fillBank
  simp only
  have hp : ∀ (p : List (Nat × Byte)) (e : Dev), e.MemWf →
      (p.foldl (fun (d : Dev) e => { d with bnk := { d.bnk with mem := sput 0 (a + e.1) e.2 d.bnk.mem } }) e).MemWf :=
    fun p e he => foldl_keeps Dev.MemWf _ _ _ he (fun _ _ hx => ⟨swf_sput (fun _ => 0) _ _ _ hx.form⟩)
  split
  · exact (hp _ _ h).of_eq (congrArg Banks.mem (Dev.cnt_bnk _ _ _ _))
  · exact hp _ _ h

/-! ### The canonical form of the flash -/

theorem Flash.erase_wf (f : Flash) (a : Nat) (h : swf (fun _ => 0xFF) f.mem = true) :
    swf (fun _ => 0xFF) (f.erase a).mem = true := swf_filter _ _ _ h

theorem Flash.prog_wf (l : List Byte) (f : Flash) (a : Nat) (h : swf (fun _ => 0xFF) f.mem = true) :
    swf (fun _ => 0xFF) (f.prog a l).mem = true := by
  induction l generalizing f a with
  | nil => exact h
  | cons b t ih => exact ih _ _ (swf_sput (fun _ => 0xFF) a _ f.mem h)

theorem Flash.apply_wf (f : Flash) (o : FlashOp) (h : swf (fun _ => 0xFF) f.mem = true) :
    swf (fun _ => 0xFF) (f.apply o).mem = true := by
  cases o
  · exact Flash.erase_wf _ _ h
  · exact Flash.prog_wf _ _ _ h

@[simp] theorem Flash.prog_kind (l : List Byte) (f : Flash) (a : Nat) : (f.prog a l).kind = f.kind := by
  induction l generalizing f a with
  | nil => rfl
  | cons b t ih => exact (ih _ _).trans rfl

end Sys2Proof.Machine
end

