-- ==== Sys2Proof/Laws/PerInstr.lean ====
section
/-!
SUPPORT. Laws stated for each command as syntax. Family Wf: the address modes that a well-formed command names are the five of
R299, so that no meaning meets a reserved one.
-/
namespace Sys2Proof

/-- The address mode of a move. -/
def Mv.modes : Mv → List (BitVec 3)
  | .none => []
  | .load _ _ m => [m]
  | .store _ _ m => [m]

/-- The address modes that a command names. -/
def Instr.modes : Instr → List (BitVec 3)
  | .nop _ (.moves xm ym _) => xm.modes ++ ym.modes
  | .cmac _ _ _ _ xm ym => xm.modes ++ ym.modes
  | .cmsu _ _ _ _ xm ym => xm.modes ++ ym.modes
  | .cmpy _ _ _ _ xm ym => xm.modes ++ ym.modes
  | .cmacj _ _ _ _ xm ym => xm.modes ++ ym.modes
  | .dmac _ _ _ _ xm ym => xm.modes ++ ym.modes
  | .mac _ _ _ _ _ _ xm ym => xm.modes ++ ym.modes
  | .msu _ _ _ _ _ _ xm ym => xm.modes ++ ym.modes
  | .mpy _ _ _ _ _ _ xm ym => xm.modes ++ ym.modes
  | .mag _ _ _ xm ym => xm.modes ++ ym.modes
  | .add _ _ _ xm ym => xm.modes ++ ym.modes
  | .sub _ _ _ xm ym => xm.modes ++ ym.modes
  | .tfr _ _ _ xm ym => xm.modes ++ ym.modes
  | .addx _ _ _ _ xm ym => xm.modes ++ ym.modes
  | .neg _ _ xm ym => xm.modes ++ ym.modes
  | .abs _ _ xm ym => xm.modes ++ ym.modes
  | .clr _ _ xm ym => xm.modes ++ ym.modes
  | .asl _ _ _ xm ym => xm.modes ++ ym.modes
  | .asr _ _ _ xm ym => xm.modes ++ ym.modes
  | .and _ _ _ xm ym => xm.modes ++ ym.modes
  | .or _ _ _ xm ym => xm.modes ++ ym.modes
  | .xor _ _ _ xm ym => xm.modes ++ ym.modes
  | .maxi _ _ xm ym => xm.modes ++ ym.modes
  | .mini _ _ xm ym => xm.modes ++ ym.modes
  | .maxmin _ _ xm ym => xm.modes ++ ym.modes
  | .clrmx _ xm ym => xm.modes ++ ym.modes
  | .movp _ _ _ _ _ m _ => [m]
  | _ => []

theorem Mv.wf_modes (v : Mv) (h : v.wf = true) : ∀ m ∈ v.modes, m ≤ 4 := by
  cases v <;> simp_all [Mv.wf, Mv.modes]

theorem none_wf : ∀ m ∈ ([] : List (BitVec 3)), m ≤ 4 := by simp

theorem one_wf (m : BitVec 3) (h : decide (m ≤ 4) = true) : ∀ k ∈ [m], k ≤ 4 := by simpa using h

theorem both_wf (x y : Mv) (h : (x.wf && y.wf) = true) : ∀ m ∈ x.modes ++ y.modes, m ≤ 4 := by
  simp only [Bool.and_eq_true] at h
  intro m hm
  rcases List.mem_append.1 hm with hm | hm
  · exact Mv.wf_modes x h.1 m hm
  · exact Mv.wf_modes y h.2 m hm

namespace Laws

/-- A well-formed command names no reserved address mode (R299). -/
def Wf.Statement (i : Instr) : Prop := i.wf = true → ∀ m ∈ i.modes, m ≤ 4

theorem Wf.resetNRise (qio33 otpBad : Bool) : Statement (.resetNRise qio33 otpBad) := fun _ => none_wf
theorem Wf.bodyReadComplete (rowFails : List (BitVec 4 × Nat)) : Statement (.bodyReadComplete rowFails) := fun _ => none_wf
theorem Wf.reload (ag : Agent) : Statement (.reload ag) := fun _ => none_wf
theorem Wf.start (ag : Agent) : Statement (.start ag) := fun _ => none_wf
theorem Wf.programBody (ag : Agent) : Statement (.programBody ag) := fun _ => none_wf
theorem Wf.verify (ag : Agent) : Statement (.verify ag) := fun _ => none_wf
theorem Wf.record (ag : Agent) : Statement (.record ag) := fun _ => none_wf
theorem Wf.commit (ag : Agent) : Statement (.commit ag) := fun _ => none_wf
theorem Wf.abort (ag : Agent) : Statement (.abort ag) := fun _ => none_wf
theorem Wf.cfgCmdend (opsDone : Nat) (flashFail : Bool) : Statement (.cfgCmdend opsDone flashFail) := fun _ => none_wf
theorem Wf.pmReload (c : BitVec 4) : Statement (.pmReload c) := fun _ => none_wf
theorem Wf.blockStart (parity : List (BitVec 5)) : Statement (.blockStart parity) := fun _ => none_wf
theorem Wf.eventIntake (c : BitVec 4) (err : Option StoreErr) : Statement (.eventIntake c err) := fun _ => none_wf
theorem Wf.allOff (bothBad : Bool) : Statement (.allOff bothBad) := fun _ => none_wf
theorem Wf.ingressWindowWrite (ag : Agent) (off : BitVec 12) (data : List Byte) : Statement (.ingressWindowWrite ag off data) := fun _ => none_wf
theorem Wf.reedPrefetch (reed : BitVec 12) (osc : BitVec 2) (burst : Burst) : Statement (.reedPrefetch reed osc burst) := fun _ => none_wf
theorem Wf.invalidate (num : BitVec 10) : Statement (.invalidate num) := fun _ => none_wf
theorem Wf.validate (num : BitVec 10) : Statement (.validate num) := fun _ => none_wf
theorem Wf.rdaPlibWrite (ag : Agent) (v : Word) : Statement (.rdaPlibWrite ag v) := fun _ => none_wf
theorem Wf.rdaRselWrite (ag : Agent) (v : Word) : Statement (.rdaRselWrite ag v) := fun _ => none_wf
theorem Wf.valSpill2Write (ag : Agent) (v : Word) : Statement (.valSpill2Write ag v) := fun _ => none_wf
theorem Wf.nop (c : BitVec 4) (form : NopForm) : Statement (.nop c form) := by
  cases form
  · exact both_wf _ _
  · exact fun _ => none_wf
  · exact fun _ => none_wf
theorem Wf.cmac (c : BitVec 4) (k a b : BitVec 2) (xm ym : Mv) : Statement (.cmac c k a b xm ym) := both_wf xm ym
theorem Wf.cmsu (c : BitVec 4) (k a b : BitVec 2) (xm ym : Mv) : Statement (.cmsu c k a b xm ym) := both_wf xm ym
theorem Wf.cmpy (c : BitVec 4) (k a b : BitVec 2) (xm ym : Mv) : Statement (.cmpy c k a b xm ym) := both_wf xm ym
theorem Wf.cmacj (c : BitVec 4) (k a b : BitVec 2) (xm ym : Mv) : Statement (.cmacj c k a b xm ym) := both_wf xm ym
theorem Wf.dmac (c : BitVec 4) (k a b : BitVec 2) (xm ym : Mv) : Statement (.dmac c k a b xm ym) := both_wf xm ym
theorem Wf.mac (c : BitVec 4) (d : BitVec 3) (a : BitVec 2) (hx : BitVec 1) (b : BitVec 2) (hy : BitVec 1) (xm ym : Mv) : Statement (.mac c d a hx b hy xm ym) := both_wf xm ym
theorem Wf.msu (c : BitVec 4) (d : BitVec 3) (a : BitVec 2) (hx : BitVec 1) (b : BitVec 2) (hy : BitVec 1) (xm ym : Mv) : Statement (.msu c d a hx b hy xm ym) := both_wf xm ym
theorem Wf.mpy (c : BitVec 4) (d : BitVec 3) (a : BitVec 2) (hx : BitVec 1) (b : BitVec 2) (hy : BitVec 1) (xm ym : Mv) : Statement (.mpy c d a hx b hy xm ym) := both_wf xm ym
theorem Wf.mag (c : BitVec 4) (d : BitVec 3) (a : BitVec 2) (xm ym : Mv) : Statement (.mag c d a xm ym) := both_wf xm ym
theorem Wf.add (c : BitVec 4) (d s : BitVec 3) (xm ym : Mv) : Statement (.add c d s xm ym) := both_wf xm ym
theorem Wf.sub (c : BitVec 4) (d s : BitVec 3) (xm ym : Mv) : Statement (.sub c d s xm ym) := both_wf xm ym
theorem Wf.tfr (c : BitVec 4) (d s : BitVec 3) (xm ym : Mv) : Statement (.tfr c d s xm ym) := both_wf xm ym
theorem Wf.addx (c : BitVec 4) (d : BitVec 3) (a : BitVec 2) (hx : BitVec 1) (xm ym : Mv) : Statement (.addx c d a hx xm ym) := both_wf xm ym
theorem Wf.neg (c : BitVec 4) (d : BitVec 3) (xm ym : Mv) : Statement (.neg c d xm ym) := both_wf xm ym
theorem Wf.abs (c : BitVec 4) (d : BitVec 3) (xm ym : Mv) : Statement (.abs c d xm ym) := both_wf xm ym
theorem Wf.clr (c : BitVec 4) (d : BitVec 3) (xm ym : Mv) : Statement (.clr c d xm ym) := both_wf xm ym
theorem Wf.asl (c : BitVec 4) (d : BitVec 3) (s : BitVec 5) (xm ym : Mv) : Statement (.asl c d s xm ym) := both_wf xm ym
theorem Wf.asr (c : BitVec 4) (d : BitVec 3) (s : BitVec 5) (xm ym : Mv) : Statement (.asr c d s xm ym) := both_wf xm ym
theorem Wf.and (c : BitVec 4) (a b : BitVec 2) (xm ym : Mv) : Statement (.and c a b xm ym) := both_wf xm ym
theorem Wf.or (c : BitVec 4) (a b : BitVec 2) (xm ym : Mv) : Statement (.or c a b xm ym) := both_wf xm ym
theorem Wf.xor (c : BitVec 4) (a b : BitVec 2) (xm ym : Mv) : Statement (.xor c a b xm ym) := both_wf xm ym
theorem Wf.maxi (c : BitVec 4) (src : MaxSrc) (xm ym : Mv) : Statement (.maxi c src xm ym) := both_wf xm ym
theorem Wf.mini (c : BitVec 4) (src : MaxSrc) (xm ym : Mv) : Statement (.mini c src xm ym) := both_wf xm ym
theorem Wf.maxmin (c : BitVec 4) (src : MaxSrc) (xm ym : Mv) : Statement (.maxmin c src xm ym) := both_wf xm ym
theorem Wf.clrmx (c : BitVec 4) (xm ym : Mv) : Statement (.clrmx c xm ym) := both_wf xm ym
theorem Wf.ldi (c : BitVec 4) (reg : BitVec 8) (imm : Word) : Statement (.ldi c reg imm) := fun _ => none_wf
theorem Wf.mova (c : BitVec 4) (store ySpace : Bool) (reg : BitVec 8) (addr : Half) (err : Option MemErr) : Statement (.mova c store ySpace reg addr err) := fun _ => none_wf
theorem Wf.movp (c : BitVec 4) (store ySpace : Bool) (reg : BitVec 8) (p mode : BitVec 3) (err : Option MemErr) : Statement (.movp c store ySpace reg p mode err) := one_wf mode
theorem Wf.movr (c : BitVec 4) (dst src : BitVec 8) : Statement (.movr c dst src) := fun _ => none_wf
theorem Wf.bra (c : BitVec 4) (cond : BitVec 4) (target : BitVec 14) : Statement (.bra c cond target) := fun _ => none_wf
theorem Wf.call (c : BitVec 4) (target : BitVec 14) : Statement (.call c target) := fun _ => none_wf
theorem Wf.ret (c : BitVec 4) (cond : BitVec 4) : Statement (.ret c cond) := fun _ => none_wf
theorem Wf.rti (c : BitVec 4) : Statement (.rti c) := fun _ => none_wf
theorem Wf.rep (c : BitVec 4) (count : Half) (le : BitVec 14) : Statement (.rep c count le) := fun _ => none_wf
theorem Wf.repr (c : BitVec 4) (reg : BitVec 8) (le : BitVec 14) : Statement (.repr c reg le) := fun _ => none_wf
theorem Wf.evpost (c : BitVec 4) (a b : BitVec 2) : Statement (.evpost c a b) := fun _ => none_wf
theorem Wf.pmw (c : BitVec 4) (a : BitVec 2) (p : BitVec 3) : Statement (.pmw c a p) := fun _ => none_wf
theorem Wf.pmr (c : BitVec 4) (a : BitVec 2) (p : BitVec 3) : Statement (.pmr c a p) := fun _ => none_wf
theorem Wf.syncp (c : BitVec 4) : Statement (.syncp c) := fun _ => none_wf
theorem Wf.waitb (c : BitVec 4) : Statement (.waitb c) := fun _ => none_wf
theorem Wf.linv (c : BitVec 4) : Statement (.linv c) := fun _ => none_wf
theorem Wf.lopen (c : BitVec 4) : Statement (.lopen c) := fun _ => none_wf
theorem Wf.notify (c : BitVec 4) (v : Half) : Statement (.notify c v) := fun _ => none_wf
theorem Wf.stop (c : BitVec 4) : Statement (.stop c) := fun _ => none_wf
theorem Wf.interruptAccept (c : BitVec 4) : Statement (.interruptAccept c) := fun _ => none_wf
theorem Wf.storeBufferDrain (c : BitVec 4) : Statement (.storeBufferDrain c) := fun _ => none_wf
theorem Wf.windowLineFill (c : BitVec 4) (ySpace : Bool) : Statement (.windowLineFill c ySpace) := fun _ => none_wf
theorem Wf.windowTimeout (c : BitVec 4) (ySpace : Bool) : Statement (.windowTimeout c ySpace) := fun _ => none_wf
theorem Wf.outsideAccess (ag : Agent) (c : BitVec 4) (mem : CMem) (off : BitVec 18) (wide : Bool) (write : Option (BitVec 64)) : Statement (.outsideAccess ag c mem off wide write) := fun _ => none_wf
theorem Wf.chnPowerOff (ag : Agent) (c : BitVec 4) : Statement (.chnPowerOff ag c) := fun _ => none_wf
theorem Wf.chnPowerOn (ag : Agent) (c : BitVec 4) : Statement (.chnPowerOn ag c) := fun _ => none_wf
theorem Wf.restart (ag : Agent) (c : BitVec 4) : Statement (.restart ag c) := fun _ => none_wf
theorem Wf.door (ag : Agent) (c : BitVec 4) : Statement (.door ag c) := fun _ => none_wf
theorem Wf.chnWindowWrite (ag : Agent) (c : BitVec 4) (ySpace : Bool) (v : Word) : Statement (.chnWindowWrite ag c ySpace v) := fun _ => none_wf
theorem Wf.coreRegisterViewWrite (ag : Agent) (c : BitVec 4) (off : BitVec 11) (v : Word) : Statement (.coreRegisterViewWrite ag c off v) := fun _ => none_wf
theorem Wf.bankPortOperation (bank : BitVec 7) (owner guest : Option BankOp) (guestDue : Bool) (ecc : List Ecc) : Statement (.bankPortOperation bank owner guest guestDue ecc) := fun _ => none_wf
theorem Wf.bnkOwnWrite (ag : Agent) (bank : BitVec 7) (v : Word) : Statement (.bnkOwnWrite ag bank v) := fun _ => none_wf
theorem Wf.handoverComplete (bank : BitVec 7) : Statement (.handoverComplete bank) := fun _ => none_wf
theorem Wf.handoverForced (bank : BitVec 7) : Statement (.handoverForced bank) := fun _ => none_wf
theorem Wf.bnkGuestWrite (ag : Agent) (bank : BitVec 7) (v : Word) : Statement (.bnkGuestWrite ag bank v) := fun _ => none_wf
theorem Wf.salvageEnd (bank : BitVec 7) : Statement (.salvageEnd bank) := fun _ => none_wf
theorem Wf.bellRowFetch (ch : BitVec 7) : Statement (.bellRowFetch ch) := fun _ => none_wf
theorem Wf.hmuteWrite (ag : Agent) (on : Bool) : Statement (.hmuteWrite ag on) := fun _ => none_wf
theorem Wf.belPlatWrite (ag : Agent) (v : Word) : Statement (.belPlatWrite ag v) := fun _ => none_wf
theorem Wf.readbackWindow (lo : BitVec 3) (diff : Half) : Statement (.readbackWindow lo diff) := fun _ => none_wf
theorem Wf.readbackTestStepEnd (lo : BitVec 3) (pass : Bool) : Statement (.readbackTestStepEnd lo pass) := fun _ => none_wf
theorem Wf.loCurrentLimit (lo : BitVec 3) : Statement (.loCurrentLimit lo) := fun _ => none_wf
theorem Wf.loShortRetry (lo : BitVec 3) (holds : Bool) : Statement (.loShortRetry lo holds) := fun _ => none_wf
theorem Wf.coComplianceFlag (co : BitVec 2) : Statement (.coComplianceFlag co) := fun _ => none_wf
theorem Wf.coLoadRetry (co : BitVec 2) (holds : Bool) : Statement (.coLoadRetry co holds) := fun _ => none_wf
theorem Wf.sapFrame (port : BitVec 2) (slots : List Word) (bclks : Nat) : Statement (.sapFrame port slots bclks) := fun _ => none_wf
theorem Wf.sapClockLoss (port : BitVec 2) : Statement (.sapClockLoss port) := fun _ => none_wf
theorem Wf.brtSrcWrite (ag : Agent) (src : BitVec 3) : Statement (.brtSrcWrite ag src) := fun _ => none_wf
theorem Wf.rebase (ag : Agent) : Statement (.rebase ag) := fun _ => none_wf
theorem Wf.brtPosRead (ag : Agent) : Statement (.brtPosRead ag) := fun _ => none_wf
theorem Wf.pllRelockRetry (locked : Bool) : Statement (.pllRelockRetry locked) := fun _ => none_wf
theorem Wf.linkUp (port : BitVec 2) : Statement (.linkUp port) := fun _ => none_wf
theorem Wf.linkDown (port : BitVec 2) : Statement (.linkDown port) := fun _ => none_wf
theorem Wf.autoNegotiationFail (port : BitVec 2) : Statement (.autoNegotiationFail port) := fun _ => none_wf
theorem Wf.macModeWrite (ag : Agent) (port : BitVec 2) (v : Word) : Statement (.macModeWrite ag port v) := fun _ => none_wf
theorem Wf.frameReceive (port : BitVec 2) (frame : Frame) : Statement (.frameReceive port frame) := fun _ => none_wf
theorem Wf.frameDelivery (port : BitVec 2) : Statement (.frameDelivery port) := fun _ => none_wf
theorem Wf.frameTransmit (port : BitVec 2) : Statement (.frameTransmit port) := fun _ => none_wf
theorem Wf.lpiEntry (port : BitVec 2) : Statement (.lpiEntry port) := fun _ => none_wf
theorem Wf.lpiExit (port : BitVec 2) : Statement (.lpiExit port) := fun _ => none_wf
theorem Wf.lldpTransmit (port : BitVec 2) : Statement (.lldpTransmit port) := fun _ => none_wf
theorem Wf.lldpTtlExpiry (port : BitVec 2) : Statement (.lldpTtlExpiry port) := fun _ => none_wf
theorem Wf.lecClear (ag : Agent) (port : BitVec 2) : Statement (.lecClear ag port) := fun _ => none_wf
theorem Wf.workRequestStart (q : BitVec 6) : Statement (.workRequestStart q) := fun _ => none_wf
theorem Wf.packetSend (tag : BitVec 12) : Statement (.packetSend tag) := fun _ => none_wf
theorem Wf.write (collided : Option (BitVec 6)) : Statement (.write collided) := fun _ => none_wf
theorem Wf.send (collided : Option (BitVec 6)) : Statement (.send collided) := fun _ => none_wf
theorem Wf.atomicAdd (collided : Bool) : Statement (.atomicAdd collided) := fun _ => none_wf
theorem Wf.cas (collided : Bool) : Statement (.cas collided) := fun _ => none_wf
theorem Wf.ackDelayExpiry (src tag : BitVec 12) : Statement (.ackDelayExpiry src tag) := fun _ => none_wf
theorem Wf.retransmitTimeout (tag : BitVec 12) (psn : BitVec 13) : Statement (.retransmitTimeout tag psn) := fun _ => none_wf
theorem Wf.nakResendWaitEnd (tag : BitVec 12) (psn : BitVec 13) : Statement (.nakResendWaitEnd tag psn) := fun _ => none_wf
theorem Wf.messageLifetimeEnd (tag : BitVec 12) : Statement (.messageLifetimeEnd tag) := fun _ => none_wf
theorem Wf.recordExpiry (src tag : BitVec 12) : Statement (.recordExpiry src tag) := fun _ => none_wf
theorem Wf.completionSpaceWaitEnd (cq : BitVec 6) : Statement (.completionSpaceWaitEnd cq) := fun _ => none_wf
theorem Wf.hostAtomicGo (ag : Agent) : Statement (.hostAtomicGo ag) := fun _ => none_wf
theorem Wf.transportEnable (ag : Agent) (v : Word) : Statement (.transportEnable ag v) := fun _ => none_wf
theorem Wf.transportDisable (ag : Agent) (v : Word) : Statement (.transportDisable ag v) := fun _ => none_wf
theorem Wf.keyLoad (ag : Agent) : Statement (.keyLoad ag) := fun _ => none_wf
theorem Wf.keyEpoch (ag : Agent) (slot : BitVec 4) : Statement (.keyEpoch ag slot) := fun _ => none_wf
theorem Wf.keyErase (ag : Agent) (slot : BitVec 4) : Statement (.keyErase ag slot) := fun _ => none_wf
theorem Wf.mrAttrWrite (ag : Agent) (v : Word) : Statement (.mrAttrWrite ag v) := fun _ => none_wf
theorem Wf.triggerEnabled (q : BitVec 6) : Statement (.triggerEnabled q) := fun _ => none_wf
theorem Wf.streamBlockSend (s : BitVec 6) : Statement (.streamBlockSend s) := fun _ => none_wf
theorem Wf.streamResendStop (s : BitVec 6) : Statement (.streamResendStop s) := fun _ => none_wf
theorem Wf.usbAttach (highSpeed : Bool) : Statement (.usbAttach highSpeed) := fun _ => none_wf
theorem Wf.getDescriptor (type index : Byte) : Statement (.getDescriptor type index) := fun _ => none_wf
theorem Wf.setInterface (ifc alt : Byte) : Statement (.setInterface ifc alt) := fun _ => none_wf
theorem Wf.clockRequest (req : ClockReq) : Statement (.clockRequest req) := fun _ => none_wf
theorem Wf.audioOutPacket (data : List Byte) : Statement (.audioOutPacket data) := fun _ => none_wf
theorem Wf.usbMidiEventPacket (pkt : Word) : Statement (.usbMidiEventPacket pkt) := fun _ => none_wf
theorem Wf.universalMidiPacket (words : List Word) : Statement (.universalMidiPacket words) := fun _ => none_wf
theorem Wf.jrTimestamp (group : BitVec 4) (ts : Half) : Statement (.jrTimestamp group ts) := fun _ => none_wf
theorem Wf.endpointDiscovery (filter : Byte) : Statement (.endpointDiscovery filter) := fun _ => none_wf
theorem Wf.streamConfigurationRequest (protocol : Byte) (jrRx : Bool) : Statement (.streamConfigurationRequest protocol jrRx) := fun _ => none_wf
theorem Wf.functionBlockDiscovery (block filter : Byte) : Statement (.functionBlockDiscovery block filter) := fun _ => none_wf
theorem Wf.regwr (addr value : Word) : Statement (.regwr addr value) := fun _ => none_wf
theorem Wf.regRead (seq : Half) (addr : Word) (len : Word) : Statement (.regRead seq addr len) := fun _ => none_wf
theorem Wf.regWrite (seq : Half) (addr : Word) (len : Word) (data : List Byte) : Statement (.regWrite seq addr len data) := fun _ => none_wf
theorem Wf.memRead (seq : Half) (addr : Word) (len : Word) : Statement (.memRead seq addr len) := fun _ => none_wf
theorem Wf.memWrite (seq : Half) (addr : Word) (len : Word) (data : List Byte) : Statement (.memWrite seq addr len data) := fun _ => none_wf
theorem Wf.lock (seq : Half) (len : Word) (payload : List Byte) : Statement (.lock seq len payload) := fun _ => none_wf
theorem Wf.remoteWake (busLeftIdle : Bool) : Statement (.remoteWake busLeftIdle) := fun _ => none_wf
theorem Wf.uartReceiveCharacter (u : BitVec 1) (byte : Byte) (fe pe brk : Bool) : Statement (.uartReceiveCharacter u byte fe pe brk) := fun _ => none_wf
theorem Wf.uartStatRead (ag : Agent) (u : BitVec 1) : Statement (.uartStatRead ag u) := fun _ => none_wf
theorem Wf.uartDataRead (ag : Agent) (u : BitVec 1) : Statement (.uartDataRead ag u) := fun _ => none_wf
theorem Wf.uartDataWrite (ag : Agent) (u : BitVec 1) (byte : Byte) : Statement (.uartDataWrite ag u byte) := fun _ => none_wf
theorem Wf.consoleFrame (gap : Bool) : Statement (.consoleFrame gap) := fun _ => none_wf
theorem Wf.hostLowHalfRead (off : BitVec 21) : Statement (.hostLowHalfRead off) := fun _ => none_wf
theorem Wf.hostHighHalfRead (off : BitVec 21) : Statement (.hostHighHalfRead off) := fun _ => none_wf
theorem Wf.hostLowHalfWrite (off : BitVec 21) (data : Half) (be : BitVec 2) : Statement (.hostLowHalfWrite off data be) := fun _ => none_wf
theorem Wf.hostHighHalfWrite (off : BitVec 21) (data : Half) (be : BitVec 2) : Statement (.hostHighHalfWrite off data be) := fun _ => none_wf
theorem Wf.resWordRead (g : Group) : Statement (.resWordRead g) := fun _ => none_wf
theorem Wf.resultGroupRead (g : Group) (word : BitVec 5) : Statement (.resultGroupRead g word) := fun _ => none_wf
theorem Wf.resultLockTimeout (g : Group) : Statement (.resultLockTimeout g) := fun _ => none_wf
theorem Wf.mailboxWrite (half : BitVec 3) (data : Half) (be : BitVec 2) : Statement (.mailboxWrite half data be) := fun _ => none_wf
theorem Wf.apertureRead (off : BitVec 20) : Statement (.apertureRead off) := fun _ => none_wf
theorem Wf.refresh (ag : Agent) : Statement (.refresh ag) := fun _ => none_wf
theorem Wf.hrpApbaseWrite (ag : Agent) (v : Word) : Statement (.hrpApbaseWrite ag v) := fun _ => none_wf
theorem Wf.apertureFillComplete (ecc : List Ecc) : Statement (.apertureFillComplete ecc) := fun _ => none_wf
theorem Wf.apertureWrite (off : BitVec 20) (data : Half) (be : BitVec 2) : Statement (.apertureWrite off data be) := fun _ => none_wf
theorem Wf.apertureWritePerform (collided : Bool) : Statement (.apertureWritePerform collided) := fun _ => none_wf
theorem Wf.noticeRead (ecc : Bool) : Statement (.noticeRead ecc) := fun _ => none_wf
theorem Wf.hrpCxselWrite (ag : Agent) (v : Word) : Statement (.hrpCxselWrite ag v) := fun _ => none_wf
theorem Wf.timerEnable (ag : Agent) (n : BitVec 3) (v : Word) : Statement (.timerEnable ag n v) := fun _ => none_wf
theorem Wf.timerDisable (ag : Agent) (n : BitVec 3) (v : Word) : Statement (.timerDisable ag n v) := fun _ => none_wf
theorem Wf.timerZero (n : BitVec 3) : Statement (.timerZero n) := fun _ => none_wf
theorem Wf.timerMatch (n : BitVec 3) : Statement (.timerMatch n) := fun _ => none_wf
theorem Wf.timerCapture (n : BitVec 3) (level : Bool) : Statement (.timerCapture n level) := fun _ => none_wf
theorem Wf.timerCapRead (ag : Agent) (n : BitVec 3) : Statement (.timerCapRead ag n) := fun _ => none_wf
theorem Wf.timerIomodeWrite (ag : Agent) (n : BitVec 3) (v : Word) : Statement (.timerIomodeWrite ag n v) := fun _ => none_wf
theorem Wf.wdtKick (k : Kick) : Statement (.wdtKick k) := fun _ => none_wf
theorem Wf.wdtLock (ag : Agent) : Statement (.wdtLock ag) := fun _ => none_wf
theorem Wf.reqLeave (ag : Agent) : Statement (.reqLeave ag) := fun _ => none_wf
theorem Wf.reqSafe (ag : Agent) : Statement (.reqSafe ag) := fun _ => none_wf
theorem Wf.reqIdle (ag : Agent) : Statement (.reqIdle ag) := fun _ => none_wf
theorem Wf.reqDormant (ag : Agent) : Statement (.reqDormant ag) := fun _ => none_wf
theorem Wf.reqService (ag : Agent) : Statement (.reqService ag) := fun _ => none_wf
theorem Wf.wake (sources : Byte) (ctxErr : Bool) : Statement (.wake sources ctxErr) := fun _ => none_wf
theorem Wf.vidStep (marginHigh : Bool) : Statement (.vidStep marginHigh) := fun _ => none_wf
theorem Wf.hot (tj : Half) : Statement (.hot tj) := fun _ => none_wf
theorem Wf.temperatureLimit (tj : Half) : Statement (.temperatureLimit tj) := fun _ => none_wf
theorem Wf.selftestVerdict (u : UnitId) (pass : Bool) (step : BitVec 2) (micros : Nat) : Statement (.selftestVerdict u pass step micros) := fun _ => none_wf
theorem Wf.selftestAbort (u : UnitId) : Statement (.selftestAbort u) := fun _ => none_wf
theorem Wf.scoreDecay (cls : BitVec 4) (index : Byte) (upset : Bool) : Statement (.scoreDecay cls index upset) := fun _ => none_wf
theorem Wf.stateSplit (kind : BitVec 4) (index : Byte) : Statement (.stateSplit kind index) := fun _ => none_wf
theorem Wf.mstWrite (ag : Agent) (kind : BitVec 4) (index : Byte) (v : BitVec 2) : Statement (.mstWrite ag kind index v) := fun _ => none_wf
theorem Wf.getstate (k : Carrier) : Statement (.getstate k) := fun _ => none_wf
theorem Wf.challenge (k : Carrier) (scope : Byte) : Statement (.challenge k scope) := fun _ => none_wf
theorem Wf.respond (k : Carrier) (body : List Byte) : Statement (.respond k body) := fun _ => none_wf
theorem Wf.password (k : Carrier) (scope : Byte) (body : List Byte) : Statement (.password k scope body) := fun _ => none_wf
theorem Wf.relock (k : Carrier) : Statement (.relock k) := fun _ => none_wf
theorem Wf.lckCtlRelock (ag : Agent) : Statement (.lckCtlRelock ag) := fun _ => none_wf
theorem Wf.lckHcmdGo (ag : Agent) : Statement (.lckHcmdGo ag) := fun _ => none_wf
theorem Wf.setpw (ag : Agent) : Statement (.setpw ag) := fun _ => none_wf
theorem Wf.setkey (ag : Agent) : Statement (.setkey ag) := fun _ => none_wf
theorem Wf.lockpw (ag : Agent) : Statement (.lockpw ag) := fun _ => none_wf
theorem Wf.lockcr (ag : Agent) : Statement (.lockcr ag) := fun _ => none_wf
theorem Wf.sealLock (ag : Agent) : Statement (.sealLock ag) := fun _ => none_wf
theorem Wf.serviceTest (ag : Agent) : Statement (.serviceTest ag) := fun _ => none_wf
theorem Wf.flogrd (ag : Agent) : Statement (.flogrd ag) := fun _ => none_wf
theorem Wf.powerOnRelease (otpBad : Bool) : Statement (.powerOnRelease otpBad) := fun _ => none_wf
theorem Wf.samplePreload (cells : List Bool) : Statement (.samplePreload cells) := fun _ => none_wf
theorem Wf.bypass (code : BitVec 5) : Statement (.bypass code) := fun _ => none_wf
theorem Wf.registerWrite (ag : Agent) (off : BitVec 20) (v : Word) : Statement (.registerWrite ag off v) := fun _ => none_wf
theorem Wf.supplyCollapse (opsDone : Nat) : Statement (.supplyCollapse opsDone) := fun _ => none_wf
theorem Wf.pcsBlockError (port : BitVec 2) : Statement (.pcsBlockError port) := fun _ => none_wf
theorem Wf.partnerLowPowerIdle (port : BitVec 2) (enter : Bool) : Statement (.partnerLowPowerIdle port enter) := fun _ => none_wf
theorem Wf.setAddress (addr : BitVec 7) : Statement (.setAddress addr) := fun _ => none_wf
theorem Wf.setConfiguration (cfg : Byte) : Statement (.setConfiguration cfg) := fun _ => none_wf
theorem Wf.remoteWakeEnable (on : Bool) : Statement (.remoteWakeEnable on) := fun _ => none_wf
theorem Wf.uartTransmitCharacter (u : BitVec 1) : Statement (.uartTransmitCharacter u) := fun _ => none_wf
theorem Wf.resetNLow : Statement .resetNLow := fun _ => none_wf
theorem Wf.faultLogAppend : Statement .faultLogAppend := fun _ => none_wf
theorem Wf.spillOffer : Statement .spillOffer := fun _ => none_wf
theorem Wf.noteOn : Statement .noteOn := fun _ => none_wf
theorem Wf.noteOff : Statement .noteOff := fun _ => none_wf
theorem Wf.polyPress : Statement .polyPress := fun _ => none_wf
theorem Wf.control : Statement .control := fun _ => none_wf
theorem Wf.pitchBend : Statement .pitchBend := fun _ => none_wf
theorem Wf.program : Statement .program := fun _ => none_wf
theorem Wf.perNote : Statement .perNote := fun _ => none_wf
theorem Wf.partMode : Statement .partMode := fun _ => none_wf
theorem Wf.spillNote : Statement .spillNote := fun _ => none_wf
theorem Wf.mark : Statement .mark := fun _ => none_wf
theorem Wf.validateDone : Statement .validateDone := fun _ => none_wf
theorem Wf.spillDeadline : Statement .spillDeadline := fun _ => none_wf
theorem Wf.leaseKeepalive : Statement .leaseKeepalive := fun _ => none_wf
theorem Wf.leaseExpiry : Statement .leaseExpiry := fun _ => none_wf
theorem Wf.leaseFree : Statement .leaseFree := fun _ => none_wf
theorem Wf.ledgerOfferUpdate : Statement .ledgerOfferUpdate := fun _ => none_wf
theorem Wf.queueExit : Statement .queueExit := fun _ => none_wf
theorem Wf.muteRampEnd : Statement .muteRampEnd := fun _ => none_wf
theorem Wf.pauseResume : Statement .pauseResume := fun _ => none_wf
theorem Wf.bthVsEdge : Statement .bthVsEdge := fun _ => none_wf
theorem Wf.bthHsEdge : Statement .bthHsEdge := fun _ => none_wf
theorem Wf.bthWcEdge : Statement .bthWcEdge := fun _ => none_wf
theorem Wf.sourceLost : Statement .sourceLost := fun _ => none_wf
theorem Wf.holdmaxExpiry : Statement .holdmaxExpiry := fun _ => none_wf
theorem Wf.beaconSend : Statement .beaconSend := fun _ => none_wf
theorem Wf.delayRequestSend : Statement .delayRequestSend := fun _ => none_wf
theorem Wf.masterTakeover : Statement .masterTakeover := fun _ => none_wf
theorem Wf.beacon : Statement .beacon := fun _ => none_wf
theorem Wf.delayReq : Statement .delayReq := fun _ => none_wf
theorem Wf.delayResp : Statement .delayResp := fun _ => none_wf
theorem Wf.pllUnlock : Statement .pllUnlock := fun _ => none_wf
theorem Wf.pllRelock : Statement .pllRelock := fun _ => none_wf
theorem Wf.read : Statement .read := fun _ => none_wf
theorem Wf.mgmt : Statement .mgmt := fun _ => none_wf
theorem Wf.ack : Statement .ack := fun _ => none_wf
theorem Wf.nak : Statement .nak := fun _ => none_wf
theorem Wf.resp : Statement .resp := fun _ => none_wf
theorem Wf.keyDerivationDone : Statement .keyDerivationDone := fun _ => none_wf
theorem Wf.secureCounterWaitEnd : Statement .secureCounterWaitEnd := fun _ => none_wf
theorem Wf.usbDetach : Statement .usbDetach := fun _ => none_wf
theorem Wf.busReset : Statement .busReset := fun _ => none_wf
theorem Wf.startOfFrame : Statement .startOfFrame := fun _ => none_wf
theorem Wf.audioInPacket : Statement .audioInPacket := fun _ => none_wf
theorem Wf.noticePacket : Statement .noticePacket := fun _ => none_wf
theorem Wf.usbSuspend : Statement .usbSuspend := fun _ => none_wf
theorem Wf.usbResume : Statement .usbResume := fun _ => none_wf
theorem Wf.hwake : Statement .hwake := fun _ => none_wf
theorem Wf.dwakeAssert : Statement .dwakeAssert := fun _ => none_wf
theorem Wf.wdtWarn : Statement .wdtWarn := fun _ => none_wf
theorem Wf.wdtBite : Statement .wdtBite := fun _ => none_wf
theorem Wf.powerDownEntry : Statement .powerDownEntry := fun _ => none_wf
theorem Wf.voltageAlarm : Statement .voltageAlarm := fun _ => none_wf
theorem Wf.clockHalveEnd : Statement .clockHalveEnd := fun _ => none_wf
theorem Wf.brownOutWarning : Statement .brownOutWarning := fun _ => none_wf
theorem Wf.brownOutClear : Statement .brownOutClear := fun _ => none_wf
theorem Wf.nonceExpiry : Statement .nonceExpiry := fun _ => none_wf
theorem Wf.tapReset : Statement .tapReset := fun _ => none_wf
theorem Wf.extest : Statement .extest := fun _ => none_wf
theorem Wf.idcode : Statement .idcode := fun _ => none_wf
theorem Wf.usbPacketError : Statement .usbPacketError := fun _ => none_wf
theorem Wf.idleDormantEntryComplete : Statement .idleDormantEntryComplete := fun _ => none_wf

end Laws

end Sys2Proof
end

