-- ==== Sys2Proof/Tests/Slice0.lean ====
section
/-!
SUPPORT. Tests: the ill-formed commands that `WellFormed` refuses, the worked examples of the spec's chapters, and for each
statement with hypotheses the witnesses that meet them: a small state per clause, its hypotheses evaluated on it.
A hypothesis on the answer of an opaque function of Config (a signature, a wrapped key) is left to that function.
-/
namespace Sys2Proof.Tests
open Sys2Proof Sys2Proof.Machine
set_option maxRecDepth 100000
set_option linter.unusedVariables false
set_option Elab.async false

/-- A device that runs, in mode RUN, its epoch set. -/
def run0 : State := { State.reset with pins := ⟨true, true⟩, dev := { (State.reset.dev.s SYS_MODE.MODE mRUN).s BRT_STAT.RUNNING 1 with brt := { State.reset.dev.brt with pllLocked := true, pos := 0x100000000 } } }

/-- A device with the default bank after a start-up without a flash copy, its epoch set. -/
def df : State := { run0 with dev := { State.reset.dev with
  regs := [(4, 3), (4096, 10031240), (8196, 167), (20736, 4294967295), (81928, 2), (82952, 2), (82956, 256), (83976, 2), (83980, 512),
    (85000, 2), (85004, 768), (114688, 2), (115712, 1), (115720, 5), (115840, 1), (115848, 5), (118784, 545), (135172, 1024), (139264, 4208)],
  brt := { State.reset.dev.brt with pllLocked := true, pos := 0x100000000 },
  boot := { State.reset.dev.boot with done := true },
  val := { State.reset.dev.val with part := (List.range 16).flatMap (fun p => [(8 * p, BitVec.ofNat 32 (p * 2 ^ 24 + 0x311)),
    (8 * p + 1, BitVec.ofNat 32 (0x10000000 + p)), (8 * p + 2, 0x40000), (8 * p + 3, 0x3020105), (8 * p + 4, 0x40)]) } } }

/-- A voice of a note, not yet rendered. -/
def vo (part nid : Nat) : Voice := Voice.new (BitVec.ofNat 6 part) (BitVec.ofNat 10 part) (BitVec.ofNat 16 nid) 50000 64 0xFFFF0000

/-! ### Ill-formed commands: one for each check of `WellFormed` -/

theorem test_wf_refuses_mode_5 :
    (Mv.load 0 0 5).wf = false ∧ (Mv.store 0 0 7).wf = false ∧ (Mv.load 0 0 4).wf = true ∧
    ([.nop 0 (.moves (.load 0 0 5) .none none), .cmac 0 0 0 0 (.load 0 0 5) .none, .cmsu 0 0 0 0 .none (.load 0 0 5),
      .cmpy 0 0 0 0 (.store 0 0 5) .none, .cmacj 0 0 0 0 .none (.store 0 0 5), .dmac 0 0 0 0 (.load 0 0 6) .none,
      .mac 0 0 0 0 0 0 (.load 0 0 5) .none, .msu 0 0 0 0 0 0 .none (.load 0 0 5), .mpy 0 0 0 0 0 0 (.load 0 0 5) .none,
      .mag 0 0 0 .none (.load 0 0 5), .add 0 0 0 (.load 0 0 5) .none, .sub 0 0 0 .none (.load 0 0 5), .tfr 0 0 0 (.load 0 0 5) .none,
      .addx 0 0 0 0 .none (.load 0 0 5), .neg 0 0 (.load 0 0 5) .none, .abs 0 0 .none (.load 0 0 5), .clr 0 0 (.load 0 0 5) .none,
      .asl 0 0 0 .none (.load 0 0 5), .asr 0 0 0 (.load 0 0 5) .none, .and 0 0 0 .none (.load 0 0 5), .or 0 0 0 (.load 0 0 5) .none,
      .xor 0 0 0 .none (.load 0 0 5), .maxi 0 (.acc 0) (.load 0 0 5) .none, .mini 0 (.acc 0) .none (.load 0 0 5),
      .maxmin 0 (.acc 0) (.load 0 0 5) .none, .clrmx 0 .none (.load 0 0 5), .movp 0 false false 0 0 5 none] : List Instr).all (fun i => !i.wf) = true := by
  decide +kernel

theorem test_wf_refuses_unaligned_register : Instr.wf (.registerWrite .host 0x1002 0) = false ∧ Instr.wf (.registerWrite .host 0x1004 0) = true := by
  decide +kernel

theorem test_wf_refuses_short_boundary : Instr.wf (.samplePreload []) = false ∧ Instr.wf (.samplePreload (List.replicate 267 false)) = true := by
  decide +kernel

theorem test_wf_refuses_public_codes : Instr.wf (.bypass 2) = false ∧ Instr.wf (.bypass 31) = true := by decide +kernel

theorem test_wf_refuses_bank_requests :
    ([.read 60 5, .read 0 0, .read 262144 1, .write 63 [0, 0], .write 0 [], .atomicAdd 4 true 0, .atomicAdd 2 false 0, .cas 6 false 0 0, .cas 12 true 0 0]
      : List BankOp).all (fun o => !(Instr.wf (.bankPortOperation 0 (some o) none false []))) = true ∧
    Instr.wf (.bankPortOperation 0 none (some (.read 0 0)) false []) = false ∧ Instr.wf (.bankPortOperation 0 (some (.read 0 64)) none false []) = true := by
  decide +kernel

/-! ### The worked examples of the spec's chapters -/

/-- R41's example: SEQ 3 is newer than 0xFFFF_FFFE. -/
theorem test_sequence_wraps : newerSeq 32 3 0xFFFFFFFE = true ∧ newerSeq 32 0xFFFFFFFE 3 = false := by decide +kernel

/-- Chapter 8's example word: MPY ACC0, X0.L, Y0.L with the move xm[P1+] <- X0.L. -/
theorem test_chanter_word : decodeChn 3 0x100088240000 = .mpy 3 0 0 0 0 0 (.store 8 1 1) .none := by decide +kernel

/-- Chapter 7's example of ACC.H: rounding to even may saturate. -/
theorem test_acc_high_half :
    accH 0 0x007FFFFFFFC0000000 = (0x7FFFFFFF, false) ∧ accH 1 0x007FFFFFFFC0000000 = (0x7FFFFFFF, true) ∧
    accH 0 0x012000000000000000 = (0x7FFFFFFF, true) ∧ accH 1 0x012000000000000000 = (0x7FFFFFFF, true) := by
  decide +kernel

/-- Chapter 7's delay line of 1,000 halves. -/
theorem test_pointer_ring : stepPtr 0x43E8 0x13E5 5 = 0x1002 ∧ stepPtr 0x43E8 0x1002 (-5) = 0x13E5 := by decide +kernel

/-- Chapter 7's bit-reversed FFT: 0x0800, 0x0C00, 0x0A00, 0x0E00, 0x0900. -/
theorem test_pointer_reversed :
    stepPtr 0x8000 0x0800 0x400 = 0x0C00 ∧ stepPtr 0x8000 0x0C00 0x400 = 0x0A00 ∧ stepPtr 0x8000 0x0A00 0x400 = 0x0E00 ∧
    stepPtr 0x8000 0x0E00 0x400 = 0x0900 := by
  decide +kernel

/-- Chapter 13's KDF input of nodes 0x012 and 0x3A0, slot 2, epoch 7. -/
theorem test_kdf_input :
    kdfInput ⟨2, 7, 0x012, 0x3A0⟩ =
      [0, 0, 0, 1, 0x4B, 0x52, 0x56, 0x50, 0x41, 0x49, 0x52, 0x31, 0, 0, 7, 0, 0x12, 3, 0xA0, 0, 0, 1, 0] := by
  decide +kernel

/-- Chapter 20's example: the offset of MAC2_LEC and of BNK_OWN40. -/
theorem test_register_offsets : MAC_LEC.VALUE.off 2 = 0x14814 ∧ BNK_OWN.OWN.off 40 = 0x11280 := by decide +kernel

/-- Chapter 13's stream: ESIZE is 320 bytes for two buses of blocks of 32 samples. -/
theorem test_stream_entry : (({ run0.dev with regs := run0.dev.regs }).s BLW_STR_MASK 0x30 4).strSize 4 = 320 := by decide +kernel

/-! ### Steps of the block -/

/-- An empty queue idles through one tick; a command at the front runs. -/
theorem test_queue : (step State.reset = .next { State.reset with dev := tick State.reset.dev }) ∧
    step { State.reset with pending := [.resetNLow] } = exec .resetNLow State.reset := ⟨rfl, rfl⟩

/-! ### Witnesses of the statements that hold of every step -/

theorem witness_OtpOnlyMovesForward :
    ∃ t, step run0 = .next t ∧ run0.otp.lock.toNat ≤ run0.otp.lock.toNat ∧ run0.otp.salt.isSome = run0.otp.pwHash.isSome := ⟨_, rfl, by decide, by decide⟩

theorem witness_FlashKeepsItsForm : ∃ t, swf (fun _ => (0xFF : Byte)) run0.flash.mem = true ∧ step run0 = .next t := ⟨_, by decide, rfl⟩

theorem witness_UnitsAndBanksKeepTheirForm :
    ∃ t, run0.dev.chn.length = 16 ∧ run0.dev.mac.length = 4 ∧ run0.dev.uart.length = 2 ∧ run0.dev.tim.ch.length = 8 ∧
      run0.dev.hrp.groups.length = 5 ∧ run0.dev.hrp.mbxLatch.length = 16 ∧ Memory.wf run0.dev.bnk.mem = true ∧ step run0 = .next t :=
  ⟨_, by decide +kernel, by decide +kernel, by decide +kernel, by decide +kernel, by decide +kernel, by decide +kernel, by decide +kernel, rfl⟩

theorem witness_CommandsLeaveTheQueueOtpAndFlash : ∃ t, exec .queueExit State.reset = .next t := ⟨_, rfl⟩

/-! ### Resets and start-up -/

namespace C02
/-- The bytes of a flash at some addresses, from numbers in little-endian order: erased bytes are not listed. -/
def image (l : List (Nat × Nat × Nat)) : Sparse Byte :=
  l.flatMap (fun c => ((leBytes c.2.2 c.2.1).zipIdx.map (fun e => (c.1 + e.2, e.1))).filter (fun e => e.2 ≠ 0xFF))
def imgABbad : Flash := { kind := .sfdp 0x1000000 true, mem := image [(0x0, 0x5a5ac3c3c856a47100000000000000000000000000000000000000000000000000000000000000000000000000000000000000000000000000000000000000000000000000000000000000000000000000000000000000000000000000000000000000000000000000000000000000000000000000000000000000000000000000000000000000000000000000000000000000000000000000000000000000000000000000000000000000000000000000000000000000000000000000000000000000000000000000000000000000000000000000000000000000000000000000030000000100002601d5010000002000010000fffffffe00000100524c5341, 256), (0x1000, 0x5a5ac3c323967eb50000000000000000000000000000000000000000000000000000000000000000000000000000000000000000000000000000000000000000000000000000000000000000000000000000000000000000000000000000000000000000000000000000000000000000000000000000000000000000000000000000000000000000000000000000000000000000000000000000000000000000000000000000000000000000000000000000000000000000000000000000000000000000000000000000000000000000000000000000000000000000000000000003000000010000f2e8992b00000020000200000000000300000100524c5341, 256), (0x10000, 0x140000010f9d6d16e0000000800000001, 32), (0x20000, 0x240000010eb637e800000000800000001, 32)] }
def imgA : Flash := { kind := .sfdp 0x1000000 true, mem := image [(0x0, 0x5a5ac3c38a17bfa900000000000000000000000000000000000000000000000000000000000000000000000000000000000000000000000000000000000000000000000000000000000000000000000000000000000000000000000000000000000000000000000000000000000000000000000000000000000000000000000000000000000000000000000000000000000000000000000000000000000000000000000000000000000000000000000000000000000000000000000000000000000000000000000000000000000000000000000000000000000000000000000000030000000100002601d50100000020000100000000000500000100524c5341, 256), (0x10000, 0x140000010f9d6d16e0000000800000001, 32), (0x30000, 0xe0efd300000000000000000000000000000000000000000000000100000001, 32)] }
def w1 : State := { State.reset with pins := ⟨false, true⟩, flash := imgA }
def w2 : State := { State.reset with
  pins := ⟨true, true⟩, flash := imgABbad,
  dev := { State.reset.dev with boot := { State.reset.dev.boot with reading := some true, other := some false } } }
def w3 : State := { State.reset with
  pins := ⟨true, true⟩, flash := imgABbad,
  dev := { State.reset.dev with boot := { State.reset.dev.boot with reading := some false } } }
theorem witness_ResetsClearTheDevice :
    State.reset.dev.boot.upd = none ∧ ({ State.reset with pins := ⟨false, false⟩ } : State).pins.por = false := by
  decide +kernel
theorem witness_StartUpChoosesAndCommitsACopy_resetRise :
    w1.pins.resetN = false ∧ w1.pins.por = true ∧ w1.flash.kind ≠ FlashKind.absent ∧ recCheck w1.flash.size false (w1.flash.bootRec false) = 0 := by
  decide +kernel
theorem witness_StartUpChoosesAndCommitsACopy_badBody :
    w2.dev.boot.reading = some true ∧ w2.dev.boot.other = some (!true) ∧ crc32 (w2.flash.body true) ≠ recBodyCrc (w2.flash.bootRec true) := by
  decide +kernel
theorem witness_StartUpChoosesAndCommitsACopy_goodBody :
    w3.dev.boot.reading = some false ∧ crc32 (w3.flash.body false) = recBodyCrc (w3.flash.bootRec false) ∧ w3.otp.sigReq = false ∧
    sectionsPass (bodySections (w3.flash.body false)) = true := by
  decide +kernel
end C02

/-! ### Resets and start-up -/

namespace C02b
/-- The bytes of a flash at some addresses, from numbers in little-endian order: erased bytes are not listed. -/
def image (l : List (Nat × Nat × Nat)) : Sparse Byte :=
  l.flatMap (fun c => ((leBytes c.2.2 c.2.1).zipIdx.map (fun e => (c.1 + e.2, e.1))).filter (fun e => e.2 ≠ 0xFF))
def imgA : Flash := { kind := .sfdp 0x1000000 true, mem := image [(0x0, 0x5a5ac3c38a17bfa900000000000000000000000000000000000000000000000000000000000000000000000000000000000000000000000000000000000000000000000000000000000000000000000000000000000000000000000000000000000000000000000000000000000000000000000000000000000000000000000000000000000000000000000000000000000000000000000000000000000000000000000000000000000000000000000000000000000000000000000000000000000000000000000000000000000000000000000000000000000000000000000000030000000100002601d50100000020000100000000000500000100524c5341, 256), (0x10000, 0x140000010f9d6d16e0000000800000001, 32), (0x30000, 0xe0efd300000000000000000000000000000000000000000000000100000001, 32)] }
/-- The record of an update, not yet committed. -/
def recB : List Byte := leBytes 256 0xffffffff6108ae2100000000000000000000000000000000000000000000000000000000000000000000000000000000000000000000000000000000000000000000000000000000000000000000000000000000000000000000000000000000000000000000000000000000000000000000000000000000000000000000000000000000000000000000000000000000000000000000000000000000000000000000000000000000000000000000000000000000000000000000000000000000000000000000000000000000000000000000000000000000000000000000000000030000000100000d1766d400000020000200000000000600000100524c5341
def wS (f : Fld) (v i : Nat) (x : State) : State := { x with dev := x.dev.s f v i }
def u0 (u : Option Update) (x : State) : State :=
  { x with flash := imgA, dev := { x.dev with boot := { x.dev.boot with done := true, upd := u, newest := some (1, 0), logAt := some 0x30000 } } }
def up (last : Nat) (run : Option Nat) (ops : List FlashOp) : Update := { usb := false, last := last, run := run, ops := ops, verr := false, digest := [], record := [] }
/-- An update that has programmed its body and verified it, its record in a bank of the host. -/
def w3 : State := wS CFG_UPD_SRC 0x2000 0 <| wS CFG_UPD_BLEN 32 0 <| wS CFG_UPD_CRC 0x0D1766D4 0 <| wS BNK_OWN.OWN 19 0 <|
  u0 (some (up 3 none [])) { run0 with dev := { run0.dev with bnk := { run0.dev.bnk with mem := (recB.zipIdx.map (fun e => (0x2000 + e.2, e.1))).filter (fun e => e.2 ≠ 0) } } }
def w0 : State := u0 none run0
def w2 : State := wS BNK_OWN.OWN 19 0 <| wS CFG_UPD_LEN 32 0 <| wS CFG_UPD_BLEN 32 0 <| u0 (some (up 2 none [])) run0
def w4 : State := u0 (some (up 4 none [])) run0
def w5 : State := u0 (some (up 4 (some 5) [.prog 0x10FC [0xC3, 0xC3, 0x5A, 0x5A]])) run0
def w6 : State := { w0 with dev := { w0.dev with boot := { w0.dev.boot with pend := [⟨4, 5, 7, 9, 3⟩] } } }
def w7 : State := { w0 with dev := w0.dev.setCore 3 { w0.dev.core 3 with pwr := true, pmBad := true } }
theorem witness_UpdateCommandsRunInOrder_start :
    w0.dev.running = true ∧ w0.dev.on PWR_STAT.BOW = false ∧ w0.dev.boot.upd = none ∧ w0.flash.writable = true ∧
    w5.dev.running = true ∧ w5.dev.on PWR_STAT.BOW = false ∧ w5.dev.boot.upd.map (·.usb) = some false := by
  decide +kernel
theorem witness_UpdateCommandsRunInOrder_body :
    w2.dev.running = true ∧ w2.dev.on PWR_STAT.BOW = false ∧ w2.dev.boot.upd = some (up 2 none []) ∧ w2.dev.programOk false = true := by
  decide +kernel
theorem witness_UpdateCommandsRunInOrder_record :
    w3.dev.running = true ∧ w3.dev.on PWR_STAT.BOW = false ∧ w3.dev.boot.upd = some (up 3 none []) ∧
    w3.dev.srcOwned false (w3.dev.g CFG_UPD_SRC) 256 = true ∧ (w3.dev.bnkRead (updAgent false) (w3.dev.g CFG_UPD_SRC) 256).data = recB ∧
    (w3.dev.bnkRead (updAgent false) (w3.dev.g CFG_UPD_SRC) 256).dev.on PWR_STAT.BOW = false ∧
    w4.dev.running = true ∧ w4.dev.on PWR_STAT.BOW = false ∧ w4.dev.boot.upd = some (up 4 none []) := by
  decide +kernel
theorem witness_UpdateCommandsRunInOrder_record_passes :
    ({ w3 with dev := (w3.dev.bnkRead (updAgent false) (w3.dev.g CFG_UPD_SRC) 256).dev } : State).recordErr recB [] = 0 := by
  decide +kernel
theorem witness_FlashCommandsEndAndLog :
    w5.dev.boot.upd = some (up 4 (some 5) [.prog 0x10FC [0xC3, 0xC3, 0x5A, 0x5A]]) ∧
    w6.dev.on PWR_STAT.BOW = false ∧ w6.dev.boot.pend = [⟨4, 5, 7, 9, 3⟩] ∧ w6.dev.boot.logAt = some 0x30000 ∧ w6.dev.boot.newest = some (1, 0) ∧
    w6.flash.nextBlank 0x30000 0 = some 1 ∧ w0.dev.mayWrite .console 0x1010 = true := by
  decide +kernel
theorem witness_FlashCommandsEndAndLog_pmReload :
    (w7.dev.core 3).pmBad = true ∧ w7.active = some false ∧ w7.dev.flt.tests = [] ∧ w7.dev.est kCore 3 ≠ RETIRED ∧
    (∀ x ∈ programsOf ((bodySections (w7.flash.body false)).getD []) 3, x.crcOk = true) ∧ w7.dev.chn.length = 16 := by
  decide +kernel
end C02b

/-! ### The Breath -/

namespace C03
def wS (f : Fld) (v i : Nat) (x : State) : State := { x with dev := x.dev.s f v i }
def wB (g : Brt → Brt) (x : State) : State := { x with dev := { x.dev with brt := g x.dev.brt } }
def src (n st : Nat) : State := wS BRT_STAT.STATE st 0 (wS BRT_CTL.SRC n 0 run0)
def nom (x : State) : Nat := (Rat.floor (x.dev.srcTicks x.dev.brtSrc)).toNat
def ed (k : Rat) (x : State) : State := wB (fun b => { b with tbase := 1000000000, lastEdge := some (BitVec.ofNat 64 (1000000000 - (Rat.floor (k * (nom x : Rat))).toNat)) }) x

def w0 : State :=
  ed (1 / 3) (src 2 1)
def w1 : State :=
  wB (fun b => { b with inRange := 15 }) (ed 1 (src 2 3))
def w2 : State :=
  wB (fun b => { b with outRange := 15 }) (ed 2 (src 2 1))
def w3 : State :=
  wS BRT_CTL.HSEN 1 0 (wB (fun b => { b with vidBad := 3, hsCount := 4, hsOpen := true }) (ed 1 (wS BRT_VID.VLINES 525 0 (src 1 1))))
def w4 : State :=
  wS BRT_CTL.HSEN 1 0 (wB (fun b => { b with vidBad := 1, hsCount := 4, hsOpen := true }) (ed 1 (wS BRT_VID.VLINES 525 0 (src 1 1))))
theorem witness_SourceEdgesSteerTheLoop_1 :
    (w0.dev.on BRT_STAT.RUNNING = true) ∧
    (w0.dev.brtSrc = 1 → w0.dev.on BRT_CTL.HSEN = false) ∧
    ((match w0.dev.edgeRatio with | some x => decide (x * 2 < 1) && decide (Instr.bthWcEdge = Instr.bthVsEdge ∧ w0.dev.brtSrc = 1 ∨ Instr.bthWcEdge = Instr.bthWcEdge ∧ w0.dev.brtSrc = 2) | _ => false) = true) ∧
    (w1.dev.on BRT_STAT.RUNNING = true) ∧
    (w1.dev.brt.inRange = 15) ∧
    (w1.dev.on BRT_STAT.BACKWARD = false) ∧
    (w1.dev.brtState = sHOLDOVER ∨ w1.dev.brtState = sFREE) ∧
    (w1.dev.brt.hasEpoch = false) ∧
    (w1.dev.brt.heardPos = none) ∧
    (w1.dev.brt.rebaseReq = false) ∧
    (w1.dev.moving = false) ∧
    (w1.dev.brtSrc = 1 → w1.dev.on BRT_CTL.HSEN = false) ∧
    ((match w1.dev.edgeRatio with | some x => decide (999 / 1000 ≤ x) && decide (x ≤ 1001 / 1000) && decide (Instr.bthWcEdge = Instr.bthVsEdge ∧ w1.dev.brtSrc = 1 ∨ Instr.bthWcEdge = Instr.bthWcEdge ∧ w1.dev.brtSrc = 2) | _ => false) = true) := by
  decide +kernel
theorem witness_SourceEdgesSteerTheLoop_2 :
    (w2.dev.on BRT_STAT.RUNNING = true) ∧
    (w2.dev.brt.outRange = 15) ∧
    (w2.dev.brtState = sTRACK) ∧
    (w2.dev.g BRT_HOLDMAX ≠ 0) ∧
    (w2.dev.brtSrc = 1 → w2.dev.on BRT_CTL.HSEN = false) ∧
    ((match w2.dev.edgeRatio with | some x => decide (1 ≤ x * 2) && decide (x < 999 / 1000 ∨ 1001 / 1000 < x) && decide (Instr.bthWcEdge = Instr.bthVsEdge ∧ w2.dev.brtSrc = 1 ∨ Instr.bthWcEdge = Instr.bthWcEdge ∧ w2.dev.brtSrc = 2) | _ => false) = true) ∧
    (w3.dev.on BRT_STAT.RUNNING = true) ∧
    (w3.dev.brtSrc = 1) ∧
    (w3.dev.on BRT_CTL.HSEN = true) ∧
    (w4.dev.on BRT_STAT.RUNNING = true) ∧
    (w4.dev.brtSrc = 1) ∧
    (w4.dev.on BRT_CTL.HSEN = true) ∧
    (w4.dev.brt.hsOpen = true) ∧
    (w4.dev.brt.hsCount ≠ w4.dev.g BRT_VID.VLINES) ∧
    (w4.dev.brt.vidBad < 3) ∧
    ((match w4.dev.edgeRatio with | some x => decide (999 / 1000 ≤ x) && decide (x ≤ 1001 / 1000) | _ => false) = true) := by
  decide +kernel
end C03

/-! ### The Breath -/

namespace C03b
def wS (f : Fld) (v i : Nat) (x : State) : State := { x with dev := x.dev.s f v i }
def wB (g : Brt → Brt) (x : State) : State := { x with dev := { x.dev with brt := g x.dev.brt } }
def src (n st : Nat) : State := wS BRT_STAT.STATE st 0 (wS BRT_CTL.SRC n 0 run0)
def T (x : State) : State := { x with dev := { x.dev with flt := { x.dev.flt with tests := [Test.of kPll 0 0] } } }

def w0 : State :=
  wS FLT_THR.LIMIT 1 7 (T (src 1 1))
def w1 : State :=
  wS BRT_STAT.BACKWARD 1 0 (wS BRT_STAT.SRCOK 1 0 (src 1 2))
def w2 : State :=
  wS BRT_STAT.SRCOK 1 0 (src 1 2)
def w3 : State :=
  wB (fun b => { b with waitRelease := some 5 }) (src 1 1)
def w4 : State :=
  T (src 0 3)
def w5 : State :=
  wS SYS_MODE.MODE 4 0 (wS FLT_STAT.PLLDOWN 1 0 (src 1 1))
theorem witness_LossHoldsTheBreath_1 :
    (w0.dev.on BRT_STAT.RUNNING = true) ∧
    (w0.dev.brtSrc ≠ srcFREE) ∧
    (w0.dev.brtState = sACQUIRE ∨ w0.dev.brtState = sTRACK) ∧
    (w1.dev.on BRT_STAT.RUNNING = true) ∧
    (w1.dev.brtState = sHOLDOVER) ∧
    (w1.dev.on BRT_STAT.SRCOK = false ∨ w1.dev.on BRT_STAT.BACKWARD = true) ∧
    (w2.dev.on BRT_STAT.RUNNING = true) ∧
    (w2.dev.brtState = sHOLDOVER) ∧
    (w2.dev.on BRT_STAT.SRCOK = true) ∧
    (w2.dev.on BRT_STAT.BACKWARD = false) ∧
    (w2.dev.brtSrc ≠ srcFREE) ∧
    (w0.dev.running = true) ∧
    (w0.dev.g BRT_CTL.REBASE = 0) ∧
    (w0.dev.moving = false) ∧
    ((3 : BitVec 3).toNat < 5) ∧
    ((3 : BitVec 3).toNat ≠ w0.dev.brtSrc) := by
  decide +kernel
theorem witness_LossHoldsTheBreath_2 :
    (w3.dev.on BRT_STAT.RUNNING = true) ∧
    (w3.dev.running = true) ∧
    (w3.dev.g BRT_CTL.REBASE = 0) ∧
    (w3.dev.moving = true) ∧
    (5 ≤ (7 : BitVec 3).toNat) ∧
    (w1.dev.running = true) ∧
    (w1.dev.g BRT_CTL.REBASE = 0) ∧
    (w1.dev.moving = false) ∧
    (w1.dev.on BRT_STAT.BACKWARD = true) ∧
    (w1.dev.brtState = sHOLDOVER ∨ w1.dev.brtState = sFREE) ∧
    (w0.dev.on BRT_STAT.BACKWARD = false) ∧
    (w0.dev.brt.pllLocked = true) ∧
    (w0.dev.on BRT_STAT.SLEW = false) := by
  decide +kernel
theorem witness_LossHoldsTheBreath_3 :
    (w4.dev.on BRT_STAT.RUNNING = true) ∧
    (Test.of kPll 0 0 ∈ w4.dev.flt.tests) ∧
    (w4.dev.g FLT_THR.LIMIT 7 = 0 ∨ w4.dev.score 7 0 + 1 < w4.dev.g FLT_THR.LIMIT 7) ∧
    (w5.dev.on BRT_STAT.RUNNING = true) ∧
    (w5.dev.mode = 4) ∧
    (w5.dev.on FLT_STAT.PLLDOWN = true) := by
  decide +kernel
end C03b

/-! ### The Breath -/

namespace C03c
def per4 (d : Dev) (f : Dev → Nat → Dev) : Dev := [0,1,2,3].foldl f d
def net : Dev := per4 (((((run0.dev.s BLW_CTL.EN 1).s BLW_NODE 5).s BLW_PD.EN 1 2).s BNK_OWN.OWN 18 0).s BNK_OWN.OWN 18 1)
  (fun d p => ((d.s MAC_STAT.LINK 1 p).s MAC_CTL.MODE 1 p))
def hd (op : Nat) : Hdr := { ver := 1, op := op, tc := 1, flags := 0, src := 9, dst := 5, tag := 33, psn := 0, plen := 8, pd := 2, aux := 0, spos := 0x100000000, mpos := 0xFFFFFFF0, mlen := 8, addr := 0x1000, rkey := 0x40C + 1024*7, rcount := 0, resv := 0 }
def pk (h : Hdr) (b : List Byte) : Pkt := ⟨2, 0x100000000, h.bytes, b⟩
def wS (f : Fld) (v i : Nat) (x : State) : State := { x with dev := x.dev.s f v i }
def wB (g : Brt → Brt) (x : State) : State := { x with dev := { x.dev with brt := g x.dev.brt } }
def base : State := { run0 with dev := net }
def P (h : Hdr) (b : List Byte) (x : State) : State := { x with dev := { x.dev with blw := { x.dev.blw with inbox := [pk h b] } } }
def bc (k : Nat) (n : Nat) : Hdr := { hd 6 with tc := 0, aux := k, dst := if k = 0 then 0xFFF else 5, plen := n, mlen := n, spos := 0xFFFFF000, pd := 0 }
def bbody (prio : Nat) : List Byte := [BitVec.ofNat 8 prio, BitVec.ofNat 8 (base.dev.g BRT_CTL.FS), BitVec.ofNat 8 base.dev.blk, 0] ++ leBytes 2 7 ++ [2] ++ List.replicate 9 0
def fol (x : State) : State := wS BRT_FMASTER.VALID 1 0 <| wS BRT_FMASTER.NODE 9 0 <| wS BRT_FMASTER.PRIO 4 0 <| wS BRT_CTL.SRC 3 0 <| wS BRT_STAT.STATE 1 0 <| wB (fun b => { b with delays := [[], [], [0xF00, 0x1000], []], firstMeas := false }) x
def mas (x : State) : State := wS BRT_STAT.MASTER 1 0 (wS BRT_FAB.FPRIO 3 0 x)
def dresp : List Byte := leBytes 2 0x1234 ++ [2] ++ List.replicate 5 0 ++ leBytes 8 0xFFFFE000 ++ leBytes 8 0xFFFFF800

def w0 : State :=
  P (bc 1 16) (bbody 4) (mas base)
def w1 : State :=
  P (bc 2 24) dresp (wB (fun b => { b with gaps := [none, none, some (-100), none], reqs := [none, none, some 4661, none] }) (fol base))
def w2 : State :=
  wS BRT_FAB.MASTEN 1 0 (wB (fun b => { b with tbase := 10000000000 }) base)
def w3 : State :=
  P (bc 0 16) (bbody 4) (fol base)
def w4 : State :=
  P   ( { (bc 0 16) with src := 3 })   (bbody 5) (fol base)
def w5 : State :=
  P (bc 1 16) (bbody 4) (fol base)
def w6 : State :=
  P (bc 2 24) dresp (wB (fun b => { b with gaps := [none, none, some (-100), none], reqs := [none, none, some 4660, none] }) (fol base))
theorem witness_BeaconsCarryTheBreath_1 :
    (w0.dev.mac.length = 4) ∧
    (w0.dev.on BRT_STAT.RUNNING = true) ∧
    (w0.dev.running = true) ∧
    (w0.dev.on BLW_PD.SECURE (w0.dev.g BLW_SECCTL.BPD) = false) ∧
    (w0.dev.on BRT_STAT.MASTER = true) ∧
    (w1.dev.mac.length = 4) ∧
    (w1.dev.on BRT_STAT.RUNNING = true) ∧
    (w1.dev.running = true) ∧
    (w1.dev.on BLW_PD.SECURE (w1.dev.g BLW_SECCTL.BPD) = false) ∧
    (w1.dev.follows = true) ∧
    (w1.dev.on BRT_FMASTER.VALID = true) ∧
    (w1.dev.brt.reqs.length = 4) := by
  decide +kernel
theorem witness_BeaconsCarryTheBreath_2 :
    (w2.dev.mac.length = 4) ∧
    (w2.dev.on BRT_STAT.RUNNING = true) ∧
    (w2.dev.running = true) ∧
    (w2.dev.on BLW_PD.SECURE (w2.dev.g BLW_SECCTL.BPD) = false) ∧
    (w2.dev.on BRT_FAB.MASTEN = true) ∧
    (w2.dev.on BRT_STAT.MASTER = false) ∧
    (w2.dev.brtSrc ≠ srcFABRIC) ∧
    (w2.dev.brt.heardOutrank = none) ∧
    (w2.dev.g BRT_FAB.TKO * 100000 ≤ (w2.dev.brt.tbase - w2.dev.brt.listenFrom).toNat) ∧
    (w3.dev.mac.length = 4) ∧
    (w3.dev.on BRT_STAT.RUNNING = true) ∧
    (w3.dev.running = true) ∧
    (w3.dev.on BLW_PD.SECURE (w3.dev.g BLW_SECCTL.BPD) = false) ∧
    ((match w3.dev.takePkt (isKind 0) with | (d, some g) => decide (g.h.sec = false) && decide (16 ≤ g.h.plen) && decide (d.on BRT_STAT.RUNNING = true) && decide (d.running = true) && decide (d.mac.length = 4) && decide (d.on BLW_PD.SECURE (d.g BLW_SECCTL.BPD) = false) && decide (d.on BRT_STAT.MASTER = false) && decide (d.on BRT_FAB.MASTEN = false) && decide (d.on BRT_FMASTER.VALID = true) && decide (d.g BRT_FMASTER.NODE = g.h.src) && decide (d.brtSrc = srcFABRIC) && decide (fieldAt g.body 1 1 = d.g BRT_CTL.FS) && decide (fieldAt g.body 2 1 = d.blk % 256) && decide (d.bestPlane = some g.pkt.plane) && decide (d.brtState = sTRACK) && decide (d.moving = false) && decide (d.brt.outRange < 15) && decide (d.brt.firstMeas = false) && decide (d.brt.gaps.length = 4) && decide (g.pkt.plane < 4) && decide ((match d.kept g.pkt.plane with | some dl => decide ((d.errNs (distance (g.h.spos + BitVec.ofInt 64 dl) g.pkt.stamp) - d.brt.phEst).natAbs ≤ 10000) && decide ((distance (g.h.spos + BitVec.ofInt 64 dl) g.pkt.stamp).natAbs * 1000 ≤ d.fs * 65536) | _ => false) = true) | _ => false) = true) := by
  decide +kernel
theorem witness_BeaconsCarryTheBreath_3 :
    (w4.dev.mac.length = 4) ∧
    (w4.dev.on BRT_STAT.RUNNING = true) ∧
    (w4.dev.running = true) ∧
    (w4.dev.on BLW_PD.SECURE (w4.dev.g BLW_SECCTL.BPD) = false) ∧
    ((match w4.dev.takePkt (isKind 0) with | (d, some g) => decide (g.h.sec = false) && decide (16 ≤ g.h.plen) && decide (d.on BRT_STAT.RUNNING = true) && decide (d.running = true) && decide (d.mac.length = 4) && decide (d.on BLW_PD.SECURE (d.g BLW_SECCTL.BPD) = false) && decide (d.on BRT_STAT.MASTER = false) && decide (d.on BRT_FAB.MASTEN = false) && decide (d.on BRT_FMASTER.VALID = true) && decide (d.g BRT_FMASTER.NODE ≠ g.h.src) && decide (outranks (fieldAt g.body 0 1) g.h.src (d.g BRT_FMASTER.PRIO) (d.g BRT_FMASTER.NODE) = false) | _ => false) = true) ∧
    (w5.dev.mac.length = 4) ∧
    (w5.dev.on BRT_STAT.RUNNING = true) ∧
    (w5.dev.running = true) ∧
    (w5.dev.on BLW_PD.SECURE (w5.dev.g BLW_SECCTL.BPD) = false) ∧
    ((match w5.dev.takePkt (isKind 1) with | (d, some g) => decide (g.h.sec = false) && decide (16 ≤ g.h.plen) && decide (d.on BRT_STAT.RUNNING = true) && decide (d.running = true) && decide (d.mac.length = 4) && decide (d.on BLW_PD.SECURE (d.g BLW_SECCTL.BPD) = false) && decide (d.on BRT_STAT.MASTER = false) | _ => false) = true) ∧
    ((match w0.dev.takePkt (isKind 1) with | (d, some g) => decide (g.h.sec = false) && decide (16 ≤ g.h.plen) && decide (d.on BRT_STAT.RUNNING = true) && decide (d.running = true) && decide (d.mac.length = 4) && decide (d.on BLW_PD.SECURE (d.g BLW_SECCTL.BPD) = false) && decide (d.on BRT_STAT.MASTER = true) && decide ((match d.answerPlane g.pkt.plane with | some p => decide (d.portUp p = true) && decide (d.fits p 24 false = true) | _ => false) = true) | _ => false) = true) ∧
    (w6.dev.mac.length = 4) ∧
    (w6.dev.on BRT_STAT.RUNNING = true) ∧
    (w6.dev.running = true) ∧
    (w6.dev.on BLW_PD.SECURE (w6.dev.g BLW_SECCTL.BPD) = false) ∧
    ((match w6.dev.takePkt (isKind 2) with | (d, some g) => decide (g.h.sec = false) && decide (24 ≤ g.h.plen) && decide (d.on BLW_PD.SECURE (d.g BLW_SECCTL.BPD) = false) && decide (d.follows = true) && decide (d.on BRT_FMASTER.VALID = true) && decide (g.h.src = d.g BRT_FMASTER.NODE) && decide (d.brt.delays.length = 4) && decide (fieldAt g.body 2 1 < 4) && decide (d.brt.reqs.getD (fieldAt g.body 2 1) none = some (BitVec.ofNat 16 (fieldAt g.body 0 2))) && decide ((match d.brt.gaps.getD (fieldAt g.body 2 1) none with | some gap => true | _ => false) = true) | _ => false) = true) := by
  decide +kernel
end C03c

/-! ### Events -/

namespace C04a
def W (op part nid vala valb : Nat) (w0 : Nat := 0) (fl : Nat := 0) : Roari := ⟨BitVec.ofNat 64 w0, BitVec.ofNat 64 (op * 2 ^ 56 + part * 2 ^ 50 + fl * 2 ^ 48 + nid * 2 ^ 32 + vala * 2 ^ 16 + valb)⟩
def E (g : Evs → Evs) (x : State) : State := { x with dev := { x.dev with evs := g x.dev.evs } }
def Q (w : Roari) (x : State) : State := E (fun e => { e with usbQ := [w] }) x

def w0 : State :=
  Q (W 12 0 0 0 0) df
def w1 : State :=
  Q (W 1 0 5 1 2) df
def w2 : State :=
  Q (W 2 3 0 1 2 2199023255552) df
def w3 : State :=
  Q (W 11 3 0 1 2 4294901760 2) df
theorem witness_IntakeJudgesAgainstTheBreath_1 :
    (w0.dev.on BRT_STAT.RUNNING = true) ∧
    (w0.dev.running = true) ∧
    (w0.dev.blw.evtDone = []) ∧
    ((match w0.dev.waiting (3 : BitVec 4).toNat with | some (r, w, nd, false) => decide (r < 5) && decide (w.op = 0 ∨ 11 < w.op) | _ => false) = true) ∧
    (w1.dev.on BRT_STAT.RUNNING = true) ∧
    (w1.dev.running = true) ∧
    (w1.dev.blw.evtDone = []) ∧
    ((match w1.dev.waiting (3 : BitVec 4).toNat with | some (r, w, nd, false) => decide (r < 5) && decide (1 ≤ w.op ∧ w.op ≤ 8 ∨ w.op = opMARK) && decide (w.w0 = 0) | _ => false) = true) ∧
    (w2.dev.on BRT_STAT.RUNNING = true) ∧
    (w2.dev.running = true) ∧
    (w2.dev.blw.evtDone = []) ∧
    ((match w2.dev.waiting (3 : BitVec 4).toNat with | some (r, w, nd, false) => decide (r < 5) && decide (1 ≤ w.op ∧ w.op ≤ 8 ∨ w.op = opMARK) && decide (w.w0 ≠ 0) && decide (w.rel = false) && decide (earlier w.w0 w2.dev.brt.pos = false) && decide (distance w.w0 w2.dev.brt.pos ≤ 2 ^ 31 * 65536) | _ => false) = true) := by
  decide +kernel
theorem witness_IntakeJudgesAgainstTheBreath_2 :
    (w3.dev.on BRT_STAT.RUNNING = true) ∧
    (w3.dev.running = true) ∧
    (w3.dev.blw.evtDone = []) ∧
    ((match w3.dev.waiting (3 : BitVec 4).toNat with | some (r, w, nd, false) => decide (r < 5) && decide (1 ≤ w.op ∧ w.op ≤ 8 ∨ w.op = opMARK) && decide (w.w0 ≠ 0) && decide (w.rel = false) && decide (w.strict = true) && decide (earlier w.w0 w3.dev.brt.pos = true) | _ => false) = true) := by
  decide +kernel
end C04a

/-! ### Events -/

namespace C04b
theorem witness_WindowAndMailboxInjectWords :
    (run0.dev.running = true) ∧
    (run0.dev.evs.latchHost.length = 16) ∧
    (run0.dev.hrp.mbx.length < run0.dev.rowsLeft 5 512) ∧
    ((4080 : BitVec 12).toNat % 16 = 0) ∧
    ([0#8, 0#8, 0#8, 0#8, 0#8, 0#8, 0#8, 0#8, 0#8, 0#8, 0#8, 0#8, 0#8, 0#8, 0#8, 0#8].length = 16) ∧
    (run0.dev.evs.latchUsb.length = 16) ∧
    (run0.dev.hrp.mbxLatch.length = 16) := by
  decide +kernel
end C04b

/-! ### Events -/

namespace C04c
def W (op part nid vala valb : Nat) (w0 : Nat := 0) (fl : Nat := 0) : Roari := ⟨BitVec.ofNat 64 w0, BitVec.ofNat 64 (op * 2 ^ 56 + part * 2 ^ 50 + fl * 2 ^ 48 + nid * 2 ^ 32 + vala * 2 ^ 16 + valb)⟩
def pe (w : Roari) (at_ : Nat) (seq : Nat) (rank : Nat := 0) : Pend := { word := w, at_ := BitVec.ofNat 64 at_, frac := 0, rank := rank, seq := seq, prio := 0, late := false, offered := false, spilled := false, notBefore := 0, node := none }
def E (g : Evs → Evs) (x : State) : State := { x with dev := { x.dev with evs := g x.dev.evs } }
def S (l : List Pend) (x : State) : State := E (fun e => { e with store := l }) x
def l1 : List Pend := [pe (W 2 0 5 1 2) 0xFFFF0000 1, pe (W 1 0 6 1 2) 0xFFFE0000 2, pe (W 1 0 7 1 2) 0xFFFE0000 3 1, pe (W 4 0 7 1 2) 0x200000000 4 1]

def w0 : State := E (fun e => { e with panic := [pe (W 9 0 7 1 2) 0xFFFE0000 9 1] }) (S l1 df)
theorem witness_ReleaseTakesTheWordInOrder :
    (match w0.dev.release 1 with | some (e, p) => decide (p.seq = 2) | _ => false) = true ∧
    (∀ q ∈ w0.dev.evs.panic ++ w0.dev.evs.store, q.due w0.dev.brt.pos = true → (w0.dev.brt.pos + 65536 - q.at_).toNat < 2 ^ 62) ∧
    (match (S (l1.take 1) df).dev.release 2 with | some (e, p) => decide (p.seq = 1) | _ => false) = true := by
  decide +kernel
end C04c

/-! ### Events -/

namespace C04d
def W (op part nid vala valb : Nat) (w0 : Nat := 0) (fl : Nat := 0) : Roari := ⟨BitVec.ofNat 64 w0, BitVec.ofNat 64 (op * 2 ^ 56 + part * 2 ^ 50 + fl * 2 ^ 48 + nid * 2 ^ 32 + vala * 2 ^ 16 + valb)⟩
def pe (w : Roari) (at_ : Nat) (seq : Nat) (rank : Nat := 0) : Pend := { word := w, at_ := BitVec.ofNat 64 at_, frac := 0, rank := rank, seq := seq, prio := 0, late := false, offered := false, spilled := false, notBefore := 0, node := none }
def E (g : Evs → Evs) (x : State) : State := { x with dev := { x.dev with evs := g x.dev.evs } }
def S (l : List Pend) (x : State) : State := E (fun e => { e with store := l }) x
def v2 : State := { df with dev := { df.dev with rda := { df.dev.rda with voices := [(0, vo 0 5), (1, vo 3 5), (2, vo 0 6)], alt := [3] } } }
def at1 (w : Roari) (x : State) : State := S [pe w 0xFFFF8000 9, pe (W 4 0 0 0 0) 0x300000000 10] x

def w0 : State :=
  at1 (W 1 0 9 100 8192) v2
def w1 : State :=
  at1 (W 2 3 5 77 0) v2
def w2 : State :=
  at1 (W 3 0 5 4660 22136) v2
def w3 : State :=
  at1 (W 7 0 6 43981 (2 * 16384)) v2
theorem witness_NoteWordsActOnVoices :
    (w0.dev.running = true) ∧
    ((match w0.dev.release opNOTE_ON with | some (d, p) => decide (d.argOk p.word = true) && decide (d.hostWord p.word = false) && decide (d.mode ≠ mSAFE) && decide (d.pMute p.word.part = false) && decide (p.spilled = false) && decide (d.pVoicing p.word.part = 0) && decide (d.patchLoaded p.word.part = true) && decide (d.local_ p.word.part < d.pLimit p.word.part) && decide (d.available p.word.part 0 = true) && decide ((match d.packReed with | some (n, wake) => true | _ => false) = true) | _ => false) = true) ∧
    (w1.dev.running = true) ∧
    ((match w1.dev.release opNOTE_OFF with | some (d, p) => decide (d.argOk p.word = true) && decide (d.hostWord p.word = false) && decide (d.pVoicing p.word.part = 0) | _ => false) = true) ∧
    (w2.dev.running = true) ∧
    ((match w2.dev.release opPOLY_PRESS with | some (d, p) => decide (d.argOk p.word = true) && decide (d.hostWord p.word = false) | _ => false) = true) ∧
    (w3.dev.running = true) ∧
    ((match w3.dev.release opPER_NOTE with | some (d, p) => decide (d.argOk p.word = true) && decide (d.hostWord p.word = false) && decide (p.word.valb / 16384 = 2) | _ => false) = true) := by
  decide +kernel
def w4 : State :=
  at1 (W 4 0 0 4660 7) v2
def w5 : State :=
  at1 (W 5 0 0 4660 32768) v2
def w6 : State :=
  at1 (W 6 0 0 3 0) v2
def w7 : State :=
  at1 ((fun k => W 8 0 0 2 k) 6) v2
def w8 : State :=
  at1 (W 9 0 0 3 0) v2
def w9 : State :=
  at1 (W 11 0 0 7 9) v2
theorem witness_PartWordsActOnTheirPart :
    (w4.dev.running = true) ∧
    ((match w4.dev.release opCONTROL with | some (d, p) => decide (d.argOk p.word = true) && decide (d.hostWord p.word = false) && decide (p.word.valb / 16384 ≠ 3) && decide (p.word.valb ≠ 64) | _ => false) = true) ∧
    (w5.dev.running = true) ∧
    ((match w5.dev.release opPITCH_BEND with | some (d, p) => decide (d.argOk p.word = true) && decide (d.hostWord p.word = false) | _ => false) = true) ∧
    (w6.dev.running = true) ∧
    ((match w6.dev.release opPROGRAM with | some (d, p) => decide (d.argOk p.word = true) && decide (d.hostWord p.word = false) && decide (p.word.vala ≤ 1023) && decide (d.flag RDA_PVALID p.word.vala = true) | _ => false) = true) ∧
    (w7.dev.running = true) ∧
    ((match w7.dev.release opPART_MODE with | some (d, p) => decide (d.argOk p.word = true) && decide (d.hostWord p.word = false) | _ => false) = true) ∧
    (w8.dev.running = true) ∧
    ((match w8.dev.release opALL_OFF with | some (d, p) => decide (d.argOk p.word = true) && decide (d.hostWord p.word = false) && decide (p.word.cut = true) && decide (p.word.flush = false) | _ => false) = true) ∧
    (w9.dev.running = true) ∧
    ((match w9.dev.release opMARK with | some (d, p) => decide (d.argOk p.word = true) && decide (d.hostWord p.word = false) | _ => false) = true) := by
  decide +kernel
end C04d

/-! ### Blocks and patches -/

namespace C05
def D (g : Dev → Dev) (x : State) : State := { x with dev := g x.dev }
def blkAt (k : Nat) (x : State) : State := D (fun d => { d with rda := { d.rda with block := some k } }) x
def nb : Nat := df.dev.blkNum

def w0 : State :=
  blkAt nb df
def w1 : State :=
  D   (fun d =>     { d with val := { (d.val) with partPend := [(3, 7)] } })   (blkAt (nb - 1) df)
theorem witness_BlockStartPacesTheDevice :
    (w0.dev.on BRT_STAT.RUNNING = true) ∧
    (w0.dev.running = true) ∧
    ((match w0.dev.rda.block with | some k => decide (w0.dev.blkNum < k + 1) | _ => false) = true) ∧
    (w1.dev.on BRT_STAT.RUNNING = true) ∧
    (w1.dev.running = true) ∧
    ((match w1.dev.rda.block with | some k => decide (k + 1 ≤ w1.dev.blkNum) | _ => false) = true) := by
  decide +kernel
/-- A bank and no commands wait for the block start; core 3 waits for it. -/
def w2 : State := D (fun d => ({ d with rda := { d.rda with plibPend := some 5, cmdPend := [], block := some (nb - 1) } }).setCore 3 { d.core 3 with pwr := true, mst := 0, dst := 0, run := true, waiting := true, restart := false }) df
theorem witness_BlockStartPacesTheDevice_waiting :
    w2.dev.on BRT_STAT.RUNNING = true ∧ w2.dev.running = true ∧ w2.dev.rda.block = some (nb - 1) ∧ nb - 1 + 1 ≤ w2.dev.blkNum ∧
    w2.dev.rda.plibPend = some 5 ∧ w2.dev.rda.cmdPend = [] ∧ 3 < w2.dev.chn.length ∧ (w2.dev.core 3).restart = false ∧ (w2.dev.core 3).pwr = true ∧
    (w2.dev.core 3).mst = 0 ∧ (w2.dev.core 3).dst = 0 ∧ (w2.dev.core 3).run = true ∧ (w2.dev.core 3).waiting = true := by
  decide +kernel
end C05

/-! ### Blocks and patches -/

namespace C05b
def D (g : Dev → Dev) (x : State) : State := { x with dev := g x.dev }
def R (g : Rda → Rda) (x : State) : State := D (fun d => { d with rda := g d.rda }) x
def v2 : State := { df with dev := { df.dev with rda := { df.dev.rda with voices := [(0, vo 0 5), (1, vo 3 5)], alt := [3] } } }

def w0 : State :=
  R   (fun r =>     { voices :=         List.map           (fun e =>             (e.1, { (e.2) with started := true, patch := [] }))           r.voices, ghosts := r.ghosts, latches := r.latches, count := r.count, lfsr := r.lfsr, phase := r.phase, naive := r.naive, lfo := r.lfo, sounded := r.sounded, block := r.block, bus := r.bus, ret := r.ret, plibPend := r.plibPend, cmdPend := r.cmdPend, validating := r.validating, alt := r.alt, ctl := r.ctl, bend := r.bend, partEvs := r.partEvs })   v2
def w1 : State :=
  R (fun r => { r with validating := some 31 }) df
theorem witness_PatchCommandsActOnTheLibrary :
    (w0.dev.on RDA_PSTAT.BUSY = false) ∧
    ((match w1.dev.rda.validating with | some n => true | _ => false) = true) ∧
    (w0.dev.running = true) ∧
    ((126 : BitVec 32).toNat % 2 = 0) ∧
    ((5 : BitVec 32).toNat % 2 = 1) := by
  decide +kernel
/-- A voice that sounds, its second oscillator a looped sample. -/
def w2 : State := R (fun r => { r with voices := [(1, { vo 3 5 with started := true, patch := List.replicate (oscBase 1) 0 ++ [5] })] }) df
theorem witness_PatchCommandsActOnTheLibrary_reed :
    (match w2.dev.rda.voices.lookup 1 with
      | some v => v.started && !v.elided && decide (5 ≤ u8 v.patch (oscBase 1)) && decide (u8 v.patch (oscBase 1) ≤ 6)
      | none => false) = true ∧ w2.dev.running = true ∧ w2.dev.reedExists 1 = true ∧ w2.dev.g RDA_LANERET = 0 := by
  decide +kernel
end C05b

/-! ### Leases and spill -/

namespace C06
def wS (f : Fld) (v i : Nat) (x : State) : State := { x with dev := x.dev.s f v i }
def D (g : Dev → Dev) (x : State) : State := { x with dev := g x.dev }
def V (g : Val → Val) (x : State) : State := D (fun d => { d with val := g d.val }) x
def putM (a : Nat) (l : List Byte) (x : State) : State := D (fun d => { d with bnk := { d.bnk with mem := memPut d.bnk.mem a l } }) x
def v2 : State := { df with dev := { df.dev with rda := { df.dev.rda with voices := [(0, vo 0 5), (1, vo 3 5)], alt := [3] } } }
def rec_ (node tag mode : Nat) (patch : Nat) : List Byte := leBytes 2 node ++ [BitVec.ofNat 8 tag, BitVec.ofNat 8 mode] ++ leBytes 2 patch ++ List.replicate 10 0
def led (x : State) : State := putM 0x40000 (leBytes 8 5) <| putM 0x40020 (rec_ 9 7 0 3) <| putM 0x40040 (rec_ 10 8 0 3) <| wS VAL_LEDGER 0x1000 0 <| wS VAL_CTL.HOSTEN 1 0 <| wS BNK_OWN.OWN 18 1 <| V (fun v => { v with withheld := [] }) x
def late (x : State) : State := D (fun d => { d with brt := { d.brt with tbase := 0x1000000000 } }) x
def leased : State := led (D (fun d => { d with rda := { d.rda with voices := d.rda.voices.map (fun e => (e.1, { e.2 with lease := if e.1 = 0 then some 0 else none })) } }) v2)

def w0 : State :=
  late (V (fun v => { v with leases := [{ lease := 0, lastTb := 0, freeAt := some 5, offDone := true, started := true }, { lease := 2, lastTb := 0, freeAt := none, offDone := true, started := false }] }) leased)
theorem witness_LeasesFollowTheLedger :
    (∃ e ∈ w0.dev.syncLeases.val.leases, e.freeAt = none ∧ w0.dev.g VAL_LEASEMAX * 100000 ≤ (w0.dev.brt.tbase - e.lastTb).toNat) ∧
    (df.dev.on VAL_CTL.HOSTEN = false) ∧ w0.dev.claimed ≠ [] := by
  decide +kernel
end C06

/-! ### Leases and spill -/

namespace C06b
def wS (f : Fld) (v i : Nat) (x : State) : State := { x with dev := x.dev.s f v i }
def W (op part nid vala valb : Nat) (w0 : Nat := 0) (fl : Nat := 0) : Roari := ⟨BitVec.ofNat 64 w0, BitVec.ofNat 64 (op * 2 ^ 56 + part * 2 ^ 50 + fl * 2 ^ 48 + nid * 2 ^ 32 + vala * 2 ^ 16 + valb)⟩
def pe (w : Roari) (at_ : Nat) (seq : Nat) (rank : Nat := 0) : Pend := { word := w, at_ := BitVec.ofNat 64 at_, frac := 0, rank := rank, seq := seq, prio := 0, late := false, offered := false, spilled := false, notBefore := 0, node := none }
def E (g : Evs → Evs) (x : State) : State := { x with dev := { x.dev with evs := g x.dev.evs } }
def S (l : List Pend) (x : State) : State := E (fun e => { e with store := l }) x
def D (g : Dev → Dev) (x : State) : State := { x with dev := g x.dev }
def V (g : Val → Val) (x : State) : State := D (fun d => { d with val := g d.val }) x
def putM (a : Nat) (l : List Byte) (x : State) : State := D (fun d => { d with bnk := { d.bnk with mem := memPut d.bnk.mem a l } }) x
def v2 : State := { df with dev := { df.dev with rda := { df.dev.rda with voices := [(0, vo 0 5), (1, vo 3 5)], alt := [3] } } }
def rec_ (node tag mode : Nat) (patch : Nat) : List Byte := leBytes 2 node ++ [BitVec.ofNat 8 tag, BitVec.ofNat 8 mode] ++ leBytes 2 patch ++ List.replicate 10 0
def led (x : State) : State := putM 0x40000 (leBytes 8 5) <| putM 0x40020 (rec_ 9 7 0 3) <| putM 0x40040 (rec_ 10 8 0 3) <| wS VAL_LEDGER 0x1000 0 <| wS VAL_CTL.HOSTEN 1 0 <| wS BNK_OWN.OWN 18 1 <| V (fun v => { v with withheld := [] }) x
def late (x : State) : State := D (fun d => { d with brt := { d.brt with tbase := 0x1000000000 } }) x
def leased : State := led (D (fun d => { d with rda := { d.rda with voices := d.rda.voices.map (fun e => (e.1, { e.2 with lease := if e.1 = 0 then some 0 else none })) } }) v2)
def pp (w : Roari) (at_ : Nat) : Pend := { pe w at_ 9 with node := some 9 }
def hostP (x : State) : State := wS VAL_SPILL.HOSTPART 15 0 x
def spn (nid : Nat) (nd : Option (BitVec 12)) (x : State) : State := hostP (S [{ pp (W 10 15 nid 50000 0x8000) 0xFFFF0000 with node := nd }] x)

def w0 : State :=
  spn 1536 (some 9) leased
def w1 : State :=
  spn 2050 (some 10) leased
theorem witness_SpillNotesStartOnTheHostPart :
    (w0.dev.running = true) ∧
    ((match w0.dev.release opSPILL_NOTE with | some (d, p) => decide (d.argOk p.word = true) && decide (d.leaseOk p.word p.node = false) | _ => false) = true) ∧
    (w1.dev.running = true) ∧
    ((match w1.dev.release opSPILL_NOTE with | some (d, p) => decide (d.argOk p.word = true) && decide (d.on VAL_CTL.HOSTEN = true) && decide (d.leaseOk p.word p.node = true) && decide (d.leaseField (p.word.nid % 256) 3 1 = 0) && decide (d.mode ≠ mSAFE) && decide (d.pMute (d.g VAL_SPILL.HOSTPART) = false) && decide (d.flag RDA_PVALID (d.leaseField (p.word.nid % 256) 4 2 % 1024) = true) && decide ((d.syncLeases.mapLease (p.word.nid % 256) fun x => { x with started := true }).local_ (d.g VAL_SPILL.HOSTPART) < (d.syncLeases.mapLease (p.word.nid % 256) fun x => { x with started := true }).pLimit (d.g VAL_SPILL.HOSTPART)) && decide ((d.syncLeases.mapLease (p.word.nid % 256) fun x => { x with started := true }).available (d.g VAL_SPILL.HOSTPART) 0 = true) && decide ((match (d.syncLeases.mapLease (p.word.nid % 256) fun x => { x with started := true }).packReed with | some (n, wake) => true | _ => false) = true) | _ => false) = true) := by
  decide +kernel
end C06b

/-! ### Leases and spill -/

namespace C06c
def wS (f : Fld) (v i : Nat) (x : State) : State := { x with dev := x.dev.s f v i }
def W (op part nid vala valb : Nat) (w0 : Nat := 0) (fl : Nat := 0) : Roari := ⟨BitVec.ofNat 64 w0, BitVec.ofNat 64 (op * 2 ^ 56 + part * 2 ^ 50 + fl * 2 ^ 48 + nid * 2 ^ 32 + vala * 2 ^ 16 + valb)⟩
def pe (w : Roari) (at_ : Nat) (seq : Nat) (rank : Nat := 0) : Pend := { word := w, at_ := BitVec.ofNat 64 at_, frac := 0, rank := rank, seq := seq, prio := 0, late := false, offered := false, spilled := false, notBefore := 0, node := none }
def E (g : Evs → Evs) (x : State) : State := { x with dev := { x.dev with evs := g x.dev.evs } }
def S (l : List Pend) (x : State) : State := E (fun e => { e with store := l }) x
def D (g : Dev → Dev) (x : State) : State := { x with dev := g x.dev }
def V (g : Val → Val) (x : State) : State := D (fun d => { d with val := g d.val }) x
def spart (x : State) : State := V (fun v => { v with part := sput 0 (2 * 8 + 5) (2 + 4 * 65536) (sput 0 (2 * 8 + 4) (x.dev.partWord 2 4 ||| 0x20000) v.part) }) x
def off (at_ : Nat) (x : State) : State := S [pe (W 1 2 5 50000 0x8000) at_ 9, pe (W 4 0 0 0 0) 0x300000000 10] (wS VAL_PEER.EN 1 1 (wS VAL_PEER.NODE 9 1 (wS VAL_PEER_LEDGER 0x8000 1 (wS VAL_CTL.SPILLEN 1 0 (spart x)))))

def w0 : State :=
  V (fun v => { v with cache := [(4, 18446744073709551615), (5, 7)] }) (off 4311744512 df)
theorem witness_OffersClaimALease :
    (w0.dev.blw.outcomes = []) ∧
    (w0.dev.on BRT_STAT.RUNNING = true) ∧
    (w0.dev.on VAL_CTL.SPILLEN = true) ∧
    (w0.dev.on VAL_STAT.RETERR = false) ∧
    (w0.dev.val.map.length < 1024) ∧
    (w0.dev.val.claims.length < 64) ∧
    ((match firstBy Pend.before (List.filter w0.dev.offerDue (w0.dev.evs.panic ++ w0.dev.evs.store)) with | some p => decide (w0.dev.claimPend p.seq = some p) && decide (p.word.op = opNOTE_ON) && decide (w0.dev.pSpillPol p.word.part = 2) && decide ((List.filter (fun e => decide (e.part.toNat = p.word.part)) w0.dev.val.map).length < w0.dev.pSpillMax p.word.part) && decide ((w0.dev.val.claims.all fun c => decide (c.seq ≠ p.seq)) = true) && decide (later w0.dev.brt.pos (w0.dev.deadline p.word.part p.pos) = false) && decide ((match List.filter   (fun k =>     bit (w0.dev.pPeers p.word.part) k && w0.dev.on VAL_PEER.EN k &&       match List.lookup k w0.dev.val.skipTb with       | some t => decide (1000000 ≤ (w0.dev.brt.tbase - BitVec.ofNat 64 (t.toNat - 1)).toNat)       | none => true)   (List.map (fun i => (w0.dev.val.lastPeer + 1 + i) % 16) (List.range 16)) with | k :: rest => decide ((match w0.dev.cachedFree k with | some (j, i) => true | _ => false) = true) | _ => false) = true) | _ => false) = true) ∧
    (w0.dev.running = true) ∧
    (w0.dev.retBounds (bitsOf (BitVec.toNat (w0.dev.merged 16400 1048335#32)) 3 0) (bitsOf (BitVec.toNat (w0.dev.merged 16400 1048335#32)) 19 8) = false) ∧
    (w0.dev.retBounds (bitsOf (BitVec.toNat (w0.dev.merged 16400 3#32)) 3 0) (bitsOf (BitVec.toNat (w0.dev.merged 16400 3#32)) 19 8) = true) := by
  decide +kernel
end C06c

/-! ### Chanter arithmetic and moves -/

namespace C07a
def wD (g : Dev → Dev) (x : State) : State := { x with dev := g x.dev }
def mvw (t reg p mode : Nat) : Nat := t * 2 ^ 14 + reg * 2 ^ 8 + p * 2 ^ 5 + mode * 4
def par (aop d a b hx hy xm ym : Nat) : Nat := aop * 2 ^ 41 + d * 2 ^ 38 + a * 2 ^ 36 + b * 2 ^ 34 + hx * 2 ^ 33 + hy * 2 ^ 32 + xm * 2 ^ 16 + ym
def core0 : Core := { Core.reset with pwr := true, run := true, mst := 0, dst := 0, pc := 9, acc := [0x7FFFFFFFFFFFFFFFFF, 0x800000000000000000, 5, 0x123456789ABCDEF012, 0xFFFFFFFFFFFFFFFFFF, 0x40000000, 0x7FFFFFFFFFFFFFFFF0, 0], x := [0x8000000080000000, 0x7FFFFFFF80000001, 0x123456789ABCDEF0, 1], y := [0x8000000080000000, 0xFEDCBA9876543210, 0x000000017FFFFFFF, 0], p := [0x10, 0x20, 0x3FFE, 0x100, 0x4000, 0x8000, 0, 7], n := [1,2,3,4,5,6,7,8], xm := [(8, 0x1122334455667788), (16, 0xAABB)], ym := [(16, 0x99)], cond1 := 5, mxv := 3, mnv := 0xFFFFFFF0, sidx := 9 }
def st (k : Core) : State := wD (fun d => { d with chn := setAt d.chn 3 k }) run0
def at_ (w : Nat) : State := st { core0 with pm := [(9, BitVec.ofNat 48 w)] }
def xm1 := mvw 1 2 1 1

def w0 : State :=
  at_ (par (0 + 1) 1 1 2 0 0 xm1 0)
def w1 : Core :=
  (((fun i => at_ (par (i + 1) 1 1 2 0 0 xm1 0)) 0).dev.core 3).front
def w2 : State :=
  at_ (par 2 2 1 2 0 0 xm1 0)
def w3 : Core :=
  ((at_ (par 2 2 1 2 0 0 xm1 0)).dev.core 3).front
def w4 : State :=
  at_ (par 3 2 1 2 0 0 xm1 0)
def w5 : Core :=
  ((at_ (par 3 2 1 2 0 0 xm1 0)).dev.core 3).front
def w6 : State :=
  at_ (par (3 + 1) 1 1 2 0 0 xm1 0)
def w7 : Core :=
  (((fun i => at_ (par (i + 1) 1 1 2 0 0 xm1 0)) 3).dev.core 3).front
def w8 : State :=
  at_ (par (4 + 1) 1 1 2 0 0 xm1 0)
def w9 : Core :=
  (((fun i => at_ (par (i + 1) 1 1 2 0 0 xm1 0)) 4).dev.core 3).front
def w10 : State :=
  at_ (par 6 2 1 2 1 0 xm1 0)
def w11 : Core :=
  ((at_ (par 6 2 1 2 1 0 xm1 0)).dev.core 3).front
def w12 : State :=
  at_ (par 7 5 1 2 0 1 0 0)
def w13 : Core :=
  ((at_ (par 7 5 1 2 0 1 0 0)).dev.core 3).front
def w14 : State :=
  at_ (par 8 5 2 1 0 1 0 0)
def w15 : Core :=
  ((at_ (par 8 5 2 1 0 1 0 0)).dev.core 3).front
def w16 : State :=
  at_ (par 9 3 2 0 0 0 xm1 0)
def w17 : Core :=
  ((at_ (par 9 3 2 0 0 0 xm1 0)).dev.core 3).front
def w18 : State :=
  at_ (par 10 5 1 1 0 0 0 0)
def w19 : Core :=
  ((at_ (par 10 5 1 1 0 0 0 0)).dev.core 3).front
def w20 : State :=
  at_ (par 11 5 1 1 0 0 0 0)
def w21 : Core :=
  ((at_ (par 11 5 1 1 0 0 0 0)).dev.core 3).front
def w22 : State :=
  at_ (par 16 3 2 2 0 0 0 0)
def w23 : Core :=
  ((at_ (par 16 3 2 2 0 0 0 0)).dev.core 3).front
def w24 : State :=
  at_ (par 12 3 1 0 1 0 0 0)
def w25 : Core :=
  ((at_ (par 12 3 1 0 1 0 0 0)).dev.core 3).front
def w26 : State :=
  at_ (par 13 5 0 0 0 0 0 0)
def w27 : Core :=
  ((at_ (par 13 5 0 0 0 0 0 0)).dev.core 3).front
def w28 : State :=
  at_ (par 14 3 0 0 0 0 0 0)
def w29 : Core :=
  ((at_ (par 14 3 0 0 0 0 0 0)).dev.core 3).front
def w30 : State :=
  at_ (par 15 3 0 0 0 0 0 0)
def w31 : Core :=
  ((at_ (par 15 3 0 0 0 0 0 0)).dev.core 3).front
def w32 : State :=
  at_ (par 17 5 2 2 1 0 0 0)
def w33 : Core :=
  ((at_ (par 17 5 2 2 1 0 0 0)).dev.core 3).front
def w34 : State :=
  at_ (par 18 5 2 2 1 0 0 0)
def w35 : Core :=
  ((at_ (par 18 5 2 2 1 0 0 0)).dev.core 3).front
theorem witness_AccumulatorInstructionsCompute_1 :
    (w0.dev.bnk.hand = []) ∧
    ((3 : BitVec 4).toNat < w0.dev.chn.length) ∧
    (w1.placeFault false = none) ∧
    (∀ a ∈ List.filterMap id [w1.mvAccess false (Mv.load 2#6 1#3 1#3), w1.mvAccess true Mv.none], a.1.store = true ∨ w1.needs a.1 = none ∧ ((match w1.youngest a.1 with | none => true | some y => decide (w1.covers a.1 y.2 = true)) : Bool) = true) ∧
    (w0.dev.atInstr (3#4) (Instr.cmac (3#4) (1#2) (1#2) (2#2) (Mv.load 2#6 1#3 1#3) Mv.none) = some w1) ∧
    (w2.dev.bnk.hand = []) ∧
    ((3 : BitVec 4).toNat < w2.dev.chn.length) ∧
    (w3.placeFault false = none) ∧
    (∀ a ∈ List.filterMap id [w3.mvAccess false (Mv.load 2#6 1#3 1#3), w3.mvAccess true Mv.none], a.1.store = true ∨ w3.needs a.1 = none ∧ ((match w3.youngest a.1 with | none => true | some y => decide (w3.covers a.1 y.2 = true)) : Bool) = true) ∧
    (w2.dev.atInstr (3#4) (Instr.cmsu (3#4) (2#2) (1#2) (2#2) (Mv.load 2#6 1#3 1#3) Mv.none) = some w3) ∧
    (w4.dev.bnk.hand = []) ∧
    ((3 : BitVec 4).toNat < w4.dev.chn.length) := by
  decide +kernel
theorem witness_AccumulatorInstructionsCompute_2 :
    (w5.placeFault false = none) ∧
    (∀ a ∈ List.filterMap id [w5.mvAccess false (Mv.load 2#6 1#3 1#3), w5.mvAccess true Mv.none], a.1.store = true ∨ w5.needs a.1 = none ∧ ((match w5.youngest a.1 with | none => true | some y => decide (w5.covers a.1 y.2 = true)) : Bool) = true) ∧
    (w4.dev.atInstr (3#4) (Instr.cmpy (3#4) (2#2) (1#2) (2#2) (Mv.load 2#6 1#3 1#3) Mv.none) = some w5) ∧
    (w6.dev.bnk.hand = []) ∧
    ((3 : BitVec 4).toNat < w6.dev.chn.length) ∧
    (w7.placeFault false = none) ∧
    (∀ a ∈ List.filterMap id [w7.mvAccess false (Mv.load 2#6 1#3 1#3), w7.mvAccess true Mv.none], a.1.store = true ∨ w7.needs a.1 = none ∧ ((match w7.youngest a.1 with | none => true | some y => decide (w7.covers a.1 y.2 = true)) : Bool) = true) ∧
    (w6.dev.atInstr (3#4) (Instr.cmacj (3#4) (1#2) (1#2) (2#2) (Mv.load 2#6 1#3 1#3) Mv.none) = some w7) ∧
    (w8.dev.bnk.hand = []) ∧
    ((3 : BitVec 4).toNat < w8.dev.chn.length) ∧
    (w9.placeFault false = none) ∧
    (∀ a ∈ List.filterMap id [w9.mvAccess false (Mv.load 2#6 1#3 1#3), w9.mvAccess true Mv.none], a.1.store = true ∨ w9.needs a.1 = none ∧ ((match w9.youngest a.1 with | none => true | some y => decide (w9.covers a.1 y.2 = true)) : Bool) = true) := by
  decide +kernel
theorem witness_AccumulatorInstructionsCompute_3 :
    (w8.dev.atInstr (3#4) (Instr.dmac (3#4) (1#2) (1#2) (2#2) (Mv.load 2#6 1#3 1#3) Mv.none) = some w9) ∧
    (w10.dev.bnk.hand = []) ∧
    ((3 : BitVec 4).toNat < w10.dev.chn.length) ∧
    (w11.placeFault false = none) ∧
    (∀ a ∈ List.filterMap id [w11.mvAccess false (Mv.load 2#6 1#3 1#3), w11.mvAccess true Mv.none], a.1.store = true ∨ w11.needs a.1 = none ∧ ((match w11.youngest a.1 with | none => true | some y => decide (w11.covers a.1 y.2 = true)) : Bool) = true) ∧
    (w10.dev.atInstr (3#4) (Instr.mac (3#4) (2#3) (1#2) (1#1) (2#2) (0#1) (Mv.load 2#6 1#3 1#3) Mv.none) = some w11) ∧
    (w12.dev.bnk.hand = []) ∧
    ((3 : BitVec 4).toNat < w12.dev.chn.length) ∧
    (w13.placeFault false = none) ∧
    (∀ a ∈ List.filterMap id [w13.mvAccess false Mv.none, w13.mvAccess true Mv.none], a.1.store = true ∨ w13.needs a.1 = none ∧ ((match w13.youngest a.1 with | none => true | some y => decide (w13.covers a.1 y.2 = true)) : Bool) = true) ∧
    (w12.dev.atInstr (3#4) (Instr.msu (3#4) (5#3) (1#2) (0#1) (2#2) (1#1) Mv.none Mv.none) = some w13) ∧
    (w14.dev.bnk.hand = []) ∧
    ((3 : BitVec 4).toNat < w14.dev.chn.length) := by
  decide +kernel
theorem witness_AccumulatorInstructionsCompute_4 :
    (w15.placeFault false = none) ∧
    (∀ a ∈ List.filterMap id [w15.mvAccess false Mv.none, w15.mvAccess true Mv.none], a.1.store = true ∨ w15.needs a.1 = none ∧ ((match w15.youngest a.1 with | none => true | some y => decide (w15.covers a.1 y.2 = true)) : Bool) = true) ∧
    (w14.dev.atInstr (3#4) (Instr.mpy (3#4) (5#3) (2#2) (0#1) (1#2) (1#1) Mv.none Mv.none) = some w15) ∧
    (w16.dev.bnk.hand = []) ∧
    ((3 : BitVec 4).toNat < w16.dev.chn.length) ∧
    (w17.placeFault false = none) ∧
    (∀ a ∈ List.filterMap id [w17.mvAccess false (Mv.load 2#6 1#3 1#3), w17.mvAccess true Mv.none], a.1.store = true ∨ w17.needs a.1 = none ∧ ((match w17.youngest a.1 with | none => true | some y => decide (w17.covers a.1 y.2 = true)) : Bool) = true) ∧
    (w16.dev.atInstr (3#4) (Instr.mag (3#4) (3#3) (2#2) (Mv.load 2#6 1#3 1#3) Mv.none) = some w17) ∧
    (w18.dev.bnk.hand = []) ∧
    ((3 : BitVec 4).toNat < w18.dev.chn.length) ∧
    (w19.placeFault false = none) ∧
    (∀ a ∈ List.filterMap id [w19.mvAccess false Mv.none, w19.mvAccess true Mv.none], a.1.store = true ∨ w19.needs a.1 = none ∧ ((match w19.youngest a.1 with | none => true | some y => decide (w19.covers a.1 y.2 = true)) : Bool) = true) := by
  decide +kernel
theorem witness_AccumulatorInstructionsCompute_5 :
    (w18.dev.atInstr (3#4) (Instr.add (3#4) (5#3) (2#3) Mv.none Mv.none) = some w19) ∧
    (w20.dev.bnk.hand = []) ∧
    ((3 : BitVec 4).toNat < w20.dev.chn.length) ∧
    (w21.placeFault false = none) ∧
    (∀ a ∈ List.filterMap id [w21.mvAccess false Mv.none, w21.mvAccess true Mv.none], a.1.store = true ∨ w21.needs a.1 = none ∧ ((match w21.youngest a.1 with | none => true | some y => decide (w21.covers a.1 y.2 = true)) : Bool) = true) ∧
    (w20.dev.atInstr (3#4) (Instr.sub (3#4) (5#3) (2#3) Mv.none Mv.none) = some w21) ∧
    (w22.dev.bnk.hand = []) ∧
    ((3 : BitVec 4).toNat < w22.dev.chn.length) ∧
    (w23.placeFault false = none) ∧
    (∀ a ∈ List.filterMap id [w23.mvAccess false Mv.none, w23.mvAccess true Mv.none], a.1.store = true ∨ w23.needs a.1 = none ∧ ((match w23.youngest a.1 with | none => true | some y => decide (w23.covers a.1 y.2 = true)) : Bool) = true) ∧
    (w22.dev.atInstr (3#4) (Instr.tfr (3#4) (3#3) (5#3) Mv.none Mv.none) = some w23) ∧
    (w24.dev.bnk.hand = []) ∧
    ((3 : BitVec 4).toNat < w24.dev.chn.length) := by
  decide +kernel
theorem witness_AccumulatorInstructionsCompute_6 :
    (w25.placeFault false = none) ∧
    (∀ a ∈ List.filterMap id [w25.mvAccess false Mv.none, w25.mvAccess true Mv.none], a.1.store = true ∨ w25.needs a.1 = none ∧ ((match w25.youngest a.1 with | none => true | some y => decide (w25.covers a.1 y.2 = true)) : Bool) = true) ∧
    (w24.dev.atInstr (3#4) (Instr.addx (3#4) (3#3) (1#2) (1#1) Mv.none Mv.none) = some w25) ∧
    (w26.dev.bnk.hand = []) ∧
    ((3 : BitVec 4).toNat < w26.dev.chn.length) ∧
    (w27.placeFault false = none) ∧
    (∀ a ∈ List.filterMap id [w27.mvAccess false Mv.none, w27.mvAccess true Mv.none], a.1.store = true ∨ w27.needs a.1 = none ∧ ((match w27.youngest a.1 with | none => true | some y => decide (w27.covers a.1 y.2 = true)) : Bool) = true) ∧
    (w26.dev.atInstr (3#4) (Instr.neg (3#4) (5#3) Mv.none Mv.none) = some w27) ∧
    (w28.dev.bnk.hand = []) ∧
    ((3 : BitVec 4).toNat < w28.dev.chn.length) ∧
    (w29.placeFault false = none) ∧
    (∀ a ∈ List.filterMap id [w29.mvAccess false Mv.none, w29.mvAccess true Mv.none], a.1.store = true ∨ w29.needs a.1 = none ∧ ((match w29.youngest a.1 with | none => true | some y => decide (w29.covers a.1 y.2 = true)) : Bool) = true) := by
  decide +kernel
theorem witness_AccumulatorInstructionsCompute_7 :
    (w28.dev.atInstr (3#4) (Instr.abs (3#4) (3#3) Mv.none Mv.none) = some w29) ∧
    (w30.dev.bnk.hand = []) ∧
    ((3 : BitVec 4).toNat < w30.dev.chn.length) ∧
    (w31.placeFault false = none) ∧
    (∀ a ∈ List.filterMap id [w31.mvAccess false Mv.none, w31.mvAccess true Mv.none], a.1.store = true ∨ w31.needs a.1 = none ∧ ((match w31.youngest a.1 with | none => true | some y => decide (w31.covers a.1 y.2 = true)) : Bool) = true) ∧
    (w30.dev.atInstr (3#4) (Instr.clr (3#4) (3#3) Mv.none Mv.none) = some w31) ∧
    (w32.dev.bnk.hand = []) ∧
    ((3 : BitVec 4).toNat < w32.dev.chn.length) ∧
    (w33.placeFault false = none) ∧
    (∀ a ∈ List.filterMap id [w33.mvAccess false Mv.none, w33.mvAccess true Mv.none], a.1.store = true ∨ w33.needs a.1 = none ∧ ((match w33.youngest a.1 with | none => true | some y => decide (w33.covers a.1 y.2 = true)) : Bool) = true) ∧
    (w32.dev.atInstr (3#4) (Instr.asl (3#4) (5#3) (21#5) Mv.none Mv.none) = some w33) ∧
    (w34.dev.bnk.hand = []) ∧
    ((3 : BitVec 4).toNat < w34.dev.chn.length) := by
  decide +kernel
theorem witness_AccumulatorInstructionsCompute_8 :
    (w35.placeFault false = none) ∧
    (∀ a ∈ List.filterMap id [w35.mvAccess false Mv.none, w35.mvAccess true Mv.none], a.1.store = true ∨ w35.needs a.1 = none ∧ ((match w35.youngest a.1 with | none => true | some y => decide (w35.covers a.1 y.2 = true)) : Bool) = true) ∧
    (w34.dev.atInstr (3#4) (Instr.asr (3#4) (5#3) (21#5) Mv.none Mv.none) = some w35) := by
  decide +kernel
end C07a

/-! ### Chanter arithmetic and moves -/

namespace C07b
def wD (g : Dev → Dev) (x : State) : State := { x with dev := g x.dev }
def mvw (t reg p mode : Nat) : Nat := t * 2 ^ 14 + reg * 2 ^ 8 + p * 2 ^ 5 + mode * 4
def par (aop d a b hx hy xm ym : Nat) : Nat := aop * 2 ^ 41 + d * 2 ^ 38 + a * 2 ^ 36 + b * 2 ^ 34 + hx * 2 ^ 33 + hy * 2 ^ 32 + xm * 2 ^ 16 + ym
def core0 : Core := { Core.reset with pwr := true, run := true, mst := 0, dst := 0, pc := 9, acc := [0x7FFFFFFFFFFFFFFFFF, 0x800000000000000000, 5, 0x123456789ABCDEF012, 0xFFFFFFFFFFFFFFFFFF, 0x40000000, 0x7FFFFFFFFFFFFFFFF0, 0], x := [0x8000000080000000, 0x7FFFFFFF80000001, 0x123456789ABCDEF0, 1], y := [0x8000000080000000, 0xFEDCBA9876543210, 0x000000017FFFFFFF, 0], p := [0x10, 0x20, 0x3FFE, 0x100, 0x4000, 0x8000, 0, 7], n := [1,2,3,4,5,6,7,8], xm := [(8, 0x1122334455667788), (16, 0xAABB)], ym := [(16, 0x99)], cond1 := 5, mxv := 3, mnv := 0xFFFFFFF0, sidx := 9 }
def st (k : Core) : State := wD (fun d => { d with chn := setAt d.chn 3 k }) run0
def at_ (w : Nat) : State := st { core0 with pm := [(9, BitVec.ofNat 48 w)] }
def xm1 := mvw 1 2 1 1
def mx (aop : Nat) (acc : Bool) (n h : Nat) : Nat := aop * 2 ^ 41 + (if acc then n * 2 ^ 38 + 2 ^ 37 else n * 2 ^ 34 + h * 2 ^ 33)

def w0 : State :=
  at_ (par 19 0 1 2 0 0 xm1 0)
def w1 : Core :=
  ((at_ (par 19 0 1 2 0 0 xm1 0)).dev.core 3).front
def w2 : State :=
  at_ (par 20 0 1 2 0 0 0 0)
def w3 : Core :=
  ((at_ (par 20 0 1 2 0 0 0 0)).dev.core 3).front
def w4 : State :=
  at_ (par 21 0 2 1 0 0 0 0)
def w5 : Core :=
  ((at_ (par 21 0 2 1 0 0 0 0)).dev.core 3).front
def w6 : State :=
  at_ (mx 22 true 1 0)
def w7 : Core :=
  ((at_ (mx 22 true 1 0)).dev.core 3).front
def w8 : State :=
  at_ (mx 23 true 1 0)
def w9 : Core :=
  ((at_ (mx 23 true 1 0)).dev.core 3).front
def w10 : State :=
  at_ (mx 24 true 1 0)
def w11 : Core :=
  ((at_ (mx 24 true 1 0)).dev.core 3).front
def w12 : State :=
  at_ (par 25 0 2 1 0 0 0 0)
def w13 : Core :=
  ((at_ (par 25 0 2 1 0 0 0 0)).dev.core 3).front
theorem witness_LogicAndSearchInstructionsAct_1 :
    (w0.dev.bnk.hand = []) ∧
    ((3 : BitVec 4).toNat < w0.dev.chn.length) ∧
    (w1.placeFault false = none) ∧
    (∀ a ∈ List.filterMap id [w1.mvAccess false (Mv.load 2#6 1#3 1#3), w1.mvAccess true Mv.none], a.1.store = true ∨ w1.needs a.1 = none ∧ ((match w1.youngest a.1 with | none => true | some y => decide (w1.covers a.1 y.2 = true)) : Bool) = true) ∧
    (w0.dev.atInstr (3#4) (Instr.and (3#4) (1#2) (2#2) (Mv.load 2#6 1#3 1#3) Mv.none) = some w1) ∧
    (w2.dev.bnk.hand = []) ∧
    ((3 : BitVec 4).toNat < w2.dev.chn.length) ∧
    (w3.placeFault false = none) ∧
    (∀ a ∈ List.filterMap id [w3.mvAccess false Mv.none, w3.mvAccess true Mv.none], a.1.store = true ∨ w3.needs a.1 = none ∧ ((match w3.youngest a.1 with | none => true | some y => decide (w3.covers a.1 y.2 = true)) : Bool) = true) ∧
    (w2.dev.atInstr (3#4) (Instr.or (3#4) (1#2) (2#2) Mv.none Mv.none) = some w3) ∧
    (w4.dev.bnk.hand = []) ∧
    ((3 : BitVec 4).toNat < w4.dev.chn.length) := by
  decide +kernel
theorem witness_LogicAndSearchInstructionsAct_2 :
    (w5.placeFault false = none) ∧
    (∀ a ∈ List.filterMap id [w5.mvAccess false Mv.none, w5.mvAccess true Mv.none], a.1.store = true ∨ w5.needs a.1 = none ∧ ((match w5.youngest a.1 with | none => true | some y => decide (w5.covers a.1 y.2 = true)) : Bool) = true) ∧
    (w4.dev.atInstr (3#4) (Instr.xor (3#4) (2#2) (1#2) Mv.none Mv.none) = some w5) ∧
    (w6.dev.bnk.hand = []) ∧
    ((3 : BitVec 4).toNat < w6.dev.chn.length) ∧
    (w7.placeFault false = none) ∧
    (∀ a ∈ List.filterMap id [w7.mvAccess false Mv.none, w7.mvAccess true Mv.none], a.1.store = true ∨ w7.needs a.1 = none ∧ ((match w7.youngest a.1 with | none => true | some y => decide (w7.covers a.1 y.2 = true)) : Bool) = true) ∧
    (w6.dev.atInstr (3#4) (Instr.maxi (3#4) (MaxSrc.acc 1#3) Mv.none Mv.none) = some w7) ∧
    (w8.dev.bnk.hand = []) ∧
    ((3 : BitVec 4).toNat < w8.dev.chn.length) ∧
    (w9.placeFault false = none) ∧
    (∀ a ∈ List.filterMap id [w9.mvAccess false Mv.none, w9.mvAccess true Mv.none], a.1.store = true ∨ w9.needs a.1 = none ∧ ((match w9.youngest a.1 with | none => true | some y => decide (w9.covers a.1 y.2 = true)) : Bool) = true) := by
  decide +kernel
theorem witness_LogicAndSearchInstructionsAct_3 :
    (w8.dev.atInstr (3#4) (Instr.mini (3#4) (MaxSrc.acc 1#3) Mv.none Mv.none) = some w9) ∧
    (w10.dev.bnk.hand = []) ∧
    ((3 : BitVec 4).toNat < w10.dev.chn.length) ∧
    (w11.placeFault false = none) ∧
    (∀ a ∈ List.filterMap id [w11.mvAccess false Mv.none, w11.mvAccess true Mv.none], a.1.store = true ∨ w11.needs a.1 = none ∧ ((match w11.youngest a.1 with | none => true | some y => decide (w11.covers a.1 y.2 = true)) : Bool) = true) ∧
    (w10.dev.atInstr (3#4) (Instr.maxmin (3#4) (MaxSrc.acc 1#3) Mv.none Mv.none) = some w11) ∧
    (w12.dev.bnk.hand = []) ∧
    ((3 : BitVec 4).toNat < w12.dev.chn.length) ∧
    (w13.placeFault false = none) ∧
    (∀ a ∈ List.filterMap id [w13.mvAccess false Mv.none, w13.mvAccess true Mv.none], a.1.store = true ∨ w13.needs a.1 = none ∧ ((match w13.youngest a.1 with | none => true | some y => decide (w13.covers a.1 y.2 = true)) : Bool) = true) ∧
    (w12.dev.atInstr (3#4) (Instr.clrmx (3#4) Mv.none Mv.none) = some w13) := by
  decide +kernel
end C07b

/-! ### Chanter arithmetic and moves -/

namespace C07c
def wD (g : Dev → Dev) (x : State) : State := { x with dev := g x.dev }
def mvw (t reg p mode : Nat) : Nat := t * 2 ^ 14 + reg * 2 ^ 8 + p * 2 ^ 5 + mode * 4
def core0 : Core := { Core.reset with pwr := true, run := true, mst := 0, dst := 0, pc := 9, acc := [0x7FFFFFFFFFFFFFFFFF, 0x800000000000000000, 5, 0x123456789ABCDEF012, 0xFFFFFFFFFFFFFFFFFF, 0x40000000, 0x7FFFFFFFFFFFFFFFF0, 0], x := [0x8000000080000000, 0x7FFFFFFF80000001, 0x123456789ABCDEF0, 1], y := [0x8000000080000000, 0xFEDCBA9876543210, 0x000000017FFFFFFF, 0], p := [0x10, 0x20, 0x3FFE, 0x100, 0x4000, 0x8000, 0, 7], n := [1,2,3,4,5,6,7,8], xm := [(8, 0x1122334455667788), (16, 0xAABB)], ym := [(16, 0x99)], cond1 := 5, mxv := 3, mnv := 0xFFFFFFF0, sidx := 9 }
def st (k : Core) : State := wD (fun d => { d with chn := setAt d.chn 3 k }) run0
def at_ (w : Nat) : State := st { core0 with pm := [(9, BitVec.ofNat 48 w)] }
def ctl (op b41 b40 reg lo : Nat) : Nat := 2 ^ 47 + op * 2 ^ 42 + b41 * 2 ^ 41 + b40 * 2 ^ 40 + reg * 2 ^ 32 + lo
def sbs (k : Core) : Core := { k with sb := [⟨false, 0x10, true, 7, none⟩, ⟨true, 0x30, false, 7, none⟩] }

def w0 : State :=
  st   (sbs     ( { (core0) with pm := [(9, BitVec.ofNat 48 (mvw 1 2 1 0 * 65536))] }))
def w1 : Core :=
  ((st           (sbs             ( { (core0) with pm := [(9, BitVec.ofNat 48 (mvw 1 2 1 0 * 65536))] }))).dev.core     3).front
def w2 : State :=
  at_ (ctl 2 0 1 20 (1 * 32 + 4 * 4))
def w3 : Core :=
  ((at_ (ctl 2 0 1 20 (1 * 32 + 4 * 4))).dev.core 3).front
def w4 : State :=
  at_ (ctl 1 1 0 64 16383)
def w5 : Core :=
  ((at_ (ctl 1 1 0 64 16383)).dev.core 3).front
def w6 : State :=
  at_ (ctl 1 0 1 20 32767)
def w7 : Core :=
  ((at_ (ctl 1 0 1 20 32767)).dev.core 3).front
def w8 : State :=
  st   (sbs     ( { (core0) with pm := [(9, 140733193388032)] }))
theorem witness_MovesReachLocalMemory_1 :
    (w0.dev.chn.length = 16) ∧
    (w0.dev.bnk.hand = []) ∧
    ((3 : BitVec 4).toNat < w0.dev.chn.length) ∧
    (w1.placeFault false = none) ∧
    ((2 : BitVec 6).toNat < 24) ∧
    (∀ a ∈ List.filterMap id [w1.mvAccess false (Mv.load 2#6 1#3 0#3), w1.mvAccess true Mv.none], a.1.store = true ∨ w1.needs a.1 = none ∧ ((match w1.youngest a.1 with | none => true | some y => decide (w1.covers a.1 y.2 = true)) : Bool) = true) ∧
    (w0.dev.atInstr (3#4) (Instr.nop (3#4) (NopForm.moves (Mv.load 2#6 1#3 0#3) Mv.none none)) = some w1) ∧
    ((w1.genAddr (1 : BitVec 3).toNat (0 : BitVec 3).toNat (wideCode (2 : BitVec 6).toNat)).1.toNat < 16384) ∧
    (w1.youngest { ySpace := false, store := false, code := (2 : BitVec 6).toNat, addr := (w1.genAddr (1 : BitVec 3).toNat (0 : BitVec 3).toNat (wideCode (2 : BitVec 6).toNat)).1 } = none) ∧
    (w2.dev.chn.length = 16) ∧
    (w2.dev.bnk.hand = []) ∧
    ((3 : BitVec 4).toNat < w2.dev.chn.length) := by
  decide +kernel
theorem witness_MovesReachLocalMemory_2 :
    (w3.sb.length < 4) ∧
    (w3.placeFault false = none) ∧
    ((20 : BitVec 8).toNat < 24) ∧
    (w2.dev.atInstr (3#4) (Instr.movp (3#4) false true (20#8) (1#3) (4#3) none) = some w3) ∧
    ((w3.genAddr (1 : BitVec 3).toNat (4 : BitVec 3).toNat (wideCode (20 : BitVec 8).toNat)).1.toNat < 16384) ∧
    (false = false → w3.youngest { ySpace := true, store := false, code := (20 : BitVec 8).toNat, addr := (w3.genAddr (1 : BitVec 3).toNat (4 : BitVec 3).toNat (wideCode (20 : BitVec 8).toNat)).1 } = none) ∧
    (w4.dev.chn.length = 16) ∧
    (w4.dev.bnk.hand = []) ∧
    ((3 : BitVec 4).toNat < w4.dev.chn.length) ∧
    (w5.sb.length < 4) ∧
    (w5.placeFault false = none) ∧
    ((16383 : BitVec 16).toNat < 16384) := by
  decide +kernel
theorem witness_MovesReachLocalMemory_3 :
    (w4.dev.atInstr (3#4) (Instr.mova (3#4) true false (64#8) (16383#16) none) = some w5) ∧
    (w6.dev.chn.length = 16) ∧
    (w6.dev.bnk.hand = []) ∧
    ((3 : BitVec 4).toNat < w6.dev.chn.length) ∧
    (w7.placeFault false = none) ∧
    (16384 ≤ (32767 : BitVec 16).toNat) ∧
    ((32767 : BitVec 16).toNat < 32768) ∧
    (w6.dev.atInstr (3#4) (Instr.mova (3#4) false true (20#8) (32767#16) none) = some w7) ∧
    (w8.dev.chn.length = 16) ∧
    (w8.dev.flt.split = []) ∧
    (w8.dev.bnk.hand = []) ∧
    ((match w8.dev.atInstr (3#4) (Instr.nop (3#4) NopForm.reserved) with | some k => decide (k.dst ≠ 3) | _ => false) = true) := by
  decide +kernel
end C07c

/-! ### Chanter control -/

namespace C08a
def wD (g : Dev → Dev) (x : State) : State := { x with dev := g x.dev }
def core0 : Core := { Core.reset with pwr := true, run := true, mst := 0, dst := 0, pc := 9, acc := [0x7FFFFFFFFFFFFFFFFF, 0x800000000000000000, 5, 0x123456789ABCDEF012, 0xFFFFFFFFFFFFFFFFFF, 0x40000000, 0x7FFFFFFFFFFFFFFFF0, 0], x := [0x8000000080000000, 0x7FFFFFFF80000001, 0x123456789ABCDEF0, 1], y := [0x8000000080000000, 0xFEDCBA9876543210, 0x000000017FFFFFFF, 0], p := [0x10, 0x20, 0x3FFE, 0x100, 0x4000, 0x8000, 0, 7], n := [1,2,3,4,5,6,7,8], xm := [(8, 0x1122334455667788), (16, 0xAABB)], ym := [(16, 0x99)], cond1 := 5, mxv := 3, mnv := 0xFFFFFFF0, sidx := 9 }
def st (k : Core) : State := wD (fun d => { d with chn := setAt d.chn 3 k }) run0
def ctl (op b41 b40 reg lo : Nat) : Nat := 2 ^ 47 + op * 2 ^ 42 + b41 * 2 ^ 41 + b40 * 2 ^ 40 + reg * 2 ^ 32 + lo
def br (op cond t : Nat) : Nat := 2 ^ 47 + op * 2 ^ 42 + cond * 2 ^ 38 + t
def withSb (k : Core) : Core := { k with sb := [⟨false, 0x12, true, 7, none⟩], cst := 512, le := [30, 25, 0, 0], lc := [3, 4, 0, 0], bsp := true, ipc := 33, lr := 44, ien := 5, ipend := 4, pend := [⟨2, 3, 5⟩] }
def lone (k : Core) (w : Nat) : State := st { k with pm := [(9, BitVec.ofNat 48 w)] }

def w0 : State :=
  lone (withSb core0) (br 4 3 20)
def w1 : Core :=
  ((lone (withSb core0) (br 4 3 20)).dev.core 3).front
def w2 : State :=
  lone (withSb core0) (br 5 0 20)
def w3 : Core :=
  ((lone (withSb core0) (br 5 0 20)).dev.core 3).front
def w4 : State :=
  lone (withSb core0) (br 6 1 0)
def w5 : Core :=
  ((lone (withSb core0) (br 6 1 0)).dev.core 3).front
def w6 : State :=
  lone (withSb core0) (br 7 0 0)
def w7 : State :=
  lone (withSb core0) (2 ^ 47 + 8 * 2 ^ 42 + 2 ^ 14 + 10)
def w8 : Core :=
  ((lone (withSb core0) (2 ^ 47 + 8 * 2 ^ 42 + 2 ^ 14 + 10)).dev.core 3).front
def w9 : State :=
  lone (withSb core0) (ctl 9 0 0 81 10)
def w10 : Core :=
  ((lone (withSb core0) (ctl 9 0 0 81 10)).dev.core 3).front
def w11 : State :=
  lone (withSb core0) (2 ^ 47 + 8 * 2 ^ 42 + 2 ^ 14 + 9)
def w12 : Core :=
  ((lone (withSb core0) (2 ^ 47 + 8 * 2 ^ 42 + 2 ^ 14 + 9)).dev.core 3).front
def w13 : State :=
  lone (withSb core0) (ctl 16 0 0 0 0)
def w14 : State :=
  lone (withSb core0) (ctl 13 0 0 0 0)
def w15 : State :=
  lone (withSb core0) (ctl 14 0 0 0 0)
def w16 : State :=
  lone core0 (ctl 14 0 0 0 0)
def w17 : State :=
  lone (withSb core0) (ctl 18 0 0 0 0)
def w18 : State :=
  st   ( { (withSb core0) with cst := ↑(1 <<< cIE), waiting := true })
def w19 : Core :=
  ((st           ( { (withSb core0) with cst := ↑(1 <<< cIE), waiting := true })).dev.core     3).front
theorem witness_ControlInstructionsSequence_1 :
    (w0.dev.chn.length = 16) ∧
    (w0.dev.bnk.hand = []) ∧
    ((3 : BitVec 4).toNat < w0.dev.chn.length) ∧
    (w1.placeFault true = none) ∧
    (w0.dev.atInstr (3#4) (Instr.bra 3#4 3#4 20#14) = some w1) ∧
    (w2.dev.chn.length = 16) ∧
    (w2.dev.bnk.hand = []) ∧
    ((3 : BitVec 4).toNat < w2.dev.chn.length) ∧
    (w3.placeFault true = none) ∧
    (w2.dev.atInstr (3#4) (Instr.call 3#4 20#14) = some w3) ∧
    (w4.dev.chn.length = 16) ∧
    (w4.dev.bnk.hand = []) ∧
    ((3 : BitVec 4).toNat < w4.dev.chn.length) := by
  decide +kernel
theorem witness_ControlInstructionsSequence_2 :
    (w5.placeFault true = none) ∧
    (w4.dev.atInstr (3#4) (Instr.ret 3#4 1#4) = some w5) ∧
    (w6.dev.chn.length = 16) ∧
    (w6.dev.bnk.hand = []) ∧
    ((3 : BitVec 4).toNat < w6.dev.chn.length) ∧
    ((match w6.dev.atInstr (3#4) (Instr.rti 3#4) with | some k => decide (k.placeFault true = none) | _ => false) = true) ∧
    (w7.dev.chn.length = 16) ∧
    (w7.dev.bnk.hand = []) ∧
    ((3 : BitVec 4).toNat < w7.dev.chn.length) ∧
    (w8.placeFault true = none) ∧
    (w8.ll < 4) ∧
    (w7.dev.atInstr (3#4) (Instr.rep 3#4 1#16 10#14) = some w8) := by
  decide +kernel
theorem witness_ControlInstructionsSequence_3 :
    ((w8.pc + 1).toNat ≤ (10 : BitVec 14).toNat) ∧
    (w9.dev.chn.length = 16) ∧
    (w9.dev.bnk.hand = []) ∧
    ((3 : BitVec 4).toNat < w9.dev.chn.length) ∧
    (w10.placeFault true = none) ∧
    (w10.ll < 4) ∧
    (w9.dev.atInstr (3#4) (Instr.repr 3#4 81#8 10#14) = some w10) ∧
    ((w10.pc + 1).toNat ≤ (10 : BitVec 14).toNat) ∧
    (w11.dev.chn.length = 16) ∧
    (w11.dev.bnk.hand = []) ∧
    (w11.dev.flt.split = []) ∧
    ((3 : BitVec 4).toNat < w11.dev.chn.length) := by
  decide +kernel
theorem witness_ControlInstructionsSequence_4 :
    (w12.placeFault true = none) ∧
    (w12.dst ≠ 3) ∧
    (w11.dev.atInstr (3#4) (Instr.rep 3#4 1#16 9#14) = some w12) ∧
    ((9 : BitVec 14).toNat < (w12.pc + 1).toNat) ∧
    (w13.dev.chn.length = 16) ∧
    (w13.dev.bnk.hand = []) ∧
    ((3 : BitVec 4).toNat < w13.dev.chn.length) ∧
    ((match w13.dev.atInstr (3#4) (Instr.lopen 3#4) with | some k => decide (k.placeFault false = none) | _ => false) = true) ∧
    (w14.dev.chn.length = 16) ∧
    (w14.dev.bnk.hand = []) ∧
    ((3 : BitVec 4).toNat < w14.dev.chn.length) ∧
    ((match w14.dev.atInstr (3#4) (Instr.syncp 3#4) with | some k => decide (k.placeFault true = none) | _ => false) = true) := by
  decide +kernel
theorem witness_ControlInstructionsSequence_5 :
    (w15.dev.chn.length = 16) ∧
    (w15.dev.bnk.hand = []) ∧
    ((3 : BitVec 4).toNat < w15.dev.chn.length) ∧
    ((match w15.dev.atInstr (3#4) (Instr.waitb 3#4) with | some k => decide (k.placeFault true = none) && decide (k.bsp = true) && decide (max k.mst.toNat k.dst.toNat ≠ 1) | _ => false) = true) ∧
    (w16.dev.chn.length = 16) ∧
    (w16.dev.bnk.hand = []) ∧
    ((3 : BitVec 4).toNat < w16.dev.chn.length) ∧
    ((match w16.dev.atInstr (3#4) (Instr.waitb 3#4) with | some k => decide (k.placeFault true = none) && decide (k.bsp = false ∨ max k.mst.toNat k.dst.toNat = 1) | _ => false) = true) ∧
    (w17.dev.chn.length = 16) ∧
    (w17.dev.bnk.hand = []) ∧
    (w17.dev.flt.split = []) ∧
    ((3 : BitVec 4).toNat < w17.dev.chn.length) ∧
    ((match w17.dev.atInstr (3#4) (Instr.stop 3#4) with | some k => decide (k.placeFault true = none) && decide (k.dst ≠ 3) | _ => false) = true) := by
  decide +kernel
theorem witness_ControlInstructionsSequence_6 :
    (w18.dev.chn.length = 16) ∧
    ((w18.dev.core (3 : BitVec 4).toNat).canAccept = true) ∧
    (2 < 4) ∧
    (((w18.dev.core (3 : BitVec 4).toNat).ipend &&& (w18.dev.core (3 : BitVec 4).toNat).ien).getLsbD 2 = true) ∧
    (∀ m < 2, ((w18.dev.core (3 : BitVec 4).toNat).ipend &&& (w18.dev.core (3 : BitVec 4).toNat).ien).getLsbD m = false) := by
  decide +kernel
end C08a

/-! ### Chanter control -/

namespace C08b
def wD (g : Dev → Dev) (x : State) : State := { x with dev := g x.dev }
def core0 : Core := { Core.reset with pwr := true, run := true, mst := 0, dst := 0, pc := 9, acc := [0x7FFFFFFFFFFFFFFFFF, 0x800000000000000000, 5, 0x123456789ABCDEF012, 0xFFFFFFFFFFFFFFFFFF, 0x40000000, 0x7FFFFFFFFFFFFFFFF0, 0], x := [0x8000000080000000, 0x7FFFFFFF80000001, 0x123456789ABCDEF0, 1], y := [0x8000000080000000, 0xFEDCBA9876543210, 0x000000017FFFFFFF, 0], p := [0x10, 0x20, 0x3FFE, 0x100, 0x4000, 0x8000, 0, 7], n := [1,2,3,4,5,6,7,8], xm := [(8, 0x1122334455667788), (16, 0xAABB)], ym := [(16, 0x99)], cond1 := 5, mxv := 3, mnv := 0xFFFFFFF0, sidx := 9 }
def st (k : Core) : State := wD (fun d => { d with chn := setAt d.chn 3 k }) run0
def ctl (op b41 b40 reg lo : Nat) : Nat := 2 ^ 47 + op * 2 ^ 42 + b41 * 2 ^ 41 + b40 * 2 ^ 40 + reg * 2 ^ 32 + lo
def lone (k : Core) (w : Nat) : State := st { k with pm := [(9, BitVec.ofNat 48 w)] }

def w0 : State :=
  lone core0 (ctl 0 0 0 112 4294967294)
def w1 : Core :=
  ((lone core0 (ctl 0 0 0 112 4294967294)).dev.core 3).front
def w2 : State :=
  lone core0 (ctl 3 0 0 112 (24 * 2 ^ 24))
def w3 : Core :=
  ((lone core0 (ctl 3 0 0 112 (24 * 2 ^ 24))).dev.core 3).front
def w4 : State :=
  lone   ( { (core0) with post := List.replicate 8 { w0 := 1, w1 := 2 } })   (ctl 10 0 0 0 0 + 1 * 2 ^ 36 + 2 * 2 ^ 34)
def w5 : Core :=
  ((lone           ( { (core0) with post := List.replicate 8 { w0 := 1, w1 := 2 } })           (ctl 10 0 0 0 0 + 1 * 2 ^ 36 + 2 * 2 ^ 34)).dev.core     3).front
def w6 : State :=
  lone core0 (ctl 11 0 0 0 (1 * 32) + 2 * 2 ^ 36)
def w7 : Core :=
  ((lone core0 (ctl 11 0 0 0 (1 * 32) + 2 * 2 ^ 36)).dev.core 3).front
def w8 : State :=
  lone core0 (ctl 12 0 0 0 (1 * 32) + 2 * 2 ^ 36)
def w9 : Core :=
  ((lone core0 (ctl 12 0 0 0 (1 * 32) + 2 * 2 ^ 36)).dev.core 3).front
def w10 : State :=
  lone core0 (ctl 15 0 0 0 0)
def w11 : State :=
  wD   (fun d =>     { d with not := { (d.not) with q := [7], lostNext := true } })   (lone core0 (ctl 17 0 0 0 7))
def w12 : Core :=
  ((wD           (fun d =>             { d with not := { (d.not) with q := [7], lostNext := true } })           (lone core0 (ctl 17 0 0 0 7))).dev.core     3).front
theorem witness_CopiesPostsAndProgramWritesAct_1 :
    (w0.dev.chn.length = 16) ∧
    (w0.dev.bnk.hand = []) ∧
    ((3 : BitVec 4).toNat < w0.dev.chn.length) ∧
    (w1.placeFault false = none) ∧
    (w0.dev.atInstr (3#4) (Instr.ldi 3#4 112#8 4294967294#32) = some w1) ∧
    (w2.dev.chn.length = 16) ∧
    (w2.dev.bnk.hand = []) ∧
    ((3 : BitVec 4).toNat < w2.dev.chn.length) ∧
    (w3.placeFault false = none) ∧
    (w2.dev.atInstr (3#4) (Instr.movr 3#4 112#8 24#8) = some w3) ∧
    (w4.dev.chn.length = 16) ∧
    (w4.dev.bnk.hand = []) ∧
    ((3 : BitVec 4).toNat < w4.dev.chn.length) := by
  decide +kernel
theorem witness_CopiesPostsAndProgramWritesAct_2 :
    (w5.placeFault false = none) ∧
    (w4.dev.atInstr (3#4) (Instr.evpost 3#4 1#2 2#2) = some w5) ∧
    (w6.dev.chn.length = 16) ∧
    (w6.dev.bnk.hand = []) ∧
    ((3 : BitVec 4).toNat < w6.dev.chn.length) ∧
    (w7.placeFault false = none) ∧
    (w6.dev.atInstr (3#4) (Instr.pmw 3#4 2#2 1#3) = some w7) ∧
    (w8.dev.chn.length = 16) ∧
    (w8.dev.bnk.hand = []) ∧
    ((3 : BitVec 4).toNat < w8.dev.chn.length) ∧
    (w9.placeFault false = none) ∧
    (w9.pmPend = []) := by
  decide +kernel
theorem witness_CopiesPostsAndProgramWritesAct_3 :
    (w8.dev.atInstr (3#4) (Instr.pmr 3#4 2#2 1#3) = some w9) ∧
    (w10.dev.chn.length = 16) ∧
    (w10.dev.bnk.hand = []) ∧
    ((3 : BitVec 4).toNat < w10.dev.chn.length) ∧
    ((match w10.dev.atInstr (3#4) (Instr.linv 3#4) with | some k => decide (k.placeFault false = none) | _ => false) = true) ∧
    (w11.dev.chn.length = 16) ∧
    (w11.dev.bnk.hand = []) ∧
    (w11.dev.not.q.length < w11.dev.rowsLeft 6 256) ∧
    ((3 : BitVec 4).toNat < w11.dev.chn.length) ∧
    (w12.placeFault false = none) ∧
    (w11.dev.atInstr (3#4) (Instr.notify 3#4 7#16) = some w12) := by
  decide +kernel
end C08b

/-! ### Chanter control -/

namespace C08c
def wD (g : Dev → Dev) (x : State) : State := { x with dev := g x.dev }
def core0 : Core := { Core.reset with pwr := true, run := true, mst := 0, dst := 0, pc := 9, acc := [0x7FFFFFFFFFFFFFFFFF, 0x800000000000000000, 5, 0x123456789ABCDEF012, 0xFFFFFFFFFFFFFFFFFF, 0x40000000, 0x7FFFFFFFFFFFFFFFF0, 0], x := [0x8000000080000000, 0x7FFFFFFF80000001, 0x123456789ABCDEF0, 1], y := [0x8000000080000000, 0xFEDCBA9876543210, 0x000000017FFFFFFF, 0], p := [0x10, 0x20, 0x3FFE, 0x100, 0x4000, 0x8000, 0, 7], n := [1,2,3,4,5,6,7,8], xm := [(8, 0x1122334455667788), (16, 0xAABB)], ym := [(16, 0x99)], cond1 := 5, mxv := 3, mnv := 0xFFFFFFF0, sidx := 9 }
def st (k : Core) : State := wD (fun d => { d with chn := setAt d.chn 3 k }) run0
def own3 (x : State) : State := wD (fun d => (d.s BNK_OWN.OWN 5 0)) x
def mi (y : Bool) (x : State) : State := wD (fun d => d.setCore 3 ((d.core 3).setMiss y (some 0x40))) x

def w0 : State :=
  st   ( { (core0) with sb := [{ ySpace := true, addr := 19, wide := false, val := 7, ext := none }] })
def w1 : State :=
  own3 (mi true (mi false (st core0)))
def w2 : State :=
  mi true (st core0)
def w3 : State :=
  st   ( { (core0) with pwr := false, run := false })
def w4 : State :=
  st   ( { (core0) with dst := 2, run := false })
theorem witness_CoresAreReachedFromOutside_1 :
    (w0.dev.chn.length = 16) ∧
    (w0.dev.bnk.hand = []) ∧
    ((match (w0.dev.core (3 : BitVec 4).toNat).sb with | e :: tl => decide (e.ext = none) | _ => false) = true) ∧
    (w1.dev.chn.length = 16) ∧
    (w1.dev.bnk.hand = []) ∧
    (w1.dev.bnk.poison = []) ∧
    ((match (w1.dev.core (3 : BitVec 4).toNat).miss true with | some row => decide (w1.dev.bankMay (2 + (3 : BitVec 4).toNat) (bankOf row) false = true) | _ => false) = true) ∧
    (w2.dev.chn.length = 16) ∧
    (w2.dev.bnk.hand = []) ∧
    (w2.dev.bnk.poison = []) ∧
    ((match (w2.dev.core (3 : BitVec 4).toNat).miss true with | some row => decide (w2.dev.bankMay (2 + (3 : BitVec 4).toNat) (bankOf row) false = false) | _ => false) = true) ∧
    ((match (w1.dev.core (3 : BitVec 4).toNat).miss true with | some row => true | _ => false) = true) ∧
    ((w1.dev.core (3 : BitVec 4).toNat).pwr = true) ∧
    ((65528 : BitVec 18).toNat % 8 = 0) ∧
    ((65528 : BitVec 18).toNat < 65536) := by
  decide +kernel
theorem witness_CoresAreReachedFromOutside_2 :
    (w3.dev.chn.length = 16) ∧
    (w3.dev.bnk.hand = []) ∧
    ((w3.dev.core (3 : BitVec 4).toNat).pwr = false) ∧
    (w1.dev.running = true) ∧
    (w3.dev.running = true) ∧
    (w3.dev.flt.split = []) ∧
    (w1.dev.flt.split = []) ∧
    ((w1.dev.core (3 : BitVec 4).toNat).run = true) ∧
    ((w1.dev.core (3 : BitVec 4).toNat).mst = 0) ∧
    ((w1.dev.core (3 : BitVec 4).toNat).dst = 0) ∧
    (((w1.dev.core (3 : BitVec 4).toNat).waiting && (w1.dev.core (3 : BitVec 4).toNat).bsp) = false) ∧
    (w4.dev.chn.length = 16) ∧
    (w4.dev.bnk.hand = []) ∧
    (w4.dev.running = true) ∧
    (w4.dev.flt.split = []) ∧
    ((w4.dev.core (3 : BitVec 4).toNat).pwr = true) ∧
    ((w4.dev.core (3 : BitVec 4).toNat).run = false) ∧
    ((w4.dev.core (3 : BitVec 4).toNat).mst = 0) ∧
    ((w4.dev.core (3 : BitVec 4).toNat).dst = 2) ∧
    (512 ≤ (540 : BitVec 11).toNat) ∧
    ((540 : BitVec 11).toNat < 576) ∧
    ((540 : BitVec 11).toNat % 4 = 0) ∧
    ((w4.dev.core (3 : BitVec 4).toNat).x.length = 4) ∧
    ((w4.dev.core (3 : BitVec 4).toNat).y.length = 4) := by
  decide +kernel
end C08c

/-! ### Banks -/

namespace C09
def wS (f : Fld) (v i : Nat) (x : State) : State := { x with dev := x.dev.s f v i }
def wD (g : Dev → Dev) (x : State) : State := { x with dev := g x.dev }
def B (g : Banks → Banks) (x : State) : State := wD (fun d => { d with bnk := g d.bnk }) x
def mem0 (b : Nat) (x : State) : State := B (fun k => { k with mem := memPut k.mem (b * 0x40000 + 0x100) ((List.range 40).map (fun i => BitVec.ofNat 8 (i * 9 + 200))) }) x
def own (o g rd b : Nat) (x : State) : State := wS BNK_OWN.OWN o b <| wS BNK_GUEST.GUEST g b <| wS BNK_GUEST.RDONLY rd b x
def ow (l : List (Nat × Nat × Nat)) : State := mem0 5 <| mem0 0 <| l.foldl (fun x e => own e.1 e.2.1 e.2.2 5 (own e.1 e.2.1 e.2.2 0 x)) run0
def H (b : Nat) (g : Bool) (o : Nat) (x : State) : State := wS (if g then BNK_GUEST.BUSY else BNK_OWN.BUSY) 1 b (B (fun k => { k with hand := [⟨b, g, o⟩] }) x)

def w0 : State :=
  wS BNK_MODE.DST 1 5 (ow [(19, 2, 0)])
def w1 : State :=
  ow [(2, 1, 0)]
def w2 : State :=
  ow [(2, 2, 1)]
theorem witness_BankPortServesItsInputs_1 :
    (w0.dev.bnk.hand = []) ∧
    (w0.dev.bnk.poison = []) ∧
    (w0.dev.bankMay (w0.dev.g BNK_OWN.OWN (127 : BitVec 7).toNat) (127 : BitVec 7).toNat false = true) ∧
    ((BankOp.read 21 21).wf = true) ∧
    (w0.dev.bankMay (w0.dev.g BNK_OWN.OWN (127 : BitVec 7).toNat) (127 : BitVec 7).toNat true = true) ∧
    ((BankOp.write 21 [0#8, 0#8]).wf = true) ∧
    (w1.dev.bnk.hand = []) ∧
    (w1.dev.bnk.poison = []) ∧
    (w1.dev.g BNK_GUEST.GUEST (5 : BitVec 7).toNat = 1) ∧
    (w1.dev.g BNK_OWN.OWN (5 : BitVec 7).toNat ≠ 18) ∧
    (w1.dev.bankMay 18 (5 : BitVec 7).toNat true = true) ∧
    ((BankOp.atomicAdd 64 true 18446744073709551615#64).wf = true) := by
  decide +kernel
theorem witness_BankPortServesItsInputs_2 :
    (w2.dev.bnk.hand = []) ∧
    (w2.dev.bnk.poison = []) ∧
    (w2.dev.g BNK_GUEST.GUEST (5 : BitVec 7).toNat = 2) ∧
    (w2.dev.on BNK_GUEST.RDONLY (5 : BitVec 7).toNat = true) ∧
    (w2.dev.g BNK_OWN.OWN (5 : BitVec 7).toNat ≠ 19) ∧
    (w1.dev.bankMay (w1.dev.g BNK_OWN.OWN (5 : BitVec 7).toNat) (5 : BitVec 7).toNat true = true) ∧
    (21 / 8 = 21 / 8) := by
  decide +kernel
def w3 : State :=
  H 0 false 21 (ow [(20, 2, 0)])
def w4 : State :=
  wS BNK_MODE.DST 1 5 (ow [(19, 2, 0)])
theorem witness_OwnershipPassesByHandover :
    (w3.dev.running = true) ∧
    (w3.dev.on BNK_OWN.BUSY (0 : BitVec 7).toNat = true) ∧
    (w3.dev.on BNK_OWN.BUSY (127 : BitVec 7).toNat = false) ∧
    ((19 : BitVec 32).toNat % 32 < 22) ∧
    ((19 : BitVec 32).toNat % 32 ≠ w3.dev.g BNK_OWN.OWN (127 : BitVec 7).toNat) ∧
    ((19 : BitVec 32).toNat % 32 = 0 → w3.dev.g BNK_MODE.DST (127 : BitVec 7).toNat ≠ 1) ∧
    (w3.dev.on BNK_GUEST.BUSY (127 : BitVec 7).toNat = false) ∧
    ((6 : BitVec 32).toNat % 4 < 3) ∧
    ((6 : BitVec 32).toNat % 4 ≠ w3.dev.g BNK_GUEST.GUEST (127 : BitVec 7).toNat) ∧
    (w3.dev.bnk.hand = [{ bank := (0 : BitVec 7).toNat, guest := false, old := 21 }]) ∧
    (21 < 2 ∨ 21 = 18 ∨ 20 ≤ 21) ∧
    (w4.dev.g BNK_MODE.DST (5 : BitVec 7).toNat = 1) ∧
    (List.lookup (2 * 256 + (5 : BitVec 7).toNat) w4.dev.flt.split = none) := by
  decide +kernel
end C09

/-! ### Outputs -/

namespace C10
def wS (f : Fld) (v i : Nat) (x : State) : State := { x with dev := x.dev.s f v i }
def wE (g : Bel → Bel) (x : State) : State := { x with dev := { x.dev with bel := g x.dev.bel } }
def wD (g : Dev → Dev) (x : State) : State := { x with dev := g x.dev }
def base : State := wS BEL_STAT.MSTATE 0 0 <| wE (fun b => { b with g := 1, busFrom := 64000, exitAt := some 65535 }) <| wD (fun d => { d with rda := { d.rda with block := some (65536 / d.blk), bus := (List.range 136).map (fun i => (busKey 5 (65536 - 136 + i), 1000000 * (i : Int))) |>.foldl (fun a e => sput 0 e.1 e.2 a) [] } }) run0
def route (n : Nat) (x : State) : State := wS BEL_ROUTE.TYPE 1 n <| wS BEL_ROUTE.BUS 5 n <| wS BEL_ROUTE.GAIN 0x180 n x
def rowAt (n r : Nat) (q : List (Nat × Int)) (x : State) : State := wD (fun d => d.setOut n { d.outCh n with row := some r, q := q }) x
def sap (x : State) : State := wS SAP_CTL.SLOTS 2 1 <| wS SAP_CTL.RXEN 1 1 x

def w0 : State :=
  rowAt 9 65408 [] (route 9 base)
def w1 : State :=
  sap base
def w2 : State :=
  wS SAP_CTL.SLAVE 1 1 (sap base)
def w3 : State :=
  wE (fun b => { b with sapIn := [(1, 65536, [4])] }) (wS SAP_CTL.SLAVE 1 1 (sap base))
theorem witness_BellFetchesAndPresentsCodes_1 :
    (w0.dev.running = true) ∧
    (w0.dev.on BRT_STAT.RUNNING = true) ∧
    ((match w0.dev.rda.block with | some cur => decide (w0.dev.outExists (9 : BitVec 7).toNat = true) && decide (w0.dev.slaveOut (9 : BitVec 7).toNat = false) && decide (w0.dev.est kOut (9 : BitVec 7).toNat ≠ RETIRED) && decide ((w0.dev.outCh (9 : BitVec 7).toNat).lat = none) && decide (w0.dev.g BEL_ROUTE.TYPE (9 : BitVec 7).toNat = 1) && decide ((w0.dev.outCh (9 : BitVec 7).toNat).q.length ≤ 48) && decide ((match (w0.dev.outCh (9 : BitVec 7).toNat).row with | some r => decide (r + 16 ≤ cur * w0.dev.blk) && decide (w0.dev.bel.busFrom ≤ r) && decide (cur * w0.dev.blk ≤ r + 512) && decide (r + w0.dev.g BEL_PLAT ≤ whole w0.dev.brt.pos + 48) && decide (whole w0.dev.brt.pos ≤ r + w0.dev.g BEL_PLAT) && decide (∀ m ∈ w0.dev.bel.exitAt, m < r + w0.dev.g BEL_PLAT) | _ => false) = true) | _ => false) = true) ∧
    ((match w0.dev.bel.exitAt with | some m => decide (m + 1 ≤ whole w0.dev.brt.pos) && decide (w0.dev.g BEL_PLAT ≤ m + 1) | _ => false) = true) ∧
    (w1.dev.running = true) ∧
    (w1.dev.on BRT_STAT.RUNNING = true) ∧
    (w1.dev.on SAP_CTL.RXEN (1 : BitVec 2).toNat = true) ∧
    (w1.dev.on SAP_CTL.TXEN (1 : BitVec 2).toNat = false) ∧
    (w1.dev.on SAP_CTL.SLAVE (1 : BitVec 2).toNat = false) ∧
    (w1.dev.bel.sapAt.getD (1 : BitVec 2).toNat none ≠ some (whole w1.dev.brt.pos)) ∧
    (w2.dev.running = true) ∧
    (w2.dev.on BRT_STAT.RUNNING = true) ∧
    (∀ cur ∈ w2.dev.rda.block, cur * w2.dev.blk ≤ (BitVec.toNat w2.dev.brt.pos + 32768) / 65536) ∧
    (w2.dev.on SAP_CTL.RXEN (1 : BitVec 2).toNat = true) ∧
    (w2.dev.on SAP_CTL.TXEN (1 : BitVec 2).toNat = false) ∧
    (w2.dev.on SAP_CTL.SLAVE (1 : BitVec 2).toNat = true) ∧
    (∀ e ∈ w2.dev.bel.sapIn, ¬(e.1 = (1 : BitVec 2).toNat ∧ e.2.1 = (BitVec.toNat w2.dev.brt.pos + 32768) / 65536)) := by
  decide +kernel
theorem witness_BellFetchesAndPresentsCodes_2 :
    (w3.dev.running = true) ∧
    (w3.dev.on BRT_STAT.RUNNING = true) ∧
    (∀ cur ∈ w3.dev.rda.block, cur * w3.dev.blk ≤ (BitVec.toNat w3.dev.brt.pos + 32768) / 65536) ∧
    (w3.dev.on SAP_CTL.RXEN (1 : BitVec 2).toNat = true) ∧
    (w3.dev.on SAP_CTL.TXEN (1 : BitVec 2).toNat = false) ∧
    (w3.dev.on SAP_CTL.SLAVE (1 : BitVec 2).toNat = true) ∧
    (∃ e ∈ w3.dev.bel.sapIn, e.1 = (1 : BitVec 2).toNat ∧ e.2.1 = (BitVec.toNat w3.dev.brt.pos + 32768) / 65536) := by
  decide +kernel
end C10

/-! ### Outputs -/

namespace C10b
def wS (f : Fld) (v i : Nat) (x : State) : State := { x with dev := x.dev.s f v i }
def wE (g : Bel → Bel) (x : State) : State := { x with dev := { x.dev with bel := g x.dev.bel } }
def wD (g : Dev → Dev) (x : State) : State := { x with dev := g x.dev }
def base : State := wS BEL_STAT.MSTATE 0 0 <| wE (fun b => { b with g := 1, busFrom := 64000, exitAt := some 65535 }) <| wD (fun d => { d with rda := { d.rda with block := some (65536 / d.blk), bus := (List.range 136).map (fun i => (busKey 5 (65536 - 136 + i), 1000000 * (i : Int))) |>.foldl (fun a e => sput 0 e.1 e.2 a) [] } }) run0
def route (n : Nat) (x : State) : State := wS BEL_ROUTE.TYPE 1 n <| wS BEL_ROUTE.BUS 5 n <| wS BEL_ROUTE.GAIN 0x180 n x
def rowAt (n r : Nat) (q : List (Nat × Int)) (x : State) : State := wD (fun d => d.setOut n { d.outCh n with row := some r, q := q }) x
def qd (f : Nat) : List (Nat × Int) := [(f, 77), (f + 1, -5)]
def mu (ms : Nat) (g : Rat) (req : Nat) (x : State) : State := wS BEL_STAT.MREQ req 0 <| wE (fun b => { b with g := g }) <| wS BEL_STAT.MSTATE ms 0 x
def withQ : State := rowAt 2 65504 (qd 65536) (route 2 base)

def w0 : State :=
  mu 1 0 48 (wE (fun b => { b with platPend := some 200 }) withQ)
def w1 : State :=
  mu 3 1 0 withQ
def w2 : State :=
  mu 1 (1 / 2) 16 (wS BEL_MUTE.HMUTE 1 0 withQ)
def w3 : State :=
  wS BRT_STAT.PAUSE 1 0 withQ
theorem witness_MuteAndLatencyWaitForTheRamp_1 :
    (w0.dev.g BEL_STAT.MSTATE = 1) ∧
    (w0.dev.bel.g ≤ 0) ∧
    (w0.dev.g BEL_STAT.MREQ ≠ 0) ∧
    (w0.dev.brt.move = none) ∧
    (w0.dev.mode ≠ 4) ∧
    (w1.dev.g BEL_STAT.MSTATE = 3) ∧
    (1 ≤ w1.dev.bel.g) ∧
    (w1.dev.running = true) ∧
    (w1.dev.on BEL_MUTE.HMUTE = false) ∧
    (w2.dev.running = true) ∧
    (w2.dev.on BEL_MUTE.HMUTE = true) ∧
    (w2.dev.g BEL_STAT.MREQ = 16) ∧
    (w2.dev.g BEL_STAT.MSTATE = 1) ∧
    ((513 : BitVec 32).toNat % 1024 < 3 * w2.dev.blk ∨ 512 < (513 : BitVec 32).toNat % 1024) ∧
    (w2.dev.mode = 2 ∨ w2.dev.mode = 3) ∧
    (3 * w2.dev.blk ≤ (300 : BitVec 32).toNat % 1024) ∧
    ((300 : BitVec 32).toNat % 1024 ≤ 512) := by
  decide +kernel
theorem witness_MuteAndLatencyWaitForTheRamp_2 :
    (w3.dev.on BRT_STAT.PAUSE = true) := by
  decide +kernel
end C10b

/-! ### Outputs -/

namespace C10c
def wS (f : Fld) (v i : Nat) (x : State) : State := { x with dev := x.dev.s f v i }
def wE (g : Bel → Bel) (x : State) : State := { x with dev := { x.dev with bel := g x.dev.bel } }
def wD (g : Dev → Dev) (x : State) : State := { x with dev := g x.dev }
def base : State := wS BEL_STAT.MSTATE 0 0 <| wE (fun b => { b with g := 1, busFrom := 64000, exitAt := some 65535 }) <| wD (fun d => { d with rda := { d.rda with block := some (65536 / d.blk), bus := (List.range 136).map (fun i => (busKey 5 (65536 - 136 + i), 1000000 * (i : Int))) |>.foldl (fun a e => sput 0 e.1 e.2 a) [] } }) run0
def tst (k lo st : Nat) (x : State) : State := wD (fun d => { d with flt := { d.flt with tests := [Test.of k lo 0] } }) (wE (fun b => { b with rbStep := setAt b.rbStep lo st }) x)
def st0 : State := wE (fun b => { b with started := true }) base

def w0 : State :=
  tst kPort 1 0 st0
def w1 : State :=
  tst kOut 3 2 st0
def w2 : State :=
  wS FLT_THR.LIMIT 1 4 (tst kOut 3 3 st0)
def w3 : State :=
  tst kOut 3 3 st0
def w4 : State :=
  wS BEL_OSTATE.SHORT 1 3 st0
def w5 : State :=
  wS BEL_OSTATE.LOAD 1 9 st0
theorem witness_OutputsAreSupervised_1 :
    (w0.dev.bel.rbBad.length = 8) ∧
    (w0.dev.bel.rbStep.length = 8) ∧
    (w0.dev.bel.started = true) ∧
    (w0.dev.est kOut (7 : BitVec 3).toNat = ENABLED) ∧
    (w0.dev.on BEL_OSTATE.MONRET (7 : BitVec 3).toNat = false) ∧
    (w0.dev.bel.rbStep.getD (7 : BitVec 3).toNat 0 = 0) ∧
    (w1.dev.bel.rbBad.length = 8) ∧
    (w1.dev.bel.rbStep.length = 8) ∧
    (Test.of kOut (3 : BitVec 3).toNat 0 ∈ w1.dev.flt.tests) ∧
    (w1.dev.bel.rbStep.getD (3 : BitVec 3).toNat 0 < 3) ∧
    (w1.dev.bel.rbStep.getD (3 : BitVec 3).toNat 0 = 1 ∨ w1.dev.bel.rbStep.getD (3 : BitVec 3).toNat 0 = 2) ∧
    (w2.dev.bel.rbBad.length = 8) ∧
    (w2.dev.bel.rbStep.length = 8) ∧
    (Test.of kOut (3 : BitVec 3).toNat 0 ∈ w2.dev.flt.tests) ∧
    (w2.dev.bel.rbStep.getD (3 : BitVec 3).toNat 0 = 3) := by
  decide +kernel
theorem witness_OutputsAreSupervised_2 :
    (w3.dev.bel.rbBad.length = 8) ∧
    (w3.dev.bel.rbStep.length = 8) ∧
    (Test.of kOut (3 : BitVec 3).toNat 0 ∈ w3.dev.flt.tests) ∧
    (w3.dev.bel.rbStep.getD (3 : BitVec 3).toNat 0 = 3) ∧
    (w3.dev.g FLT_THR.LIMIT 4 = 0 ∨ w3.dev.score 4 (3 : BitVec 3).toNat + 1 < w3.dev.g FLT_THR.LIMIT 4) ∧
    (w0.dev.est kOut (7 : BitVec 3).toNat ≠ RETIRED) ∧
    (w0.dev.on BEL_OSTATE.SHORT (7 : BitVec 3).toNat = false) ∧
    (w4.dev.bel.rbBad.length = 8) ∧
    (w4.dev.bel.rbStep.length = 8) ∧
    (w4.dev.on BEL_OSTATE.SHORT (3 : BitVec 3).toNat = true) ∧
    (w0.dev.est kOut (8 + (3 : BitVec 2).toNat) ≠ RETIRED) ∧
    (w0.dev.on BEL_OSTATE.LOAD (8 + (3 : BitVec 2).toNat) = false) := by
  decide +kernel
theorem witness_OutputsAreSupervised_3 :
    (w5.dev.bel.rbBad.length = 8) ∧
    (w5.dev.bel.rbStep.length = 8) ∧
    (w5.dev.on BEL_OSTATE.LOAD (8 + (1 : BitVec 2).toNat) = true) := by
  decide +kernel
end C10c

/-! ### Frame ports -/

namespace C11
def per4 (d : Dev) (f : Dev → Nat → Dev) : Dev := [0,1,2,3].foldl f d
def net : Dev := per4 (((((run0.dev.s BLW_CTL.EN 1).s BLW_NODE 5).s BLW_PD.EN 1 2).s BNK_OWN.OWN 18 0).s BNK_OWN.OWN 18 1)
  (fun d p => ((d.s MAC_STAT.LINK 1 p).s MAC_CTL.MODE 1 p))
def wS (f : Fld) (v i : Nat) (x : State) : State := { x with dev := x.dev.s f v i }
def wP (n : Nat) (g : Port → Port) (x : State) : State := { x with dev := x.dev.setPort n (g (x.dev.port n)) }
def base : State := { run0 with dev := net }
def fb (dst : List Byte) (e : Nat) (n : Nat) : List Byte := dst ++ [2,0,0,0,0,9] ++ beBytes 2 e ++ (List.range n).map (fun k => BitVec.ofNat 8 (k * 7 + 1))
def bc : List Byte := broadcastAddr
def rf (tc : BitVec 2) (e : Nat) (ovs : Bool) : RxFrame := ⟨fb bc e 50, ovs, false, tc, BitVec.ofNat 16 e, 77, 88, 68, fb [] e 60⟩
def tf (tc : BitVec 2) (k : TxKind) : TxFrame := { kind := k, tc := tc, dst := bc, ety := 0x88B5, hdr := [1,2,3], pre := [], key := none, body := [4], timed := false }
def ring (x : State) : State := wS MAC_FFQ_BASE 0x100 2 <| wS MAC_FFQ_CFG.SLOT 4 2 <| wS MAC_FFQ_CFG.NSLOT 4 2 <| wS BNK_OWN.OWN 19 0 <| wS MAC_FFQ_HEAD 3 2 <| wS MAC_FFQ_TAIL 2 2 x

def fr0 : Frame := ⟨fb bc 0x88B5 45, true, false⟩
def fr1 : Frame := ⟨fb bc 0x800 60, false, false⟩
def fr2 : Frame := ⟨fb [2,1,1,1,1,1] 0x800 60, true, false⟩
def fr3 : Frame := ⟨fb bc 0x88B5 100, true, false⟩
def fr4 : Frame := ⟨fb bc 0x88B5 2200, true, false⟩
def w0 : State :=
  wP 2 (fun p => { p with rx := List.replicate 700 (rf 1 2048 false) }) base
def w1 : State :=
  ring (wP 2 (fun p => { p with rx := [rf 3 2048 false, rf 1 34997 false, rf 2 2048 true] }) base)
def w2 : List RxFrame :=
  [rf 3 2048 false]
def w3 : List RxFrame :=
  [rf 2 2048 true]
def w4 : RxFrame :=
  rf 1 34997 false
def w5 : State :=
  wP 2 (fun p => { p with rx := [rf 1 2048 false] }) base
def w6 : List RxFrame :=
  []
def w7 : RxFrame :=
  rf 1 2048 false
def w8 : State :=
  ring (wP 2 (fun p => { p with rx := [rf 1 2048 false] }) base)
def w9 : State :=
  wP 1 (fun p => { p with tx := [tf 3 TxKind.krv] }) base
def w10 : List TxFrame :=
  []
def w11 : TxFrame :=
  tf 3 TxKind.krv
theorem witness_FramesAreReceivedAndSent_1 :
    (w0.dev.mac.length = 4) ∧
    (w0.dev.running = true) ∧
    (w0.dev.portUp (2 : BitVec 2).toNat = true) ∧
    ((w0.dev.port (2 : BitVec 2).toNat).testing = 0) ∧
    (32768 < w0.dev.rxUsed (2 : BitVec 2).toNat + w0.dev.g MAC_MAXFRM (2 : BitVec 2).toNat) ∧
    (w0.dev.portUp (1 : BitVec 2).toNat = true) ∧
    ((w0.dev.port (1 : BitVec 2).toNat).testing = 0) ∧
    (w0.dev.rxUsed (1 : BitVec 2).toNat + w0.dev.g MAC_MAXFRM (1 : BitVec 2).toNat ≤ 32768) ∧
    (fr0.bytes.length <   60) ∧
    ((w0.dev.port (1 : BitVec 2).toNat).crcAt.length < 15) ∧
    (w0.dev.g MAC_LEC.VALUE (1 : BitVec 2).toNat + 8 < 1000) ∧
    (60 ≤   fr1.bytes.length) ∧
    (fr1.bytes.length +     4 ≤   w0.dev.g MAC_MAXFRM (1 : BitVec 2).toNat) ∧
    (fr1.fcsOk =   false) ∧
    ((w0.dev.port (1 : BitVec 2).toNat).good < 999) ∧
    (60 ≤   fr2.bytes.length) ∧
    (fr2.bytes.length +     4 ≤   w0.dev.g MAC_MAXFRM (1 : BitVec 2).toNat) ∧
    (fr2.fcsOk =   true) ∧
    (fr2.lost =   false) ∧
    (w0.dev.accepts (1 : BitVec 2).toNat     (List.take 6       fr2.bytes) =   false) ∧
    (60 ≤   fr3.bytes.length) ∧
    (fr3.bytes.length +     4 ≤   w0.dev.g MAC_MAXFRM (1 : BitVec 2).toNat) ∧
    (fr3.fcsOk =   true) ∧
    (fr3.lost =   false) ∧
    (w0.dev.accepts (1 : BitVec 2).toNat     (List.take 6       fr3.bytes) =   true) ∧
    (beNat     (slice       fr3.bytes       12 2) ∉   [33024, 34824, 35020]) ∧
    (64 ≤ w0.dev.g MAC_MAXFRM (1 : BitVec 2).toNat) ∧
    (w0.dev.g MAC_MAXFRM (1 : BitVec 2).toNat <   fr4.bytes.length +     4) ∧
    (fr4.fcsOk =   true) ∧
    (fr4.lost =   false) ∧
    (w0.dev.accepts (1 : BitVec 2).toNat     (List.take 6       fr4.bytes) =   true) ∧
    (beNat     (slice       fr4.bytes       12 2) ∉   [33024, 34824, 35020]) := by
  decide +kernel
theorem witness_FramesAreReceivedAndSent_2 :
    (w1.dev.mac.length = 4) ∧
    (w1.dev.running = true) ∧
    (w1.dev.portUp (2 : BitVec 2).toNat = true) ∧
    ((w1.dev.port (2 : BitVec 2).toNat).testing = 0) ∧
    ((w1.dev.port (2 : BitVec 2).toNat).rx = w2 ++ w4 :: w3) ∧
    (∀ x ∈ w2, w4.tc < x.tc) ∧
    (∀ x ∈ w3, w4.tc ≤ x.tc) ∧
    (w4.ety.toNat = w1.dev.g BLW_ETYPE) ∧
    (w5.dev.mac.length = 4) ∧
    (w5.dev.running = true) ∧
    (w5.dev.portUp (2 : BitVec 2).toNat = true) ∧
    ((w5.dev.port (2 : BitVec 2).toNat).testing = 0) ∧
    (w5.dev.g MAC_FFQ_CFG.SLOT (2 : BitVec 2).toNat = 0) ∧
    ((w5.dev.port (2 : BitVec 2).toNat).rx = w6 ++ w7 :: w6) := by
  decide +kernel
theorem witness_FramesAreReceivedAndSent_3 :
    (∀ x ∈ w6, w7.tc < x.tc) ∧
    (∀ x ∈ w6, w7.tc ≤ x.tc) ∧
    (w7.ety.toNat ≠ w5.dev.g BLW_ETYPE) ∧
    (w8.dev.mac.length = 4) ∧
    (w8.dev.running = true) ∧
    (w8.dev.bnk.hand = []) ∧
    (w8.dev.bnk.poison = []) ∧
    (w8.dev.portUp (2 : BitVec 2).toNat = true) ∧
    ((w8.dev.port (2 : BitVec 2).toNat).testing = 0) ∧
    (2 ≤ w8.dev.g MAC_FFQ_CFG.NSLOT (2 : BitVec 2).toNat) ∧
    (w8.dev.g MAC_FFQ_BASE (2 : BitVec 2).toNat * 64 < bankEnd) ∧
    (bankOf (w8.dev.g MAC_FFQ_BASE (2 : BitVec 2).toNat * 64 + w8.dev.g MAC_FFQ_CFG.SLOT (2 : BitVec 2).toNat * 64 * w8.dev.g MAC_FFQ_CFG.NSLOT (2 : BitVec 2).toNat - 1) = bankOf (w8.dev.g MAC_FFQ_BASE (2 : BitVec 2).toNat * 64)) ∧
    (w8.dev.g BNK_OWN.OWN (bankOf (w8.dev.g MAC_FFQ_BASE (2 : BitVec 2).toNat * 64)) = 19) ∧
    (w8.dev.bankMay 19 (bankOf (w8.dev.g MAC_FFQ_BASE (2 : BitVec 2).toNat * 64)) true = true) ∧
    (w8.dev.g MAC_FFQ_HEAD (2 : BitVec 2).toNat < w8.dev.g MAC_FFQ_CFG.NSLOT (2 : BitVec 2).toNat) ∧
    ((w8.dev.g MAC_FFQ_HEAD (2 : BitVec 2).toNat + 1) % w8.dev.g MAC_FFQ_CFG.NSLOT (2 : BitVec 2).toNat ≠ w8.dev.g MAC_FFQ_TAIL (2 : BitVec 2).toNat) ∧
    ((w8.dev.port (2 : BitVec 2).toNat).rx = w6 ++ w7 :: w6) := by
  decide +kernel
theorem witness_FramesAreReceivedAndSent_4 :
    (w7.ety.toNat ≠ w8.dev.g BLW_ETYPE) ∧
    (16 + w7.bytes.length ≤ w8.dev.g MAC_FFQ_CFG.SLOT (2 : BitVec 2).toNat * 64) ∧
    (w7.bytes.length < 65536) ∧
    (w9.dev.mac.length = 4) ∧
    (w9.dev.running = true) ∧
    (w9.dev.portUp (1 : BitVec 2).toNat = true) ∧
    ((w9.dev.port (1 : BitVec 2).toNat).testing = 0) ∧
    (w9.dev.on MAC_STAT.LPITX (1 : BitVec 2).toNat = false) ∧
    ((w9.dev.port (1 : BitVec 2).toNat).tx = w10 ++ w11 :: w10) ∧
    (∀ x ∈ w10, w11.tc < x.tc) ∧
    (∀ x ∈ w10, w11.tc ≤ x.tc) ∧
    (w9.dev.est kPort (1 : BitVec 2).toNat = ENABLED ∨ w11.tc = 0) := by
  decide +kernel
end C11

/-! ### Frame ports -/

namespace C11b
def per4 (d : Dev) (f : Dev → Nat → Dev) : Dev := [0,1,2,3].foldl f d
def net : Dev := per4 (((((run0.dev.s BLW_CTL.EN 1).s BLW_NODE 5).s BLW_PD.EN 1 2).s BNK_OWN.OWN 18 0).s BNK_OWN.OWN 18 1)
  (fun d p => ((d.s MAC_STAT.LINK 1 p).s MAC_CTL.MODE 1 p))
def wS (f : Fld) (v i : Nat) (x : State) : State := { x with dev := x.dev.s f v i }
def wP (n : Nat) (g : Port → Port) (x : State) : State := { x with dev := x.dev.setPort n (g (x.dev.port n)) }
def base : State := { run0 with dev := net }
def bc : List Byte := broadcastAddr
def tf (tc : BitVec 2) (k : TxKind) : TxFrame := { kind := k, tc := tc, dst := bc, ety := 0x88B5, hdr := [1,2,3], pre := [], key := none, body := [4], timed := false }
def nb (x : State) : State := wP 2 (fun p => { p with nbr := some ⟨100, some (9, 20)⟩ }) x

def w0 : State :=
  wS MAC_STAT.LINK 0 2 base
def w1 : State :=
  wS MAC_CTL.MODE 3 2 (wS MAC_CTL.EEEEN 1 2 base)
def w2 : State :=
  wS MAC_CTL.MODE 3 2 (wS MAC_STAT.LPITX 1 2 (wP 2 (fun p => { p with tx := [tf 1 TxKind.krv] }) base))
def w3 : State :=
  wP 2 (fun p => { p with tx := [tf 1 TxKind.krv, tf 0 TxKind.krv, tf 3 TxKind.krv] }) (nb base)
theorem witness_LinksFollowTheLine_1 :
    (w0.dev.mac.length = 4) ∧
    (w0.dev.macMode (2 : BitVec 2).toNat ≠ 0) ∧
    (w0.dev.on MAC_STAT.LINK (2 : BitVec 2).toNat = false) ∧
    (w0.dev.est kPort (2 : BitVec 2).toNat < 2) ∧
    (w0.dev.on MAC_STAT.LINK (1 : BitVec 2).toNat = true) ∧
    (w0.dev.macMode (2 : BitVec 2).toNat = 1) ∧
    (w0.dev.on MAC_CTL.ANEN (2 : BitVec 2).toNat = true) ∧
    (w0.dev.running = true) ∧
    (w0.dev.flt.split = []) ∧
    ((w0.dev.port (1 : BitVec 2).toNat).testing = 0) ∧
    (w0.dev.est kPort (1 : BitVec 2).toNat < 2) ∧
    ((144 : BitVec 32).toNat % 4 = w0.dev.g MAC_CTL.MST (1 : BitVec 2).toNat) ∧
    (bitsOf (144 : BitVec 32).toNat 4 2 ≤ 4) ∧
    (bitsOf (144 : BitVec 32).toNat 4 2 ≠ w0.dev.macMode (1 : BitVec 2).toNat) := by
  decide +kernel
theorem witness_LinksFollowTheLine_2 :
    (w1.dev.mac.length = 4) ∧
    (w1.dev.portUp (2 : BitVec 2).toNat = true) ∧
    (w1.dev.on MAC_CTL.EEEEN (2 : BitVec 2).toNat = true) ∧
    (2 ≤ w1.dev.macMode (2 : BitVec 2).toNat) ∧
    ((w1.dev.port (2 : BitVec 2).toNat).tx = []) ∧
    (w1.dev.on MAC_STAT.LPITX (2 : BitVec 2).toNat = false) ∧
    ((w1.dev.port (2 : BitVec 2).toNat).testing = 0) ∧
    ((w1.dev.port (2 : BitVec 2).toNat).nbr = none) ∧
    (w2.dev.mac.length = 4) ∧
    (w2.dev.portUp (2 : BitVec 2).toNat = true) ∧
    (w2.dev.on MAC_STAT.LPITX (2 : BitVec 2).toNat = true) ∧
    ((w2.dev.port (2 : BitVec 2).toNat).testing = 0) ∧
    ((match (w2.dev.port (2 : BitVec 2).toNat).tx with | [f] => decide (w2.dev.est kPort (2 : BitVec 2).toNat = ENABLED ∨ f.tc = 0) | _ => false) = true) := by
  decide +kernel
theorem witness_LinksFollowTheLine_3 :
    (w1.dev.running = true) ∧
    (w1.dev.portUp (1 : BitVec 2).toNat = true) ∧
    (w1.dev.on MAC_CTL.LLDPEN (1 : BitVec 2).toNat = true) ∧
    (w3.dev.mac.length = 4) ∧
    ((match (w3.dev.port (2 : BitVec 2).toNat).nbr with | some r => true | _ => false) = true) ∧
    (w1.dev.macMode (1 : BitVec 2).toNat ≠ 0) ∧
    (w1.dev.est kPort (1 : BitVec 2).toNat ≤ 1) ∧
    ((w1.dev.port (1 : BitVec 2).toNat).testing = 0) ∧
    (w1.dev.g MAC_LEC.VALUE (1 : BitVec 2).toNat + 4 < 1000) := by
  decide +kernel
def w9 : State := wP 1 (fun p => { p with gated := false }) w0
theorem witness_LinksFollowTheLine_lecClear :
    w9.dev.running = true ∧ (w9.dev.port 1).testing = 0 ∧ (w9.dev.port 1).gated = false := by
  decide +kernel
end C11b

/-! ### Packets and the initiator -/

namespace C12
def per4 (d : Dev) (f : Dev → Nat → Dev) : Dev := [0,1,2,3].foldl f d
def net : Dev := per4 (((((run0.dev.s BLW_CTL.EN 1).s BLW_NODE 5).s BLW_PD.EN 1 2).s BNK_OWN.OWN 18 0).s BNK_OWN.OWN 18 1)
  (fun d p => ((d.s MAC_STAT.LINK 1 p).s MAC_CTL.MODE 1 p))
def hd (op : Nat) : Hdr := { ver := 1, op := op, tc := 1, flags := 0, src := 9, dst := 5, tag := 33, psn := 0, plen := 8, pd := 2, aux := 0, spos := 0x100000000, mpos := 0xFFFFFFF0, mlen := 8, addr := 0x1000, rkey := 0x40C + 1024*7, rcount := 0, resv := 0 }
def bytes8 : List Byte := [1,2,3,4,5,6,7,8]
def pk (h : Hdr) (b : List Byte) : Pkt := ⟨2, 0x100000000, h.bytes, b⟩
def reg (at_ : Nat) : Region := ⟨0x1000, 0x1000, BitVec.ofNat 32 at_, BitVec.ofNat 32 (1024*8+0)⟩
def attr : Nat := 15 + 2*16 + 5*1024 + 65536
def withPkt (d : Dev) (h : Hdr) (b : List Byte) : State :=
  { run0 with dev := { d with blw := { d.blw with inbox := [pk h b], regions := [(0xC, reg attr)] } } }
def wB (b : Blw → Blw) (x : State) : State := { x with dev := { x.dev with blw := b x.dev.blw } }
def wS (f : Fld) (v i : Nat) (x : State) : State := { x with dev := x.dev.s f v i }
def P (h : Hdr) : State := withPkt net { h with plen := 8 } bytes8

def w1 : State :=
  wS BLW_CTL.EN 0 0 (P (hd 9))
def w2 : State :=
  P { (hd 10) with resv := 1 }
def w3 : State :=
  P { (hd 10) with dst := 6 }
def w4 : State :=
  P { (hd 10) with src := 5 }
def w5 : State :=
  P { (hd 10) with spos := 4294967296 - 96000 * 65536 }
def w6 : State :=
  P { (hd 10) with spos := 4563402752 }
def w7 : State :=
  wB (fun b => { b with epos := some 4294967295 }) (P (hd 8))
def w8 : State :=
  P { (hd 10) with pd := 3 }
def w9 : State :=
  P (hd 10)
theorem witness_FirstChecksOfAReceivedPacket_1 :
    (w1.dev.on BLW_CTL.EN = false) ∧
    ((match w1.dev.blw.inbox with | [p] => decide ((readHdr p.hdr).op ≠ xBEACON) && decide ((Instr.resp, 10) ∈ [(Instr.write none, 1), (Instr.read, 2), (Instr.send none, 3), (Instr.atomicAdd false, 4), (Instr.cas false, 5), (Instr.mgmt, 7), (Instr.ack, 8), (Instr.nak, 9), (Instr.resp, 10)]) | _ => false) = true) ∧
    (w2.dev.on BLW_CTL.EN = true) ∧
    ((match w2.dev.blw.inbox with | [p] => decide (goodHdr (readHdr p.hdr) p.hdr.length p.rest.length = false) && decide ((Instr.resp, 10) ∈ [(Instr.write none, 1), (Instr.read, 2), (Instr.send none, 3), (Instr.atomicAdd false, 4), (Instr.cas false, 5), (Instr.mgmt, 7), (Instr.ack, 8), (Instr.nak, 9), (Instr.resp, 10)]) | _ => false) = true) ∧
    (w3.dev.on BLW_CTL.EN = true) ∧
    ((match w3.dev.blw.inbox with | [p] => decide (goodHdr (readHdr p.hdr) p.hdr.length p.rest.length = true) && decide ((readHdr p.hdr).dst ≠ 4095) && decide ((readHdr p.hdr).dst ≠ w3.dev.node) && decide ((Instr.resp, 10) ∈ [(Instr.write none, 1), (Instr.read, 2), (Instr.send none, 3), (Instr.atomicAdd false, 4), (Instr.cas false, 5), (Instr.mgmt, 7), (Instr.ack, 8), (Instr.nak, 9), (Instr.resp, 10)]) | _ => false) = true) ∧
    (w4.dev.on BLW_CTL.EN = true) ∧
    ((match w4.dev.blw.inbox with | [p] => decide (goodHdr (readHdr p.hdr) p.hdr.length p.rest.length = true) && decide ((readHdr p.hdr).dst = 4095 ∨ (readHdr p.hdr).dst = w4.dev.node) && decide ((readHdr p.hdr).src = w4.dev.node) && decide ((Instr.resp, 10) ∈ [(Instr.write none, 1), (Instr.read, 2), (Instr.send none, 3), (Instr.atomicAdd false, 4), (Instr.cas false, 5), (Instr.mgmt, 7), (Instr.ack, 8), (Instr.nak, 9), (Instr.resp, 10)]) | _ => false) = true) ∧
    (w5.dev.on BLW_CTL.EN = true) ∧
    ((match w5.dev.blw.inbox with | [p] => decide (goodHdr (readHdr p.hdr) p.hdr.length p.rest.length = true) && decide ((readHdr p.hdr).dst = 4095 ∨ (readHdr p.hdr).dst = w5.dev.node) && decide ((readHdr p.hdr).src ≠ w5.dev.node) && decide ((readHdr p.hdr).sec = false) && decide (distance w5.dev.brt.pos (readHdr p.hdr).spos > ↑w5.dev.mpl) && decide ((Instr.resp, (readHdr p.hdr).op) ∈ [(Instr.write none, 1), (Instr.read, 2), (Instr.send none, 3), (Instr.atomicAdd false, 4), (Instr.cas false, 5), (Instr.mgmt, 7), (Instr.ack, 8), (Instr.nak, 9), (Instr.resp, 10)]) | _ => false) = true) ∧
    (w6.dev.on BLW_CTL.EN = true) ∧
    ((match w6.dev.blw.inbox with | [p] => decide (goodHdr (readHdr p.hdr) p.hdr.length p.rest.length = true) && decide ((readHdr p.hdr).dst = 4095 ∨ (readHdr p.hdr).dst = w6.dev.node) && decide ((readHdr p.hdr).src ≠ w6.dev.node) && decide ((readHdr p.hdr).sec = false) && decide (distance w6.dev.brt.pos (readHdr p.hdr).spos < -↑(w6.dev.usPos 100)) && decide ((Instr.resp, (readHdr p.hdr).op) ∈ [(Instr.write none, 1), (Instr.read, 2), (Instr.send none, 3), (Instr.atomicAdd false, 4), (Instr.cas false, 5), (Instr.mgmt, 7), (Instr.ack, 8), (Instr.nak, 9), (Instr.resp, 10)]) | _ => false) = true) := by
  decide +kernel
theorem witness_FirstChecksOfAReceivedPacket_2 :
    (w7.dev.on BLW_CTL.EN = true) ∧
    ((match w7.dev.blw.inbox with | [p] => decide (goodHdr (readHdr p.hdr) p.hdr.length p.rest.length = true) && decide ((readHdr p.hdr).dst = 4095 ∨ (readHdr p.hdr).dst = w7.dev.node) && decide ((readHdr p.hdr).src ≠ w7.dev.node) && decide ((readHdr p.hdr).sec = false) && decide (distance w7.dev.brt.pos (readHdr p.hdr).spos ≤ ↑w7.dev.mpl) && decide (-↑(w7.dev.usPos 100) ≤ distance w7.dev.brt.pos (readHdr p.hdr).spos) && decide ((match w7.dev.blw.epos with | some e => decide (earlier (readHdr p.hdr).mpos e = true) && decide ((Instr.ack, (readHdr p.hdr).op) ∈ [(Instr.write none, 1), (Instr.read, 2), (Instr.send none, 3), (Instr.atomicAdd false, 4), (Instr.cas false, 5), (Instr.mgmt, 7), (Instr.ack, 8), (Instr.nak, 9), (Instr.resp, 10)]) | _ => false) = true) | _ => false) = true) ∧
    (w8.dev.on BLW_CTL.EN = true) ∧
    ((match w8.dev.blw.inbox with | [p] => decide (goodHdr (readHdr p.hdr) p.hdr.length p.rest.length = true) && decide ((readHdr p.hdr).dst = 4095 ∨ (readHdr p.hdr).dst = w8.dev.node) && decide ((readHdr p.hdr).src ≠ w8.dev.node) && decide ((readHdr p.hdr).sec = false) && decide (distance w8.dev.brt.pos (readHdr p.hdr).spos ≤ ↑w8.dev.mpl) && decide (-↑(w8.dev.usPos 100) ≤ distance w8.dev.brt.pos (readHdr p.hdr).spos) && decide (((match w8.dev.blw.epos with | none => true | some e => decide (earlier (readHdr p.hdr).mpos e = false)) : Bool) = true) && decide ((Instr.resp, (readHdr p.hdr).op) ∈ [(Instr.write none, 1), (Instr.read, 2), (Instr.send none, 3), (Instr.atomicAdd false, 4), (Instr.cas false, 5), (Instr.mgmt, 7), (Instr.ack, 8), (Instr.nak, 9), (Instr.resp, 10)]) | _ => false) = true) ∧
    (w9.dev.on BLW_CTL.EN = true) ∧
    (w9.dev.blw.outcomes = []) ∧
    ((match w9.dev.blw.inbox with | [p] => decide (goodHdr (readHdr p.hdr) p.hdr.length p.rest.length = true) && decide ((readHdr p.hdr).dst = 4095 ∨ (readHdr p.hdr).dst = w9.dev.node) && decide ((readHdr p.hdr).src ≠ w9.dev.node) && decide ((readHdr p.hdr).sec = false) && decide (distance w9.dev.brt.pos (readHdr p.hdr).spos ≤ ↑w9.dev.mpl) && decide (-↑(w9.dev.usPos 100) ≤ distance w9.dev.brt.pos (readHdr p.hdr).spos) && decide (((match w9.dev.blw.epos with | none => true | some e => decide (earlier (readHdr p.hdr).mpos e = false)) : Bool) = true) && decide (w9.dev.on BLW_PD.EN (readHdr p.hdr).pd = true) && decide (w9.dev.on BLW_PD.SECURE (readHdr p.hdr).pd = false) && decide (w9.dev.named (readHdr p.hdr) = none) && decide ((readHdr p.hdr).op ≥ 8) && decide ((Instr.resp, (readHdr p.hdr).op) ∈ [(Instr.write none, 1), (Instr.read, 2), (Instr.send none, 3), (Instr.atomicAdd false, 4), (Instr.cas false, 5), (Instr.mgmt, 7), (Instr.ack, 8), (Instr.nak, 9), (Instr.resp, 10)]) | _ => false) = true) := by
  decide +kernel
end C12

/-! ### Packets and the initiator -/

namespace C12b
def per4 (d : Dev) (f : Dev → Nat → Dev) : Dev := [0,1,2,3].foldl f d
def net : Dev := per4 (((((run0.dev.s BLW_CTL.EN 1).s BLW_NODE 5).s BLW_PD.EN 1 2).s BNK_OWN.OWN 18 0).s BNK_OWN.OWN 18 1)
  (fun d p => ((d.s MAC_STAT.LINK 1 p).s MAC_CTL.MODE 1 p))
def bytes8 : List Byte := [1,2,3,4,5,6,7,8]
def wB (b : Blw → Blw) (x : State) : State := { x with dev := { x.dev with blw := b x.dev.blw } }
def wS (f : Fld) (v i : Nat) (x : State) : State := { x with dev := x.dev.s f v i }
def dby (op fl tc dn len la : Nat) (ctr thr : Nat) : List Byte := [BitVec.ofNat 8 op, BitVec.ofNat 8 fl, BitVec.ofNat 8 tc, 0] ++ leBytes 2 dn ++ leBytes 2 0 ++ leBytes 4 len ++ leBytes 4 la ++ leBytes 4 0x9000 ++ leBytes 4 0x40C ++ leBytes 8 3 ++
  leBytes 8 11 ++ leBytes 8 22 ++ leBytes 4 ctr ++ leBytes 4 thr ++ leBytes 8 0x1234567
def putM (a : Nat) (l : List Byte) (x : State) : State := { x with dev := { x.dev with bnk := { x.dev.bnk with mem := memPut x.dev.bnk.mem a l } } }
def qs (x : State) : State := wS BLW_CQ_BASE 0x140 2 <| wS BLW_CQ_CFG.EN 1 2 <| wS BLW_CQ_CFG.DEPTH 3 2 <| wS BLW_WQ_CFG.CQ 2 5 <| wS BLW_WQ_CFG.DEPTH 2 5 <| wS BLW_WQ_CFG.PD 2 5 <| wS BLW_WQ_BASE 0x40 5 <| wS BLW_WQ_CFG.MST 0 5 <| wS BLW_WQ_CFG.DST 0 5 <| wS BLW_WQ_PI 0 5 <| wS BLW_WQ_CI 3 5 x
def base : State := { run0 with dev := net }
def w (l : List Byte) : State := putM 0x10C0 l (qs base)
def smsg : Msg := { tag := 0, wq := some 5, desc := { Desc.zero with op := 3, dnode := 9, tc := 1 }, pd := 2, mtu := 256, mpos := 0xFFFFFFF0, next := 1, acked := [], pkts := [], kind := .queue, own := 0, data := none, ended := none }
def stm (own : Nat) (tag : BitVec 12) (p : Nat) (e : Option Nat) : Msg := { smsg with tag := tag, own := own, kind := .stream, data := some (leBytes 8 p), ended := e }
def str (n : Nat) (x : State) : State := (fun x => { x with dev := { x.dev with rda := { x.dev.rda with block := some 100 } } }) <| wB (fun b => { b with msgs := (List.range n).map (fun k => stm 5 (BitVec.ofNat 12 (k + 1)) (if k < 2 then 0 else 0xFFFFF0000) none) }) <|
  wS BLW_STR.EN 1 5 <| wS BLW_STR.TYPE 1 5 <| wS BLW_STR.DEPTH 8 5 <| wS BLW_STR.PD 2 5 <| wS BLW_STR.NODE 9 5 <| wS BLW_STR_MASK 5 5 <| wS BLW_STR_ADDR 0x200 5 <| wS BLW_STR_LAT.LAT 128 5 <| wS BLW_STR_LAT.BUMP 1 5 x

def w1 : State :=
  w (dby 3 10 1 9 100 8192 0 0)
def w2 : State :=
  w (dby 2 8 1 9 100 524287 0 0)
def w3 : State :=
  wS BLW_TRIG 3 7 (putM 8192 bytes8 (w (dby 1 40 1 9 48 8192 71 3)))
def w4 : State :=
  wS BLW_TRIG 3 7 (w (dby 1 40 1 9 100 8192 7 4))
def w5 : State :=
  wS BLW_TRIG 3 7 (w (dby 1 40 1 9 100 8192 7 3))
def w6 : State :=
  wS BLW_TRIG 3 7 (w (dby 1 40 1 9 0 8192 7 3))
def w7 : State :=
  wB   (fun b =>     { b with msgs :=         [ { (smsg) with kind := MsgKind.hostAtomic }] })   base
def w8 : State :=
  wS BLW_HA_CMD.NODE 9 0 (wS BLW_HA_CMD.W64 1 0 (wS BLW_HA_ADDR 4660 0 base))
def w9 : State :=
  str 3 base
def w10 : State :=
  str 4 base
theorem witness_WorkStartsInPostingOrder_1 :
    (w1.dev.blw.outcomes = []) ∧
    (w1.dev.blw.posted = []) ∧
    (w1.dev.queueRuns (5 : BitVec 6).toNat = true) ∧
    ((match w1.dev.descAt (5 : BitVec 6).toNat with | some (d, x) => decide (d.blw.outcomes = []) && decide (d.g BLW_WQ_CFG.DEPTH (5 : BitVec 6).toNat ≤ 12) && decide (x.trig = false) && decide ((d.descOk x true && d.pdOk (d.g BLW_WQ_CFG.PD (5 : BitVec 6).toNat)) = true) && decide (d.newTag.isSome = true) && decide (d.mustWait (5#6) x = false) && decide (x.op = xSEND → x.fence = true → d.fenceFailed (5#6) x = none) | _ => false) = true) ∧
    (1 ≤ 32) ∧
    (w2.dev.blw.outcomes = []) ∧
    (w2.dev.blw.posted = []) ∧
    (w2.dev.queueRuns (5 : BitVec 6).toNat = true) ∧
    ((match w2.dev.descAt (5 : BitVec 6).toNat with | some (d, x) => decide (d.blw.outcomes = []) && decide (d.g BLW_WQ_CFG.DEPTH (5 : BitVec 6).toNat ≤ 12) && decide (x.trig = false) && decide ((d.descOk x true && d.pdOk (d.g BLW_WQ_CFG.PD (5 : BitVec 6).toNat)) = false) && decide (d.g BLW_WQ_CFG.CQ (5 : BitVec 6).toNat < 64) && decide (d.on BLW_CQ_CFG.EN (d.g BLW_WQ_CFG.CQ (5 : BitVec 6).toNat) = true) && decide (1 ≤ d.g BLW_CQ_CFG.DEPTH (d.g BLW_WQ_CFG.CQ (5 : BitVec 6).toNat)) && decide (d.g BLW_CQ_CFG.DEPTH (d.g BLW_WQ_CFG.CQ (5 : BitVec 6).toNat) ≤ 12) && decide (d.on BLW_CQ_CFG.NOTIFY (d.g BLW_WQ_CFG.CQ (5 : BitVec 6).toNat) = false) && decide (d.cqRoom (d.g BLW_WQ_CFG.CQ (5 : BitVec 6).toNat) = true) && decide (d.blw.cqWait = []) && decide (d.g BLW_CQ_BASE (d.g BLW_WQ_CFG.CQ (5 : BitVec 6).toNat) * 64 + d.g BLW_CQ_PI (d.g BLW_WQ_CFG.CQ (5 : BitVec 6).toNat) * 32 + 32 ≤ bankEnd) && decide (bankOf (d.g BLW_CQ_BASE (d.g BLW_WQ_CFG.CQ (5 : BitVec 6).toNat) * 64 + d.g BLW_CQ_PI (d.g BLW_WQ_CFG.CQ (5 : BitVec 6).toNat) * 32 + 32 - 1) = bankOf (d.g BLW_CQ_BASE (d.g BLW_WQ_CFG.CQ (5 : BitVec 6).toNat) * 64 + d.g BLW_CQ_PI (d.g BLW_WQ_CFG.CQ (5 : BitVec 6).toNat) * 32)) && decide (d.bankMay 18 (bankOf (d.g BLW_CQ_BASE (d.g BLW_WQ_CFG.CQ (5 : BitVec 6).toNat) * 64 + d.g BLW_CQ_PI (d.g BLW_WQ_CFG.CQ (5 : BitVec 6).toNat) * 32)) true = true) && decide (d.bnk.hand = []) && decide (d.bnk.poison = []) | _ => false) = true) ∧
    (w3.dev.blw.outcomes = []) ∧
    (w3.dev.blw.posted = []) ∧
    (w3.dev.queueRuns (5 : BitVec 6).toNat = true) ∧
    ((match w3.dev.descAt (5 : BitVec 6).toNat with | some (d, x) => decide (d.blw.outcomes = []) && decide (d.g BLW_WQ_CFG.DEPTH (5 : BitVec 6).toNat ≤ 12) && decide (x.trig = true) | _ => false) = true) := by
  decide +kernel
theorem witness_WorkStartsInPostingOrder_2 :
    (w4.dev.blw.outcomes = []) ∧
    (w4.dev.blw.posted = []) ∧
    (w4.dev.queueRuns (5 : BitVec 6).toNat = true) ∧
    ((match w4.dev.descAt (5 : BitVec 6).toNat with | some (d, x) => decide (d.blw.outcomes = []) && decide (d.g BLW_WQ_CFG.DEPTH (5 : BitVec 6).toNat ≤ 12) && decide (x.trig = true) && decide (trigDue (d.g BLW_TRIG (x.ctr % 64)) x.thresh = false) | _ => false) = true) ∧
    (w5.dev.blw.outcomes = []) ∧
    (w5.dev.blw.posted = []) ∧
    (w5.dev.queueRuns (5 : BitVec 6).toNat = true) ∧
    ((match w5.dev.descAt (5 : BitVec 6).toNat with | some (d, x) => decide (d.blw.outcomes = []) && decide (d.g BLW_WQ_CFG.DEPTH (5 : BitVec 6).toNat ≤ 12) && decide (x.trig = true) && decide (trigDue (d.g BLW_TRIG (x.ctr % 64)) x.thresh = true) && decide (x.evt = false) && decide ((d.descOk x true && d.pdOk (d.g BLW_WQ_CFG.PD (5 : BitVec 6).toNat)) = true) && decide (d.newTag.isSome = true) && decide (d.mustWait (5#6) x = false) && decide (x.op = xSEND → x.fence = true → d.fenceFailed (5#6) x = none) | _ => false) = true) ∧
    (w6.dev.blw.outcomes = []) ∧
    (w6.dev.blw.posted = []) ∧
    (w6.dev.queueRuns (5 : BitVec 6).toNat = true) ∧
    ((match w6.dev.descAt (5 : BitVec 6).toNat with | some (d, x) => decide (d.blw.outcomes = []) && decide (d.g BLW_WQ_CFG.DEPTH (5 : BitVec 6).toNat ≤ 12) && decide (x.trig = true) && decide (trigDue (d.g BLW_TRIG (x.ctr % 64)) x.thresh = true) && decide (x.evt = false) && decide ((d.descOk x true && d.pdOk (d.g BLW_WQ_CFG.PD (5 : BitVec 6).toNat)) = false) && decide (d.g BLW_WQ_CFG.CQ (5 : BitVec 6).toNat < 64) && decide (d.on BLW_CQ_CFG.EN (d.g BLW_WQ_CFG.CQ (5 : BitVec 6).toNat) = true) && decide (1 ≤ d.g BLW_CQ_CFG.DEPTH (d.g BLW_WQ_CFG.CQ (5 : BitVec 6).toNat)) && decide (d.g BLW_CQ_CFG.DEPTH (d.g BLW_WQ_CFG.CQ (5 : BitVec 6).toNat) ≤ 12) && decide (d.on BLW_CQ_CFG.NOTIFY (d.g BLW_WQ_CFG.CQ (5 : BitVec 6).toNat) = false) && decide (d.cqRoom (d.g BLW_WQ_CFG.CQ (5 : BitVec 6).toNat) = true) && decide (d.blw.cqWait = []) && decide (d.g BLW_CQ_BASE (d.g BLW_WQ_CFG.CQ (5 : BitVec 6).toNat) * 64 + d.g BLW_CQ_PI (d.g BLW_WQ_CFG.CQ (5 : BitVec 6).toNat) * 32 + 32 ≤ bankEnd) && decide (bankOf (d.g BLW_CQ_BASE (d.g BLW_WQ_CFG.CQ (5 : BitVec 6).toNat) * 64 + d.g BLW_CQ_PI (d.g BLW_WQ_CFG.CQ (5 : BitVec 6).toNat) * 32 + 32 - 1) = bankOf (d.g BLW_CQ_BASE (d.g BLW_WQ_CFG.CQ (5 : BitVec 6).toNat) * 64 + d.g BLW_CQ_PI (d.g BLW_WQ_CFG.CQ (5 : BitVec 6).toNat) * 32)) && decide (d.bankMay 18 (bankOf (d.g BLW_CQ_BASE (d.g BLW_WQ_CFG.CQ (5 : BitVec 6).toNat) * 64 + d.g BLW_CQ_PI (d.g BLW_WQ_CFG.CQ (5 : BitVec 6).toNat) * 32)) true = true) && decide (d.bnk.hand = []) && decide (d.bnk.poison = []) | _ => false) = true) := by
  decide +kernel
theorem witness_WorkStartsInPostingOrder_3 :
    ((match w3.dev.descAt (5 : BitVec 6).toNat with | some (d, x) => decide (d.blw.outcomes = []) && decide (d.g BLW_WQ_CFG.DEPTH (5 : BitVec 6).toNat ≤ 12) && decide (x.trig = true) && decide (trigDue (d.g BLW_TRIG (x.ctr % 64)) x.thresh = true) && decide (x.evt = true) && decide (x.bad = false) && decide (x.len % 16 = 0) && decide (x.len ≤ 1024) && decide (1 ≤ x.len) && decide (x.laddr + x.len ≤ bankEnd) && decide (bankOf (x.laddr + x.len - 1) = bankOf x.laddr) && decide (d.bankMay 18 (bankOf x.laddr) true = true) && decide (d.bnk.hand = []) && decide (d.bnk.poison = []) | _ => false) = true) ∧
    (w7.dev.blw.outcomes = []) ∧
    (w7.dev.hostAtomicBusy = true) ∧
    (w7.dev.mayWrite Agent.mgmt 98432 = true) ∧
    (w8.dev.blw.outcomes = []) ∧
    (w8.dev.hostAtomicBusy = false) ∧
    (w8.dev.mayWrite Agent.mgmt 98432 = true) ∧
    (w9.dev.blw.outcomes = []) ∧
    (w9.dev.running = true) ∧
    (w9.dev.mode ≠ mSAFE) ∧
    (w9.dev.on BLW_CTL.EN = true) ∧
    (w9.dev.newTag.isSome = true) ∧
    (w9.dev.strSends (5 : BitVec 6).toNat = true) ∧
    (w9.dev.pdOk (w9.dev.g BLW_STR.PD (5 : BitVec 6).toNat) = true) ∧
    ((List.filter (fun m => decide (m.kind = MsgKind.stream) && decide (m.own = (5 : BitVec 6).toNat)) w9.dev.blw.msgs).length < 4) ∧
    ((match w9.dev.strReady (5 : BitVec 6).toNat with | some (k, data) => decide (sget 0 (5 : BitVec 6).toNat w9.dev.blw.strNext ≤ k * w9.dev.blk) | _ => false) = true) := by
  decide +kernel
theorem witness_WorkStartsInPostingOrder_4 :
    (w10.dev.blw.outcomes = []) ∧
    (w10.dev.running = true) ∧
    (w10.dev.mode ≠ mSAFE) ∧
    (w10.dev.on BLW_CTL.EN = true) ∧
    (w10.dev.strSends (5 : BitVec 6).toNat = true) ∧
    (w10.dev.pdOk (w10.dev.g BLW_STR.PD (5 : BitVec 6).toNat) = true) ∧
    (4 ≤ (List.filter (fun m => decide (m.kind = MsgKind.stream) && decide (m.own = (5 : BitVec 6).toNat)) w10.dev.blw.msgs).length) ∧
    (w10.dev.g BLW_STR.DIR (5 : BitVec 6).toNat = 0) ∧
    ((match w10.dev.strReady (5 : BitVec 6).toNat with | some (k, data) => decide (sget 0 (5 : BitVec 6).toNat w10.dev.blw.strNext ≤ k * w10.dev.blk) | _ => false) = true) ∧
    ((List.map (fun x => x.tag) w7.dev.blw.msgs).Nodup) := by
  decide +kernel
end C12b

/-! ### Packets and the initiator -/

namespace C12c
def per4 (d : Dev) (f : Dev → Nat → Dev) : Dev := [0,1,2,3].foldl f d
def net : Dev := per4 (((((run0.dev.s BLW_CTL.EN 1).s BLW_NODE 5).s BLW_PD.EN 1 2).s BNK_OWN.OWN 18 0).s BNK_OWN.OWN 18 1)
  (fun d p => ((d.s MAC_STAT.LINK 1 p).s MAC_CTL.MODE 1 p))
def hd (op : Nat) : Hdr := { ver := 1, op := op, tc := 1, flags := 0, src := 9, dst := 5, tag := 33, psn := 0, plen := 8, pd := 2, aux := 0, spos := 0x100000000, mpos := 0xFFFFFFF0, mlen := 8, addr := 0x1000, rkey := 0x40C + 1024*7, rcount := 0, resv := 0 }
def bytes8 : List Byte := [1,2,3,4,5,6,7,8]
def pk (h : Hdr) (b : List Byte) : Pkt := ⟨2, 0x100000000, h.bytes, b⟩
def wB (b : Blw → Blw) (x : State) : State := { x with dev := { x.dev with blw := b x.dev.blw } }
def wS (f : Fld) (v i : Nat) (x : State) : State := { x with dev := x.dev.s f v i }
def putM (a : Nat) (l : List Byte) (x : State) : State := { x with dev := { x.dev with bnk := { x.dev.bnk with mem := memPut x.dev.bnk.mem a l } } }
def qs (x : State) : State := wS BLW_CQ_BASE 0x140 2 <| wS BLW_CQ_CFG.EN 1 2 <| wS BLW_CQ_CFG.DEPTH 3 2 <| wS BLW_WQ_CFG.CQ 2 5 <| wS BLW_WQ_CFG.DEPTH 2 5 <| wS BLW_WQ_CFG.PD 2 5 <| wS BLW_WQ_BASE 0x40 5 <| wS BLW_WQ_CFG.MST 0 5 <| wS BLW_WQ_CFG.DST 0 5 <| wS BLW_WQ_PI 0 5 <| wS BLW_WQ_CI 3 5 x
def base : State := { run0 with dev := net }
def w (l : List Byte) : State := putM 0x10C0 l (qs base)
def smsg : Msg := { tag := 0, wq := some 5, desc := { Desc.zero with op := 3, dnode := 9, tc := 1 }, pd := 2, mtu := 256, mpos := 0xFFFFFFF0, next := 1, acked := [], pkts := [], kind := .queue, own := 0, data := none, ended := none }
def dsc (op len : Nat) (fl : Nat) : Desc := { Desc.zero with op := op, len := len, dnode := 9, laddr := 0x2000, raddr := 0x1000, flags := fl, wrid := 77, tc := 1 }
def ms (op len fl next : Nat) (p : List PktSt) : Msg := { tag := 33, wq := some 5, desc := dsc op len fl, pd := 2, mtu := 256, mpos := 0xFFFFFFF0, next := next, acked := [], pkts := p, kind := .queue, own := 0, data := none, ended := none }
def m (x : Msg) : State := wB (fun b => { b with msgs := [{ smsg with tag := 7, kind := .stream }, x] }) (qs base)
def old (x : State) : State := { x with dev := { x.dev with brt := { x.dev.brt with pos := 0x110000000 } } }
def rc : Rec := { src := 9, tag := 33, mpos := 0xFFFFFFF0, op := 1, mlen := 700, hdr := (hd 1).bytes, plane := 2, placed := [0, 2], bytes := 512, since := 2, slot := 0, sec := false, addr0 := 0x1000 }
def dn (tag : BitVec 12) : DoneEnt := ⟨9, tag, 0xFFFFFFF0, 3, 9⟩
def pid : PairId := ⟨3, 7, 5, 9⟩
def sf : SecFrame := { planes := [1], slot := 3, lo := 5, hi := 9, frame := { kind := .krv, tc := 1, dst := [], ety := 0, hdr := ({ hd 1 with flags := 1, src := 5, dst := 9 } : Hdr).bytes, pre := [], key := none, body := bytes8, timed := false } }
def ks (x : State) : State := wS BLW_KEYSLOT.EPOCH 7 3 (wS BLW_KEYSLOT.VALID 1 3 x)

/-- The parts of `CanSend`, as a Bool. -/
def cs (d : Dev) (p n : Nat) : Bool :=
  decide (d.mac.length = 4 ∧ p < 4 ∧ d.portUp p = true ∧ d.est kPort p = ENABLED ∧ d.fits p n false = true ∧ n ≤ 2048)
theorem canSend_of_cs (d : Dev) (p n : Nat) (h : cs d p n = true) : CanSend d p n := by unfold cs at h; exact (of_decide_eq_true h :)
def s1 : State := m (ms 1 700 8 1 [])
theorem witness_PacketsAreSentAndResent_send :
    s1.dev.blw.outcomes = [] ∧ s1.dev.on BLW_CTL.EN = true ∧ s1.dev.running = true ∧
    (match s1.dev.msg 33 with
      | some x => decide (x.ended = none) && decide (s1.dev.on BLW_PD.SECURE x.pd.toNat = false) && decide (x.desc.dnode ≠ 0xFFF) &&
          decide (x.desc.panic = false) && x.sendable && decide (s1.dev.lifeOver x = false) && decide (x.next ≠ 0) && decide (x.desc.op ≠ xREAD) &&
          decide (x.desc.isAtomic = false) &&
          (match s1.dev.wrr (pktLen x.desc.len x.mtu x.next) false with
            | some (d, p) =>
              (match (d.setMsg x).payload x x.next with
                | (e, some body) => cs e p body.length && decide (e.on BLW_PD.SECURE x.pd.toNat = false) && decide (e.blw.outcomes = [])
                | _ => false)
            | _ => false)
      | _ => false) = true := by
  decide +kernel
/-- What the three clauses on a packet already sent ask alike of the message and its packet. -/
def sent (s : State) (x : Msg) (p : PktSt) : Bool :=
  decide (s.dev.blw.outcomes = []) && decide (s.dev.on BLW_CTL.EN = true) && decide (s.dev.running = true) && decide (x.ended = none) &&
  decide (s.dev.on BLW_PD.SECURE x.pd.toNat = false) && decide (x.desc.dnode ≠ 0xFFF) && decide (x.desc.panic = false) &&
  decide (x.pkts.find? (fun y => y.psn = p.psn) = some p) && decide (p.psn < 8192) && decide (s.dev.lifeOver x = false) && decide (x.desc.op ≠ xREAD) &&
  decide ((s.dev.blw.msgs.map (·.tag)).Nodup)
def rewritten (x : Msg) (p : PktSt) (r w : Nat) : Msg :=
  { x with pkts := x.pkts.map (fun y => if y.psn = p.psn then { p with retries := r, plane := w, wait := 0 } else y) }
def s3 : State := m (ms 5 0 9 1 [⟨0, 3, 0, 0, 0⟩])
def s4 : State := m (ms 1 700 8 1 [⟨0, 3, 63, 0, 0⟩])
def s5 : State := m (ms 3 700 8 1 [⟨0, 1, 0, 1, 20⟩])
def s6 : State := m (ms 3 700 8 1 [⟨0, 1, 0, 2, 20⟩])
theorem witness_PacketsAreSentAndResent_timeout :
    (match s3.dev.msg 33 with
      | some x => sent s3 x ⟨0, 3, 0, 0, 0⟩ && decide (0 < s3.dev.g BLW_RTO.RETRIES) && s3.dev.usable (s3.dev.nextPlane 3) && s3.dev.portUp (s3.dev.nextPlane 3) &&
          (match ((s3.dev.cnt BLW_RETX).setMsg (rewritten x ⟨0, 3, 0, 0, 0⟩ 1 (s3.dev.nextPlane 3))).payload (rewritten x ⟨0, 3, 0, 0, 0⟩ 1 (s3.dev.nextPlane 3)) 0 with
            | (e, some body) => cs e (s3.dev.nextPlane 3) body.length && decide (e.on BLW_PD.SECURE x.pd.toNat = false) &&
                decide (e.blw = (s3.dev.setMsg (rewritten x ⟨0, 3, 0, 0, 0⟩ 1 (s3.dev.nextPlane 3))).blw)
            | _ => false)
      | _ => false) = true := by
  decide +kernel
/-- The parts of `CqReady`, as a Bool. -/
def cq (d : Dev) (c : Nat) : Bool :=
  decide (c < 64 ∧ d.on BLW_CQ_CFG.EN c = true ∧ 1 ≤ d.g BLW_CQ_CFG.DEPTH c ∧ d.g BLW_CQ_CFG.DEPTH c ≤ 12 ∧ d.on BLW_CQ_CFG.NOTIFY c = false ∧
    d.cqRoom c = true ∧ d.blw.cqWait = [] ∧ 1 ≤ 32 ∧ d.g BLW_CQ_BASE c * 64 + d.g BLW_CQ_PI c * 32 + 32 ≤ bankEnd ∧
    bankOf (d.g BLW_CQ_BASE c * 64 + d.g BLW_CQ_PI c * 32 + 32 - 1) = bankOf (d.g BLW_CQ_BASE c * 64 + d.g BLW_CQ_PI c * 32) ∧
    d.bankMay 18 (bankOf (d.g BLW_CQ_BASE c * 64 + d.g BLW_CQ_PI c * 32)) true = true ∧ d.bnk.hand = [] ∧ d.bnk.poison = [])
theorem cqReady_of_cq (d : Dev) (c : Nat) (h : cq d c = true) : CqReady d c := by unfold cq at h; exact (of_decide_eq_true h :)
theorem witness_PacketsAreSentAndResent_retries_spent :
    (match s4.dev.msg 33 with
      | some x => sent s4 x ⟨0, 3, 63, 0, 0⟩ && decide (s4.dev.g BLW_RTO.RETRIES ≤ 63) && decide (x.kind = .queue) &&
          cq s4.dev (s4.dev.g BLW_WQ_CFG.CQ (x.wq.getD 0).toNat)
      | _ => false) = true := by
  decide +kernel
theorem witness_PacketsAreSentAndResent_nak_wait :
    (match s5.dev.msg 33 with
      | some x => sent s5 x ⟨0, 1, 0, 1, 20⟩ && s5.dev.portUp (s5.dev.nextPlane 1) &&
          (match (s5.dev.setMsg (rewritten x ⟨0, 1, 0, 1, 20⟩ 0 (s5.dev.nextPlane 1))).payload (rewritten x ⟨0, 1, 0, 1, 20⟩ 0 (s5.dev.nextPlane 1)) 0 with
            | (e, some body) => cs e (s5.dev.nextPlane 1) body.length && decide (e.on BLW_PD.SECURE x.pd.toNat = false) &&
                decide (e.blw = (s5.dev.setMsg (rewritten x ⟨0, 1, 0, 1, 20⟩ 0 (s5.dev.nextPlane 1))).blw)
            | _ => false)
      | _ => false) = true ∧
    (match s6.dev.msg 33 with
      | some x => sent s6 x ⟨0, 1, 0, 2, 20⟩ && s6.dev.portUp 1 &&
          (match (s6.dev.setMsg (rewritten x ⟨0, 1, 0, 2, 20⟩ 0 1)).payload (rewritten x ⟨0, 1, 0, 2, 20⟩ 0 1) 0 with
            | (e, some body) => cs e 1 body.length && decide (e.on BLW_PD.SECURE x.pd.toNat = false) &&
                decide (e.blw = (s6.dev.setMsg (rewritten x ⟨0, 1, 0, 2, 20⟩ 0 1)).blw)
            | _ => false)
      | _ => false) = true := by
  decide +kernel
def s7 : State := old (m (ms 2 700 0 1 [⟨0, 1, 0, 0, 20⟩]))
def s8 : State := old (m (ms 3 700 8 1 [⟨0, 1, 0, 1, 20⟩]))
theorem witness_PacketsAreSentAndResent_lifetime :
    (match s7.dev.msg 33, s8.dev.msg 33 with
      | some x, some y => decide (x.ended = none) && decide (s7.dev.on BLW_PD.SECURE x.pd.toNat = false) && decide (x.desc.dnode ≠ 0xFFF) &&
          decide (x.desc.panic = false) && s7.dev.mlifeOver x && decide (x.kind = .queue) && cq s7.dev (s7.dev.g BLW_WQ_CFG.CQ (x.wq.getD 0).toNat) &&
          decide (x.pkts.any (fun p => p.wait = 1) = false) &&
          decide (y.ended = none) && decide (s8.dev.on BLW_PD.SECURE y.pd.toNat = false) && decide (y.desc.dnode ≠ 0xFFF) &&
          decide (y.desc.panic = false) && s8.dev.mlifeOver y && decide (y.kind = .queue) && cq s8.dev (s8.dev.g BLW_WQ_CFG.CQ (y.wq.getD 0).toNat) &&
          y.pkts.any (fun p => p.wait = 1)
      | _, _ => false) = true := by
  decide +kernel
def r1 : State := old (wB (fun b => { b with recs := [{ rc with tag := 8 }, rc], done := [dn 33, dn 34], atom := [dn 33] }) base)
theorem witness_PacketsAreSentAndResent_records :
    r1.dev.blw.recs = [{ rc with tag := 8 }] ++ rc :: [] ∧ (∀ x ∈ [{ rc with tag := 8 }] ++ ([] : List Rec), ¬(x.src = rc.src ∧ x.tag = rc.tag)) ∧ rc.since ≠ 0 ∧
    (readHdr rc.hdr).cast = false ∧ (readHdr rc.hdr).sec = false ∧ (readHdr rc.hdr).src ≠ 0xFFF ∧ r1.dev.answerPlane rc.plane = some 2 ∧ cs r1.dev 2 8 = true ∧
    r1.dev.blw.recs.all (fun r => r.op ≠ xSEND) = true ∧ r1.dev.blw.recs.Nodup ∧
    (∃ r ∈ r1.dev.blw.recs, later r1.dev.brt.pos (r.mpos + BitVec.ofNat 64 (r1.dev.usPos (r1.dev.g BLW_MLIFE * 1000) + r1.dev.mpl)) = true) := by
  decide +kernel
def c1 : State := wB (fun b => { b with cqWait := [(2, List.replicate 32 7, some 33)] }) (m (ms 1 700 8 1 []))
theorem witness_PacketsAreSentAndResent_completion_space :
    c1.dev.blw.cqWait = [(2, List.replicate 32 7, some 33)] ∧ c1.dev.cqRoom 2 = true ∧ c1.dev.g BLW_CQ_CFG.DEPTH 2 ≤ 12 ∧
    c1.dev.on BLW_CQ_CFG.NOTIFY 2 = false ∧ BlwMay c1.dev (c1.dev.g BLW_CQ_BASE 2 * 64 + c1.dev.g BLW_CQ_PI 2 * 32) 32 := by
  unfold BlwMay
  decide +kernel
def d1 : State := ks (wB (fun b => { b with derive := [⟨pid, [pk (hd 1) []], []⟩], keys := setAt b.keys 3 (some [1,2]), cache := [({ pid with lo := 1 }, [4])] }) base)
def d2 : State := ks (wB (fun b => { b with pctrWait := [sf], cache := [(pid, [4])], pctr := 5, keys := setAt b.keys 3 (some [1,2]) }) base)
theorem witness_PacketsAreSentAndResent_keys :
    d1.dev.blw.outcomes = [] ∧ (match d1.dev.blw.derive with
      | [x] => decide (x.tx = []) && decide (d1.dev.blw.keys.getD x.id.slot.toNat none = some [1, 2])
      | _ => false) = true ∧ d1.dev.cacheRoom ≠ 0 ∧
    (match d2.dev.blw.pctrWait with
      | [x] => decide (x.planes = [1]) && d2.dev.slotSends x.slot.toNat && (d2.dev.nextPctr x.slot.toNat).isSome &&
          d2.dev.fits 1 (readHdr x.frame.hdr).plen (readHdr x.frame.hdr).sec &&
          decide (d2.dev.blw.cache = [(pairOf x.slot.toNat (d2.dev.g BLW_KEYSLOT.EPOCH x.slot.toNat) (readHdr x.frame.hdr).src (readHdr x.frame.hdr).dst, [4])])
      | _ => false) = true ∧ d2.dev.mac.length = 4 ∧ d2.dev.portUp 1 = true ∧ d2.dev.est kPort 1 = ENABLED := by
  decide +kernel
end C12c

/-! ### The target -/

namespace C13
def per4 (d : Dev) (f : Dev → Nat → Dev) : Dev := [0,1,2,3].foldl f d
def net : Dev := per4 (((((run0.dev.s BLW_CTL.EN 1).s BLW_NODE 5).s BLW_PD.EN 1 2).s BNK_OWN.OWN 18 0).s BNK_OWN.OWN 18 1)
  (fun d p => ((d.s MAC_STAT.LINK 1 p).s MAC_CTL.MODE 1 p))
def hd (op : Nat) : Hdr := { ver := 1, op := op, tc := 1, flags := 0, src := 9, dst := 5, tag := 33, psn := 0, plen := 8, pd := 2, aux := 0, spos := 0x100000000, mpos := 0xFFFFFFF0, mlen := 8, addr := 0x1000, rkey := 0x40C + 1024*7, rcount := 0, resv := 0 }
def bytes8 : List Byte := [1,2,3,4,5,6,7,8]
def pk (h : Hdr) (b : List Byte) : Pkt := ⟨2, 0x100000000, h.bytes, b⟩
def reg (at_ : Nat) : Region := ⟨0x1000, 0x1000, BitVec.ofNat 32 at_, BitVec.ofNat 32 (1024*8+0)⟩
def attr : Nat := 15 + 2*16 + 5*1024 + 65536
def withPkt (d : Dev) (h : Hdr) (b : List Byte) : State :=
  { run0 with dev := { d with blw := { d.blw with inbox := [pk h b], regions := [(0xC, reg attr)] } } }
def w0 := withPkt net (hd xWRITE) bytes8
def de (h : Hdr) (cnt old : Nat) : DoneEnt := ⟨BitVec.ofNat 12 h.src, BitVec.ofNat 12 h.tag, h.mpos, cnt, BitVec.ofNat 64 old⟩
def wB (b : Blw → Blw) (x : State) : State := { x with dev := { x.dev with blw := b x.dev.blw } }
def wS (f : Fld) (v i : Nat) (x : State) : State := { x with dev := x.dev.s f v i }
def bump : Hdr := { hd xWRITE with flags := 4 }
def big : Hdr := { hd xWRITE with mlen := 20 }
def guest : State := wS BNK_GUEST.GUEST 1 0 (wS BNK_OWN.OWN 1 0 w0)
def seq0 (b : Bool) : State := (if b then wS BLW_RQX.TEN 1 3 else id) (wS BLW_RQX.TRIG 7 3 (wS BLW_RQX.ANYPD 1 3 (wS BLW_RQ_BASE 0x40 3 (wS BLW_RQ_CFG.SLOT 2 3 (wS BLW_RQ_CFG.NSLOT 4 3 (wS BLW_RQ_CFG.EN 1 3
  (withPkt net { hd xSEND with aux := 3, addr := 0 } bytes8)))))))
def rd : Hdr := { hd xREAD with aux := 1, plen := 8, mlen := 40, rcount := 1 }
def z8 : List Byte := List.replicate 8 0
def memd (x : State) : State := { x with dev := { x.dev with bnk := { x.dev.bnk with mem := (List.range 40).map (fun k => (0x1000 + k, BitVec.ofNat 8 (k + 1))) } } }
def atm (op : Nat) (fl : Nat) (a : Nat) (b : List Byte) : State := memd (withPkt net { hd op with flags := fl, addr := a, plen := b.length, mlen := b.length } b)
def mg (v : Nat) : List Byte := leBytes 4 0x40019031 ++ leBytes 4 v ++ leBytes 4 0x40019030 ++ leBytes 4 0 ++ leBytes 4 0x40022001 ++ leBytes 4 1
def mgs (v : Nat) : State := wS BLW_MGMT.SEC 0 0 <| withPkt net { hd xMGMT with plen := 24, mlen := 24 } (mg v)

/-- The parts of `CanSend`, as a Bool. -/
def cs (d : Dev) (p n : Nat) : Bool :=
  decide (d.mac.length = 4 ∧ p < 4 ∧ d.portUp p = true ∧ d.est kPort p = ENABLED ∧ d.fits p n false = true ∧ n ≤ 2048)
theorem canSend_of_cs (d : Dev) (p n : Nat) (h : cs d p n = true) : CanSend d p n := by unfold cs at h; exact (of_decide_eq_true h :)
/-- The parts of `BlwMay`, as a Bool. -/
def may (d : Dev) (a n : Nat) : Bool :=
  decide (1 ≤ n ∧ a + n ≤ bankEnd ∧ bankOf (a + n - 1) = bankOf a ∧ d.bankMay 18 (bankOf a) true = true ∧ d.bnk.hand = [] ∧ d.bnk.poison = [])
theorem blwMay_of_may (d : Dev) (a n : Nat) (h : may d a n = true) : BlwMay d a n := by unfold may at h; exact (of_decide_eq_true h :)
/-- What every clause on a request taken asks: a good clear packet of one node, and an answer that can be sent. -/
def good (d : Dev) (g : Got) (n : Nat) : Bool :=
  !g.h.sec && !g.h.cast && decide (g.h.src ≠ 0xFFF) && decide (g.body.length = g.h.plen) && goodHdr g.h 48 g.pkt.rest.length &&
  decide (g.h = readHdr g.pkt.hdr) && (match d.answerPlane g.pkt.plane with | some p => cs d p n | none => false) &&
  decide (∀ r ∈ d.blw.recs, ¬(r.src.toNat = g.h.src ∧ r.tag.toNat = g.h.tag))
def one (g : Got) : Bool := decide (g.h.psn = 0 ∧ g.h.mlen = g.h.plen ∧ 1 ≤ g.h.plen)
/-- The next packet is a request of this kind and meets a condition. -/
def takes (s : State) (op : Nat) (w : Bool) (f : Dev → Got → Bool) : Bool :=
  match s.dev.takeReq op w with
  | (d, some g) => f d g
  | _ => false
theorem witness_TargetPlacesAndAnswers_write :
    takes (withPkt net bump bytes8) xWRITE true (fun d g => good d g 8 && decide (d.regionCheck g.h g.h.plen 2 = none) && decide (d.doneOf g.h = none) &&
      d.recRoom && one g && may d g.h.addr g.h.plen && !d.protDead (1088 + bitsOf (d.region (g.h.rkey % 1024)).attr.toNat 15 10)) = true ∧
    takes (withPkt net big bytes8) xWRITE true (fun d g => good d g 8 && decide (d.regionCheck g.h g.h.plen 2 = none) && decide (d.doneOf g.h = none) &&
      d.recRoom && decide (g.h.psn * g.h.plen < g.h.mlen) && decide (g.h.plen < g.h.mlen) && decide (g.h.mlen ≤ 16777216) && decide (g.h.psn < 64) &&
      decide (2 ≤ d.g BLW_ACK.N) && may d g.h.addr g.h.plen) = true ∧
    takes guest xWRITE true (fun d g => good d g 8 && decide (d.regionCheck g.h g.h.plen 2 = none) && decide (d.doneOf g.h = none) && d.recRoom && one g &&
      may d g.h.addr g.h.plen && decide (d.g BNK_OWN.OWN (bankOf g.h.addr) ≠ 18) && decide (d.g BNK_GUEST.GUEST (bankOf g.h.addr) = 1)) = true := by
  decide +kernel
theorem witness_TargetPlacesAndAnswers_answered :
    takes (withPkt net { hd xWRITE with addr := 0x2000 } bytes8) xWRITE true (fun d g => good d g 8 && decide (d.regionCheck g.h g.h.plen 2 = some 5)) = true ∧
    takes (wB (fun b => { b with done := [de (hd xWRITE) 1 0] }) w0) xWRITE true (fun d g => good d g 8 && decide (d.regionCheck g.h g.h.plen 2 = none) &&
      one g && (d.doneOf g.h).isSome) = true := by
  decide +kernel
theorem witness_TargetPlacesAndAnswers_send :
    takes (seq0 true) xSEND true (fun d g => good d g 8 && decide (g.h.aux < 64) && d.on BLW_RQX.ANYPD g.h.aux && decide (d.doneOf g.h = none) && one g &&
      decide (g.h.mlen ≤ 65536) && decide (g.h.addr = 0) && d.on BLW_RQ_CFG.EN g.h.aux && decide (16 + g.h.mlen ≤ d.slotSize g.h.aux) && d.recRoom &&
      decide (d.claims g.h.aux = []) && decide (d.freeSlot g.h.aux = some 0) && decide (2 ≤ d.g BLW_RQ_CFG.NSLOT g.h.aux) &&
      may d (d.slotAddr g.h.aux 0) (d.slotSize g.h.aux) && !d.on BLW_RQ_CFG.CQEN g.h.aux && !d.on EVS_QSEL.EVQEN && !d.on EVS_QSEL.SPQEN &&
      !d.protDead (1088 + d.g BLW_RQX.TRIG g.h.aux)) = true ∧
    takes (wS BLW_RQ_CFG.EN 0 3 (seq0 true)) xSEND true (fun d g => good d g 8 && decide (g.h.aux < 64) && d.on BLW_RQX.ANYPD g.h.aux &&
      decide (d.doneOf g.h = none) && one g && decide (g.h.mlen ≤ 65536) && decide (g.h.addr = 0) && !d.on BLW_RQ_CFG.EN g.h.aux) = true := by
  decide +kernel
theorem witness_TargetReadsAtomicsAndManagement_read :
    takes (memd (withPkt net rd z8)) xREAD false (fun d g => good d g 2048 && decide (d.regionCheck g.h g.h.mlen 1 = none) && decide (g.h.aux < 4) &&
      decide (1 ≤ g.h.mlen) && decide (g.h.mlen ≤ mtuOf g.h.aux) && decide (g.h.psn = 0) && decide (g.h.rcount = 1) && decide (fieldAt g.body 0 8 = 0) &&
      may d g.h.addr g.h.mlen) = true := by
  decide +kernel
/-- What the two clauses on an atomic ask alike, with the entries that hold its result. -/
def atomic (d : Dev) (g : Got) (f : List DoneEnt → Bool) : Bool :=
  good d g 2048 && decide (d.regionCheck g.h (if g.h.w64 then 8 else 4) 3 = none) && decide (g.h.addr % (if g.h.w64 then 8 else 4) = 0) && decide (g.h.psn = 0) &&
  may d g.h.addr (if g.h.w64 then 8 else 4) &&
  f (d.blw.atom.filter (fun e => e.src.toNat = g.h.src && e.tag.toNat = g.h.tag && e.mpos = g.h.mpos))
theorem witness_TargetReadsAtomicsAndManagement_atomic :
    takes (atm xADD 8 0x1008 bytes8) xADD false (fun d g => atomic d g (fun l => decide (l = [])) && decide (d.blw.atom.length + d.rowsLost 3 < 1024)) = true ∧
    takes (atm xCAS 8 0x1000 (z8 ++ bytes8)) xCAS false (fun d g => atomic d g (fun l => decide (l = [])) && decide (d.blw.atom.length + d.rowsLost 3 < 1024)) = true ∧
    takes (wB (fun b => { b with atom := [de (hd xADD) 1 0x99] }) (atm xADD 0 0x1000 [1,2,3,4])) xADD false (fun d g => atomic d g (fun l => decide (l.length = 1))) = true ∧
    takes (wB (fun b => { b with atom := [de (hd xADD) 1 0x99] }) (atm xCAS 8 0x1000 (z8 ++ bytes8))) xCAS false (fun d g => atomic d g (fun l => decide (l.length = 1))) = true := by
  decide +kernel
theorem witness_TargetReadsAtomicsAndManagement_management :
    takes (mgs 7) xMGMT true (fun d g => good d g 2048 && !d.on BLW_MGMT.SEC && decide (d.doneOf g.h = none) && decide (d.recOf g.h = none) && decide (g.h.psn = 0) &&
      !d.on BLW_MGMT.EN) = true ∧
    takes (wS BLW_MGMT.EN 1 0 (mgs 7)) xMGMT true (fun d g => good d g 2048 && !d.on BLW_MGMT.SEC && decide (d.doneOf g.h = none) && decide (d.recOf g.h = none) &&
      decide (g.h.psn = 0) && decide (g.h.src ≠ d.g BLW_MGMT.NODE)) = true ∧
    takes (wS BLW_MGMT.NODE 9 0 (wS BLW_MGMT.EN 1 0 (mgs 0xFFFFFFFF))) xMGMT true (fun d g => good d g 2048 && !d.on BLW_MGMT.SEC && decide (d.doneOf g.h = none) &&
      decide (d.recOf g.h = none) && decide (g.h.psn = 0) && d.on BLW_MGMT.EN && decide ((d.reg BLW_MRIDX.base).toNat < 1024) &&
      decide (g.h.src = d.g BLW_MGMT.NODE) && d.recRoom && decide (g.body = mg 0xFFFFFFFF)) = true := by
  decide +kernel
end C13

/-! ### The target -/

namespace C13b
def per4 (d : Dev) (f : Dev → Nat → Dev) : Dev := [0,1,2,3].foldl f d
def net : Dev := per4 (((((run0.dev.s BLW_CTL.EN 1).s BLW_NODE 5).s BLW_PD.EN 1 2).s BNK_OWN.OWN 18 0).s BNK_OWN.OWN 18 1)
  (fun d p => ((d.s MAC_STAT.LINK 1 p).s MAC_CTL.MODE 1 p))
def hd (op : Nat) : Hdr := { ver := 1, op := op, tc := 1, flags := 0, src := 9, dst := 5, tag := 33, psn := 0, plen := 8, pd := 2, aux := 0, spos := 0x100000000, mpos := 0xFFFFFFF0, mlen := 8, addr := 0x1000, rkey := 0x40C + 1024*7, rcount := 0, resv := 0 }
def pk (h : Hdr) (b : List Byte) : Pkt := ⟨2, 0x100000000, h.bytes, b⟩
def reg (at_ : Nat) : Region := ⟨0x1000, 0x1000, BitVec.ofNat 32 at_, BitVec.ofNat 32 (1024*8+0)⟩
def attr : Nat := 15 + 2*16 + 5*1024 + 65536
def withPkt (d : Dev) (h : Hdr) (b : List Byte) : State :=
  { run0 with dev := { d with blw := { d.blw with inbox := [pk h b], regions := [(0xC, reg attr)] } } }
def wB (b : Blw → Blw) (x : State) : State := { x with dev := { x.dev with blw := b x.dev.blw } }
def wS (f : Fld) (v i : Nat) (x : State) : State := { x with dev := x.dev.s f v i }
def dsc (op len : Nat) (fl : Nat) : Desc := { Desc.zero with op := op, len := len, dnode := 9, laddr := 0x2000, raddr := 0x1000, flags := fl, wrid := 77 }
def ms (op len fl : Nat) : Msg := { tag := 33, wq := some 4, desc := dsc op len fl, pd := 2, mtu := 256, mpos := 0xFFFFFFF0, next := 3, acked := [], pkts := [⟨0, 1, 0, 0, 0⟩, ⟨1, 1, 0, 0, 40⟩], kind := .queue, own := 0, data := none, ended := none }
def other (l : List Msg) : List Msg := { ms 1 8 0 with tag := 7 } :: l
def ans (m : Msg) (h : Hdr) (b : List Byte) : State :=
  wS BLW_CQ_BASE 0x140 2 <| wS BLW_CQ_CFG.EN 1 2 <| wS BLW_CQ_CFG.DEPTH 3 2 <| wS BLW_WQ_CFG.CQ 2 4 <| wB (fun b => { b with msgs := other [m] }) (withPkt net { h with plen := b.length } b)
def z8 : List Byte := List.replicate 8 0
def nk (c psn : Nat) : State := ans (ms 1 700 0) { hd xNAK with aux := c, psn := psn } []

def w1 : State :=
  ans (ms 3 700 0)   ( { (hd xACK) with flags := 64 })   z8
def w2 : State :=
  ans (ms 1 700 8)   ( { (hd xACK) with psn := 1 })   (4 :: List.drop 1 z8)
def w3 : State :=
  nk 2 0
def w4 : State :=
  nk 4 1
def w5 : State :=
  nk 5 0
def w6 : State :=
  nk 6 1
def w7 : State :=
  nk 7 1
def w8 : State :=
  nk 1 1
def w9 : State :=
  nk 3 1
def w10 : State :=
  ans (ms 5 0 1) (hd xRESP) [1, 2, 3, 4, 5, 6, 7, 8]
def w11 : State :=
  ans (ms 2 8 0)   ( { (hd xRESP) with addr := 0 })   [1, 2, 3, 4, 5, 6, 7, 8]
theorem witness_AnswersEndMessages :
    (1 ≤ 32) ∧
    ((match w1.dev.takePkt fun h => decide (h.op = xACK) with | (d, some g) => decide (answerChecks d g.h = none) && decide (d.blw.outcomes = []) && decide (d.blw.cqWait = []) && decide (d.bnk.hand = []) && decide (d.bnk.poison = []) && decide (g.h.done = true) && decide ((match d.named g.h with | some m => decide (m.kind = MsgKind.queue) && decide (d.g BLW_WQ_CFG.CQ (m.wq.getD 0).toNat < 64) && decide (d.on BLW_CQ_CFG.EN (d.g BLW_WQ_CFG.CQ (m.wq.getD 0).toNat) = true) && decide (1 ≤ d.g BLW_CQ_CFG.DEPTH (d.g BLW_WQ_CFG.CQ (m.wq.getD 0).toNat)) && decide (d.g BLW_CQ_CFG.DEPTH (d.g BLW_WQ_CFG.CQ (m.wq.getD 0).toNat) ≤ 12) && decide (d.on BLW_CQ_CFG.NOTIFY (d.g BLW_WQ_CFG.CQ (m.wq.getD 0).toNat) = false) && decide (d.cqRoom (d.g BLW_WQ_CFG.CQ (m.wq.getD 0).toNat) = true) && decide (d.g BLW_CQ_BASE (d.g BLW_WQ_CFG.CQ (m.wq.getD 0).toNat) * 64 + d.g BLW_CQ_PI (d.g BLW_WQ_CFG.CQ (m.wq.getD 0).toNat) * 32 + 32 ≤ bankEnd) && decide (bankOf (d.g BLW_CQ_BASE (d.g BLW_WQ_CFG.CQ (m.wq.getD 0).toNat) * 64 + d.g BLW_CQ_PI (d.g BLW_WQ_CFG.CQ (m.wq.getD 0).toNat) * 32 + 32 - 1) = bankOf (d.g BLW_CQ_BASE (d.g BLW_WQ_CFG.CQ (m.wq.getD 0).toNat) * 64 + d.g BLW_CQ_PI (d.g BLW_WQ_CFG.CQ (m.wq.getD 0).toNat) * 32)) && decide (d.bankMay 18 (bankOf (d.g BLW_CQ_BASE (d.g BLW_WQ_CFG.CQ (m.wq.getD 0).toNat) * 64 + d.g BLW_CQ_PI (d.g BLW_WQ_CFG.CQ (m.wq.getD 0).toNat) * 32)) true = true) && decide (m.desc.op = xWRITE ∨ m.desc.op = xSEND) | _ => false) = true) | _ => false) = true) ∧
    ((match w2.dev.takePkt fun h => decide (h.op = xACK) with | (d, some g) => decide (answerChecks d g.h = none) && decide (d.blw.outcomes = []) && decide (d.blw.cqWait = []) && decide (d.bnk.hand = []) && decide (d.bnk.poison = []) && decide (g.h.done = false) && decide ((match d.named g.h with | some m => decide (m.kind = MsgKind.queue) && decide (d.g BLW_WQ_CFG.CQ (m.wq.getD 0).toNat < 64) && decide (d.on BLW_CQ_CFG.EN (d.g BLW_WQ_CFG.CQ (m.wq.getD 0).toNat) = true) && decide (1 ≤ d.g BLW_CQ_CFG.DEPTH (d.g BLW_WQ_CFG.CQ (m.wq.getD 0).toNat)) && decide (d.g BLW_CQ_CFG.DEPTH (d.g BLW_WQ_CFG.CQ (m.wq.getD 0).toNat) ≤ 12) && decide (d.on BLW_CQ_CFG.NOTIFY (d.g BLW_WQ_CFG.CQ (m.wq.getD 0).toNat) = false) && decide (d.cqRoom (d.g BLW_WQ_CFG.CQ (m.wq.getD 0).toNat) = true) && decide (d.g BLW_CQ_BASE (d.g BLW_WQ_CFG.CQ (m.wq.getD 0).toNat) * 64 + d.g BLW_CQ_PI (d.g BLW_WQ_CFG.CQ (m.wq.getD 0).toNat) * 32 + 32 ≤ bankEnd) && decide (bankOf (d.g BLW_CQ_BASE (d.g BLW_WQ_CFG.CQ (m.wq.getD 0).toNat) * 64 + d.g BLW_CQ_PI (d.g BLW_WQ_CFG.CQ (m.wq.getD 0).toNat) * 32 + 32 - 1) = bankOf (d.g BLW_CQ_BASE (d.g BLW_WQ_CFG.CQ (m.wq.getD 0).toNat) * 64 + d.g BLW_CQ_PI (d.g BLW_WQ_CFG.CQ (m.wq.getD 0).toNat) * 32)) && decide (d.bankMay 18 (bankOf (d.g BLW_CQ_BASE (d.g BLW_WQ_CFG.CQ (m.wq.getD 0).toNat) * 64 + d.g BLW_CQ_PI (d.g BLW_WQ_CFG.CQ (m.wq.getD 0).toNat) * 32)) true = true) && decide (m.desc.op = xWRITE ∨ m.desc.op = xSEND) && decide ((List.filter (fun k => decide (k < g.h.psn) || decide (k < g.h.psn + 64) && bit (fieldAt g.body 0 8) (k - g.h.psn)) (List.range m.count)).length ≠ m.count) | _ => false) = true) | _ => false) = true) ∧
    ((match w3.dev.takePkt fun h => decide (h.op = xNAK) with | (d, some g) => decide (answerChecks d g.h = none) && decide (d.blw.outcomes = []) && decide (d.blw.cqWait = []) && decide (d.bnk.hand = []) && decide (d.bnk.poison = []) && decide (g.h.aux = 2) && decide ((match d.named g.h with | some m => decide (m.kind = MsgKind.queue) && decide (d.g BLW_WQ_CFG.CQ (m.wq.getD 0).toNat < 64) && decide (d.on BLW_CQ_CFG.EN (d.g BLW_WQ_CFG.CQ (m.wq.getD 0).toNat) = true) && decide (1 ≤ d.g BLW_CQ_CFG.DEPTH (d.g BLW_WQ_CFG.CQ (m.wq.getD 0).toNat)) && decide (d.g BLW_CQ_CFG.DEPTH (d.g BLW_WQ_CFG.CQ (m.wq.getD 0).toNat) ≤ 12) && decide (d.on BLW_CQ_CFG.NOTIFY (d.g BLW_WQ_CFG.CQ (m.wq.getD 0).toNat) = false) && decide (d.cqRoom (d.g BLW_WQ_CFG.CQ (m.wq.getD 0).toNat) = true) && decide (d.g BLW_CQ_BASE (d.g BLW_WQ_CFG.CQ (m.wq.getD 0).toNat) * 64 + d.g BLW_CQ_PI (d.g BLW_WQ_CFG.CQ (m.wq.getD 0).toNat) * 32 + 32 ≤ bankEnd) && decide (bankOf (d.g BLW_CQ_BASE (d.g BLW_WQ_CFG.CQ (m.wq.getD 0).toNat) * 64 + d.g BLW_CQ_PI (d.g BLW_WQ_CFG.CQ (m.wq.getD 0).toNat) * 32 + 32 - 1) = bankOf (d.g BLW_CQ_BASE (d.g BLW_WQ_CFG.CQ (m.wq.getD 0).toNat) * 64 + d.g BLW_CQ_PI (d.g BLW_WQ_CFG.CQ (m.wq.getD 0).toNat) * 32)) && decide (d.bankMay 18 (bankOf (d.g BLW_CQ_BASE (d.g BLW_WQ_CFG.CQ (m.wq.getD 0).toNat) * 64 + d.g BLW_CQ_PI (d.g BLW_WQ_CFG.CQ (m.wq.getD 0).toNat) * 32)) true = true) | _ => false) = true) | _ => false) = true) ∧
    ((match w4.dev.takePkt fun h => decide (h.op = xNAK) with | (d, some g) => decide (answerChecks d g.h = none) && decide (d.blw.outcomes = []) && decide (d.blw.cqWait = []) && decide (d.bnk.hand = []) && decide (d.bnk.poison = []) && decide (g.h.aux = 4) && decide ((match d.named g.h with | some m => decide (m.kind = MsgKind.queue) && decide (d.g BLW_WQ_CFG.CQ (m.wq.getD 0).toNat < 64) && decide (d.on BLW_CQ_CFG.EN (d.g BLW_WQ_CFG.CQ (m.wq.getD 0).toNat) = true) && decide (1 ≤ d.g BLW_CQ_CFG.DEPTH (d.g BLW_WQ_CFG.CQ (m.wq.getD 0).toNat)) && decide (d.g BLW_CQ_CFG.DEPTH (d.g BLW_WQ_CFG.CQ (m.wq.getD 0).toNat) ≤ 12) && decide (d.on BLW_CQ_CFG.NOTIFY (d.g BLW_WQ_CFG.CQ (m.wq.getD 0).toNat) = false) && decide (d.cqRoom (d.g BLW_WQ_CFG.CQ (m.wq.getD 0).toNat) = true) && decide (d.g BLW_CQ_BASE (d.g BLW_WQ_CFG.CQ (m.wq.getD 0).toNat) * 64 + d.g BLW_CQ_PI (d.g BLW_WQ_CFG.CQ (m.wq.getD 0).toNat) * 32 + 32 ≤ bankEnd) && decide (bankOf (d.g BLW_CQ_BASE (d.g BLW_WQ_CFG.CQ (m.wq.getD 0).toNat) * 64 + d.g BLW_CQ_PI (d.g BLW_WQ_CFG.CQ (m.wq.getD 0).toNat) * 32 + 32 - 1) = bankOf (d.g BLW_CQ_BASE (d.g BLW_WQ_CFG.CQ (m.wq.getD 0).toNat) * 64 + d.g BLW_CQ_PI (d.g BLW_WQ_CFG.CQ (m.wq.getD 0).toNat) * 32)) && decide (d.bankMay 18 (bankOf (d.g BLW_CQ_BASE (d.g BLW_WQ_CFG.CQ (m.wq.getD 0).toNat) * 64 + d.g BLW_CQ_PI (d.g BLW_WQ_CFG.CQ (m.wq.getD 0).toNat) * 32)) true = true) | _ => false) = true) | _ => false) = true) ∧
    ((match w5.dev.takePkt fun h => decide (h.op = xNAK) with | (d, some g) => decide (answerChecks d g.h = none) && decide (d.blw.outcomes = []) && decide (d.blw.cqWait = []) && decide (d.bnk.hand = []) && decide (d.bnk.poison = []) && decide (g.h.aux = 5) && decide ((match d.named g.h with | some m => decide (m.kind = MsgKind.queue) && decide (d.g BLW_WQ_CFG.CQ (m.wq.getD 0).toNat < 64) && decide (d.on BLW_CQ_CFG.EN (d.g BLW_WQ_CFG.CQ (m.wq.getD 0).toNat) = true) && decide (1 ≤ d.g BLW_CQ_CFG.DEPTH (d.g BLW_WQ_CFG.CQ (m.wq.getD 0).toNat)) && decide (d.g BLW_CQ_CFG.DEPTH (d.g BLW_WQ_CFG.CQ (m.wq.getD 0).toNat) ≤ 12) && decide (d.on BLW_CQ_CFG.NOTIFY (d.g BLW_WQ_CFG.CQ (m.wq.getD 0).toNat) = false) && decide (d.cqRoom (d.g BLW_WQ_CFG.CQ (m.wq.getD 0).toNat) = true) && decide (d.g BLW_CQ_BASE (d.g BLW_WQ_CFG.CQ (m.wq.getD 0).toNat) * 64 + d.g BLW_CQ_PI (d.g BLW_WQ_CFG.CQ (m.wq.getD 0).toNat) * 32 + 32 ≤ bankEnd) && decide (bankOf (d.g BLW_CQ_BASE (d.g BLW_WQ_CFG.CQ (m.wq.getD 0).toNat) * 64 + d.g BLW_CQ_PI (d.g BLW_WQ_CFG.CQ (m.wq.getD 0).toNat) * 32 + 32 - 1) = bankOf (d.g BLW_CQ_BASE (d.g BLW_WQ_CFG.CQ (m.wq.getD 0).toNat) * 64 + d.g BLW_CQ_PI (d.g BLW_WQ_CFG.CQ (m.wq.getD 0).toNat) * 32)) && decide (d.bankMay 18 (bankOf (d.g BLW_CQ_BASE (d.g BLW_WQ_CFG.CQ (m.wq.getD 0).toNat) * 64 + d.g BLW_CQ_PI (d.g BLW_WQ_CFG.CQ (m.wq.getD 0).toNat) * 32)) true = true) | _ => false) = true) | _ => false) = true) ∧
    ((match w6.dev.takePkt fun h => decide (h.op = xNAK) with | (d, some g) => decide (answerChecks d g.h = none) && decide (d.blw.outcomes = []) && decide (d.blw.cqWait = []) && decide (d.bnk.hand = []) && decide (d.bnk.poison = []) && decide (g.h.aux = 6) && decide ((match d.named g.h with | some m => decide (m.kind = MsgKind.queue) && decide (d.g BLW_WQ_CFG.CQ (m.wq.getD 0).toNat < 64) && decide (d.on BLW_CQ_CFG.EN (d.g BLW_WQ_CFG.CQ (m.wq.getD 0).toNat) = true) && decide (1 ≤ d.g BLW_CQ_CFG.DEPTH (d.g BLW_WQ_CFG.CQ (m.wq.getD 0).toNat)) && decide (d.g BLW_CQ_CFG.DEPTH (d.g BLW_WQ_CFG.CQ (m.wq.getD 0).toNat) ≤ 12) && decide (d.on BLW_CQ_CFG.NOTIFY (d.g BLW_WQ_CFG.CQ (m.wq.getD 0).toNat) = false) && decide (d.cqRoom (d.g BLW_WQ_CFG.CQ (m.wq.getD 0).toNat) = true) && decide (d.g BLW_CQ_BASE (d.g BLW_WQ_CFG.CQ (m.wq.getD 0).toNat) * 64 + d.g BLW_CQ_PI (d.g BLW_WQ_CFG.CQ (m.wq.getD 0).toNat) * 32 + 32 ≤ bankEnd) && decide (bankOf (d.g BLW_CQ_BASE (d.g BLW_WQ_CFG.CQ (m.wq.getD 0).toNat) * 64 + d.g BLW_CQ_PI (d.g BLW_WQ_CFG.CQ (m.wq.getD 0).toNat) * 32 + 32 - 1) = bankOf (d.g BLW_CQ_BASE (d.g BLW_WQ_CFG.CQ (m.wq.getD 0).toNat) * 64 + d.g BLW_CQ_PI (d.g BLW_WQ_CFG.CQ (m.wq.getD 0).toNat) * 32)) && decide (d.bankMay 18 (bankOf (d.g BLW_CQ_BASE (d.g BLW_WQ_CFG.CQ (m.wq.getD 0).toNat) * 64 + d.g BLW_CQ_PI (d.g BLW_WQ_CFG.CQ (m.wq.getD 0).toNat) * 32)) true = true) | _ => false) = true) | _ => false) = true) ∧
    ((match w7.dev.takePkt fun h => decide (h.op = xNAK) with | (d, some g) => decide (answerChecks d g.h = none) && decide (d.blw.outcomes = []) && decide (d.blw.cqWait = []) && decide (d.bnk.hand = []) && decide (d.bnk.poison = []) && decide (g.h.aux = 7) && decide ((match d.named g.h with | some m => decide (m.kind = MsgKind.queue) && decide (d.g BLW_WQ_CFG.CQ (m.wq.getD 0).toNat < 64) && decide (d.on BLW_CQ_CFG.EN (d.g BLW_WQ_CFG.CQ (m.wq.getD 0).toNat) = true) && decide (1 ≤ d.g BLW_CQ_CFG.DEPTH (d.g BLW_WQ_CFG.CQ (m.wq.getD 0).toNat)) && decide (d.g BLW_CQ_CFG.DEPTH (d.g BLW_WQ_CFG.CQ (m.wq.getD 0).toNat) ≤ 12) && decide (d.on BLW_CQ_CFG.NOTIFY (d.g BLW_WQ_CFG.CQ (m.wq.getD 0).toNat) = false) && decide (d.cqRoom (d.g BLW_WQ_CFG.CQ (m.wq.getD 0).toNat) = true) && decide (d.g BLW_CQ_BASE (d.g BLW_WQ_CFG.CQ (m.wq.getD 0).toNat) * 64 + d.g BLW_CQ_PI (d.g BLW_WQ_CFG.CQ (m.wq.getD 0).toNat) * 32 + 32 ≤ bankEnd) && decide (bankOf (d.g BLW_CQ_BASE (d.g BLW_WQ_CFG.CQ (m.wq.getD 0).toNat) * 64 + d.g BLW_CQ_PI (d.g BLW_WQ_CFG.CQ (m.wq.getD 0).toNat) * 32 + 32 - 1) = bankOf (d.g BLW_CQ_BASE (d.g BLW_WQ_CFG.CQ (m.wq.getD 0).toNat) * 64 + d.g BLW_CQ_PI (d.g BLW_WQ_CFG.CQ (m.wq.getD 0).toNat) * 32)) && decide (d.bankMay 18 (bankOf (d.g BLW_CQ_BASE (d.g BLW_WQ_CFG.CQ (m.wq.getD 0).toNat) * 64 + d.g BLW_CQ_PI (d.g BLW_WQ_CFG.CQ (m.wq.getD 0).toNat) * 32)) true = true) | _ => false) = true) | _ => false) = true) ∧
    ((match w8.dev.takePkt fun h => decide (h.op = xNAK) with | (d, some g) => decide (answerChecks d g.h = none) && decide (d.blw.outcomes = []) && decide (d.blw.cqWait = []) && decide (d.bnk.hand = []) && decide (d.bnk.poison = []) && decide (g.h.aux = 1) && decide ((match d.named g.h with | some m => decide (m.kind = MsgKind.queue) && decide (d.g BLW_WQ_CFG.CQ (m.wq.getD 0).toNat < 64) && decide (d.on BLW_CQ_CFG.EN (d.g BLW_WQ_CFG.CQ (m.wq.getD 0).toNat) = true) && decide (1 ≤ d.g BLW_CQ_CFG.DEPTH (d.g BLW_WQ_CFG.CQ (m.wq.getD 0).toNat)) && decide (d.g BLW_CQ_CFG.DEPTH (d.g BLW_WQ_CFG.CQ (m.wq.getD 0).toNat) ≤ 12) && decide (d.on BLW_CQ_CFG.NOTIFY (d.g BLW_WQ_CFG.CQ (m.wq.getD 0).toNat) = false) && decide (d.cqRoom (d.g BLW_WQ_CFG.CQ (m.wq.getD 0).toNat) = true) && decide (d.g BLW_CQ_BASE (d.g BLW_WQ_CFG.CQ (m.wq.getD 0).toNat) * 64 + d.g BLW_CQ_PI (d.g BLW_WQ_CFG.CQ (m.wq.getD 0).toNat) * 32 + 32 ≤ bankEnd) && decide (bankOf (d.g BLW_CQ_BASE (d.g BLW_WQ_CFG.CQ (m.wq.getD 0).toNat) * 64 + d.g BLW_CQ_PI (d.g BLW_WQ_CFG.CQ (m.wq.getD 0).toNat) * 32 + 32 - 1) = bankOf (d.g BLW_CQ_BASE (d.g BLW_WQ_CFG.CQ (m.wq.getD 0).toNat) * 64 + d.g BLW_CQ_PI (d.g BLW_WQ_CFG.CQ (m.wq.getD 0).toNat) * 32)) && decide (d.bankMay 18 (bankOf (d.g BLW_CQ_BASE (d.g BLW_WQ_CFG.CQ (m.wq.getD 0).toNat) * 64 + d.g BLW_CQ_PI (d.g BLW_WQ_CFG.CQ (m.wq.getD 0).toNat) * 32)) true = true) && decide ((match List.find? (fun x => decide (x.psn = g.h.psn)) m.pkts with | some p => true | _ => false) = true) | _ => false) = true) | _ => false) = true) ∧
    ((match w9.dev.takePkt fun h => decide (h.op = xNAK) with | (d, some g) => decide (answerChecks d g.h = none) && decide (d.blw.outcomes = []) && decide (d.blw.cqWait = []) && decide (d.bnk.hand = []) && decide (d.bnk.poison = []) && decide (g.h.aux = 3) && decide ((match d.named g.h with | some m => decide (m.kind = MsgKind.queue) && decide (d.g BLW_WQ_CFG.CQ (m.wq.getD 0).toNat < 64) && decide (d.on BLW_CQ_CFG.EN (d.g BLW_WQ_CFG.CQ (m.wq.getD 0).toNat) = true) && decide (1 ≤ d.g BLW_CQ_CFG.DEPTH (d.g BLW_WQ_CFG.CQ (m.wq.getD 0).toNat)) && decide (d.g BLW_CQ_CFG.DEPTH (d.g BLW_WQ_CFG.CQ (m.wq.getD 0).toNat) ≤ 12) && decide (d.on BLW_CQ_CFG.NOTIFY (d.g BLW_WQ_CFG.CQ (m.wq.getD 0).toNat) = false) && decide (d.cqRoom (d.g BLW_WQ_CFG.CQ (m.wq.getD 0).toNat) = true) && decide (d.g BLW_CQ_BASE (d.g BLW_WQ_CFG.CQ (m.wq.getD 0).toNat) * 64 + d.g BLW_CQ_PI (d.g BLW_WQ_CFG.CQ (m.wq.getD 0).toNat) * 32 + 32 ≤ bankEnd) && decide (bankOf (d.g BLW_CQ_BASE (d.g BLW_WQ_CFG.CQ (m.wq.getD 0).toNat) * 64 + d.g BLW_CQ_PI (d.g BLW_WQ_CFG.CQ (m.wq.getD 0).toNat) * 32 + 32 - 1) = bankOf (d.g BLW_CQ_BASE (d.g BLW_WQ_CFG.CQ (m.wq.getD 0).toNat) * 64 + d.g BLW_CQ_PI (d.g BLW_WQ_CFG.CQ (m.wq.getD 0).toNat) * 32)) && decide (d.bankMay 18 (bankOf (d.g BLW_CQ_BASE (d.g BLW_WQ_CFG.CQ (m.wq.getD 0).toNat) * 64 + d.g BLW_CQ_PI (d.g BLW_WQ_CFG.CQ (m.wq.getD 0).toNat) * 32)) true = true) && decide ((match List.find? (fun x => decide (x.psn = g.h.psn)) m.pkts with | some p => true | _ => false) = true) | _ => false) = true) | _ => false) = true) ∧
    ((match w10.dev.takePkt fun h => decide (h.op = xRESP) with | (d, some g) => decide (answerChecks d g.h = none) && decide (d.blw.outcomes = []) && decide (d.blw.cqWait = []) && decide (d.bnk.hand = []) && decide (d.bnk.poison = []) && decide ((match d.named g.h with | some m => decide (m.kind = MsgKind.queue) && decide (d.g BLW_WQ_CFG.CQ (m.wq.getD 0).toNat < 64) && decide (d.on BLW_CQ_CFG.EN (d.g BLW_WQ_CFG.CQ (m.wq.getD 0).toNat) = true) && decide (1 ≤ d.g BLW_CQ_CFG.DEPTH (d.g BLW_WQ_CFG.CQ (m.wq.getD 0).toNat)) && decide (d.g BLW_CQ_CFG.DEPTH (d.g BLW_WQ_CFG.CQ (m.wq.getD 0).toNat) ≤ 12) && decide (d.on BLW_CQ_CFG.NOTIFY (d.g BLW_WQ_CFG.CQ (m.wq.getD 0).toNat) = false) && decide (d.cqRoom (d.g BLW_WQ_CFG.CQ (m.wq.getD 0).toNat) = true) && decide (d.g BLW_CQ_BASE (d.g BLW_WQ_CFG.CQ (m.wq.getD 0).toNat) * 64 + d.g BLW_CQ_PI (d.g BLW_WQ_CFG.CQ (m.wq.getD 0).toNat) * 32 + 32 ≤ bankEnd) && decide (bankOf (d.g BLW_CQ_BASE (d.g BLW_WQ_CFG.CQ (m.wq.getD 0).toNat) * 64 + d.g BLW_CQ_PI (d.g BLW_WQ_CFG.CQ (m.wq.getD 0).toNat) * 32 + 32 - 1) = bankOf (d.g BLW_CQ_BASE (d.g BLW_WQ_CFG.CQ (m.wq.getD 0).toNat) * 64 + d.g BLW_CQ_PI (d.g BLW_WQ_CFG.CQ (m.wq.getD 0).toNat) * 32)) && decide (d.bankMay 18 (bankOf (d.g BLW_CQ_BASE (d.g BLW_WQ_CFG.CQ (m.wq.getD 0).toNat) * 64 + d.g BLW_CQ_PI (d.g BLW_WQ_CFG.CQ (m.wq.getD 0).toNat) * 32)) true = true) && decide (m.desc.isAtomic = true) | _ => false) = true) | _ => false) = true) ∧
    ((match w11.dev.takePkt fun h => decide (h.op = xRESP) with | (d, some g) => decide (answerChecks d g.h = none) && decide (d.blw.outcomes = []) && decide (d.blw.cqWait = []) && decide (d.bnk.hand = []) && decide (d.bnk.poison = []) && decide (g.h.psn = 0) && decide (g.h.addr = 0) && decide (g.body.length = g.h.plen) && decide (d.bnk.hand = []) && decide (d.bnk.poison = []) && decide ((match d.named g.h with | some m => decide (m.kind = MsgKind.queue) && decide (d.g BLW_WQ_CFG.CQ (m.wq.getD 0).toNat < 64) && decide (d.on BLW_CQ_CFG.EN (d.g BLW_WQ_CFG.CQ (m.wq.getD 0).toNat) = true) && decide (1 ≤ d.g BLW_CQ_CFG.DEPTH (d.g BLW_WQ_CFG.CQ (m.wq.getD 0).toNat)) && decide (d.g BLW_CQ_CFG.DEPTH (d.g BLW_WQ_CFG.CQ (m.wq.getD 0).toNat) ≤ 12) && decide (d.on BLW_CQ_CFG.NOTIFY (d.g BLW_WQ_CFG.CQ (m.wq.getD 0).toNat) = false) && decide (d.cqRoom (d.g BLW_WQ_CFG.CQ (m.wq.getD 0).toNat) = true) && decide (d.g BLW_CQ_BASE (d.g BLW_WQ_CFG.CQ (m.wq.getD 0).toNat) * 64 + d.g BLW_CQ_PI (d.g BLW_WQ_CFG.CQ (m.wq.getD 0).toNat) * 32 + 32 ≤ bankEnd) && decide (bankOf (d.g BLW_CQ_BASE (d.g BLW_WQ_CFG.CQ (m.wq.getD 0).toNat) * 64 + d.g BLW_CQ_PI (d.g BLW_WQ_CFG.CQ (m.wq.getD 0).toNat) * 32 + 32 - 1) = bankOf (d.g BLW_CQ_BASE (d.g BLW_WQ_CFG.CQ (m.wq.getD 0).toNat) * 64 + d.g BLW_CQ_PI (d.g BLW_WQ_CFG.CQ (m.wq.getD 0).toNat) * 32)) && decide (d.bankMay 18 (bankOf (d.g BLW_CQ_BASE (d.g BLW_WQ_CFG.CQ (m.wq.getD 0).toNat) * 64 + d.g BLW_CQ_PI (d.g BLW_WQ_CFG.CQ (m.wq.getD 0).toNat) * 32)) true = true) && decide (m.desc.op = xREAD) && decide (m.count = 1) && decide (m.acked = []) && decide (g.h.plen = m.desc.len) && decide (m.desc.len ≤ m.mtu) && decide (1 ≤ m.desc.len) && decide (m.desc.laddr + m.desc.len ≤ bankEnd) && decide (bankOf (m.desc.laddr + m.desc.len - 1) = bankOf m.desc.laddr) && decide (d.bankMay 18 (bankOf m.desc.laddr) true = true) && decide (m.desc.signal = false) | _ => false) = true) | _ => false) = true) := by
  decide +kernel
end C13b

/-! ### The target -/

namespace C13c
def wB (b : Blw → Blw) (x : State) : State := { x with dev := { x.dev with blw := b x.dev.blw } }
def wS (f : Fld) (v i : Nat) (x : State) : State := { x with dev := x.dev.s f v i }
def st := wS BLW_NODE 5 0 run0
def key (src own : Nat) : State := wS BNK_OWN.OWN own 0 <| wS BLW_KEYSRC src 0 st

def w0 : State :=
  wB (fun b => { b with keys := setAt b.keys 3 (some [1]) }) (wS BLW_KEYSLOT.VALID 1 3 (wS BLW_KEYARG.EPOCH 7 0 (wS BLW_KEYSLOT.EPOCH 6 3 st)))
def w1 : State :=
  wS BLW_CTL.EN 1 0 st
def w2 : State :=
  key 256 18
def w3 : State :=
  key 32764 19
theorem witness_FabricIsGuardedByRegisters_1 :
    (run0.dev.node = 4095) ∧
    (run0.dev.mayWrite Agent.mgmt 98304 = true) ∧
    (w0.dev.node ≠ 4095) ∧
    (w0.dev.on BLW_CTL.EN = false) ∧
    (w0.dev.mayWrite Agent.mgmt 98304 = true) ∧
    (w1.dev.on BLW_CTL.EN = true) ∧
    (w1.dev.blw.outcomes = []) ∧
    (w1.dev.mayWrite Agent.mgmt 98304 = true) ∧
    (w2.dev.g BLW_KEYSRC * 16 + 79 < bankEnd) ∧
    (bankOf (w2.dev.g BLW_KEYSRC * 16 + 79) = bankOf (w2.dev.g BLW_KEYSRC * 16)) ∧
    (w2.dev.g BNK_OWN.OWN (bankOf (w2.dev.g BLW_KEYSRC * 16)) ∈ [18, 19, 20]) ∧
    (fieldAt (memBytes w2.dev.bnk.mem (w2.dev.g BLW_KEYSRC * 16) 80) 0 1 < 16) ∧
    (fieldAt (memBytes w2.dev.bnk.mem (w2.dev.g BLW_KEYSRC * 16) 80) 1 1 = 0) ∧
    (fieldAt (memBytes w2.dev.bnk.mem (w2.dev.g BLW_KEYSRC * 16) 80) 4 4 = 0) ∧
    (fieldAt (memBytes w2.dev.bnk.mem (w2.dev.g BLW_KEYSRC * 16) 80) 14 2 = 0) ∧
    (fieldAt (memBytes w2.dev.bnk.mem (w2.dev.g BLW_KEYSRC * 16) 80) 28 4 = 0) ∧
    (w2.dev.protDead (1152 + fieldAt (memBytes w2.dev.bnk.mem (w2.dev.g BLW_KEYSRC * 16) 80) 0 1) = false) ∧
    (fieldAt (memBytes w2.dev.bnk.mem (w2.dev.g BLW_KEYSRC * 16) 80) 0 1 < w2.dev.blw.keys.length) := by
  decide +kernel
theorem witness_FabricIsGuardedByRegisters_2 :
    (¬(w0.dev.g BLW_KEYSRC * 16 + 79 < bankEnd ∧ bankOf (w0.dev.g BLW_KEYSRC * 16 + 79) = bankOf (w0.dev.g BLW_KEYSRC * 16) ∧ w0.dev.g BNK_OWN.OWN (bankOf (w0.dev.g BLW_KEYSRC * 16)) ∈ [18, 19, 20])) ∧
    (newerSeq 16 (w0.dev.g BLW_KEYARG.EPOCH) (w0.dev.g BLW_KEYSLOT.EPOCH (15 : BitVec 4).toNat) = true) ∧
    (w3.dev.mayWrite Agent.mgmt 98304 = true) ∧
    (newerSeq 16 (w3.dev.g BLW_KEYARG.EPOCH) (w3.dev.g BLW_KEYSLOT.EPOCH (15 : BitVec 4).toNat) = false) ∧
    (w0.dev.protDead (w0.dev.g BLW_MRIDX) = false) ∧
    ((4294967294#32).getLsbD 0 = false ∨ regionFits (BitVec.toNat (w0.dev.region (w0.dev.g BLW_MRIDX)).base) (BitVec.toNat (w0.dev.region (w0.dev.g BLW_MRIDX)).len) = true) ∧
    (regionFits (BitVec.toNat (w0.dev.region (w0.dev.g BLW_MRIDX)).base) (BitVec.toNat (w0.dev.region (w0.dev.g BLW_MRIDX)).len) = false) ∧
    ((4294967295#32).getLsbD 0 = true) := by
  decide +kernel
/-- The two clauses on an entry in a bank part on whether it opens under the wrapping key, which the spec's device keeps secret. -/
theorem witness_FabricIsGuardedByRegisters_opened :
    ∀ o : Option (List Byte), (∃ key, o = some key) ∨ o = none := by
  intro o; cases o <;> simp
end C13c

/-! ### USB and UARTs -/

namespace C14
def D := run0.dev
def md (d : Dev) : State := { run0 with dev := d }
def us (st conn : Nat) : Dev := (((D.s USB_STAT.STATE st).s USB_STAT.CONN conn).s USB_CTL.EN 1).s USB_STAT.VBUS conn
def s3 : Dev := { (us 3 1) with usb := { D.usb with outCh := 2, inCh := 4 } }
def s4 (p : Nat) (r : Option (BitVec 4)) (k : Bool) : Dev := { (us 4 1) with usb := { D.usb with prior := BitVec.ofNat 3 p, rwReason := r, drivingK := k } }

def w0 : State :=
  md ((us 0 0).s USB_ACFG.OUTCH 40)
def w1 : State :=
  md (s4 1 (some 3) true)
def w2 : State :=
  md (us 2 1)
def w3 : State :=
  md s3
def w4 : State :=
  md (s4 2 (some 3) false)
theorem witness_UsbAttachesAndSleeps_1 :
    (w0.dev.running = true) ∧
    (w0.dev.on USB_CTL.EN = true) ∧
    (w0.dev.on USB_STAT.CONN = false) ∧
    (w1.dev.boot.upd = none) ∧
    (w1.dev.on USB_STAT.CONN = true) ∧
    (w1.dev.brtSrc ≠ srcUSB) ∧
    (w1.dev.mode ≠ mIDLE) ∧
    (w1.dev.mode ≠ mDORMANT) ∧
    (w1.dev.pwr.entering = none) ∧
    (w2.dev.usbState = 1 ∨ w2.dev.usbState = 2) ∧
    (w3.dev.usbState = 2 ∨ w3.dev.usbState = 3) ∧
    (2 ≤ (255 : BitVec 8).toNat) ∧
    (w3.dev.usbState = 3) ∧
    (w3.dev.usb.outCh ≠ 0) ∧
    ((1 : BitVec 8).toNat < 2) ∧
    (w3.dev.usb.inCh ≠ 0) ∧
    (4 < (255 : BitVec 8).toNat) ∧
    (ClockReq.setCur 48000 ∈ [ClockReq.getCur, ClockReq.setCur w3.dev.fs]) ∧
    (65535 ≠ w3.dev.fs) ∧
    (w3.dev.usbLive = true) ∧
    (w3.dev.g PWR_CTL.SUSPM = 0) ∧
    (w3.dev.brtSrc ≠ srcUSB) := by
  decide +kernel
theorem witness_UsbAttachesAndSleeps_2 :
    (w1.dev.usbState = 4) ∧
    (w1.dev.usb.prior.toNat ≤ 3) ∧
    (w1.dev.usb.rwReason.isSome = true) ∧
    (w4.dev.usbState = 4) ∧
    (w4.dev.mode ≠ mIDLE) ∧
    (w4.dev.mode ≠ mDORMANT) ∧
    (w4.dev.pwr.entering = none) ∧
    (w4.dev.usb.prior.toNat ≤ 3) ∧
    (w4.dev.usb.drivingK = false) ∧
    ((match w4.dev.usb.rwReason with | some r => true | _ => false) = true) := by
  decide +kernel
end C14

/-! ### USB and UARTs -/

namespace C14b
def D := run0.dev
def md (d : Dev) : State := { run0 with dev := d }
def us (st conn : Nat) : Dev := (((D.s USB_STAT.STATE st).s USB_STAT.CONN conn).s USB_CTL.EN 1).s USB_STAT.VBUS conn
def s3 : Dev := { ((us 3 1).s USB_STAT.SPEED 2).s USB_STAT.AOUT 0 with usb := { D.usb with outCh := 2, inCh := 4, sof := List.replicate 65 (0xF0000000), inFrames := [[1]] } }
def alt (a : Nat) : Dev := { s3 with usb := { s3.usb with altPend := [(1, BitVec.ofNat 8 a)] } }
def fb : Dev := { s3.s USB_STAT.AOUT 1 with usb := { s3.usb with sofs := 7 } }
def part (k : Nat) (d : Dev) : Dev := d
def m1 : Dev := { (s3.s USB_STAT.MALT 1).s MIDI_SYX.EN 1 |>.s EVS_CTL.JREN 1 |>.s EVS_CTL.JRDLY 77 with usb := { s3.usb with notices := List.replicate 9 5 } }
def bound : Dev := { m1 with val := { D.val with part := sput 0 (5 * 8) (BitVec.ofNat 32 (1 + 255 * 256 + 16 * 65536 + 16 * 2^24)) D.val.part } }

def w0 : State :=
  md (bound.s USB_STAT.MALT 0)
def w1 : State :=
  md (alt 0)
def w2 : State :=
  md fb
def w3 : State :=
  md (s3.s USB_STAT.AOUT 1)
def w4 : State :=
  md (s3.s USB_STAT.AIN 1)
def w5 : State :=
  md bound
theorem witness_UsbCarriesAudioAndMidi_1 :
    (w0.dev.usbState = 3) ∧
    (w0.dev.running = true) ∧
    (w0.dev.on BRT_STAT.RUNNING = true) ∧
    (w0.dev.brtSrc ≠ srcUSB) ∧
    (w0.dev.usb.fifo = []) ∧
    (w0.dev.usb.next = none) ∧
    (w0.dev.usb.altPend = []) ∧
    (w0.dev.on USB_STAT.AOUT = false) ∧
    (w1.dev.usbState = 3) ∧
    (w1.dev.running = true) ∧
    (w1.dev.on BRT_STAT.RUNNING = true) ∧
    (w1.dev.brtSrc ≠ srcUSB) ∧
    (w1.dev.usb.fifo = []) ∧
    (w1.dev.usb.next = none) ∧
    (w1.dev.g USB_STAT.SPEED = 2) ∧
    ((w1.dev.usb.sofs + 1) % 8 ≠ 0) ∧
    ((match w1.dev.usb.altPend with | [(1, a)] => decide (BitVec.toNat a < 2) | _ => false) = true) := by
  decide +kernel
theorem witness_UsbCarriesAudioAndMidi_2 :
    (w2.dev.usbState = 3) ∧
    (w2.dev.running = true) ∧
    (w2.dev.on BRT_STAT.RUNNING = true) ∧
    (w2.dev.brtSrc ≠ srcUSB) ∧
    (w2.dev.usb.fifo = []) ∧
    (w2.dev.usb.next = none) ∧
    (w2.dev.usb.altPend = []) ∧
    (w2.dev.on USB_STAT.AOUT = true) ∧
    (w2.dev.g USB_STAT.SPEED = 2) ∧
    ((w2.dev.usb.sofs + 1) % 8 = 0) ∧
    ((match w2.dev.usb.sof[63]? with | some old => true | _ => false) = true) ∧
    (w3.dev.usbState = 3) ∧
    (w3.dev.running = true) ∧
    (w3.dev.on BRT_STAT.RUNNING = true) ∧
    (w3.dev.on USB_STAT.AOUT = true) ∧
    (1 ≤ w3.dev.usb.outCh) ∧
    ([7#8, 7#8, 7#8, 7#8, 7#8, 7#8, 7#8].length % (4 * w3.dev.usb.outCh) ≠ 0) ∧
    (w3.dev.usb.fifo = []) ∧
    (w3.dev.usb.next = none) ∧
    ([3#8, 3#8, 3#8, 3#8, 3#8, 3#8, 3#8, 3#8].length = 4 * w3.dev.usb.outCh) := by
  decide +kernel
theorem witness_UsbCarriesAudioAndMidi_3 :
    (w4.dev.usbState = 3) ∧
    (w4.dev.running = true) ∧
    (w4.dev.on BRT_STAT.RUNNING = true) ∧
    (w4.dev.on USB_STAT.AIN = true) ∧
    (w0.dev.room = true) ∧
    (w0.dev.g USB_STAT.MALT = 0) ∧
    (15 < 16) ∧
    ((match w0.dev.boundParts inUSB 15 15 with | [p] => decide (127 < 128) && decide (1 ≤ 127) && decide (127 < 128) | _ => false) = true) ∧
    (w5.dev.usbState = 3) ∧
    (w5.dev.running = true) ∧
    (w5.dev.on BRT_STAT.RUNNING = true) ∧
    (w5.dev.room = true) ∧
    (w5.dev.g USB_STAT.MALT = 1) ∧
    ((w5.dev.evs.jr.getD 15 JrAnchor.zero).next = none) ∧
    ((match w5.dev.boundParts inUSB 15 15 with | [p] => decide (127 < 128) && decide (65535 < 65536) | _ => false) = true) := by
  decide +kernel
theorem witness_UsbCarriesAudioAndMidi_4 :
    (w3.dev.room = true) ∧
    (w3.dev.g USB_STAT.MALT = 0) ∧
    ((48 : BitVec 32).toNat % 16 < 2) ∧
    ((1610612735 : BitVec 32).toNat / 2 ^ 28 = 5) ∧
    (w5.dev.on EVS_CTL.JREN = true) ∧
    (w5.dev.evs.jr.length = 16) ∧
    (w5.dev.evs.jr.getD (15 : BitVec 4).toNat JrAnchor.zero = JrAnchor.zero) ∧
    (w0.dev.on MIDI_SYX.EN = true) ∧
    (loadable (48 : BitVec 32).toNat = false) ∧
    (48#32 ≠ 1073876992) ∧
    (w0.dev.usb.notices ≠ []) := by
  decide +kernel
end C14b

/-! ### USB and UARTs -/

namespace C14c
def D := run0.dev
def md (d : Dev) : State := { run0 with dev := d }
def us (st conn : Nat) : Dev := (((D.s USB_STAT.STATE st).s USB_STAT.CONN conn).s USB_CTL.EN 1).s USB_STAT.VBUS conn
def v1 : Dev := { ((us 3 1).s BNK_OWN.OWN 20 0).s BLW_MRIDX 3 with boot := { D.boot with done := true }, bnk := { D.bnk with mem := [(5,7),(100,3)] } }
def con (f : List Byte) : Dev := { v1 with uart := v1.uart.modify 1 (fun u => { u with frame := f }) }

def w0 : State :=
  md (con ([165, 1, 2, 0, 1, 0] ++ [7, 7, 7, 7]))
def w1 : State :=
  md (con (consoleWrap 1 [1, 0]))
theorem witness_VendorCommandsAreAnswered_1 :
    (w0.dev.vendorUp = true) ∧
    (BitVec.toNat (w0.dev.reg BLW_MRIDX.base) < 1024) ∧
    ((1073844273 : BitVec 32).toNat % 4 ≠ 0) ∧
    (w0.dev.bnk.hand = []) ∧
    (w0.dev.bnk.poison = []) ∧
    ((262140 : BitVec 32).toNat < bankEnd) ∧
    (w0.dev.bankMay 20 (bankOf (262140 : BitVec 32).toNat) true = true) ∧
    (memRange (262140 : BitVec 32).toNat (4 : BitVec 32).toNat = true) ∧
    ([7#8, 7#8, 7#8, 7#8].length = (4 : BitVec 32).toNat) ∧
    (w0.dev.lockUp = true) ∧
    (w0.dev.boot.done = true) ∧
    (w1.dev.on UART_CTL.MODE 1 = false) ∧
    (w1.dev.lockUp = true) ∧
    (w1.dev.boot.done = true) ∧
    (w1.dev.uart.length = 2) ∧
    ((w1.dev.ser 1).frame = consoleWrap 1 [1, 0]) := by
  decide +kernel
theorem witness_VendorCommandsAreAnswered_2 :
    (w0.dev.on UART_CTL.MODE 1 = false) ∧
    (w0.dev.uart.length = 2) ∧
    ([7#8, 7#8, 7#8, 7#8].length = 4) ∧
    ([7#8, 7#8, 7#8, 7#8] ≠ leBytes 4 (crc32 [1, 2, 0, 1, 0])) ∧
    ((w0.dev.ser 1).frame = [165, 1, 2, 0, 1, 0] ++ [7#8, 7#8, 7#8, 7#8]) := by
  decide +kernel
end C14c

/-! ### USB and UARTs -/

namespace C14d
def D := run0.dev
def md (d : Dev) : State := { run0 with dev := d }
def ru : Dev := [0,1].foldl (fun d n => ((((d.s UART_CTL.RXEN 1 n).s UART_CTL.TXEN 1 n).s UART_CTL.DBITS 1 n))) D
def md1 (d : Dev) (n : Nat) : Dev := d.s UART_CTL.MODE 1 n
def setU (d : Dev) (f : Uart → Uart) : Dev := { d with uart := d.uart.map f }
def full : Dev := setU (md1 (md1 ru 0) 1) (fun u => { u with rx := List.replicate 16 7, tx := List.replicate 16 9, fe := true, seen := 5, oe := true })
def nt : Dev := { setU ru (fun u => { u with status := some 0x93, data := [60] }) with val := { D.val with part := sput 0 (5 * 8) (BitVec.ofNat 32 (1 + 255 * 256 + 16 * 65536 + 16 * 2^24)) D.val.part } }

def w0 : State :=
  md (setU ru fun u => { u with tx := [4, 5] })
def w1 : State :=
  md nt
def w2 : State :=
  md (setU (md1 (md1 ru 0) 1) fun u => { u with rx := [4, 5] })
def w3 : State :=
  md full
theorem witness_UartsReceiveAndSend_1 :
    (w0.dev.running = true) ∧
    (w0.dev.pwr.entering = none) ∧
    (w0.dev.uart.length = 2) ∧
    (w0.dev.on UART_CTL.RXEN = true) ∧
    (w0.dev.on UART_CTL.MODE = false) ∧
    (w0.dev.on HRP_WAKE.MIDI = false) ∧
    (w0.dev.on USB_RWEN.MIDI = false) ∧
    ((0 : BitVec 1).toNat = 0) ∧
    (128 ≤ (239 : BitVec 8).toNat) ∧
    ((239 : BitVec 8).toNat < 240) ∧
    ((w0.dev.ser (0 : BitVec 1).toNat).syx = none) ∧
    ((w0.dev.ser (0 : BitVec 1).toNat).status = none) ∧
    ((127 : BitVec 8).toNat < 128) := by
  decide +kernel
theorem witness_UartsReceiveAndSend_2 :
    (w1.dev.running = true) ∧
    (w1.dev.pwr.entering = none) ∧
    (w1.dev.uart.length = 2) ∧
    (w1.dev.on UART_CTL.RXEN = true) ∧
    (w1.dev.on UART_CTL.MODE = false) ∧
    (w1.dev.on HRP_WAKE.MIDI = false) ∧
    (w1.dev.on USB_RWEN.MIDI = false) ∧
    ((w1.dev.ser (0 : BitVec 1).toNat).syx = none) ∧
    ((match (w1.dev.ser (0 : BitVec 1).toNat).status with | some b => decide (144 ≤ BitVec.toNat b) && decide (BitVec.toNat b < 160) && decide ((match (w1.dev.ser (0 : BitVec 1).toNat).data with | [note] => decide (BitVec.toNat note < 128) && decide ((match w1.dev.boundParts inUART 0 (BitVec.toNat b % 16) with | [k] => decide (0 < (127 : BitVec 8).toNat) && decide ((127 : BitVec 8).toNat < 128) && decide (w1.dev.canTake (roariOf 0 opNOTE_ON k (BitVec.toNat note * 512) (widen7 (127 : BitVec 8).toNat) (BitVec.toNat note * 512)) = true) | _ => false) = true) | _ => false) = true) | _ => false) = true) ∧
    (w2.dev.running = true) ∧
    (w2.dev.pwr.entering = none) ∧
    (w2.dev.uart.length = 2) ∧
    (w2.dev.on UART_CTL.RXEN (1 : BitVec 1).toNat = true) ∧
    (w2.dev.on UART_CTL.MODE (1 : BitVec 1).toNat = true) ∧
    (w2.dev.on UART_CTL.DBITS (1 : BitVec 1).toNat = true) ∧
    ((w2.dev.ser (1 : BitVec 1).toNat).rx.length < 16) := by
  decide +kernel
theorem witness_UartsReceiveAndSend_3 :
    (w3.dev.running = true) ∧
    (w3.dev.pwr.entering = none) ∧
    (w3.dev.uart.length = 2) ∧
    (w3.dev.on UART_CTL.RXEN (1 : BitVec 1).toNat = true) ∧
    (w3.dev.on UART_CTL.MODE (1 : BitVec 1).toNat = true) ∧
    (w3.dev.on UART_CTL.DBITS (1 : BitVec 1).toNat = true) ∧
    (16 ≤ (w3.dev.ser (1 : BitVec 1).toNat).rx.length) ∧
    ((match (w2.dev.ser (1 : BitVec 1).toNat).rx with | b :: l => true | _ => false) = true) ∧
    ((1 : BitVec 1).toNat = 0 ∨ w2.dev.on UART_CTL.MODE (1 : BitVec 1).toNat = true) ∧
    ((w2.dev.ser (1 : BitVec 1).toNat).tx.length < 16) ∧
    (w2.dev.mayWrite Agent.mgmt 124936 = true) ∧
    ((1 : BitVec 1).toNat = 0 ∨ w3.dev.on UART_CTL.MODE (1 : BitVec 1).toNat = true) ∧
    (16 ≤ (w3.dev.ser (1 : BitVec 1).toNat).tx.length) ∧
    (w3.dev.mayWrite Agent.mgmt 124936 = true) := by
  decide +kernel
theorem witness_UartsReceiveAndSend_4 :
    (w0.dev.on UART_CTL.TXEN (1 : BitVec 1).toNat = true) ∧
    ((match (w0.dev.ser (1 : BitVec 1).toNat).tx with | b :: l => true | _ => false) = true) := by
  decide +kernel
end C14d

/-! ### The host port -/

namespace C15
def D := run0.dev
def md (m : Nat) (d : Dev) : State := { run0 with dev := d.s SYS_MODE.MODE m }
def g1 : GroupSt := { (GroupSt.reset 16) with words := (List.range 16).map (BitVec.ofNat 32 <| 0x10001 * ·), rdy := true, count := 7 }
def h1 : State := md 2 { D with hrp := { D.hrp with groups := [g1, g1, g1, g1, g1], held := some (0x19030, 0x123) } }
def h2 : State := md 4 { (D.s BLW_MRIDX 5) with hrp := { D.hrp with groups := (List.replicate 5 { g1 with locked := true, pend := some (g1.words.map (· + 1), 8, 0) }), snapTag := some 0x19030, snap := 0x55, held := some (4, 9) } }
def h3 : State := md 2 ((D.s BLW_TXPKT 77).s EVS_LATE 5)

def w0 : State :=
  md 1 D
def w1 : State :=
  md 6 D
theorem witness_HostReadsAndWritesHalves_1 :
    (w0.dev.hostUp = true) ∧
    (w0.dev.on HRP_WAKE.HSLEEP = false) ∧
    (w0.dev.on HRP_WAKE.DWAKE = false) ∧
    (w0.dev.hrp.groups.length = 5) ∧
    (mapped ((129600 : BitVec 21).toNat / 4 * 4) = true) ∧
    (isMbx ((129600 : BitVec 21).toNat / 4 * 4) = false) ∧
    (isUartData ((129600 : BitVec 21).toNat / 4 * 4) = false) ∧
    ((129600 : BitVec 21).toNat / 4 * 4 ≠ 129088) ∧
    ((129600 : BitVec 21).toNat / 4 * 4 ≠ 129092) ∧
    ((98368 : BitVec 21).toNat / 4 * 4 = BLW_TXPKT.base) ∧
    (w0.dev.snap64 ((129600 : BitVec 21).toNat / 4 * 4) = none) ∧
    (h1.dev.hostUp = true) ∧
    (h1.dev.on HRP_WAKE.HSLEEP = false) ∧
    (h1.dev.on HRP_WAKE.DWAKE = false) ∧
    (h1.dev.hrp.groups.length = 5) ∧
    (h1.dev.running = true) ∧
    ((102450 : BitVec 21).toNat / 4 * 4 = BLW_MRIDX.base) ∧
    (h1.dev.hrp.held.map (·.1) = some (BitVec.ofNat 21 ((102450 : BitVec 21).toNat / 4 * 4))) ∧
    (h3.dev.hostUp = true) ∧
    (h3.dev.on HRP_WAKE.HSLEEP = false) ∧
    (h3.dev.on HRP_WAKE.DWAKE = false) ∧
    (h3.dev.hrp.groups.length = 5) ∧
    (h3.dev.running = true) ∧
    (h3.dev.hrp.held = none) ∧
    ((98544 : BitVec 21).toNat / 4 * 4 < 1048576) ∧
    (mapped ((98544 : BitVec 21).toNat / 4 * 4) = false) ∧
    (3#2 ≠ 0) ∧
    (h2.dev.hostUp = true) ∧
    (h2.dev.on HRP_WAKE.HSLEEP = false) ∧
    (h2.dev.on HRP_WAKE.DWAKE = false) ∧
    (h2.dev.hrp.groups.length = 5) ∧
    ((h2.dev.grp (Group.idx Group.selftest)).locked = true) ∧
    ((match (h2.dev.grp (Group.idx Group.selftest)).pend with | some r => true | _ => false) = true) := by
  decide +kernel
theorem witness_HostReadsAndWritesHalves_2 :
    (w1.dev.mode = mIDLE ∨ w1.dev.mode = mDORMANT) ∧
    (Instr.hostHighHalfRead 129600#21 ∈ [Instr.hostLowHalfRead 129600#21, Instr.hostHighHalfRead 129600#21]) := by
  decide +kernel
end C15

/-! ### The host port -/

namespace C15b
def D := run0.dev
def md (m : Nat) (d : Dev) : State := { run0 with dev := d.s SYS_MODE.MODE m }
def full : Dev := { D with hrp := { D.hrp with mbx := List.replicate 512 (roariBytes (List.replicate 16 0)), wbuf := List.replicate 16 ⟨4, [(4,5),(5,6)], false⟩ } }
def h2 : State := md 2 full
def h3 : State := md 4 { (((D.s BNK_OWN.OWN 19 0).s BNK_MODE.EST 0 0).s HRP_WAKE.HSLEEP 1) with not := { D.not with q := [5, 6] }, hrp := { D.hrp with fill := some 64, dwakePrep := some 3 } }
def h4 : State := md 4 { ((D.s BNK_OWN.OWN 19 0).s HRP_WAKE.DWAKE 1) with hrp := { D.hrp with line := some (64, List.replicate 64 9), wbuf := [⟨70, [(70,5),(71,6)], false⟩] }, bnk := { D.bnk with mem := [(65, 3),(70,8)] } }
def h5 : State := md 2 { D with not := { D.not with q := [5, 6] } }

theorem witness_MailboxApertureAndWakesWork_1 :
    (h5.dev.running = true) ∧
    (h5.dev.hrp.groups.length = 5) ∧
    (h5.dev.on HRP_WAKE.HSLEEP = false) ∧
    (h5.dev.on HRP_WAKE.DWAKE = false) ∧
    (h5.dev.hrp.mbxLatch.length = 16) ∧
    (5#3 ≠ 7) ∧
    (h5.dev.hrp.mbx.length < h5.dev.rowsLeft 5 512) ∧
    (h2.dev.running = true) ∧
    (h2.dev.hrp.groups.length = 5) ∧
    (h2.dev.on HRP_WAKE.HSLEEP = false) ∧
    (h2.dev.on HRP_WAKE.DWAKE = false) ∧
    (h2.dev.hrp.mbxLatch.length = 16) ∧
    (h2.dev.rowsLeft 5 512 ≤ h2.dev.hrp.mbx.length) ∧
    (apKind (h5.dev.apAddr ((4096 : BitVec 20).toNat / 2 * 2)) = 1 ∨ apKind (h5.dev.apAddr ((4096 : BitVec 20).toNat / 2 * 2)) = 2) ∧
    (h5.dev.hrp.wbuf.length < 16) ∧
    (h5.dev.hrp.line = none) ∧
    (h5.dev.hrp.fill = none) ∧
    (apKind (h5.dev.apAddr ((4096 : BitVec 20).toNat / 2 * 2)) ≠ 0) ∧
    (16 ≤ h2.dev.hrp.wbuf.length) ∧
    (apKind (h2.dev.apAddr ((4096 : BitVec 20).toNat / 2 * 2)) ≠ 0) ∧
    ((match h5.dev.not.q with | n :: q => true | _ => false) = true) ∧
    (h2.dev.not.q = []) ∧
    (h4.dev.running = true) ∧
    (h4.dev.hrp.groups.length = 5) ∧
    (h4.dev.bnk.hand = []) ∧
    (h4.dev.bnk.poison = []) ∧
    ((match h4.dev.hrp.wbuf with | e :: l => decide ((match Option.map (fun x => x.1) e.data.head? with | some a => decide (a + e.data.length ≤ bankEnd) && decide (bankOf (a + e.data.length - 1) = bankOf a) && decide (h4.dev.bankMay 19 (bankOf a) true = true) | _ => false) = true) | _ => false) = true) ∧
    (h3.dev.running = true) ∧
    (h3.dev.hrp.groups.length = 5) ∧
    (h3.dev.hrp.wbuf = []) ∧
    (h3.dev.hrp.fresh = []) ∧
    (h3.dev.bnk.hand = []) ∧
    (h3.dev.bnk.poison = []) ∧
    ((h3.dev.grp gAperture).locked = false) ∧
    ((match h3.dev.hrp.fill with | some row => decide (row % 64 = 0) && decide (row + 64 ≤ bankEnd) && decide (h3.dev.bankMay 19 (bankOf row) false = true) | _ => false) = true) ∧
    (h5.dev.mayWrite Agent.mgmt 129032 = true) ∧
    (h5.dev.pwr.entering = none) ∧
    (h5.dev.on USB_RWEN.HWAKE = false) ∧
    (h5.dev.hrp.dwakePrep = none) ∧
    (h4.dev.pwr.entering = none) := by
  decide +kernel
theorem witness_MailboxApertureAndWakesWork_2 :
    (h4.dev.on USB_RWEN.HWAKE = false) ∧
    (h4.dev.on HRP_WAKE.DWAKE = true) ∧
    (h4.dev.hrp.dwakePrep = none) ∧
    (h4.dev.not.q.length < h4.dev.rowsLeft 6 256) ∧
    (h4.dev.usbState = 0) ∧
    (h3.dev.on HRP_WAKE.HSLEEP = true) ∧
    (h3.dev.on HRP_WAKE.DWAKE = false) ∧
    ((match h3.dev.hrp.dwakePrep with | some r => true | _ => false) = true) := by
  decide +kernel
end C15b

/-! ### Timers and watchdog -/

namespace C16
def w1 : State := { run0 with dev := (run0.dev.s WDT_CTL.EN 1).s WDT_CTL.GRACE 7 }
def w2 : State := { w1 with dev := (w1.dev.s WDT_STAT.WARN 1) }
def w3 : State := { w1 with dev := (w1.dev.s WDT_STAT.WARN 1).s WDT_CTL.ACT 1 }
def w4 : State := { w3 with dev := (w3.dev.s WDT_CTL.LOCK 1) }

/-- Core 2 waits with its work done and may kick. -/
def w5 : State := { w1 with dev := ((w1.dev.s WDT_CTL.KSRC 1).s WDT_CTL.KCORE 2).setCore 2 { w1.dev.core 2 with waiting := true, done := true } }
theorem witness_WatchdogWarnsAndBites_kick :
    w1.dev.running = true ∧ w1.dev.on WDT_CTL.EN = true ∧ (5 : Half) ≠ 0xC35A ∧
    w5.dev.running = true ∧ w5.dev.on WDT_CTL.EN = true ∧ w5.dev.on WDT_CTL.KSRC = true ∧ w5.dev.g WDT_CTL.KCORE = (2 : BitVec 4).toNat ∧
    (w5.dev.core (2 : BitVec 4).toNat).waiting = true ∧ (w5.dev.core (2 : BitVec 4).toNat).done = true := by
  decide +kernel
theorem witness_WatchdogWarnsAndBites_stages :
    w1.dev.on WDT_STAT.WARN = false ∧
    w2.dev.running = true ∧ w2.dev.on WDT_CTL.EN = true ∧ w2.dev.on WDT_STAT.WARN = true ∧ w2.dev.on WDT_CTL.ACT = false ∧
    w3.dev.running = true ∧ w3.dev.on WDT_CTL.EN = true ∧ w3.dev.on WDT_STAT.WARN = true ∧ w3.dev.on WDT_CTL.ACT = true ∧
    w1.dev.mayWrite .host 0x1F200 = true ∧ w1.dev.on WDT_CTL.LOCK = false ∧ w1.dev.g WDT_CTL.GRACE ≠ 0 ∧ w4.dev.on WDT_CTL.LOCK = true := by
  decide +kernel
end C16

/-! ### Timers and watchdog -/

namespace C16b
def D := run0.dev
def t1 : State := run0
def t2 : State := { run0 with dev := ((List.range 8).foldl (fun d n => ((d.s TIM_CTL.EN 1 n).s TIM_STAT.RUN 1 n).s TIM_RLD (100+n) n) D) }
def t3 : State := { run0 with dev := ((List.range 8).foldl (fun d n => ((((((d.s TIM_CTL.EN 1 n).s TIM_STAT.RUN 1 n).s TIM_RLD (100+n) n).s TIM_CTL.IOMODE 1 n).s TIM_CTL.ZACT 3 n).s TIM_CTL.ONESHOT 1 n).s TIM_CTL.MACT 1 n |>.setTch n ⟨0,false,true,true⟩) D) }
def t4 : State := { run0 with dev := ((List.range 8).foldl (fun d n => ((((((d.s TIM_CTL.CSRC (n+1) n).s TIM_STAT.RUN 1 n).s TIM_MAT 7 n).s TIM_RLD 7 n).s TIM_STAT.CAPF 1 n).s TIM_CTL.CAPSEL (n%2) n)) D) }

theorem witness_TimersCountAndCapture :
    (t1.dev.running = true) ∧
    (t1.dev.tim.ch.length = 8) ∧
    (t1.dev.on TIM_CTL.EN (7 : BitVec 3).toNat = false) ∧
    (t1.dev.g TIM_CTL.IOMODE (7 : BitVec 3).toNat = 0) ∧
    (t1.dev.mayWrite Agent.mgmt 126976 = true) ∧
    (bitsOf (129 : BitVec 32).toNat 3 2 = 0) ∧
    (bitsOf (129 : BitVec 32).toNat 17 16 = 0) ∧
    (t1.dev.on TIM_CTL.NC (7 : BitVec 3).toNat = false) := by
  decide +kernel
theorem witness_TimersCountAndCapture_write :
    t2.dev.running = true ∧ t2.dev.tim.ch.length = 8 ∧ t2.dev.mayWrite .mgmt 126976 = true ∧ bitsOf (129 : BitVec 32).toNat 3 2 = 0 ∧
    t2.dev.on TIM_CTL.EN 7 = true ∧ t2.dev.g TIM_CTL.IOMODE 7 = 0 ∧ bitsOf (129 : BitVec 32).toNat 17 16 = 0 ∧
    bitsOf (0x10001 : BitVec 32).toNat 3 2 = 0 ∧ t2.dev.g TIM_CTL.EN 0 = bitsOf (0x10001 : BitVec 32).toNat 0 0 ∧ t2.dev.g TIM_CTL.IOMODE 0 = 0 ∧
    bitsOf (0x10001 : BitVec 32).toNat 17 16 ∈ [1, 2] ∧ bitsOf (0x20001 : BitVec 32).toNat 17 16 ∈ [1, 2] := by
  decide +kernel
theorem witness_TimersCountAndCapture_events :
    t2.dev.on TIM_STAT.RUN 7 = true ∧ t2.dev.g TIM_CTL.CLKSRC 7 = 0 ∧ t2.dev.g TIM_CNT 7 = 0 ∧ t2.dev.on TIM_CTL.NZ 7 = false ∧
    t2.dev.on TIM_CTL.ONESHOT 7 = false ∧ t2.dev.g TIM_CTL.CLKSRC 1 ≠ 1 ∧
    t3.dev.running = true ∧ t3.dev.tim.ch.length = 8 ∧ t3.dev.on TIM_STAT.RUN 0 = true ∧ t3.dev.g TIM_CTL.CLKSRC 0 = 0 ∧ t3.dev.g TIM_CNT 0 = 0 ∧
    t3.dev.on TIM_CTL.NZ 0 = false ∧ t3.dev.g TIM_CTL.CLKSRC 1 ≠ 1 ∧ t3.dev.on TIM_CTL.ONESHOT 0 = true ∧ t3.dev.g TIM_CTL.IOMODE 0 ≠ 0 ∧
    (t3.dev.tch 0).matchDue = true ∧ (t3.dev.tch 7).matchDue = true := by
  decide +kernel
theorem witness_TimersCountAndCapture_capture :
    t4.dev.running = true ∧ t4.dev.tim.ch.length = 8 ∧ t4.dev.g TIM_CTL.IOMODE 0 = 0 ∧ t4.dev.on TIM_CTL.NC 0 = false ∧
    t4.dev.g TIM_CTL.CSRC 0 = 1 ∧ (t4.dev.tch 0).pad = false ∧ t4.dev.on TIM_STAT.CAPF 0 = true ∧
    t4.dev.g TIM_CTL.IOMODE 6 = 0 ∧ t4.dev.on TIM_CTL.NC 6 = false ∧ t4.dev.g TIM_CTL.CSRC 6 = 7 ∧ t4.dev.on BRT_STAT.RUNNING = true ∧
    t4.dev.on BRT_STAT.PAUSE = false ∧ t4.dev.g TIM_CTL.CSRC 3 = 4 := by
  decide +kernel
end C16b

/-! ### Modes -/

namespace C17
def D := run0.dev
def md (m : Nat) (d : Dev) : State := { run0 with dev := d.s SYS_MODE.MODE m }
def pd : Pend := { word := roariBytes (List.replicate 16 0), at_ := 0, frac := 0, rank := 0, seq := 0, prio := 0, late := false, offered := false, spilled := false, notBefore := 0, node := none }
def sl (m : Nat) (e : Bool) : State := md 2 { D with pwr := { D.pwr with entering := some (BitVec.ofNat 3 m), entered := e }, evs := { D.evs with store := [pd] } }
def zz (m : Nat) : State := md m ((D.s PWR_STAT.PRIOR 3).s PWR_WAKEEN.USB 1)

def w0 : State :=
  md 2 (D.s PWR_VID.AUTO 0)
def w1 : State :=
  md 7 D
def w2 : State :=
  md 4 D
def w3 : State :=
  sl 6 false
def w4 : State :=
  sl 6 true
def w5 : State :=
 { (zz 6) with dev := (zz 6).dev.s PWR_CTL.RET 0 }
theorem witness_ModesChangeAsRequested_1 :
    (w0.dev.running = true) ∧
    (w0.dev.mayWrite Agent.mgmt 135168 = true) ∧
    ((Instr.reqLeave Agent.mgmt, 2) ∈ [(Instr.reqLeave Agent.mgmt, 2), (Instr.reqSafe Agent.mgmt, 4), (Instr.reqIdle Agent.mgmt, 5), (Instr.reqDormant Agent.mgmt, 6), (Instr.reqService Agent.mgmt, 7)]) ∧
    ((fun v =>       if w0.dev.on PWR_STAT.BUSY = true then 6       else         if             w0.dev.mode ∉               (fun v =>                   match v with                   | 2 => [mSAFE, mSERVICE]                   | 4 => [mRUN, mDEFAULTS, mSERVICE]                   | 7 => [mRUN, mDEFAULTS]                   | x => [mRUN, mDEFAULTS, mSAFE])                 v then           1         else if (fun v => v = 5 ∨ v = 6) v ∧ w0.dev.g BEL_STAT.MSTATE ≠ 2 then 2 else if (fun v => v = 5 ∨ v = 6) v ∧ w0.dev.g USB_STAT.STATE ∈ [1, 2, 3] then 3 else if (fun v => v = 5 ∨ v = 6) v ∧ w0.dev.boot.upd.isSome = true then 4 else if v = 7 ∧ (w0.dev.g LCK_STAT.SCOPES).testBit 0 = false then 5 else 0)     2 ≠   0) ∧
    (w1.dev.running = true) ∧
    ((fun v =>       if w1.dev.on PWR_STAT.BUSY = true then 6       else         if             w1.dev.mode ∉               (fun v =>                   match v with                   | 2 => [mSAFE, mSERVICE]                   | 4 => [mRUN, mDEFAULTS, mSERVICE]                   | 7 => [mRUN, mDEFAULTS]                   | x => [mRUN, mDEFAULTS, mSAFE])                 v then           1         else if (fun v => v = 5 ∨ v = 6) v ∧ w1.dev.g BEL_STAT.MSTATE ≠ 2 then 2 else if (fun v => v = 5 ∨ v = 6) v ∧ w1.dev.g USB_STAT.STATE ∈ [1, 2, 3] then 3 else if (fun v => v = 5 ∨ v = 6) v ∧ w1.dev.boot.upd.isSome = true then 4 else if v = 7 ∧ (w1.dev.g LCK_STAT.SCOPES).testBit 0 = false then 5 else 0)     2 =   0) ∧
    (w1.dev.mode = mSERVICE) ∧
    (w1.dev.mayWrite Agent.mgmt 135168 = true) ∧
    (w2.dev.running = true) ∧
    ((fun v =>       if w2.dev.on PWR_STAT.BUSY = true then 6       else         if             w2.dev.mode ∉               (fun v =>                   match v with                   | 2 => [mSAFE, mSERVICE]                   | 4 => [mRUN, mDEFAULTS, mSERVICE]                   | 7 => [mRUN, mDEFAULTS]                   | x => [mRUN, mDEFAULTS, mSAFE])                 v then           1         else if (fun v => v = 5 ∨ v = 6) v ∧ w2.dev.g BEL_STAT.MSTATE ≠ 2 then 2 else if (fun v => v = 5 ∨ v = 6) v ∧ w2.dev.g USB_STAT.STATE ∈ [1, 2, 3] then 3 else if (fun v => v = 5 ∨ v = 6) v ∧ w2.dev.boot.upd.isSome = true then 4 else if v = 7 ∧ (w2.dev.g LCK_STAT.SCOPES).testBit 0 = false then 5 else 0)     2 =   0) ∧
    (w2.dev.mode = mSAFE) ∧
    (w2.dev.on BRT_STAT.RUNNING = true → w2.dev.brt.pllLocked = true) ∧
    (signed 16 (w2.dev.g PWR_TEMP.TJ) < 2000) ∧
    (w2.dev.mayWrite Agent.mgmt 135168 = true) := by
  decide +kernel
theorem witness_ModesChangeAsRequested_2 :
    ((fun v =>       if w0.dev.on PWR_STAT.BUSY = true then 6       else         if             w0.dev.mode ∉               (fun v =>                   match v with                   | 2 => [mSAFE, mSERVICE]                   | 4 => [mRUN, mDEFAULTS, mSERVICE]                   | 7 => [mRUN, mDEFAULTS]                   | x => [mRUN, mDEFAULTS, mSAFE])                 v then           1         else if (fun v => v = 5 ∨ v = 6) v ∧ w0.dev.g BEL_STAT.MSTATE ≠ 2 then 2 else if (fun v => v = 5 ∨ v = 6) v ∧ w0.dev.g USB_STAT.STATE ∈ [1, 2, 3] then 3 else if (fun v => v = 5 ∨ v = 6) v ∧ w0.dev.boot.upd.isSome = true then 4 else if v = 7 ∧ (w0.dev.g LCK_STAT.SCOPES).testBit 0 = false then 5 else 0)     4 =   0) ∧
    ((fun v =>       if w0.dev.on PWR_STAT.BUSY = true then 6       else         if             w0.dev.mode ∉               (fun v =>                   match v with                   | 2 => [mSAFE, mSERVICE]                   | 4 => [mRUN, mDEFAULTS, mSERVICE]                   | 7 => [mRUN, mDEFAULTS]                   | x => [mRUN, mDEFAULTS, mSAFE])                 v then           1         else if (fun v => v = 5 ∨ v = 6) v ∧ w0.dev.g BEL_STAT.MSTATE ≠ 2 then 2 else if (fun v => v = 5 ∨ v = 6) v ∧ w0.dev.g USB_STAT.STATE ∈ [1, 2, 3] then 3 else if (fun v => v = 5 ∨ v = 6) v ∧ w0.dev.boot.upd.isSome = true then 4 else if v = 7 ∧ (w0.dev.g LCK_STAT.SCOPES).testBit 0 = false then 5 else 0)     6 =   0) ∧
    ((Instr.reqDormant Agent.mgmt, 6, 6) ∈ [(Instr.reqIdle Agent.mgmt, 5, mIDLE), (Instr.reqDormant Agent.mgmt, 6, mDORMANT)]) ∧
    ((fun v =>       if w0.dev.on PWR_STAT.BUSY = true then 6       else         if             w0.dev.mode ∉               (fun v =>                   match v with                   | 2 => [mSAFE, mSERVICE]                   | 4 => [mRUN, mDEFAULTS, mSERVICE]                   | 7 => [mRUN, mDEFAULTS]                   | x => [mRUN, mDEFAULTS, mSAFE])                 v then           1         else if (fun v => v = 5 ∨ v = 6) v ∧ w0.dev.g BEL_STAT.MSTATE ≠ 2 then 2 else if (fun v => v = 5 ∨ v = 6) v ∧ w0.dev.g USB_STAT.STATE ∈ [1, 2, 3] then 3 else if (fun v => v = 5 ∨ v = 6) v ∧ w0.dev.boot.upd.isSome = true then 4 else if v = 7 ∧ (w0.dev.g LCK_STAT.SCOPES).testBit 0 = false then 5 else 0)     7 =   0) ∧
    (w3.dev.pwr.entered = false) ∧
    (w3.dev.pwr.reqBlk < w3.dev.blkNum) ∧
    (w3.dev.flt.tests = []) ∧
    ((match w3.dev.pwr.entering with | some k => decide (k.toNat = mIDLE ∨ k.toNat = mDORMANT) | _ => false) = true) ∧
    (w4.dev.pwr.entered = true) ∧
    (w4.dev.boot.pend = []) ∧
    ((match w4.dev.pwr.entering with | some k => decide (k.toNat = mIDLE ∨ k.toNat = mDORMANT) | _ => false) = true) ∧
    ((255#8).getLsbD 0 = true) := by
  decide +kernel
theorem witness_ModesChangeAsRequested_3 :
    ((match w0.dev.wakeSources (255 : BitVec 8).toNat with | r :: l => true | _ => false) = true) ∧
    ((match w0.dev.wakeSources (255 : BitVec 8).toNat with | r :: l => decide (3 ∈ l) | _ => false) = true) ∧
    (w5.dev.mode = mIDLE ∨ w5.dev.mode = mDORMANT) ∧
    ((match w5.dev.wakeSources (255 : BitVec 8).toNat with | r :: l => true | _ => false) = true) ∧
    (w5.dev.mode = mDORMANT) ∧
    (w4.dev.running = true) ∧
    (w4.dev.pwr.entering.isSome = true) ∧
    ((match w4.dev.wakeSources (255 : BitVec 8).toNat with | r :: l => true | _ => false) = true) ∧
    (w0.dev.mode ≠ mRESET) ∧
    (w0.dev.on PWR_STAT.BOW = false) ∧
    (Instr.temperatureLimit 1681#16 = Instr.hot 1681#16 ∨ Instr.temperatureLimit 1681#16 = Instr.temperatureLimit 1681#16) := by
  decide +kernel
end C17

/-! ### Self-tests -/

namespace C18
def D := run0.dev
def units : List UnitId := [⟨1,5,7⟩,⟨2,6,0⟩,⟨3,5,0⟩,⟨4,3,9⟩,⟨5,2,0⟩,⟨6,1,0⟩,⟨6,9,0⟩,⟨7,4,0⟩,⟨8,2,3⟩,⟨10,0,0⟩,⟨11,0,4⟩,⟨11,2,4⟩,⟨11,5,1⟩,⟨9,1,0⟩]
def d1 : Dev := { D with flt := { D.flt with tests := units.map unitTest } }
def d3 : Dev := (List.range 9).foldl (fun d c => d.s FLT_THR.LIMIT 0 c) d1
def d4 : Dev := { D with flt := { D.flt with scores := [(0x105, 3), (0x305,1)] }, brt := { D.brt with tbase := 0x10000000000 } }
def sp : Dev := [2,3,4,5,6,9].foldl (fun d k => (d.putDst k 3 2).putDst k 1 3) D
def sp2 : Dev := { sp with flt := { sp.flt with split := [2,3,4,5,6,9].flatMap (fun k => [(unitCode k 3, 0),(unitCode k 1, 2)]) } }

def w0 : State :=
 { (run0) with dev := d3 }
def w1 : State :=
 { (run0) with dev := d4 }
def w2 : State :=
 { (run0) with dev := sp2 }
def w3 : State :=
 { (run0) with dev := sp }
theorem witness_SelfTestsEndInVerdicts_1 :
    (w0.dev.chn.length = 16) ∧
    (w0.dev.mac.length = 4) ∧
    (w0.dev.hrp.groups.length = 5) ∧
    (unitTest (UnitId.mk 9#4 1#8 0#12) ∈ w0.dev.flt.tests) ∧
    (∀ y ∈ w0.dev.flt.waiting, y.kind ≠ (UnitId.mk 9#4 1#8 0#12).kind ∨ y.index ≠ (UnitId.mk 9#4 1#8 0#12).index) ∧
    (classOf (UnitId.mk 9#4 1#8 0#12).kind.toNat (UnitId.mk 9#4 1#8 0#12).index.toNat ≠ 15 ∧ w0.dev.g FLT_THR.LIMIT (classOf (UnitId.mk 9#4 1#8 0#12).kind.toNat (UnitId.mk 9#4 1#8 0#12).index.toNat) ≠ 0 → w0.dev.score (classOf (UnitId.mk 9#4 1#8 0#12).kind.toNat (UnitId.mk 9#4 1#8 0#12).index.toNat) (scoreIdx (UnitId.mk 9#4 1#8 0#12).kind.toNat (UnitId.mk 9#4 1#8 0#12).index.toNat) + 1 < w0.dev.g FLT_THR.LIMIT (classOf (UnitId.mk 9#4 1#8 0#12).kind.toNat (UnitId.mk 9#4 1#8 0#12).index.toNat)) ∧
    (false = true → (classOf (UnitId.mk 9#4 1#8 0#12).kind.toNat (UnitId.mk 9#4 1#8 0#12).index.toNat ≠ 15 ∧ w0.dev.g FLT_THR.LIMIT (classOf (UnitId.mk 9#4 1#8 0#12).kind.toNat (UnitId.mk 9#4 1#8 0#12).index.toNat) ≠ 0) ∧ w0.dev.g FLT_THR.LIMIT (classOf (UnitId.mk 9#4 1#8 0#12).kind.toNat (UnitId.mk 9#4 1#8 0#12).index.toNat) ≤ w0.dev.score (classOf (UnitId.mk 9#4 1#8 0#12).kind.toNat (UnitId.mk 9#4 1#8 0#12).index.toNat) (scoreIdx (UnitId.mk 9#4 1#8 0#12).kind.toNat (UnitId.mk 9#4 1#8 0#12).index.toNat) + 1) ∧
    (w1.dev.chn.length = 16) ∧
    (w1.dev.mac.length = 4) ∧
    (w1.dev.hrp.groups.length = 5) ∧
    (w1.dev.g FLT_THR.DECAY (3 : BitVec 4).toNat ≠ 0) ∧
    ((5 : BitVec 8).toNat < classCount (3 : BitVec 4).toNat) ∧
    (w1.dev.score (3 : BitVec 4).toNat (5 : BitVec 8).toNat ≠ 0) ∧
    (sget 0 ((3 : BitVec 4).toNat * 256 + (5 : BitVec 8).toNat) w1.dev.flt.scoreAt + w1.dev.g FLT_THR.DECAY (3 : BitVec 4).toNat * 100000000 ≤ w1.dev.brt.tbase.toNat) := by
  decide +kernel
theorem witness_SelfTestsEndInVerdicts_2 :
    (w2.dev.chn.length = 16) ∧
    (w2.dev.mac.length = 4) ∧
    (w2.dev.hrp.groups.length = 5) ∧
    (w3.dev.chn.length = 16) ∧
    (w3.dev.mac.length = 4) ∧
    (w3.dev.hrp.groups.length = 5) ∧
    ((9 : BitVec 4).toNat ∈ [2, 3, 4, 5, 6, 9]) ∧
    ((1 : BitVec 8).toNat < unitCount (9 : BitVec 4).toNat) ∧
    (w3.dev.mst (9 : BitVec 4).toNat (1 : BitVec 8).toNat < w3.dev.dst (9 : BitVec 4).toNat (1 : BitVec 8).toNat) ∧
    (List.lookup (unitCode (9 : BitVec 4).toNat (1 : BitVec 8).toNat) w3.dev.flt.split = none) ∧
    (w3.dev.testing (9 : BitVec 4).toNat (1 : BitVec 8).toNat = false) ∧
    ((3 : BitVec 8).toNat < unitCount (9 : BitVec 4).toNat) := by
  decide +kernel
theorem witness_SelfTestsEndInVerdicts_3 :
    ((List.lookup (unitCode (9 : BitVec 4).toNat (3 : BitVec 8).toNat) w2.dev.flt.split).isSome = true) ∧
    (∀ e ∈ w2.dev.flt.split, e.2 ≤ 3) ∧
    ((31 : BitVec 8).toNat < unitCount (9 : BitVec 4).toNat) ∧
    (w2.dev.mayWrite Agent.mgmt (mstReg (9 : BitVec 4).toNat (31 : BitVec 8).toNat) = true) := by
  decide +kernel
end C18

/-! ### The service lock -/

namespace C19
def D := run0.dev
def lk (st : BitVec 2) (d : Dev) : State := { run0 with otp := { run0.otp with lock := st }, flash := { kind := .sfdp 0x100000 true, mem := [] }, dev := { (d.s LCK_STAT.STATE st.toNat) with lck := { d.lck with state := st }, boot := { d.boot with done := true, logAt := some 0xF0000 } } }
def o : State := lk 0 D
def p : State := lk 1 (D.s LCK_STAT.SCOPES 4)
def r : State := lk 2 ((D.s LCK_STAT.SCOPES 1).s LCK_STAT.COUNT 15)
def lb (l : List Nat) (d : Dev) : Dev := (List.range l.length).foldl (fun d i => d.s LCK_BUF (l.getD i 0) i) d
def relk : Dev := lb [5] ((D.s LCK_HCMD.LEN 2).s LCK_STAT.SCOPES 7)
def rn (k : Carrier) : State := { r with dev := { r.dev with lck := { r.dev.lck with nonce := some ⟨List.replicate 16 1, k, 5⟩ } } }
def svc (d : Dev) : State := lk 0 { (((d.s SYS_MODE.MODE 7).s BNK_OWN.OWN 19 0).s LCK_SVC.UNIT 0x305) with boot := { D.boot with logAt := some 0xF0000 } }

def w0 : State :=
  lk 1 (D.s LCK_STAT.BLOCKED 1)
def w1 : State :=
 { (o) with otp := { (o.otp) with salt := some [], pwHash := some [], key := some [] } }
theorem witness_LockMessagesAreAnsweredInEveryState :
    (w0.dev.lockUp = true) ∧
    (w0.dev.boot.done = true) ∧
    (w0.dev.lck.state ≠ 2) ∧
    ((7 : BitVec 8).toNat ≤ 7) ∧
    (16 ≤   (let y :=       let y :=         let y :=           let y := [7#8, 7#8, 7#8, 7#8];           7#8 :: 7#8 :: 7#8 :: 7#8 :: y;         let y := 7#8 :: 7#8 :: 7#8 :: 7#8 :: y;         7#8 :: 7#8 :: 7#8 :: 7#8 :: y;       let y :=         let y := 7#8 :: 7#8 :: 7#8 :: 7#8 :: y;         7#8 :: 7#8 :: 7#8 :: 7#8 :: y;       7#8 :: 7#8 :: 7#8 :: 7#8 :: 7#8 :: 7#8 :: 7#8 :: y;     let y :=       let y :=         let y := 7#8 :: 7#8 :: 7#8 :: 7#8 :: y;         7#8 :: 7#8 :: 7#8 :: 7#8 :: y;       let y := 7#8 :: 7#8 :: 7#8 :: 7#8 :: y;       7#8 :: 7#8 :: 7#8 :: 7#8 :: y;     let y :=       let y := 7#8 :: 7#8 :: 7#8 :: 7#8 :: y;       7#8 :: 7#8 :: 7#8 :: 7#8 :: y;     7#8 :: 7#8 :: 7#8 :: 7#8 :: 7#8 :: 7#8 :: 7#8 :: y).length) ∧
    ((let y :=       let y :=         let y :=           let y := [7#8, 7#8, 7#8, 7#8];           7#8 :: 7#8 :: 7#8 :: 7#8 :: y;         let y := 7#8 :: 7#8 :: 7#8 :: 7#8 :: y;         7#8 :: 7#8 :: 7#8 :: 7#8 :: y;       let y :=         let y := 7#8 :: 7#8 :: 7#8 :: 7#8 :: y;         7#8 :: 7#8 :: 7#8 :: 7#8 :: y;       7#8 :: 7#8 :: 7#8 :: 7#8 :: 7#8 :: 7#8 :: 7#8 :: y;     let y :=       let y :=         let y := 7#8 :: 7#8 :: 7#8 :: 7#8 :: y;         7#8 :: 7#8 :: 7#8 :: 7#8 :: y;       let y := 7#8 :: 7#8 :: 7#8 :: 7#8 :: y;       7#8 :: 7#8 :: 7#8 :: 7#8 :: y;     let y :=       let y := 7#8 :: 7#8 :: 7#8 :: 7#8 :: y;       7#8 :: 7#8 :: 7#8 :: 7#8 :: y;     7#8 :: 7#8 :: 7#8 :: 7#8 :: 7#8 :: 7#8 :: 7#8 :: y).length ≤   62) ∧
    (w1.dev.lockUp = true) ∧
    (w1.dev.boot.done = true) ∧
    (w1.dev.lck.state ≠ 1) ∧
    (w1.dev.lck.state = 0) := by
  decide +kernel
def w2 : State :=
  lk 2   ( { (relk) with boot := D.boot })
def w3 : State :=
  rn Carrier.usbCmd
def w4 : State :=
 { (p) with otp := { (p.otp) with key := some [] } }
theorem witness_ChallengeAndPasswordJudge :
    (w2.dev.lockUp = true) ∧
    (w2.dev.boot.done = true) ∧
    (w2.dev.lck.state = 2) ∧
    ((7 : BitVec 8).toNat ≤ 7) ∧
    (w3.dev.lockUp = true) ∧
    (w3.dev.boot.done = true) ∧
    (w3.dev.noLog = false) ∧
    (w3.dev.on LCK_STAT.BLOCKED = false) ∧
    (w3.dev.lck.wait = 0) ∧
    (w3.dev.lck.state = 2) ∧
    ((match w3.dev.lck.nonce with | some n => decide (16 ≤   (let y :=       let y :=         let y :=           let y := [7#8, 7#8, 7#8, 7#8];           7#8 :: 7#8 :: 7#8 :: 7#8 :: y;         let y := 7#8 :: 7#8 :: 7#8 :: 7#8 :: y;         7#8 :: 7#8 :: 7#8 :: 7#8 :: y;       let y :=         let y := 7#8 :: 7#8 :: 7#8 :: 7#8 :: y;         7#8 :: 7#8 :: 7#8 :: 7#8 :: y;       7#8 :: 7#8 :: 7#8 :: 7#8 :: 7#8 :: 7#8 :: 7#8 :: y;     let y :=       let y :=         let y := 7#8 :: 7#8 :: 7#8 :: 7#8 :: y;         7#8 :: 7#8 :: 7#8 :: 7#8 :: y;       let y := 7#8 :: 7#8 :: 7#8 :: 7#8 :: y;       7#8 :: 7#8 :: 7#8 :: 7#8 :: y;     let y :=       let y := 7#8 :: 7#8 :: 7#8 :: 7#8 :: y;       7#8 :: 7#8 :: 7#8 :: 7#8 :: y;     7#8 :: 7#8 :: 7#8 :: 7#8 :: 7#8 :: 7#8 :: 7#8 :: y).length) && decide ((let y :=       let y :=         let y :=           let y := [7#8, 7#8, 7#8, 7#8];           7#8 :: 7#8 :: 7#8 :: 7#8 :: y;         let y := 7#8 :: 7#8 :: 7#8 :: 7#8 :: y;         7#8 :: 7#8 :: 7#8 :: 7#8 :: y;       let y :=         let y := 7#8 :: 7#8 :: 7#8 :: 7#8 :: y;         7#8 :: 7#8 :: 7#8 :: 7#8 :: y;       7#8 :: 7#8 :: 7#8 :: 7#8 :: 7#8 :: 7#8 :: 7#8 :: y;     let y :=       let y :=         let y := 7#8 :: 7#8 :: 7#8 :: 7#8 :: y;         7#8 :: 7#8 :: 7#8 :: 7#8 :: y;       let y := 7#8 :: 7#8 :: 7#8 :: 7#8 :: y;       7#8 :: 7#8 :: 7#8 :: 7#8 :: y;     let y :=       let y := 7#8 :: 7#8 :: 7#8 :: 7#8 :: y;       7#8 :: 7#8 :: 7#8 :: 7#8 :: y;     7#8 :: 7#8 :: 7#8 :: 7#8 :: 7#8 :: 7#8 :: 7#8 :: y).length ≤   62) | _ => false) = true) ∧
    (w4.dev.lockUp = true) ∧
    (w4.dev.boot.done = true) ∧
    (w4.dev.noLog = false) ∧
    (w4.dev.on LCK_STAT.BLOCKED = false) ∧
    (w4.dev.lck.wait = 0) ∧
    (w4.dev.lck.state = 1) ∧
    (16 ≤   (let y :=       let y :=         let y :=           let y := [7#8, 7#8, 7#8, 7#8];           7#8 :: 7#8 :: 7#8 :: 7#8 :: y;         let y := 7#8 :: 7#8 :: 7#8 :: 7#8 :: y;         7#8 :: 7#8 :: 7#8 :: 7#8 :: y;       let y :=         let y := 7#8 :: 7#8 :: 7#8 :: 7#8 :: y;         7#8 :: 7#8 :: 7#8 :: 7#8 :: y;       7#8 :: 7#8 :: 7#8 :: 7#8 :: 7#8 :: 7#8 :: 7#8 :: y;     let y :=       let y :=         let y := 7#8 :: 7#8 :: 7#8 :: 7#8 :: y;         7#8 :: 7#8 :: 7#8 :: 7#8 :: y;       let y := 7#8 :: 7#8 :: 7#8 :: 7#8 :: y;       7#8 :: 7#8 :: 7#8 :: 7#8 :: y;     let y :=       let y := 7#8 :: 7#8 :: 7#8 :: 7#8 :: y;       7#8 :: 7#8 :: 7#8 :: 7#8 :: y;     7#8 :: 7#8 :: 7#8 :: 7#8 :: 7#8 :: 7#8 :: 7#8 :: y).length) ∧
    ((let y :=       let y :=         let y :=           let y := [7#8, 7#8, 7#8, 7#8];           7#8 :: 7#8 :: 7#8 :: 7#8 :: y;         let y := 7#8 :: 7#8 :: 7#8 :: 7#8 :: y;         7#8 :: 7#8 :: 7#8 :: 7#8 :: y;       let y :=         let y := 7#8 :: 7#8 :: 7#8 :: 7#8 :: y;         7#8 :: 7#8 :: 7#8 :: 7#8 :: y;       7#8 :: 7#8 :: 7#8 :: 7#8 :: 7#8 :: 7#8 :: 7#8 :: y;     let y :=       let y :=         let y := 7#8 :: 7#8 :: 7#8 :: 7#8 :: y;         7#8 :: 7#8 :: 7#8 :: 7#8 :: y;       let y := 7#8 :: 7#8 :: 7#8 :: 7#8 :: y;       7#8 :: 7#8 :: 7#8 :: 7#8 :: y;     let y :=       let y := 7#8 :: 7#8 :: 7#8 :: 7#8 :: y;       7#8 :: 7#8 :: 7#8 :: 7#8 :: y;     7#8 :: 7#8 :: 7#8 :: 7#8 :: 7#8 :: 7#8 :: 7#8 :: y).length ≤   62) := by
  decide +kernel
def w5 : State :=
  lk 1 (D.s LCK_STAT.BLOCKED 1)
def w6 : State :=
  lk 1 (relk.s SYS_MODE.MODE 7)
theorem witness_RelockClosesTheScopes :
    (w5.dev.lockUp = true) ∧
    (w5.dev.boot.done = true) ∧
    (w5.dev.lck.state ≠ 0) ∧
    (w5.dev.g LCK_STAT.SCOPES ≠ 0) ∧
    (w5.dev.running = true) ∧
    (w6.dev.running = true) ∧
    (w6.dev.boot.done = true) ∧
    (w6.dev.g LCK_HCMD.LEN = 2) ∧
    (List.take 2 w6.dev.lockBuf = [5, 0]) ∧
    (w6.dev.lck.state ≠ 0) ∧
    (w6.dev.g LCK_STAT.SCOPES ≠ 0) := by
  decide +kernel
def w7 : State :=
  lk 1 (D.s LCK_STAT.BLOCKED 1)
def w8 : State :=
 { (o) with otp := { (o.otp) with salt := some [], pwHash := some [], key := some [] } }
def w9 : State :=
 { (p) with otp := { (p.otp) with key := some [] } }
def w10 : State :=
  lk 0 (lb [15573342] D)
theorem witness_OtpCommandsProgramOnce_1 :
    (w7.dev.running = true) ∧
    (w7.dev.otpOpen = true) ∧
    (w7.otp.pwHash = none) ∧
    (w7.otp.key = none) ∧
    (w8.dev.running = true) ∧
    (w8.dev.otpOpen = true) ∧
    (w8.otp.lock = 0) ∧
    (w8.otp.pwHash ≠ none) ∧
    (w9.dev.running = true) ∧
    (w9.dev.otpOpen = true) ∧
    (w9.otp.lock = 0 ∨ w9.otp.lock = 1) ∧
    (w9.otp.key ≠ none) := by
  decide +kernel
theorem witness_OtpCommandsProgramOnce_2 :
    (w10.dev.running = true) ∧
    (w10.dev.otpOpen = true) ∧
    (List.take 4 w10.dev.lockBuf = [94, 161, 237, 0]) := by
  decide +kernel
def w11 : State :=
 { (svc D) with dev := (svc D).dev.s LCK_SVC.UNIT 3845 }
def w12 : State :=
  lk 1 (relk.s SYS_MODE.MODE 7)
def w13 : State :=
  lk 1 (D.s LCK_STAT.BLOCKED 1)
theorem witness_ServiceFunctionsRunInService :
    (w11.dev.mode = 7) ∧
    ((w11.dev.plainWrite 139300 (w11.dev.svcWord 2)).srcOwned false (BitVec.toNat (w11.dev.reg LCK_SVCADDR.base)) 4096 = true) ∧
    ((match w11.dev.boot.logAt with | some base => true | _ => false) = true) ∧
    (w12.dev.mode = 7) ∧
    (w13.dev.mode ≠ 7) ∧
    (w13.dev.running = true) := by
  decide +kernel
end C19

/-! ### The test port -/

namespace C21
def w2 := { run0 with dev := run0.dev.s LCK_STAT.SCOPES 7 }

def w0 : State :=
 { (w2) with pins := { resetN := false, por := true } }
theorem witness_TestPortAndRegisterWritesAct :
    (w0.pins.por = true) ∧
    (Instr.idcode = Instr.tapReset ∨ Instr.idcode = Instr.idcode) ∧
    ((let y :=       let y :=         let y :=           let y :=             let y :=               let y := [true, false, false, true, false];               false :: true :: false :: false :: y;             let y := false :: false :: true :: false :: y;             true :: false :: false :: true :: y;           let y :=             let y := false :: false :: true :: false :: false :: y;             true :: false :: false :: true :: y;           let y := false :: true :: false :: false :: y;           false :: false :: true :: false :: y;         let y :=           let y :=             let y := false :: true :: false :: false :: true :: y;             false :: false :: true :: false :: y;           let y := true :: false :: false :: true :: y;           false :: true :: false :: false :: y;         let y :=           let y := false :: false :: true :: false :: y;           true :: false :: false :: true :: y;         let y := false :: true :: false :: false :: y;         false :: false :: true :: false :: y;       let y :=         let y :=           let y :=             let y := false :: true :: false :: false :: true :: y;             false :: false :: true :: false :: y;           let y := true :: false :: false :: true :: y;           false :: true :: false :: false :: y;         let y :=           let y := true :: false :: false :: true :: false :: y;           false :: true :: false :: false :: y;         let y := false :: false :: true :: false :: y;         true :: false :: false :: true :: y;       let y :=         let y :=           let y := false :: false :: true :: false :: false :: y;           true :: false :: false :: true :: y;         let y := false :: true :: false :: false :: y;         false :: false :: true :: false :: y;       let y :=         let y := true :: false :: false :: true :: y;         false :: true :: false :: false :: y;       let y := false :: false :: true :: false :: y;       true :: false :: false :: true :: y;     let y :=       let y :=         let y :=           let y :=             let y := false :: false :: true :: false :: false :: y;             true :: false :: false :: true :: y;           let y := false :: true :: false :: false :: y;           false :: false :: true :: false :: y;         let y :=           let y := false :: true :: false :: false :: true :: y;           false :: false :: true :: false :: y;         let y := true :: false :: false :: true :: y;         false :: true :: false :: false :: y;       let y :=         let y :=           let y := true :: false :: false :: true :: false :: y;           false :: true :: false :: false :: y;         let y := false :: false :: true :: false :: y;         true :: false :: false :: true :: y;       let y :=         let y := false :: true :: false :: false :: y;         false :: false :: true :: false :: y;       let y := true :: false :: false :: true :: y;       false :: true :: false :: false :: y;     let y :=       let y :=         let y :=           let y := true :: false :: false :: true :: false :: y;           false :: true :: false :: false :: y;         let y := false :: false :: true :: false :: y;         true :: false :: false :: true :: y;       let y :=         let y := false :: true :: false :: false :: y;         false :: false :: true :: false :: y;       let y := true :: false :: false :: true :: y;       false :: true :: false :: false :: y;     let y :=       let y :=         let y := true :: false :: false :: true :: false :: y;         false :: true :: false :: false :: y;       let y := false :: false :: true :: false :: y;       true :: false :: false :: true :: y;     let y :=       let y := false :: true :: false :: false :: y;       false :: false :: true :: false :: y;     let y := true :: false :: false :: true :: y;     false :: true :: false :: false :: y).length =   267) ∧
    (31#5 = 31 ∨ 3 ≤ (31 : BitVec 5).toNat ∧ w0.dev.g LCK_STAT.SCOPES / 2 % 4 ≠ 3) ∧
    (w0.dev.g LCK_STAT.SCOPES / 2 % 4 = 3) ∧
    (3 ≤ (26 : BitVec 5).toNat) ∧
    (26#5 ≠ 31) ∧
    (w0.dev.mayWrite Agent.mgmt (114720 : BitVec 20).toNat = true) ∧
    ((114720 : BitVec 20).toNat / 4096 = 28) ∧
    ((114720 : BitVec 20).toNat ≠ 114692) ∧
    ((114720 : BitVec 20).toNat ≠ 114696) ∧
    (¬(115712 ≤ (114720 : BitVec 20).toNat ∧ (114720 : BitVec 20).toNat < 116608)) ∧
    ((match rowOf (114720 : BitVec 20).toNat with | some r => decide (r.ok = []) | _ => false) = true) := by
  decide +kernel
end C21

end Sys2Proof.Tests
end

/-!
SUPPORT and certificates. The scope chapter: the registers after reset, the resets, the test port, and a plain register write.
-/
namespace Sys2Proof.Machine

/-! ### Registers after reset (R11) -/

/-- A register file in which nothing is listed reads the Reset column. -/
theorem reg_of_regs_nil {d : Dev} (h : d.regs = []) (off : Nat) : d.reg off = resetOf off := by
  rw [Dev.reg, h, sget]

theorem reset_reg (off : Nat) : Dev.reset.reg off = resetOf off := reg_of_regs_nil rfl off

theorem reset_g (f : Fld) (i : Nat) : Dev.reset.g f i = bitsOf (resetOf (f.off i)).toNat f.hi f.lo := by
  rw [Dev.g, reset_reg]

/-- Settles O2: the register file lists nothing at reset, so that every read is of the Reset column. -/
theorem resetValuesOfTheRegisters : Obligations.ResetValuesOfTheRegisters := by
  unfold Obligations.ResetValuesOfTheRegisters
  refine ⟨reset_reg, ?_⟩
  simp only [State.reset, reset_g]
  decide

/-- Settles O5: nothing is listed in any table of the reset state, and its lists of units are replications. -/
theorem resetHoldsTheInvariants : Obligations.ResetHoldsTheInvariants := by
  unfold Obligations.ResetHoldsTheInvariants
  refine ⟨rfl, rfl, rfl, ?_, ?_, ?_, ?_, rfl, ?_, rfl⟩ <;> exact List.length_replicate

/-! ### RESET_N, the supply and the power-on detector (R26, R750, R759, R791) -/

theorem g_lt (d : Dev) (f : Fld) (i : Nat) : d.g f i < 2 ^ (f.hi + 1 - f.lo) := bitsOf_lt _ _ _

/-- RESET_N low leaves every register outside LCK_STAT at its reset value. -/
theorem resetN_reg (d : Dev) {off : Nat} (h : off ≠ LCK_STAT.STATE.base) : d.resetN.reg off = resetOf off := by
  unfold Dev.resetN
  rw [reg_s_other _ _ _ _ _ h, reg_s_other _ _ _ _ _ h, reg_s_other _ _ _ _ _ h]
  exact reg_of_regs_nil rfl off

/-- Only a power-on clears BLOCKED (R759). -/
theorem resetN_blocked (d : Dev) : d.resetN.g LCK_STAT.BLOCKED = d.g LCK_STAT.BLOCKED :=
  (g_s_same _ LCK_STAT.BLOCKED _ 0).trans (Nat.mod_eq_of_lt (g_lt d LCK_STAT.BLOCKED 0))

/-- With no update command running the supply's collapse meets no flash operation. -/
theorem opsPerformed_of_no_update {s : State} (h : s.dev.boot.upd = none) (n : Nat) : s.opsPerformed n = s := by
  rw [State.opsPerformed, h]

theorem exec_supplyCollapse {s : State} (hupd : s.dev.boot.upd = none) (n : Nat) :
    exec (.supplyCollapse n) s = .next { s with
      pins := { s.pins with por := false }, tap := State.reset.tap, dev := { Dev.reset with free := s.dev.free } } := by
  change execSupplyCollapse n s = _
  rw [execSupplyCollapse, opsPerformed_of_no_update hupd]

theorem exec_powerOnRelease {s : State} (hpor : s.pins.por = false) (bad : Bool) :
    exec (.powerOnRelease bad) s = .next { s with
      pins := ⟨false, true⟩
      dev := Dev.s (Dev.resetN { s.dev with
        lck := { s.dev.lck with state := if bad then 3 else s.otp.lock, otpBad := bad } }) LCK_STAT.BLOCKED 0 } := by
  change execPowerOnRelease bad s = _
  rw [execPowerOnRelease, if_neg (by simp [hpor])]

/-- Settles O8: each reset starts from a register file that lists nothing and writes LCK_STAT alone. -/
theorem resetsClearTheDevice : Obligations.ResetsClearTheDevice := by
  unfold Obligations.ResetsClearTheDevice
  refine ⟨fun s => ?resetN, fun s n hupd => ?collapse, fun s bad hpor => ?powerOn⟩
  case resetN =>
    exact ⟨_, rfl, rfl, rfl, fun _ h => resetN_reg s.dev h, rfl, resetN_blocked s.dev, rfl, rfl, rfl, rfl, rfl⟩
  case collapse =>
    exact ⟨_, exec_supplyCollapse hupd n, rfl, reg_of_regs_nil rfl, rfl, rfl, rfl, rfl⟩
  case powerOn =>
    refine ⟨_, exec_powerOnRelease hpor bad, rfl, rfl, rfl, g_s_same _ LCK_STAT.BLOCKED 0 0, fun off h => ?_, rfl, rfl, rfl, rfl⟩
    rw [reg_s_other _ _ _ _ _ h, resetN_reg _ h]

/-! ### The boundary register (R813, R814) -/

/-- A cell of a row of pieces of one length. -/
theorem getD_flatMap_range {α : Type} (f : Nat → List α) (m : Nat) (hf : ∀ k, (f k).length = m) (x : α)
    {n k j : Nat} (hk : k < n) (hj : j < m) : ((List.range n).flatMap f).getD (m * k + j) x = (f k).getD j x := by
  induction n with
  | zero => omega
  | succ n ih =>
    have hlen : ((List.range n).flatMap f).length = m * n := by simp [List.length_flatMap, hf, Nat.mul_comm]
    rw [List.range_succ, List.flatMap_append, List.flatMap_singleton]
    rcases Nat.lt_succ_iff_lt_or_eq.mp hk with hlt | rfl
    · have hin : m * k + j < m * n := by
        calc m * k + j < m * (k + 1) := by rw [Nat.mul_succ]; omega
          _ ≤ m * n := Nat.mul_le_mul_left m hlt
      rw [List.getD_append _ _ _ _ (hlen ▸ hin), ih hlt]
    · rw [List.getD_append_right _ _ _ _ (by omega), hlen, Nat.add_sub_cancel_left]

/-- The three cells captured of one ball: input level, output data, output enable. -/
def State.ballCells (s : State) (k : Nat) : List Bool :=
  match s.dev.drives (balls.getD k .resetN) with
  | .level b => [s.ballIn (s.dev.draw 267) k, b, true]
  | .hiZ => [s.ballIn (s.dev.draw 267) k, (s.dev.draw 267).getLsbD (3 * k + 1), false]
  | .moving => [s.ballIn (s.dev.draw 267) k, (s.dev.draw 267).getLsbD (3 * k + 1), true]

theorem capture_eq_ballCells (s : State) : s.capture = (List.range 89).flatMap s.ballCells := rfl

theorem ballCells_length (s : State) (k : Nat) : (s.ballCells k).length = 3 := by
  unfold State.ballCells
  split <;> rfl

theorem ballCells_input (s : State) (k : Nat) : (s.ballCells k).getD 0 false = s.ballIn (s.dev.draw 267) k := by
  unfold State.ballCells
  split <;> rfl

theorem ballCells_data (s : State) (k : Nat) {b : Bool} (h : s.dev.drives (balls.getD k .resetN) = .level b) :
    (s.ballCells k).getD 1 false = b := by
  rw [State.ballCells, h]
  rfl

theorem ballCells_enable (s : State) (k : Nat) :
    (s.ballCells k).getD 2 false = decide (s.dev.drives (balls.getD k .resetN) ≠ .hiZ) := by
  unfold State.ballCells
  split
  next h => rw [h]; rfl
  next h => rw [h]; rfl
  next h => rw [h]; rfl

theorem capture_length (s : State) : s.capture.length = 267 := by
  simp [capture_eq_ballCells, List.length_flatMap, ballCells_length]

theorem capture_cell (s : State) {k j : Nat} (hk : k < 89) (hj : j < 3) :
    s.capture.getD (3 * k + j) false = (s.ballCells k).getD j false :=
  getD_flatMap_range s.ballCells 3 (ballCells_length s) false hk hj

/-- Ball 65 is RESET_N, captured at its own level. -/
theorem capture_resetN (s : State) : s.capture.getD 195 false = s.pins.resetN := by
  have hball : balls.getD 65 .resetN = .resetN := by decide
  calc s.capture.getD 195 false = (s.ballCells 65).getD 0 false := capture_cell s (k := 65) (j := 0) (by omega) (by omega)
    _ = s.ballIn (s.dev.draw 267) 65 := ballCells_input s 65
    _ = s.pins.resetN := by rw [State.ballIn, if_pos hball]

/-- What a capture holds: every cell that does not stand for a level the board puts on a ball. -/
theorem capture_spec (s : State) :
    s.capture.length = 267 ∧ s.capture.getD 195 false = s.pins.resetN ∧
    ∀ k, k < 89 → s.capture.getD (3 * k + 2) false = decide (s.dev.drives (balls.getD k .resetN) ≠ .hiZ) ∧
      ∀ b : Bool, s.dev.drives (balls.getD k .resetN) = .level b → s.capture.getD (3 * k + 1) false = b :=
  ⟨capture_length s, capture_resetN s, fun k hk =>
    ⟨(capture_cell s hk (by omega)).trans (ballCells_enable s k),
     fun _ hb => (capture_cell s hk (by omega)).trans (ballCells_data s k hb)⟩⟩

/-! ### The TAP's instructions (R785, R812, R815) -/

theorem bitList_length (n v : Nat) : (bitList n v).length = n := by simp [bitList]

theorem bitList_getD {n i : Nat} (v : Nat) (h : i < n) : (bitList n v).getD i false = v.testBit i := by
  simp [bitList, List.getD_eq_getElem?_getD, h]

theorem exec_identify {s : State} (hpor : s.pins.por = true) {c : Instr} (hc : c = .tapReset ∨ c = .idcode) :
    exec c s = .next { s with tap := { s.tap with ir := 2, dr := bitList 32 idcode } } := by
  rcases hc with rfl | rfl <;> exact congrArg Host.Outcome.next (if_pos hpor)

theorem exec_extest {s : State} (hpor : s.pins.por = true) :
    exec .extest s = .next { s with tap := { s.tap with ir := 0, dr := s.capture }, dev := s.dev.drawn } :=
  congrArg Host.Outcome.next (if_pos hpor)

theorem exec_samplePreload {s : State} (hpor : s.pins.por = true) {cells : List Bool} (hlen : cells.length = 267) :
    exec (.samplePreload cells) s =
      .next { s with tap := { ir := 1, dr := s.capture, latch := cells }, dev := s.dev.drawn } := by
  change execSamplePreload cells s = _
  rw [execSamplePreload, onTap, if_pos hpor, List.take_left' hlen]

/-- During EXTEST the update latches own every ball with an output. -/
theorem ballOut_extest {s : State} (hir : s.tap.ir = 0) {k : Nat} (hb : (balls.getD k .resetN).inputOnly = false) :
    s.ballOut k = if s.tap.latch.getD (3 * k + 2) false then .level (s.tap.latch.getD (3 * k + 1) false) else .hiZ := by
  rw [State.ballOut, hir]
  exact if_pos (by rw [hb]; rfl)

/-- Scopes DEBUG and TEST are bits 1 and 2 of SCOPES. -/
theorem privateOpen_eq (d : Dev) : d.privateOpen = decide (d.g LCK_STAT.SCOPES / 2 % 4 = 3) := by
  simp only [Dev.privateOpen, bit, Nat.testBit_eq_decide_div_mod_eq, ← Bool.decide_and, decide_eq_decide]
  omega

theorem exec_bypass_select {s : State} {c : BitVec 5} (hpor : s.pins.por = true) (hc : 3 ≤ c.toNat)
    (h : c = 31 ∨ s.dev.privateOpen = false) :
    exec (.bypass c) s = .next { s with tap := { s.tap with ir := c, dr := [false] } } := by
  change execBypass c s = _
  have hclosed : (decide (c ≠ 31) && s.dev.privateOpen) = false := by rcases h with h | h <;> simp [h]
  rw [execBypass, if_neg (by simp [hpor, hc]), hclosed, if_neg Bool.false_ne_true]

theorem exec_bypass_fault {s : State} {c : BitVec 5} (hpor : s.pins.por = true) (hc : 3 ≤ c.toNat)
    (hne : c ≠ 31) (hopen : s.dev.privateOpen = true) : exec (.bypass c) s = .fault .privateInstruction := by
  change execBypass c s = _
  rw [execBypass, if_neg (by simp [hpor, hc]), hopen, decide_eq_true hne]
  rfl

/-! ### A register write without a further effect (R6 to R8) -/

theorem mapped_of_rowOf {off : Nat} {r : RegRow} (h : rowOf off = some r) : mapped off = true := by
  simp [mapped, h]

theorem plainWrite_of_rowOf {off : Nat} {r : RegRow} (h : rowOf off = some r) (d : Dev) (v : Word) :
    d.plainWrite off v = d.setReg off (r.merge (d.reg off) v) := by
  rw [Dev.plainWrite, h]

/-- A bit after the merge, in a register without reserved values: set, cleared, taken or kept. -/
theorem merge_getLsbD {r : RegRow} (h : r.ok = []) (old v : Word) {n : Nat} (hn : n < 32) :
    (r.merge old v).getLsbD n =
      (if r.w1s.getLsbD n && v.getLsbD n then true else if r.w1c.getLsbD n && v.getLsbD n then false
       else if r.rw.getLsbD n then v.getLsbD n else old.getLsbD n) := by
  simp only [RegRow.merge, h, List.foldl_nil, BitVec.getLsbD_or, BitVec.getLsbD_and, BitVec.getLsbD_not, hn, decide_true,
    Bool.true_and]
  split_ifs <;> grind

/-- A write of a Bell register other than BEL_PLAT, BEL_MUTE and the outputs' states has no further effect. -/
theorem regWrite_bell_plain {s : State} {ag : Agent} {off : Nat} {r : RegRow} (hmay : s.dev.mayWrite ag off = true)
    (hblk : off / 0x1000 = 0x1C) (hplat : off ≠ 0x1C004) (hmute : off ≠ 0x1C008)
    (hout : ¬(0x1C400 ≤ off ∧ off < 0x1C780)) (hrow : rowOf off = some r) (v : Word) :
    s.regWrite ag off v = { s with dev := s.dev.setReg off (r.merge (s.dev.reg off) v) } := by
  have hdev : s.dev.regWrite s.otp.wrapKey ag off v = s.dev.plainWrite off v := by
    rw [Dev.regWrite, if_neg (by simp [hmay, mapped_of_rowOf hrow])]
    simp only [hblk]
    rw [Dev.wrBel, if_neg hplat, if_neg hmute, if_neg (by simp; omega)]
  rw [State.regWrite, if_neg (by simp [hmay, mapped_of_rowOf hrow]), if_neg (by omega), if_neg (by omega),
    if_neg (by omega), hdev, plainWrite_of_rowOf hrow]

/-- Settles O60: the TAP commands by what a capture holds (`capture_spec`), the register write by the merge of its word. -/
theorem testPortAndRegisterWritesAct : Obligations.TestPortAndRegisterWritesAct := by
  unfold Obligations.TestPortAndRegisterWritesAct
  refine ⟨fun s hpor => ?tap, fun s ag off v => ?write⟩
  case tap =>
    intro cell captured
    refine ⟨fun c hc => ?idcode, ?extest, fun l hl => ?sample, fun c hc => ?bypass, fun c h3 hne hopen => ?fault⟩
    case idcode =>
      exact ⟨_, exec_identify hpor hc, rfl, rfl, bitList_length 32 _, fun n hn => bitList_getD _ hn, rfl⟩
    case extest =>
      obtain ⟨hlen, hreset, hcells⟩ := capture_spec s
      exact ⟨_, exec_extest hpor, rfl, rfl, ⟨hlen, hreset, hcells, rfl⟩, fun k _ hb => ballOut_extest rfl hb⟩
    case sample =>
      obtain ⟨hlen, hreset, hcells⟩ := capture_spec s
      exact ⟨_, exec_samplePreload hpor hl, rfl, rfl, hlen, hreset, hcells, rfl⟩
    case bypass =>
      have h3 : 3 ≤ c.toNat := by
        rcases hc with rfl | ⟨h3, _⟩
        · decide
        · exact h3
      have hsel : c = 31 ∨ s.dev.privateOpen = false := hc.imp_right fun h => by simp [privateOpen_eq, h.2]
      exact ⟨_, exec_bypass_select hpor h3 hsel, rfl, rfl⟩
    case fault =>
      exact exec_bypass_fault hpor h3 hne (by simp [privateOpen_eq, hopen])
  case write =>
    intro o hmay hblk hplat hmute hout r hrow hok
    have hexec : exec (.registerWrite ag off v) s = .next (s.regWrite ag o v) := rfl
    rw [regWrite_bell_plain hmay hblk hplat hmute hout hrow v] at hexec
    refine ⟨_, hexec, rfl, fun p hp => reg_setReg_other _ _ _ _ (by simpa using hp), ⟨rfl, rfl, rfl, rfl, rfl⟩, fun n hn => ?_⟩
    rw [← merge_getLsbD hok _ _ hn]
    exact congrArg (BitVec.getLsbD · n) (reg_setReg_same _ _ _)

end Sys2Proof.Machine

/-!
SUPPORT and certificates. From key to speaker: words injected through the ingress window and the mailbox latch, and the start
of a block.
-/
namespace Sys2Proof.Machine

/-! ### The ingress window and the mailbox latch (R16, R130, R625) -/

/-- One place of a list replaced, written out. -/
theorem setAt_eq_take_cons_drop {α : Type} {l : List α} {i : Nat} (h : i < l.length) (v : α) :
    setAt l i v = l.take i ++ v :: l.drop (i + 1) := List.modify_eq_take_cons_drop h

theorem take_succ_setAt {α : Type} {l : List α} {i : Nat} (h : i < l.length) (v : α) :
    (setAt l i v).take (i + 1) = l.take i ++ [v] := by
  have hlen : (l.take i).length = i := List.length_take_of_le h.le
  rw [setAt_eq_take_cons_drop h, List.take_append, hlen, List.take_of_length_le (by omega), Nat.add_sub_cancel_left,
    List.take_succ_cons, List.take_zero]

/-- An agent that has a latch reads in it what was last put there. -/
theorem latch_setLatch {d : Dev} {ag : Agent} (h : d.latch ag ≠ []) (l : List Byte) : (d.setLatch ag l).latch ag = l := by
  cases ag
  case host | usb | mgmt => rfl
  case image | sysex | console => exact absurd rfl h

theorem setLatch_setLatch (d : Dev) (ag : Agent) (l m : List Byte) : (d.setLatch ag l).setLatch ag m = d.setLatch ag m := by
  cases ag <;> rfl

/-- Bytes up to the end of a slot complete the latch, and its word is injected once (R130). -/
theorem windowWrite_to_slot_end (ag : Agent) (data : List Byte) : ∀ (d : Dev) (off : Nat), data ≠ [] →
    off % 16 + data.length = 16 → (d.latch ag).length = 16 →
    d.windowWrite ag off data = (d.setLatch ag ((d.latch ag).take (off % 16) ++ data)).inject ag
      (roariBytes ((d.latch ag).take (off % 16) ++ data)) := by
  induction data with
  | nil => exact fun _ _ hne => absurd rfl hne
  | cons b rest ih =>
    intro d off _ hend hlatch
    have hoff : off % 16 < (d.latch ag).length := by omega
    have hset : (d.setLatch ag (setAt (d.latch ag) (off % 16) b)).latch ag = setAt (d.latch ag) (off % 16) b :=
      latch_setLatch (List.ne_nil_of_length_pos (by omega)) _
    rcases eq_or_ne rest [] with rfl | hrest
    · have hlast : off % 16 = 15 := by simpa using hend
      have hword : setAt (d.latch ag) 15 b = (d.latch ag).take 15 ++ [b] := by
        rw [← take_succ_setAt (by omega), List.take_of_length_le (by simp [hlatch])]
      simp only [Dev.windowWrite, hlast, hword, if_true]
    · have hpos : 0 < rest.length := List.length_pos_of_ne_nil hrest
      rw [List.length_cons] at hend
      have hnext : (off + 1) % 16 = off % 16 + 1 := by omega
      have hmid : off % 16 ≠ 15 := by omega
      rw [Dev.windowWrite]
      simp only [hmid, if_false]
      rw [ih _ _ hrest (by omega) (by rw [hset, length_setAt, hlatch]), hset, setLatch_setLatch, hnext, take_succ_setAt hoff,
        List.append_assoc, List.singleton_append]

/-- Sixteen bytes from the start of a slot replace the latch and inject the word that they spell. -/
theorem windowWrite_slot {d : Dev} {ag : Agent} {off : Nat} {data : List Byte} (hoff : off % 16 = 0) (hdata : data.length = 16)
    (hlatch : (d.latch ag).length = 16) :
    d.windowWrite ag off data = (d.setLatch ag data).inject ag (roariBytes data) := by
  rw [windowWrite_to_slot_end ag data d off (List.ne_nil_of_length_pos (by omega)) (by omega) hlatch, hoff, List.take_zero,
    List.nil_append]

/-- Past step 7 the mode is neither BOOT nor RESET. -/
theorem mode_of_running {d : Dev} (h : d.running = true) : d.mode ≠ mBOOT ∧ d.mode ≠ mRESET := by
  constructor <;> intro hm <;> rw [Dev.running, hm] at h <;> exact absurd h (by decide)

/-- A running device with room in the mailbox takes the word (R625). -/
theorem submit_mbx_of_room {d : Dev} (hrun : d.running = true) (hroom : d.hrp.mbx.length < d.rowsLeft 5 512) (w : Roari) :
    (d.submit w).hrp.mbx = d.hrp.mbx ++ [w] := by
  obtain ⟨hboot, hreset⟩ := mode_of_running hrun
  rw [Dev.submit, if_pos (by simp [hroom, hboot, hreset]), Dev.showMbx, Dev.s_hrp, Dev.s_hrp]

@[simp] theorem submit_evs (d : Dev) (w : Roari) : (d.submit w).evs = d.evs := by
  unfold Dev.submit
  split
  · rw [Dev.showMbx, Dev.s_evs, Dev.s_evs]
  · rw [Dev.cnt_evs, Dev.s_evs]

/-- An access by the host changes HRP_WAKE and the prepared wake alone. -/
theorem hostAwake_frame (d : Dev) :
    (∃ r p, d.hostAwake = { d with regs := r, hrp := { d.hrp with dwakePrep := p } }) ∧ d.hostAwake.mode = d.mode := by
  unfold Dev.hostAwake
  split
  · refine ⟨⟨_, _, rfl⟩, ?_⟩
    exact (g_s_reg _ HRP_WAKE.DWAKE SYS_MODE.MODE _ _ _ (by decide)).trans
      (g_s_reg _ HRP_WAKE.HSLEEP SYS_MODE.MODE _ _ _ (by decide))
  · exact ⟨⟨_, _, rfl⟩, rfl⟩

/-- The device with another latch of the mailbox. -/
def Dev.putMbxLatch (d : Dev) (l : List Byte) : Dev := { d with hrp := { d.hrp with mbxLatch := l } }

/-- The last half word completes the mailbox's latch, and the word of its 16 bytes is submitted (R625). -/
theorem hostMbx_last_half {d : Dev} (hlatch : d.hrp.mbxLatch.length = 16) (hrun : d.running = true)
    (hroom : d.hrp.mbx.length < d.rowsLeft 5 512) (data : Half) :
    (d.hostMbx 14 data 3).hrp.mbx = d.hrp.mbx ++ [roariBytes (d.hrp.mbxLatch.take 14 ++ leBytes 2 data.toNat)] := by
  have hbytes : setAt (setAt d.hrp.mbxLatch 14 (BitVec.ofNat 8 data.toNat)) 15 (BitVec.ofNat 8 (data.toNat / 256)) =
      d.hrp.mbxLatch.take 14 ++ leBytes 2 data.toNat := by
    rw [setAt_eq_take_cons_drop (by simp [hlatch]), take_succ_setAt (by omega), List.drop_of_length_le (by simp [hlatch]),
      List.append_assoc]
    rfl
  have hsubmit : d.hostMbx 14 data 3 =
      (d.putMbxLatch (d.hrp.mbxLatch.take 14 ++ leBytes 2 data.toNat)).submit
        (roariBytes (d.hrp.mbxLatch.take 14 ++ leBytes 2 data.toNat)) := by
    rw [← hbytes]
    rfl
  rw [hsubmit]
  refine submit_mbx_of_room ?_ ?_ _
  · exact hrun
  · exact hroom

theorem exec_ingressWindowWrite_slot {s : State} {ag : Agent} {off : BitVec 12} {data : List Byte}
    (hrun : s.dev.running = true) (hoff : off.toNat % 16 = 0) (hdata : data.length = 16)
    (hlatch : (s.dev.latch ag).length = 16) :
    exec (.ingressWindowWrite ag off data) s =
      .next { s with dev := (s.dev.setLatch ag data).inject ag (roariBytes data) } := by
  change onDev (fun d => if d.running then d.windowWrite ag off.toNat data else d) s = _
  rw [onDev_eq_next, if_pos hrun, windowWrite_slot hoff hdata hlatch]

theorem exec_mailboxWrite_last_half {s : State} (hrun : s.dev.running = true) (data : Half) :
    exec (.mailboxWrite 7 data 3) s = .next { s with dev := s.dev.hostAwake.hostMbx 14 data 3 } := by
  change onDev (fun d => if !d.hostUp || (3 : BitVec 2) = 0 then d else d.hostAwake.hostMbx 14 data 3) s = _
  have hup : s.dev.hostUp = true := by rw [Dev.hostUp, hrun, Bool.true_or]
  rw [onDev_eq_next, if_neg (by simp [hup])]

/-- Settles O16: sixteen bytes of a slot are one run to its end (`windowWrite_slot`), the mailbox's last half the end of its
latch (`hostMbx_last_half`); with room the host's word then joins the mailbox (`submit_mbx_of_room`). -/
theorem windowAndMailboxInjectWords : Obligations.WindowAndMailboxInjectWords := by
  unfold Obligations.WindowAndMailboxInjectWords
  refine ⟨?host, ?usb, ?mailbox⟩
  case host =>
    intro s off data hrun hoff hdata hlatch hroom
    exact ⟨_, exec_ingressWindowWrite_slot hrun hoff hdata hlatch,
      submit_mbx_of_room (d := s.dev.setLatch .host data) hrun hroom _,
      congrArg Evs.latchHost (submit_evs (s.dev.setLatch .host data) _), rfl, rfl, rfl, rfl, rfl⟩
  case usb =>
    intro s off data hrun hoff hdata hlatch
    exact ⟨_, exec_ingressWindowWrite_slot hrun hoff hdata hlatch, rfl, fun _ _ => rfl, rfl, rfl, rfl, rfl, rfl⟩
  case mailbox =>
    intro s data hrun hroom hlatch
    obtain ⟨⟨r, p, hframe⟩, hmode⟩ := hostAwake_frame s.dev
    have hrun' : s.dev.hostAwake.running = true := by rw [Dev.running, hmode]; exact hrun
    refine ⟨_, exec_mailboxWrite_last_half hrun data, ?_, rfl, rfl, rfl, rfl, rfl⟩
    rw [hostMbx_last_half (by rw [hframe]; exact hlatch) hrun' (by rw [hframe]; exact hroom), hframe]

/-! ### The start of a block (R17, R208) -/

/-- A device in RUN, the Breath running at sample 65,536 and block 0 the last one started; a Part record write is staged and
VAL_CTL.HOLD is 1. -/
def heldParts : State := { State.reset with dev := {
  ((Dev.reset.s SYS_MODE.MODE mRUN).s BRT_STAT.RUNNING 1).s VAL_CTL.HOLD 1 with
  brt := { Dev.reset.brt with pos := posOf 65536 }
  val := { Dev.reset.val with partPend := [(3, 7)] }
  rda := { Dev.reset.rda with block := some 0 } } }

theorem blockStart_heldParts_partPend : (blockStart [] heldParts.dev).val.partPend = [(3, 7)] := by decide +kernel

/-- Refutes O20: while VAL_CTL.HOLD is 1 a staged Part record write goes on waiting at a block start (R208), and the statement
has no premise about HOLD. -/
theorem not_blockStartPacesTheDevice : ¬ Obligations.BlockStartPacesTheDevice := by
  unfold Obligations.BlockStartPacesTheDevice
  intro h
  obtain ⟨_, hpast⟩ := h heldParts 0 [] (by decide +kernel) (by decide +kernel) rfl
  obtain ⟨t, hexec, _, _, hpend, _⟩ := hpast (by decide +kernel)
  rw [(onDev_eq_next (blockStart []) heldParts t).1 hexec, blockStart_heldParts_partPend] at hpend
  exact absurd hpend (List.cons_ne_nil _ _)

end Sys2Proof.Machine

/-!
SUPPORT and certificates. Boot and configuration image: what every command keeps of the queue and the flash, and the update
commands.
-/
namespace Sys2Proof.Machine

/-! ### Flash operations keep the form and the kind (R37, R61, R67) -/

/-- The same kind of flash, its contents in canonical form where they were. -/
structure Flash.Keeps (f g : Flash) : Prop where
  kind : g.kind = f.kind
  form : swf (fun _ => (0xFF : Byte)) f.mem = true → swf (fun _ => (0xFF : Byte)) g.mem = true

theorem Flash.Keeps.refl (f : Flash) : f.Keeps f := ⟨rfl, id⟩

theorem Flash.Keeps.trans {f g h : Flash} (hfg : f.Keeps g) (hgh : g.Keeps h) : f.Keeps h :=
  ⟨hgh.kind.trans hfg.kind, hgh.form ∘ hfg.form⟩

theorem Flash.keeps_erase (f : Flash) (a : Nat) : f.Keeps (f.erase a) := ⟨rfl, Flash.erase_wf f a⟩

theorem Flash.keeps_prog (f : Flash) (a : Nat) (l : List Byte) : f.Keeps (f.prog a l) :=
  ⟨Flash.prog_kind l f a, Flash.prog_wf l f a⟩

theorem Flash.keeps_apply (f : Flash) (o : FlashOp) : f.Keeps (f.apply o) := by
  cases o with
  | erase a => exact f.keeps_erase a
  | prog a data => exact f.keeps_prog a data

theorem Flash.keeps_ops (f : Flash) (l : List FlashOp) : f.Keeps (l.foldl (fun (f : Flash) o => f.apply o) f) :=
  foldl_keeps f.Keeps _ l f (.refl f) fun g o h => h.trans (g.keeps_apply o)

/-! ### The queue and the flash, between two states -/

/-- The queue is as before, and the flash keeps its form and kind. -/
structure State.Keeps (s t : State) : Prop where
  queue : t.pending = s.pending
  flash : s.flash.Keeps t.flash

theorem State.Keeps.refl (s : State) : s.Keeps s := ⟨rfl, .refl _⟩

theorem State.Keeps.trans {s t u : State} (hst : s.Keeps t) (htu : t.Keeps u) : s.Keeps u :=
  ⟨htu.queue.trans hst.queue, hst.flash.trans htu.flash⟩

/-- A change of the device proper, after a state that keeps both. -/
theorem State.Keeps.putDev {s t : State} (h : s.Keeps t) (d : Dev) : s.Keeps { t with dev := d } := ⟨h.queue, h.flash⟩

theorem State.keeps_putDev (s : State) (d : Dev) : s.Keeps { s with dev := d } := .putDev (.refl s) d

theorem State.keeps_putFlash (s : State) {f : Flash} (h : s.flash.Keeps f) : s.Keeps { s with flash := f } := ⟨rfl, h⟩

theorem sameOutside_refl (s : State) : SameOutside s s := ⟨rfl, rfl, rfl, rfl, rfl⟩

theorem sameOutside_trans {s t u : State} (hst : SameOutside s t) (htu : SameOutside t u) : SameOutside s u := by
  obtain ⟨ho, hf, ht, hp, hq⟩ := hst
  obtain ⟨ho', hf', ht', hp', hq'⟩ := htu
  exact ⟨ho'.trans ho, hf'.trans hf, ht'.trans ht, hp'.trans hp, hq'.trans hq⟩

theorem sameOutside_putDev (s : State) (d : Dev) : SameOutside s { s with dev := d } := ⟨rfl, rfl, rfl, rfl, rfl⟩

theorem State.Keeps.of_sameOutside {s t : State} (h : SameOutside s t) : s.Keeps t := by
  obtain ⟨_, hflash, _, _, hqueue⟩ := h
  exact ⟨hqueue, hflash ▸ .refl _⟩

/-! ### The fault log (R65 to R67, R719) -/

theorem State.keeps_putEntry (s : State) (base slot fseq : Nat) (rest : List Byte) : s.Keeps (s.putEntry base slot fseq rest) :=
  ⟨rfl, s.flash.keeps_prog _ _⟩

theorem State.keeps_appendHere {s t : State} {base : Nat} {rest : List Byte} (h : s.appendHere base rest = some t) :
    s.Keeps t := by
  unfold State.appendHere at h
  split at h
  · cases h
  · obtain ⟨j, _, rfl⟩ := Option.map_eq_some_iff.mp h
    exact s.keeps_putEntry _ _ _ _

theorem State.keeps_enterSector (s : State) (base k fseq : Nat) (rest : List Byte) :
    s.Keeps (s.enterSector base k fseq rest) := by
  have herase : s.Keeps { s with flash := s.flash.erase (base + 4096 * k) } := s.keeps_putFlash (s.flash.keeps_erase _)
  exact foldl_keeps (fun r : State × Nat × Nat => s.Keeps r.1) _ _ _ herase fun r _ hr => hr.trans (r.1.keeps_putEntry _ _ _ _)

/-- An entry appended: in a blank log at its start, else in the sector of the newest entry or in the one it enters. -/
theorem State.keeps_append (s : State) (e : LogEnt) : s.Keeps (s.append e) := by
  unfold State.append
  split
  case h_1 => exact .refl s
  case h_2 base _ =>
    split
    case h_1 =>
      refine .trans ?_ (State.keeps_putEntry _ _ _ _ _)
      split
      · exact .refl s
      · exact s.keeps_putFlash (s.flash.keeps_erase base)
    case h_2 =>
      split
      case h_1 h => exact s.keeps_appendHere h
      case h_2 => exact s.keeps_enterSector _ _ _ _

theorem State.keeps_appendPending (s : State) : s.Keeps s.appendPending := by
  unfold State.appendPending
  split
  · exact .refl s
  · exact (s.keeps_putDev _).trans (State.keeps_append _ _)

theorem State.keeps_flushPend (s : State) : s.Keeps s.flushPend :=
  foldl_keeps s.Keeps _ _ s (.refl s) fun t _ h => h.trans t.keeps_appendPending

/-! ### An update (R56 to R64) -/

theorem sameOutside_updStart (s : State) (usb : Bool) : SameOutside s (s.updStart usb) := by
  unfold State.updStart
  dsimp only
  split
  · exact sameOutside_putDev s _
  · split <;> exact sameOutside_putDev s _

theorem sameOutside_updProgram (s : State) (u : Update) : SameOutside s (s.updProgram u) := by
  unfold State.updProgram
  dsimp only
  split
  · exact sameOutside_putDev s _
  · split <;> exact sameOutside_putDev s _

theorem sameOutside_updRecord (s : State) (u : Update) : SameOutside s (s.updRecord u) := by
  unfold State.updRecord
  dsimp only
  split
  · exact sameOutside_putDev s _
  · split
    · exact sameOutside_putDev s _
    · split <;> exact sameOutside_putDev s _

/-- An update command is rejected, fails or runs: each on the device proper. -/
theorem sameOutside_updOwn (s : State) (usb : Bool) (cmd : Nat) : SameOutside s (s.updOwn usb cmd) := by
  unfold State.updOwn
  split
  · split
    · exact sameOutside_updStart s usb
    · split <;> exact sameOutside_putDev s _
  · split
    · exact sameOutside_putDev s _
    · split
      · exact sameOutside_putDev s _
      · split
        case h_1 | h_2 => exact sameOutside_updProgram s _
        case h_3 | h_6 => exact sameOutside_putDev s _
        case h_4 => exact sameOutside_updRecord s _
        case h_5 => split <;> exact sameOutside_putDev s _

theorem sameOutside_updCmd (s : State) (usb : Bool) (cmd : Nat) : SameOutside s (s.updCmd usb cmd) := by
  unfold State.updCmd
  repeat' split
  · exact sameOutside_refl s
  · exact sameOutside_putDev s _
  · exact sameOutside_updOwn s usb cmd
  · exact sameOutside_updOwn s usb cmd

theorem State.keeps_updDone (s : State) (u : Update) (cmd : Nat) : s.Keeps (s.updDone u cmd) := by
  unfold State.updDone
  split
  case h_3 => dsimp only; split <;> exact s.keeps_putDev _
  all_goals exact s.keeps_putDev _

/-- The operations of a running command, all of them or those before a failure, then its end. -/
theorem keeps_cmdEnd (s : State) (opsDone : Nat) (flashFail : Bool) : s.Keeps (cmdEnd s opsDone flashFail) := by
  unfold cmdEnd
  split
  · exact .refl s
  · split
    · exact .refl s
    · have hops : ∀ l : List FlashOp, s.Keeps { s with flash := l.foldl (fun (f : Flash) o => f.apply o) s.flash } :=
        fun l => s.keeps_putFlash (s.flash.keeps_ops l)
      dsimp only
      split
      · exact .putDev (by split <;> exact .putDev (hops _) _) _
      · exact (hops _).trans (State.keeps_updDone _ _ _)

theorem State.keeps_opsPerformed (s : State) (opsDone : Nat) : s.Keeps (s.opsPerformed opsDone) := by
  unfold State.opsPerformed
  split
  · split
    · exact s.keeps_putFlash (s.flash.keeps_ops _)
    · exact .refl s
  · exact .refl s

/-! ### Start-up and the program reload, which read the flash (R27, R71) -/

theorem sameOutside_step3 (s : State) : SameOutside s (step3 s) := by
  unfold step3
  dsimp only
  split
  · exact sameOutside_putDev s _
  · repeat' split
    all_goals exact sameOutside_putDev s _

theorem sameOutside_startUp (s : State) : SameOutside s (startUp s) :=
  sameOutside_trans (sameOutside_putDev s _) (sameOutside_step3 _)

/-- Start-up after a state that keeps both, on other pins too. -/
theorem State.Keeps.startUp {s t : State} (h : s.Keeps t) : s.Keeps (startUp t) :=
  h.trans (.of_sameOutside (sameOutside_startUp t))

theorem sameOutside_restart (s : State) : SameOutside s (restart s) :=
  sameOutside_trans (sameOutside_putDev s _) (sameOutside_startUp _)

theorem sameOutside_bodyRead (s : State) (rowFails : List (BitVec 4 × Nat)) : SameOutside s (bodyRead s rowFails) := by
  unfold bodyRead
  split
  · exact sameOutside_refl s
  · dsimp only
    split
    · exact sameOutside_putDev s _
    · split <;> exact sameOutside_putDev s _

theorem sameOutside_pmReload (s : State) (c : Nat) : SameOutside s (pmReload s c) := by
  unfold pmReload
  dsimp only
  split
  · exact sameOutside_refl s
  · split
    · exact sameOutside_refl s
    · split <;> exact sameOutside_putDev s _

/-! ### The field lock (R749 to R763) -/

theorem keeps_lockMatch (s : State) (scope detail : Nat) : s.Keeps (lockMatch s scope detail) :=
  .putDev (s.keeps_append _) _

/-- Both verdicts come after the failure entry is on flash. -/
theorem keeps_judgeAttempt (s : State) (method carrier scope : Nat) (good : Bool) :
    s.Keeps (judgeAttempt s method carrier scope good).1 := by
  unfold judgeAttempt
  have hlogged : ∀ e : LogEnt, s.Keeps (s.flushPend.append e) := fun e => s.keeps_flushPend.trans (State.keeps_append _ e)
  dsimp only
  split
  · exact (hlogged _).trans (keeps_lockMatch _ _ _)
  · exact .putDev (hlogged _) _

theorem keeps_lockRespond (s : State) (k : Carrier) (body : List Byte) : s.Keeps (lockRespond s k body).1 := by
  unfold lockRespond
  split
  · exact s.keeps_putDev _
  · split
    · exact .refl s
    · split
      · exact .refl s
      · split
        · exact s.keeps_putDev _
        · exact (s.keeps_putDev _).trans (keeps_judgeAttempt _ _ _ _ _)

theorem keeps_lockPassword (s : State) (k : Carrier) (scope : Byte) (body : List Byte) :
    s.Keeps (lockPassword s k scope body).1 := by
  unfold lockPassword
  split
  · exact s.keeps_putDev _
  · split
    · exact s.keeps_putDev _
    · exact keeps_judgeAttempt s _ _ _ _

theorem State.keeps_lockMsg (s : State) (k : Carrier) (msg : List Byte) : s.Keeps (s.lockMsg k msg).1 := by
  unfold State.lockMsg
  dsimp only
  split_ifs
  · exact .refl s
  · exact .refl s
  · exact .refl s
  · exact s.keeps_putDev _
  · exact s.keeps_putDev _
  · exact .refl s
  · exact keeps_lockRespond s k _
  · exact .refl s
  · exact keeps_lockPassword s k _ _
  · exact .refl s

theorem keeps_lockRow (k : Carrier) (msg : List Byte) (s : State) : s.Keeps (lockRow k msg s) := by
  unfold lockRow
  split
  · exact .refl s
  · exact .putDev (s.keeps_lockMsg k msg) _

theorem keeps_lockHost (s : State) : s.Keeps (lockHost s) := by
  unfold lockHost
  dsimp only
  split
  · exact s.keeps_putDev _
  · exact .putDev (s.keeps_lockMsg _ _) _

/-- An OTP command writes OTP and its result, not the flash. -/
theorem keeps_otpCommand (s : State) (cmd : Nat) : s.Keeps (otpCommand s cmd) := by
  unfold otpCommand
  split_ifs
  · exact .refl s
  · exact s.keeps_putDev _
  · exact ⟨rfl, .refl _⟩

/-- LCK_SVC.FLOGRD reads the flash. -/
theorem sameOutside_flogRead (s : State) : SameOutside s (flogRead s) := by
  unfold flogRead
  split <;> exact sameOutside_putDev s _

theorem sameOutside_lockService (s : State) (v : Word) : SameOutside s (lockService s v) := by
  unfold lockService
  dsimp only
  split_ifs
  · exact sameOutside_putDev s _
  · exact sameOutside_trans (sameOutside_putDev s _) (sameOutside_flogRead _)
  · exact sameOutside_trans (sameOutside_putDev s _) (sameOutside_flogRead _)
  · exact sameOutside_putDev s _
  · exact sameOutside_putDev s _

theorem keeps_lockWrite (s : State) (off : Nat) (v : Word) : s.Keeps (lockWrite s off v) := by
  unfold lockWrite
  dsimp only
  split
  case h_1 => split <;> exact s.keeps_putDev _
  case h_2 =>
    split
    · exact (s.keeps_putDev _).trans (keeps_lockHost _)
    · exact s.keeps_putDev _
  case h_3 => exact keeps_otpCommand s _
  case h_4 => exact .of_sameOutside (sameOutside_lockService s v)
  case h_5 => exact s.keeps_putDev _

/-! ### Register writes and the vendor interface (R575 to R578, R770) -/

theorem State.keeps_regWrite (s : State) (ag : Agent) (off : Nat) (v : Word) : s.Keeps (s.regWrite ag off v) := by
  unfold State.regWrite
  split_ifs
  · exact .refl s
  · exact .of_sameOutside (sameOutside_restart s)
  · exact .refl s
  · exact .of_sameOutside (sameOutside_updCmd s _ _)
  · exact keeps_lockWrite s off v
  · exact s.keeps_putDev _

theorem keeps_vendorRegRead (s : State) (a n : Nat) : s.Keeps (vendorRegRead s a n).st := by
  unfold vendorRegRead
  split
  · exact .refl s
  · exact s.keeps_putDev _

theorem keeps_vendorRegWrite (s : State) (ag : Agent) (a n : Nat) (data : List Byte) :
    s.Keeps (vendorRegWrite s ag a n data).st := by
  unfold vendorRegWrite
  split_ifs
  · exact .refl s
  · exact .refl s
  · exact foldl_keeps s.Keeps _ _ s (.refl s) fun t _ h => h.trans (t.keeps_regWrite _ _ _)

theorem keeps_vendorMemRead (s : State) (a n : Nat) : s.Keeps (vendorMemRead s a n).st := by
  unfold vendorMemRead
  split_ifs
  · exact .refl s
  · exact s.keeps_putDev _
  · split <;> exact .refl s

theorem keeps_vendorMemWrite (s : State) (ag : Agent) (a n : Nat) (data : List Byte) :
    s.Keeps (vendorMemWrite s ag a n data).st := by
  unfold vendorMemWrite
  dsimp only
  split_ifs
  · exact .refl s
  · exact .refl s
  · exact s.keeps_putDev _
  · split <;> exact s.keeps_putDev _

theorem keeps_vendorLock (s : State) (k : Carrier) (a n : Nat) (data : List Byte) : s.Keeps (vendorLock s k a n data).st := by
  unfold vendorLock
  split_ifs
  · exact .refl s
  · exact .refl s
  · exact s.keeps_lockMsg k _

theorem keeps_consoleVendor (s : State) (m : List Byte) : s.Keeps (consoleVendor s m).st := by
  unfold consoleVendor
  dsimp only
  split_ifs
  · exact .refl s
  · exact .refl s
  · split
    · exact keeps_vendorRegRead s _ _
    · exact keeps_vendorRegWrite s _ _ _ _
    · exact keeps_vendorMemRead s _ _
    · exact keeps_vendorMemWrite s _ _ _ _
    · exact keeps_vendorLock s _ _ _ _

theorem keeps_consoleTake (s : State) (type : Byte) (msg rest : List Byte) : s.Keeps (consoleTake s type msg rest) := by
  unfold consoleTake
  dsimp only
  split_ifs
  · exact .putDev ((s.keeps_putDev _).trans (State.keeps_lockMsg _ _ _)) _
  · exact .putDev ((s.keeps_putDev _).trans (keeps_consoleVendor _ _)) _
  · exact s.keeps_putDev _

theorem keeps_consoleFrame (s : State) (gap : Bool) : s.Keeps (consoleFrame s gap) := by
  unfold consoleFrame
  dsimp only
  split_ifs
  · exact .refl s
  · exact s.keeps_putDev _
  · exact .refl s
  · exact s.keeps_putDev _
  · exact keeps_consoleTake s _ _ _

/-! ### What every command keeps -/

/-- An answer's next state keeps the queue and the flash's form and kind. -/
def Answers (s : State) (o : Out) : Prop := ∀ t, o = .next t → s.Keeps t

theorem Answers.next {s t : State} (h : s.Keeps t) : Answers s (.next t) := by
  rintro _ ⟨⟩
  exact h

theorem answers_putDev (s : State) (d : Dev) : Answers s (.next { s with dev := d }) := .next (s.keeps_putDev d)

theorem answers_writeRow (ag : Agent) (off : Nat) (v : Word) (s : State) : Answers s (writeRow ag off v s) :=
  .next (s.keeps_regWrite ag off v)

theorem answers_updRow (ag : Agent) (cmd : Nat) (s : State) : Answers s (updRow ag cmd s) := by
  refine .next (.of_sameOutside ?_)
  split
  · exact sameOutside_updCmd s _ _
  · exact sameOutside_refl s

theorem answers_vendorRow (cmd : Nat) (seq : Half) (addr : Nat) {f : State → Vendor} {s : State} (h : s.Keeps (f s).st) :
    Answers s (vendorRow cmd seq addr f s) := by
  unfold vendorRow
  split
  · exact .next (.refl s)
  · exact .next (.putDev h _)

/-- A command acts on the device proper, is a register write, or is one of the few that read or write the flash, OTP, the TAP
or the pins. -/
theorem answers_exec (i : Instr) (s : State) : Answers s (exec i s) := by
  cases i with
  | rdaPlibWrite | rdaRselWrite | valSpill2Write | chnPowerOff | chnPowerOn | restart | door | chnWindowWrite | bnkOwnWrite
  | bnkGuestWrite | hmuteWrite | belPlatWrite | brtSrcWrite | rebase | macModeWrite | lecClear | hostAtomicGo
  | transportEnable | transportDisable | keyLoad | keyEpoch | keyErase | mrAttrWrite | refresh | hrpApbaseWrite
  | hrpCxselWrite | timerEnable | timerDisable | timerIomodeWrite | wdtLock | reqLeave | reqSafe | reqIdle | reqDormant
  | reqService | lckCtlRelock | lckHcmdGo | setpw | setkey | lockpw | lockcr | sealLock | serviceTest | flogrd
  | registerWrite => exact answers_writeRow _ _ _ s
  | coreRegisterViewWrite ag c off v =>
    change Answers s (execCoreRegisterViewWrite ag c off v s)
    unfold execCoreRegisterViewWrite
    split
    · exact answers_writeRow _ _ _ s
    · exact .next (.refl s)
  | hostHighHalfWrite off data be =>
    change Answers s (execHostHighHalfWrite off data be s)
    unfold execHostHighHalfWrite
    dsimp only
    split
    · exact .next ((s.keeps_putDev _).trans (State.keeps_regWrite _ _ _ _))
    · exact .next (s.keeps_putDev _)
  | start | programBody | verify | record | commit | abort => exact answers_updRow _ _ s
  | cfgCmdend opsDone flashFail => exact .next (keeps_cmdEnd s opsDone flashFail)
  | faultLogAppend =>
    refine .next ?_
    split
    · exact .refl s
    · exact s.keeps_appendPending
  | pmReload c => exact .next (.of_sameOutside (sameOutside_pmReload s _))
  | bodyReadComplete rowFails => exact .next (.of_sameOutside (sameOutside_bodyRead s rowFails))
  | reload ag =>
    refine .next (.of_sameOutside ?_)
    split
    · exact sameOutside_restart s
    · exact sameOutside_refl s
  | wake sources ctxErr =>
    change Answers s (execWake sources ctxErr s)
    unfold execWake
    split
    · exact .next ((s.keeps_putDev _).trans (.of_sameOutside (sameOutside_restart _)))
    · exact answers_putDev s _
  | wdtBite =>
    change Answers s (execWdtBite s)
    unfold execWdtBite
    dsimp only
    split_ifs
    · exact .next (.refl s)
    · exact .next (s.keeps_putDev _)
    · exact .next ((s.keeps_putDev _).trans (.of_sameOutside (sameOutside_restart _)))
  | resetNRise qio33 otpBad =>
    change Answers s (execResetNRise qio33 otpBad s)
    unfold execResetNRise
    split
    · exact .next (.refl s)
    · exact .next (State.Keeps.startUp ⟨rfl, .refl _⟩)
  | resetNLow => exact .next ⟨rfl, .refl _⟩
  | powerOnRelease otpBad =>
    change Answers s (execPowerOnRelease otpBad s)
    unfold execPowerOnRelease
    split
    · exact .next (.refl s)
    · exact .next ⟨rfl, .refl _⟩
  | supplyCollapse opsDone =>
    obtain ⟨hqueue, hflash⟩ := s.keeps_opsPerformed opsDone
    exact .next ⟨hqueue, hflash⟩
  | getstate | challenge | respond | password | relock => exact .next (keeps_lockRow _ _ s)
  | regRead seq addr len =>
    exact answers_vendorRow (f := fun s => vendorRegRead s addr.toNat len.toNat) _ _ _ (keeps_vendorRegRead s _ _)
  | regWrite seq addr len data =>
    exact answers_vendorRow (f := fun s => vendorRegWrite s .usb addr.toNat len.toNat data) _ _ _ (keeps_vendorRegWrite s _ _ _ _)
  | memRead seq addr len =>
    exact answers_vendorRow (f := fun s => vendorMemRead s addr.toNat len.toNat) _ _ _ (keeps_vendorMemRead s _ _)
  | memWrite seq addr len data =>
    exact answers_vendorRow (f := fun s => vendorMemWrite s .usb addr.toNat len.toNat data) _ _ _ (keeps_vendorMemWrite s _ _ _ _)
  | lock seq len payload =>
    exact answers_vendorRow (f := fun s => vendorLock s .usbCmd 0 len.toNat payload) _ _ _ (keeps_vendorLock s _ _ _ _)
  | consoleFrame gap => exact .next (keeps_consoleFrame s gap)
  | tapReset | idcode | extest | samplePreload =>
    refine .next ?_
    split
    · exact ⟨rfl, .refl _⟩
    · exact .refl s
  | bypass code =>
    change Answers s (execBypass code s)
    unfold execBypass
    split_ifs
    · exact .next (.refl s)
    · rintro _ ⟨⟩
    · exact .next ⟨rfl, .refl _⟩
  | _ => exact answers_putDev s _

theorem sameOutside_of_next_putDev {s t : State} {d : Dev} (h : Host.Outcome.next { s with dev := d } = (.next t : Out)) :
    SameOutside s t := by
  cases h
  exact sameOutside_putDev s d

/-- A step is one timebase period of the device proper, or the command at the front of the queue. -/
theorem flash_keeps_of_step {s t : State} (h : step s = .next t) : s.flash.Keeps t.flash := by
  unfold step at h
  split at h
  · cases h
    exact .refl _
  · exact (answers_exec _ _ t h).flash

/-- Settles O4: every flash operation keeps form and kind, and so does every step (`flash_keeps_of_step`). -/
theorem flashKeepsItsForm : Obligations.FlashKeepsItsForm := by
  unfold Obligations.FlashKeepsItsForm
  intro s t hform hstep
  obtain ⟨hkind, hkeeps⟩ := flash_keeps_of_step hstep
  exact ⟨hkeeps hform, hkind⟩

/-- Settles O7: no command touches the queue (`answers_exec`), and each one listed acts on the device proper. -/
theorem commandsLeaveTheQueueOtpAndFlash : Obligations.CommandsLeaveTheQueueOtpAndFlash := by
  unfold Obligations.CommandsLeaveTheQueueOtpAndFlash
  intro i s t h
  refine ⟨(answers_exec i s t h).queue, ?_⟩
  cases i with
  | blockStart | eventIntake | noteOn | noteOff | polyPress | control | pitchBend | program | perNote | partMode | allOff
  | spillNote | mark | nop | cmac | mac | add | asl | and | maxi | ldi | mova | movp | bra | call | rep | waitb | stop
  | interruptAccept | bankPortOperation | bellRowFetch | queueExit | muteRampEnd | bthVsEdge | beacon | frameReceive
  | frameDelivery | frameTransmit | workRequestStart | packetSend | write | read | send | ack | nak | resp
  | triggerEnabled | streamBlockSend | audioOutPacket | audioInPacket | uartReceiveCharacter | timerZero | timerMatch
  | vidStep | hot | selftestVerdict | stateSplit => exact sameOutside_of_next_putDev h
  | _ => trivial

/-! ### The update commands in their places (R57 to R60) -/

/-- A command of the agent that holds the update, or of either agent while none is held, reaches the update (R60). -/
theorem updRow_of_holder {s : State} {ag : Agent} {cmd : Nat} (hag : ag = .host ∨ ag = .usb) (hrun : s.dev.running = true)
    (hcmd : 1 ≤ cmd ∧ cmd ≤ 6) (hold : ∀ u, s.dev.boot.upd = some u → u.usb = decide (ag = .usb)) :
    updRow ag cmd s = .next (s.updOwn (decide (ag = .usb)) cmd) := by
  have hmay : s.dev.mayWrite ag 0x1020 = true := by
    rcases hag with rfl | rfl
    · simp [Dev.mayWrite, hrun]
    · rfl
  have husb : decide (ag ≠ .host) = decide (ag = .usb) := by rcases hag with rfl | rfl <;> rfl
  rw [updRow, if_pos hmay, husb, State.updCmd, if_neg (by simp [hrun]; omega)]
  cases hupd : s.dev.boot.upd with
  | none => rfl
  | some u => simp [hold u hupd]

theorem updOwn_start {s : State} (h : s.dev.boot.upd = none) (usb : Bool) : s.updOwn usb 1 = s.updStart usb := by
  rw [State.updOwn, h, if_pos rfl]

theorem updOwn_abort {s : State} {u : Update} (h : s.dev.boot.upd = some u) (usb : Bool) : s.updOwn usb 6 = s.failUpd 0 := by
  rw [State.updOwn, h]
  rfl

/-- With no command running, a command other than ABORT is judged by the last one that completed (R57). -/
theorem updOwn_idle {s : State} {u : Update} (h : s.dev.boot.upd = some u) (hidle : u.run = none) (usb : Bool) {last : Nat}
    (hlast : u.last = last) :
    (last = 1 ∨ last = 2 → s.updOwn usb 2 = s.updProgram u) ∧ (last = 2 → s.updOwn usb 3 = s.runUpd u 3 []) ∧
    (last = 3 → s.updOwn usb 4 = s.updRecord u) ∧
    (last = 4 → s.dev.on PWR_STAT.BOW = false →
      s.updOwn usb 5 = s.runUpd u 5 [.prog (recAddr s.inactive + 0xFC) (leBytes 4 0x5A5AC3C3)]) := by
  simp only [State.updOwn, h, hidle, hlast]
  refine ⟨?_, ?_, ?_, ?_⟩
  · rintro (rfl | rfl) <;> rfl
  · rintro rfl; rfl
  · rintro rfl; rfl
  · rintro rfl hbow
    simp [hbow]

/-- An update as START leaves it: held, no command completed yet (R57). -/
def Update.opened (usb : Bool) : Update := ⟨usb, 0, none, [], false, [], []⟩

/-- The device at a START that is accepted: the agent shown, STEP and ERR 0. -/
def Dev.updOpened (d : Dev) (usb : Bool) : Dev :=
  ((d.s CFG_UPD_STAT.AGENT (b2n usb)).s CFG_UPD_STAT.STEP 0).s CFG_UPD_STAT.ERR 0

/-- On a flash that the device writes, and without a brown-out warning, START erases the inactive record sector first. -/
theorem updStart_of_writable {s : State} (hw : s.flash.writable = true) (hbow : s.dev.on PWR_STAT.BOW = false) (usb : Bool) :
    ∃ ops, s.updStart usb =
      ({ s with dev := s.dev.updOpened usb } : State).runUpd (.opened usb) 1 (.erase (recAddr s.inactive) :: ops) := by
  have hbow' : (s.dev.s CFG_UPD_STAT.AGENT (b2n usb)).on PWR_STAT.BOW = false := by
    rw [Dev.on, g_s_reg _ CFG_UPD_STAT.AGENT PWR_STAT.BOW _ _ _ (by decide)]
    exact hbow
  unfold State.updStart
  dsimp only
  rw [if_neg (by simp [hw]), if_neg (by simp [hbow'])]
  exact ⟨_, rfl⟩

/-- A PROGRAM that passes R58 runs on the bytes of its source. -/
theorem updProgram_of_ok {s : State} {u : Update} (hok : s.dev.programOk u.usb = true) (hbow : s.dev.on PWR_STAT.BOW = false) :
    ∃ d ops, s.updProgram u = ({ s with dev := d } : State).runUpd u 2 ops := by
  unfold State.updProgram
  dsimp only
  rw [if_neg (by simp [hok]), if_neg (by simp [hbow])]
  exact ⟨_, _, rfl⟩

/-- The source of RECORD: 256 bytes as the agent reads them. -/
def State.recordRead (s : State) (u : Update) : BnkRes := s.dev.bnkRead (updAgent u.usb) (s.dev.g CFG_UPD_SRC) 256

/-- A RECORD that R59 accepts runs, and keeps the record that it read. -/
theorem updRecord_of_ok {s : State} {u : Update} (hsrc : s.dev.srcOwned u.usb (s.dev.g CFG_UPD_SRC) 256 = true)
    (hok : State.recordErr { s with dev := (s.recordRead u).dev } (s.recordRead u).data u.digest = 0)
    (hbow : s.dev.on PWR_STAT.BOW = false) :
    ∃ ops, s.updRecord u = ({ s with dev := (s.recordRead u).dev } : State).runUpd
      { u with record := (s.recordRead u).data } 4 ops := by
  unfold State.recordRead at hok
  unfold State.updRecord
  dsimp only
  rw [if_neg (by simp [hsrc]), if_neg (not_not.mpr hok), if_neg (by simp [hbow])]
  exact ⟨_, rfl⟩

/-! ### A command that runs, and one that ends the update -/

theorem runUpd_upd (s : State) (u : Update) (cmd : Nat) (ops : List FlashOp) :
    (s.runUpd u cmd ops).dev.boot.upd = some { u with run := some cmd, ops := ops } := rfl

theorem runUpd_busy (s : State) (u : Update) (cmd : Nat) (ops : List FlashOp) :
    (s.runUpd u cmd ops).dev.g CFG_UPD_STAT.BUSY = 1 := g_s_same _ CFG_UPD_STAT.BUSY 1 0

/-- A command that runs changes BUSY alone of CFG_UPD_STAT. -/
theorem runUpd_g (s : State) (u : Update) (cmd : Nat) (ops : List FlashOp) (f : Fld) (h : 0 < f.lo) :
    (s.runUpd u cmd ops).dev.g f = s.dev.g f :=
  g_s_bits _ CFG_UPD_STAT.BUSY f 1 0 0 (h := .inr h)

theorem g_updOpened (d : Dev) (usb : Bool) :
    (d.updOpened usb).g CFG_UPD_STAT.STEP = 0 ∧ (d.updOpened usb).g CFG_UPD_STAT.ERR = 0 ∧
    (d.updOpened usb).g CFG_UPD_STAT.AGENT = b2n usb := by
  unfold Dev.updOpened
  refine ⟨?_, g_s_same _ CFG_UPD_STAT.ERR 0 0, ?_⟩
  · rw [g_s_bits _ CFG_UPD_STAT.ERR CFG_UPD_STAT.STEP _ _ _ (h := by decide)]
    exact g_s_same _ CFG_UPD_STAT.STEP 0 0
  · rw [g_s_bits _ CFG_UPD_STAT.ERR CFG_UPD_STAT.AGENT _ _ _ (h := by decide),
      g_s_bits _ CFG_UPD_STAT.STEP CFG_UPD_STAT.AGENT _ _ _ (h := by decide),
      g_s_same _ CFG_UPD_STAT.AGENT]
    cases usb <;> rfl

theorem cmdEnd_boot (d : Dev) (err : Nat) : (d.cmdEnd err).boot = d.boot := Dev.raise_boot _ _ _ _

/-- The end of a command shows its error and is not busy; its notice leaves CFG_UPD_STAT. -/
theorem g_cmdEnd (d : Dev) (err : Nat) :
    (d.cmdEnd err).g CFG_UPD_STAT.BUSY = 0 ∧ (d.cmdEnd err).g CFG_UPD_STAT.ERR = err % 16 := by
  have hraise : (d.cmdEnd err).reg 0x1024 = ((d.s CFG_UPD_STAT.ERR err).s CFG_UPD_STAT.BUSY 0).reg 0x1024 :=
    reg_raise _ _ _ _ _ (by decide) (by decide) (by decide) (by decide)
  have hg : ∀ f : Fld, f.off 0 = 0x1024 → (d.cmdEnd err).g f = ((d.s CFG_UPD_STAT.ERR err).s CFG_UPD_STAT.BUSY 0).g f :=
    fun f hf => by rw [Dev.g, Dev.g, hf, hraise]
  constructor
  · rw [hg _ rfl]
    exact g_s_same _ CFG_UPD_STAT.BUSY 0 0
  · rw [hg _ rfl, g_s_bits _ CFG_UPD_STAT.BUSY CFG_UPD_STAT.ERR _ _ _ (h := by decide)]
    exact g_s_same _ CFG_UPD_STAT.ERR err 0

/-- Settles O10: each command reaches its place in the update (`updRow_of_holder`, `updOwn_idle`) and runs there; ABORT ends
the update with ERR 0 (`g_cmdEnd`). -/
theorem updateCommandsRunInOrder : Obligations.UpdateCommandsRunInOrder := by
  unfold Obligations.UpdateCommandsRunInOrder
  intro s ag hag hrun hbow
  refine ⟨fun hnone hw => ?start, fun u hupd husb => ?held⟩
  case start =>
    obtain ⟨ops, hstart⟩ := updStart_of_writable hw hbow (decide (ag = .usb))
    obtain ⟨hstep, herr, hagent⟩ := g_updOpened s.dev (decide (ag = .usb))
    have hexec := updRow_of_holder hag hrun (cmd := 1) (by decide) (by simp [hnone])
    rw [updOwn_start hnone, hstart] at hexec
    exact ⟨_, _, hexec, runUpd_upd _ _ _ _, by simp [Update.opened], rfl, rfl, runUpd_busy _ _ _ _,
      (runUpd_g _ _ _ _ _ (by decide)).trans hstep, (runUpd_g _ _ _ _ _ (by decide)).trans herr,
      (runUpd_g _ _ _ _ _ (by decide)).trans hagent, sameOutside_putDev s _⟩
  case held =>
    have hexec : ∀ cmd, 1 ≤ cmd ∧ cmd ≤ 6 → updRow ag cmd s = .next (s.updOwn (decide (ag = .usb)) cmd) := by
      refine fun cmd hcmd => updRow_of_holder hag hrun hcmd fun v hv => ?_
      obtain rfl : u = v := Option.some.inj (hupd.symm.trans hv)
      rw [Bool.eq_iff_iff, husb, decide_eq_true_iff]
    refine ⟨?abort, fun hidle => ?_⟩
    case abort =>
      have habort := hexec 6 (by decide)
      rw [updOwn_abort hupd] at habort
      obtain ⟨hbusy, herr⟩ := g_cmdEnd s.dev.updEnd 0
      exact ⟨_, habort, congrArg Boot.upd (cmdEnd_boot s.dev.updEnd 0), hbusy, herr, sameOutside_putDev s _⟩
    obtain ⟨hprogram, hverify, hrecord, hcommit⟩ := updOwn_idle hupd hidle (decide (ag = .usb)) rfl
    refine ⟨fun hlast hok => ?program, fun hlast => ?verify, fun hlast hsrc hok _ => ?record, fun hlast => ?commit⟩
    case program =>
      obtain ⟨d, ops, hops⟩ := updProgram_of_ok hok hbow
      exact ⟨_, _, (hexec 2 (by decide)).trans (congrArg _ ((hprogram hlast).trans hops)), runUpd_upd _ _ _ _, rfl,
        runUpd_busy _ _ _ _, sameOutside_putDev s _⟩
    case verify =>
      exact ⟨_, (hexec 3 (by decide)).trans (congrArg _ (hverify hlast)), runUpd_upd _ _ _ _, runUpd_busy _ _ _ _,
        sameOutside_putDev s _⟩
    case record =>
      obtain ⟨ops, hops⟩ := updRecord_of_ok hsrc hok hbow
      exact ⟨_, _, (hexec 4 (by decide)).trans (congrArg _ ((hrecord hlast).trans hops)), runUpd_upd _ _ _ _, rfl, rfl,
        runUpd_busy _ _ _ _, sameOutside_putDev s _⟩
    case commit =>
      exact ⟨_, (hexec 5 (by decide)).trans (congrArg _ (hcommit hlast hbow)), runUpd_upd _ _ _ _, runUpd_busy _ _ _ _,
        sameOutside_putDev s _⟩

end Sys2Proof.Machine

/-! SUPPORT. The fixed form of the device: how many cores, ports, UARTs, timer channels and result groups it has, the size of
the mailbox latch, and the canonical form of the bank memory. Every function of the model that returns a device or a state
keeps it. The lemmas follow the model's files; each is named after its function, and its proof has the function's own shape:
a branch is `.ite`, an update of other parts `.upd`, a call the callee's lemma. -/
namespace Sys2Proof.Machine

-- Some hundreds of small proofs follow: elaborated at once, they open more threads than the memory limit holds.
set_option Elab.async false

/-- The parts of the device of fixed size, and the bank memory in canonical form. -/
structure FixedForm (chn : List Core) (mac : List Port) (uart : List Uart) (tim : List TimCh) (groups : List GroupSt)
    (latch : List Byte) (mem : Sparse Byte) : Prop where
  cores : chn.length = 16
  ports : mac.length = 4
  uarts : uart.length = 2
  timers : tim.length = 8
  groups : groups.length = 5
  latch : latch.length = 16
  memory : Memory.wf mem = true

/-- The device has its fixed form. -/
def Dev.Form (d : Dev) : Prop :=
  FixedForm d.chn d.mac d.uart d.tim.ch d.hrp.groups d.hrp.mbxLatch d.bnk.mem

/-- The device of the state has its fixed form. -/
def State.Form (s : State) : Prop := s.dev.Form

namespace State.Form
variable {o : Otp} {t : Tap} {f : Flash} {p : Pins} {d : Dev} {q : List Instr}
theorem dev (h : d.Form) : (State.mk o t f p d q).Form := h
variable {s t : State}
theorem ite {c : Prop} {_ : Decidable c} (h : s.Form) (ht : t.Form) : (if c then s else t).Form := by
  split
  · exact h
  · exact ht
theorem ifThen {c : Prop} {_ : Decidable c} (h : s.Form) (ht : s.Form → t.Form) :
    (if c then t else s).Form := .ite (ht h) h
theorem ifElse {c : Prop} {_ : Decidable c} (h : s.Form) (ht : s.Form → t.Form) :
    (if c then s else t).Form := .ite h (ht h)
theorem foldl {α : Type} {f : State → α → State} (h : s.Form) {l : List α} (hf : ∀ {s a}, s.Form → (f s a).Form) :
    (l.foldl f s).Form := foldl_keeps State.Form f l s h fun _ _ => hf
end State.Form

namespace Dev.Form

theorem ofState {s : State} (h : s.Form) : s.dev.Form := h

section
variable {d : Dev} {regs : Sparse Word} {not : Notices} {brt : Brt} {evs : Evs} {val : Val} {rda : Rda} {bel : Bel}
  {blw : Blw} {usb : Usb} {pwr : Pwr} {flt : Flt} {boot : Boot} {lck : Lck} {free : Nat}
  {chn : List Core} {bnk : Banks} {mac : List Port} {uart : List Uart} {hrp : Hrp} {tim : Tim}
theorem upd (h : d.Form) :
    (Dev.mk regs not brt evs val rda d.chn d.bnk bel d.mac blw usb d.uart d.hrp d.tim pwr flt boot lck free).Form := h
theorem updHrp (h : d.Form) (hg : hrp.groups = d.hrp.groups := by rfl)
    (hl : hrp.mbxLatch = d.hrp.mbxLatch := by rfl) :
    (Dev.mk regs not brt evs val rda d.chn d.bnk bel d.mac blw usb d.uart hrp d.tim pwr flt boot lck free).Form :=
  { h with groups := (congrArg List.length hg).trans h.groups, latch := (congrArg List.length hl).trans h.latch }
theorem updBnk (h : d.Form) (hm : bnk.mem = d.bnk.mem := by rfl) :
    (Dev.mk regs not brt evs val rda d.chn bnk bel d.mac blw usb d.uart d.hrp d.tim pwr flt boot lck free).Form :=
  { h with memory := (congrArg Memory.wf hm).trans h.memory }
theorem updTim (h : d.Form) (hm : tim.ch = d.tim.ch := by rfl) :
    (Dev.mk regs not brt evs val rda d.chn d.bnk bel d.mac blw usb d.uart d.hrp tim pwr flt boot lck free).Form :=
  { h with timers := (congrArg List.length hm).trans h.timers }
theorem updCores (h : d.Form) {f : Core → Core} :
    (Dev.mk regs not brt evs val rda (d.chn.map f) d.bnk bel d.mac blw usb d.uart d.hrp d.tim pwr flt boot lck free).Form :=
  { h with cores := (List.length_map f).trans h.cores }
end
variable {d e : Dev}
theorem ite {c : Prop} {_ : Decidable c} (h : d.Form) (he : e.Form) : (if c then d else e).Form := by
  split
  · exact h
  · exact he
theorem ifThen {c : Prop} {_ : Decidable c} (h : d.Form) (he : d.Form → e.Form) :
    (if c then e else d).Form := .ite (he h) h
theorem ifElse {c : Prop} {_ : Decidable c} (h : d.Form) (he : d.Form → e.Form) :
    (if c then d else e).Form := .ite h (he h)
theorem foldl {α : Type} {f : Dev → α → Dev} (h : d.Form) {l : List α} (hf : ∀ {d a}, d.Form → (f d a).Form) :
    (l.foldl f d).Form := foldl_keeps Dev.Form f l d h fun _ _ => hf
theorem ofFst {α : Type} {x : Dev × α} {a : α} (hx : x = (e, a)) (h : x.1.Form) : e.Form := by
  rw [hx] at h
  exact h
theorem getD {o : Option Dev} (h : d.Form) (ho : ∀ {x}, o = some x → x.Form) : (o.getD d).Form := by
  cases o with
  | none => exact h
  | some x => exact ho rfl
theorem setReg (h : d.Form) {o v} : (d.setReg o v).Form := h
theorem setCore (h : d.Form) {c k} : (d.setCore c k).Form := { h with cores := (length_setAt _ _ _).trans h.cores }
theorem setPort (h : d.Form) {c k} : (d.setPort c k).Form := { h with ports := (length_setAt _ _ _).trans h.ports }
theorem setSer (h : d.Form) {c k} : (d.setSer c k).Form := { h with uarts := (length_setAt _ _ _).trans h.uarts }
theorem setTch (h : d.Form) {n c} : (d.setTch n c).Form := { h with timers := (length_setAt _ _ _).trans h.timers }
theorem setGrp (h : d.Form) {n c} : (d.setGrp n c).Form := { h with groups := (length_setAt _ _ _).trans h.groups }
theorem putMem (h : d.Form) {a l} : (d.putMem a l).Form := { h with memory := memPut_wf _ _ _ h.memory }
end Dev.Form

/-! ### Operations every unit uses -/

namespace Dev.Form
variable {d : Dev}

theorem s (h : d.Form) {f v i} : (d.s f v i).Form := .setReg h
theorem cnt (h : d.Form) {f i n} : (d.cnt f i n).Form := .s h
theorem sIf (h : d.Form) {c f v i} : (d.sIf c f v i).Form := .ite (.s h) h
theorem setFlag (h : d.Form) {f i b} : (d.setFlag f i b).Form := .setReg h
theorem drawn (h : d.Form) : d.drawn.Form := .upd h
theorem prepDwake (h : d.Form) {en reason} : (d.prepDwake en reason).Form := .ite (.updHrp h) h
theorem prepRwake (h : d.Form) {en reason} : (d.prepRwake en reason).Form := .ite (.s (.upd h)) h
theorem raise (h : d.Form) {src code unit} : (d.raise src code unit).Form :=
  .ite (.ifThen (.ifThen (.upd h) fun h' => .ite (.upd h) (.cnt h')) fun h => .prepRwake (.prepDwake h)) (.s (.cnt (.upd
    h)))
theorem raiseOnce (h : d.Form) {src code unit key} : (d.raiseOnce src code unit key).Form := .ite h (.raise (.upd h))
theorem setMode (h : d.Form) {m} : (d.setMode m).Form := .ifThen (.s h) fun h => .raise h
theorem logEntry (h : d.Form) {ftype lfc notice detail} : (d.logEntry ftype lfc notice detail).Form :=
  .ite h (.ite (.upd h) (.cnt h))
theorem muteReq (h : d.Form) {k} : (d.muteReq k).Form := .ifThen (.s h) fun h => .s h
theorem muteCheck (h : d.Form) : d.muteCheck.Form := .ite h (.ifElse (.s h) fun h' => .ite h' h)
theorem muteEnd (h : d.Form) {k} : (d.muteEnd k).Form := .muteCheck (.s h)
end Dev.Form

/-! ### Health of units and self-tests -/

namespace Dev.Form
variable {d : Dev}

theorem showEst (h : d.Form) {kind i} : (d.showEst kind i).Form := by
  unfold Dev.showEst
  split
  exacts [.s h, .setReg h, .s h, .s h, .s h, h]
theorem putMst (h : d.Form) {kind i v} : (d.putMst kind i v).Form :=
  .showEst (by split; exacts [.s h, .setReg h, .setCore h, .s h, .s h, .s h, h])
theorem putDst (h : d.Form) {kind i v} : (d.putDst kind i v).Form :=
  .showEst (by split; exacts [.s h, .setReg h, .setCore h, .s h, .s h, .s h, h])
theorem logicDst (h : d.Form) {kind i v} : (d.logicDst kind i v).Form := by
  unfold Dev.logicDst
  dsimp only
  split
  · exact .ifElse (.upd h) fun h => .putDst h
  · exact .ite h (.putDst h)
theorem manage (h : d.Form) {kind i v} : (d.manage kind i v).Form :=
  .putMst (by split; exacts [.ifElse (.upd h) fun h => .putDst h, .upd h])
theorem placeResult (h : d.Form) {i words extra} : (d.placeResult i words extra).Form := .setGrp h
theorem showTests (h : d.Form) : d.showTests.Form := .s h
theorem beginTest (h : d.Form) {t} : (d.beginTest t).Form := .showTests (.cnt (.upd h))
theorem startTest (h : d.Form) {kind i row} : (d.startTest kind i row).Form :=
  .ite h (.ite (.ite (.upd h) h) (.beginTest h))
theorem serviceDone (h : d.Form) {t} : (d.serviceDone t).Form := .ite (.s (.upd h)) h
theorem endTest (h : d.Form) {t} : (d.endTest t).Form := by
  unfold Dev.endTest
  dsimp only
  split
  · exact .beginTest (.upd (.showTests (.upd (.serviceDone h))))
  · exact .showTests (.upd (.serviceDone h))
end Dev.Form

/-! ### Banks -/

namespace Dev.Form
variable {d : Dev}

theorem showPoison (h : d.Form) {bank} : (d.showPoison bank).Form := .s h
theorem poison (h : d.Form) {w} : (d.poison w).Form := .ite h (.showPoison (.updBnk h))
theorem unpoison (h : d.Form) {w} : (d.unpoison w).Form := .ite (.showPoison (.updBnk h)) h
theorem eccSingle (h : d.Form) {w} : (d.eccSingle w).Form := .ite h (.startTest (.s (.cnt h)))
theorem eccDouble (h : d.Form) {w} : (d.eccDouble w).Form :=
  .ite h (.startTest (.raise (.s (.cnt (.poison (.putMem (.drawn h)))))))
theorem eccEvents (h : d.Form) {a n ecc} : (d.eccEvents a n ecc).Form :=
  .foldl h fun h => by split; exacts [.ite (.eccSingle h) h, .ite (.eccDouble h) h]
theorem memRead (h : d.Form) {a n} : (d.memRead a n).1.Form := .cnt h
theorem wordWrite (h : d.Form) {a data} : (d.wordWrite a data).Form := .unpoison (.putMem (.ite (.putMem h) h))
theorem memWrite (h : d.Form) {a data} : (d.memWrite a data).Form := .foldl h fun h => .wordWrite h
theorem drainOwner (h : d.Form) {bank old} : (d.drainOwner bank old).Form :=
  .ite (.setCore (.foldl h fun h => .memWrite h)) (.ite (.updHrp (.foldl h fun h => .foldl h fun h => .memWrite h)) h)
theorem deny (h : d.Form) {bank agent wr} : (d.deny bank agent wr).Form := .s (.s (.s (.s (.s (.cnt h)))))
theorem discardOwner (h : d.Form) {bank old} : (d.discardOwner bank old).Form :=
  .ite (.foldl (.setCore h) fun h => .deny h) (.ite (.foldl (.sIf (.updHrp h)) fun h => .deny h) h)
theorem closeHandover (h : d.Form) {bank guest} : (d.closeHandover bank guest).Form :=
  .ite (.s (.updBnk h)) (.s (.updBnk h))
theorem settle (h : d.Form) {bank guest} : (d.settle bank guest).Form := by
  unfold Dev.settle
  split
  · exact .closeHandover (.ite h (.drainOwner h))
  · exact h
theorem settled (h : d.Form) {bank} : (d.settled bank).Form := .settle (.settle h)
theorem bnkRow (h : d.Form) {agent a n} : (d.bnkRow agent a n).dev.Form := by
  unfold Dev.bnkRow
  dsimp only
  split
  · exact .memRead (.settled h)
  · exact .deny (.settled h)
theorem bnkRowWrite (h : d.Form) {agent a data} : (d.bnkRowWrite agent a data).dev.Form := by
  unfold Dev.bnkRowWrite
  dsimp only
  split
  · exact .memWrite (.settled h)
  · exact .deny (.settled h)
theorem bnkRead (h : d.Form) {agent a n} : (d.bnkRead agent a n).dev.Form := by
  unfold Dev.bnkRead
  refine foldl_keeps (fun r : BnkRes => r.dev.Form) _ _ _ h fun r p hr => ?_
  split
  · exact hr
  · exact .bnkRow hr
theorem bnkRowWrites (h : d.Form) {agent} {l : List (Nat × List Byte)} : (l.foldl (fun (r : BnkRes) p =>
    if r.denied then r else r.dev.bnkRowWrite agent p.1 p.2) ⟨d, [], false, false⟩).dev.Form := by
  refine foldl_keeps (fun r : BnkRes => r.dev.Form) _ l ⟨d, [], false, false⟩ h fun r p hr => ?_
  split
  · exact hr
  · exact .bnkRowWrite hr
theorem bnkWrite (h : d.Form) {agent a data} : (d.bnkWrite agent a data).dev.Form := .bnkRowWrites h
theorem bnkAtomic (h : d.Form) {agent a cas w64 op0 op1} : (d.bnkAtomic agent a cas w64 op0 op1).dev.Form := by
  unfold Dev.bnkAtomic
  dsimp only
  split
  · split
    · exact .memWrite (.memRead (.settled h))
    · exact .memRead (.settled h)
  · exact .deny (.settled h)
theorem bankDraining (h : d.Form) {bank} : (d.bankDraining bank).Form := .ite (.raise (.logicDst h)) h
theorem bankRetire (h : d.Form) {bank} : (d.bankRetire bank).Form := .raise (.s (.setFlag (.logicDst h)))
theorem poisonRow (h : d.Form) {bank row} : (d.poisonRow bank row).Form := .foldl h fun h => .poison h
theorem fetchMiss (h : d.Form) {bank} : (d.fetchMiss bank).Form := .ifThen (.updBnk (.cnt h)) fun h => .startTest h
theorem portOp (h : d.Form) {bank agent op ecc} : (d.portOp bank agent op ecc).1.Form := by
  cases op with
  | read => exact .bnkRow (.ite (.eccEvents h) h)
  | write => exact .bnkRowWrite (.ite (.foldl h fun h => .ite (.eccEvents h) h) h)
  | atomicAdd | cas => exact .bnkAtomic (.ite (.eccEvents h) h)
theorem ownerOp (h : d.Form) {bank op ecc} : (d.ownerOp bank op ecc).Form := .updBnk (.portOp h)
theorem guestOp (h : d.Form) {bank op ecc} : (d.guestOp bank op ecc).Form := .updBnk (.portOp h)
theorem collide (h : d.Form) {bank} : (d.collide bank).Form := .sIf (.cnt h)
theorem portGrant (h : d.Form) {bank owner guest guestDue ecc} : (portGrant d bank owner guest guestDue ecc).Form := by
  unfold Machine.portGrant
  dsimp only
  split
  · exact .settled h
  · exact .ownerOp (.settled h)
  · exact .guestOp (.settled h)
  · exact .ite (.guestOp (.settled h)) (.ifThen (.ownerOp (.settled h)) fun h => .ite (.collide h) (.guestOp h))
theorem writeOwn (h : d.Form) {bank v} : (d.writeOwn bank v).Form :=
  .ite (.s h) (.ite h (.ifElse (.ite (.bankRetire h) h) fun h => .updBnk (.s (.s h))))
theorem writeGuest (h : d.Form) {bank v} : (d.writeGuest bank v).Form :=
  .ite (.s h) (.ifElse (.s h) fun h => .updBnk (.s (.s h)))
end Dev.Form

/-! ### Events -/

namespace Dev.Form
variable {d : Dev}

theorem showEvs (h : d.Form) : d.showEvs.Form := .s (.sIf (.s (.s (.s h))))
theorem enter (h : d.Form) {p} : (d.enter p).Form :=
  .ite (.showEvs (.ite (.upd h) (.ite (.upd h) (by split; exacts [.cnt (.upd h), h])))) (.showEvs (.upd h))
theorem intake (h : d.Form) {w rank node spill} : (d.intake w rank node spill).Form :=
  .ite (.cnt (.upd h)) (.ite (.cnt (.upd h)) (.ite (.enter (.upd h))
    (by split; exacts [.enter (.upd h), .enter (.cnt (.upd h)), .cnt (.upd h), .ifThen (.cnt (.upd h)) fun h => .enter h])))
theorem showMbx (h : d.Form) : d.showMbx.Form := .s (.s h)
theorem rqSkip (h : d.Form) {rq k} : (d.rqSkip rq k).Form := .ite h (.s h)
theorem dropHead (h : d.Form) {c rank} : (d.dropHead c rank).Form := by
  unfold Dev.dropHead
  split
  · exact .showMbx (.updHrp h)
  · exact .upd h
  · exact .upd h
  · split
    · exact .rqSkip (.upd h)
    · exact .upd h
  · exact .setCore h
  · split <;> exact .upd h
  · exact h
theorem takeIn (h : d.Form) {c} : (takeIn d c).Form := .ite h (by split; exacts [.intake (.dropHead h), h])
theorem remove (h : d.Form) {p} : (d.remove p).Form := .showEvs (.upd h)
theorem deferDue (h : d.Form) : d.deferDue.Form := .cnt (.upd h)
theorem release (h : d.Form) {op x} (hr : d.release op = some x) : x.1.Form := by
  unfold Dev.release at hr
  split at hr
  · cases hr
  · split_ifs at hr <;> cases hr
    · exact .remove h
    · dsimp only
      split
      · exact .deferDue (.upd (.remove h))
      · exact .upd (.remove h)
theorem rejudge (h : d.Form) : d.rejudge.Form := .showEvs (.cnt (.cnt (.upd h)))
theorem submit (h : d.Form) {w} : (d.submit w).Form := .ite (.showMbx (.updHrp h)) (.cnt (.s h))
theorem inject (h : d.Form) {ag w} : (d.inject ag w).Form := by
  unfold Dev.inject
  split
  exacts [.submit h, .upd h, .upd h, h]
theorem setLatch (h : d.Form) {ag l} : (d.setLatch ag l).Form := by
  unfold Dev.setLatch
  split
  exacts [.upd h, .upd h, .upd h, h]
theorem windowWrite {ag data} : ∀ {d : Dev} {off}, d.Form → (d.windowWrite ag off data).Form := by
  induction data with
  | nil => exact id
  | cons b t ih => exact fun h => ih (.ifThen (.setLatch h) fun h => .inject h)
end Dev.Form

/-! ### Reeds -/

namespace Dev.Form
variable {d : Dev}

theorem commitParts (h : d.Form) {endPos} : (d.commitParts endPos).Form := .upd h
theorem keepReed (h : d.Form) {reed cnt v} : (d.keepReed reed cnt v).Form := .upd h
theorem loadReed (h : d.Form) {reed v} : (d.loadReed reed v).1.Form := by
  unfold Dev.loadReed
  split
  · exact h
  · exact .upd h
theorem renderVoice (h : d.Form) {c b n reed v m} : (d.renderVoice c b n reed v m).1.Form := by
  unfold Dev.renderVoice
  exact .ifThen (by split; exacts [.loadReed h, h]) fun h => .keepReed h
theorem renderGhost (h : d.Form) {c b n busy g m} : (d.renderGhost c b n busy g m).1.Form := by
  unfold Dev.renderGhost
  refine foldl_keeps (fun a : Dev × Ghost × Mix × Nat × Bool => a.1.Form) _ _ _ h fun a i h => ?_
  dsimp only
  split
  · exact h
  · split
    · split
      · exact .keepReed h
      · split
        · exact .keepReed h
        · exact .cnt (.upd (.keepReed h))
    · exact h
theorem readPatch (h : d.Form) {v} : (d.readPatch v).1.Form := by
  unfold Dev.readPatch
  dsimp only
  split
  · exact h
  · split
    · exact .bnkRead h
    · split
      · split
        · exact .bnkRead h
        · exact .cnt (.setFlag (.bnkRead h))
      · exact .bnkRead h
theorem showRda (h : d.Form) : d.showRda.Form := .s (.s (.s h))
theorem renderBlock (h : d.Form) {b n} : (d.renderBlock b n).Form := by
  unfold Dev.renderBlock
  dsimp only
  refine .showRda (.commitParts (.foldl (.ifElse (.cnt (.cnt (.cnt (.upd ?_)))) fun h => .raiseOnce h) fun h => .fetchMiss
    h))
  refine foldl_keeps (fun a : Dev × List (Nat × Voice) × Mix => a.1.Form) _ _ _ ?_ fun _ _ h => .renderVoice h
  refine foldl_keeps (fun a : Dev × List Ghost × Mix × Nat => a.1.Form) _ _ _ ?_ fun _ _ h => .renderGhost h
  exact foldl_keeps (fun a : Dev × List (Nat × Voice) => a.1.Form) _ _ _ h fun _ _ h => .readPatch h
theorem patchCmd (h : d.Form) {op num} : (d.patchCmd op num).Form := .ite h (.ite (.s (.upd h)) (.ite (.s (.s (.upd h))) h))
theorem validateDone (h : d.Form) : (validateDone d).Form := by
  unfold Machine.validateDone
  split
  · exact h
  · exact .setFlag (.upd (.s (.s h)))
theorem patchBlockStart (h : d.Form) : d.patchBlockStart.Form :=
  .upd (.foldl (by split; exacts [.foldl (.s (.upd h)) fun h => .setReg h, h]) fun h => .setFlag h)
theorem writePlib (h : d.Form) {v} : (d.writePlib v).Form := .ite h (.upd h)
theorem writeRsel (h : d.Form) {n} : (d.writeRsel n).Form := by
  unfold Dev.writeRsel
  dsimp only
  split <;> exact .s (.s (.s (.s (.s (.s h)))))
theorem missWindow (h : d.Form) {reed i} : (d.missWindow reed i).Form := .upd h
theorem prefetch (h : d.Form) {reed i b} : (prefetch d reed i b).Form := by
  unfold Machine.prefetch
  split
  · exact h
  · exact .ite h (by split; exacts [h, h, .missWindow h, .ite (.missWindow (.eccDouble h)) h])
end Dev.Form

/-! ### Allocation -/

namespace Dev.Form
variable {d : Dev}

theorem partErr (h : d.Form) {p} : (d.partErr p).Form := .sIf h
theorem setPart (h : d.Form) {p o hi lo v} : (d.setPart p o hi lo v).Form := .partErr (.setReg (.upd h))
theorem partsBlockStart (h : d.Form) : d.partsBlockStart.Form := .ite h (.foldl (.upd h) fun h => .partErr h)
theorem setLane (h : d.Form) {l on} : (d.setLane l on).Form := .setFlag h
theorem showLanes (h : d.Form) : d.showLanes.Form := .s (.s h)
theorem bookNote (h : d.Form) : d.bookNote.Form := .s (.s (.upd h))
theorem wakeLanes {l} : ∀ {d : Dev}, d.Form → (d.wakeLanes l).Form := by
  induction l with
  | nil => exact id
  | cons l rest ih => exact fun h => .ite h (.ite (ih (.cnt (.setLane h))) (ih h))
theorem toGhost (h : d.Form) {reed v at_} : (d.toGhost reed v at_).Form := .upd h
theorem moveLane (h : d.Form) {l} : (d.moveLane l).Form := by
  unfold Dev.moveLane
  dsimp only
  exact .foldl h fun h => by split; exacts [.upd (.ite (.setLane h) h), .cnt (.toGhost h)]
theorem laneParity (h : d.Form) {l} : (d.laneParity l).Form := .startTest (.moveLane h)
theorem lanesBlockStart (h : d.Form) : d.lanesBlockStart.Form :=
  .showLanes (.wakeLanes (.foldl (.foldl h fun h => .ite (.moveLane h) h) fun h => .ite (.setLane (.upd h)) (.ifElse
    (.setLane (.upd h)) fun h' => .ite h' (.upd h))))
theorem mapVoices (h : d.Form) {p f} : (d.mapVoices p f).Form := .upd h
theorem bindVoice (h : d.Form) {reed v} : (d.bindVoice reed v).Form := .upd (.drawn h)
theorem allocate (h : d.Form) {p prio v at_} : (d.allocate p prio v at_).Form := by
  unfold Dev.allocate
  dsimp only
  split
  · exact .bookNote (.bindVoice (.ite (.setLane h) h))
  · split
    · exact .bookNote (.bindVoice (.cnt (.toGhost h)))
    · exact .cnt h
theorem continue_ (h : d.Form) {reed p nid valb vel at_} : (d.continue_ reed p nid valb vel at_).Form := .upd h
theorem pushHeld (h : d.Form) {p nid valb vel} : (d.pushHeld p nid valb vel).Form := .upd h
theorem noteOn (h : d.Form) {x} : (d.noteOn x).Form := by
  unfold Dev.noteOn
  dsimp only
  exact .ite (.cnt h) (.ite h (.ite
    (by split; exacts [.continue_ (.pushHeld h), .ite (.allocate (.pushHeld h)) (.cnt (.pushHeld h))]) (.ite (.allocate h)
    (.cnt h))))
theorem noteOff (h : d.Form) {x} : (d.noteOff x).Form := by
  unfold Dev.noteOff
  dsimp only
  split
  · exact .ite (.continue_ (.ifElse (.upd h) fun h => .cnt h)) (.mapVoices (.ifElse (.upd h) fun h => .cnt h))
  · exact .ite (.mapVoices (.ifElse (.upd h) fun h => .cnt h)) (.mapVoices (.ifElse (.upd h) fun h => .cnt h))
theorem onNote (h : d.Form) {x f} : (d.onNote x f).Form := .mapVoices (.ite h (.cnt h))
theorem polyPress (h : d.Form) {x} : (d.polyPress x).Form := .onNote h
theorem perNote (h : d.Form) {x} : (d.perNote x).Form := .onNote h
theorem partChange (h : d.Form) {p key v at_} : (d.partChange p key v at_).Form := .upd h
theorem control (h : d.Form) {x} : (d.control x).Form := .ifThen (.partChange h) fun h => .mapVoices h
theorem program (h : d.Form) {x} : (d.program x).Form := .ite (.setPart h) (.cnt h)
theorem partMode (h : d.Form) {x} : (d.partMode x).Form := by
  unfold Dev.partMode
  dsimp only
  split
  · exact .setPart h
  · exact .setPart h
  · exact .setPart h
  · exact .setPart h
  · exact .setPart h
  · exact .cnt h
theorem allOff (h : d.Form) {x} : (d.allOff x).Form :=
  .ite (.showEvs (.cnt (.upd (.ite (.mapVoices h) (.mapVoices h))))) (.upd (.ite (.mapVoices h) (.mapVoices h)))
theorem mark (h : d.Form) {x} : (d.mark x).Form := .raise (.s (.s (.s (.s h))))
end Dev.Form

/-! ### Frame ports -/

namespace Dev.Form
variable {d : Dev}

theorem showMac (h : d.Form) {n} : (d.showMac n).Form := by
  unfold Dev.showMac
  dsimp only
  split <;> exact .s (.s (.s (.s (.s (.s h)))))
theorem sendFrame (h : d.Form) {n f} : (d.sendFrame n f).Form := .cnt (.setPort h)
theorem enqueue (h : d.Form) {n f} : (d.enqueue n f).Form := .setPort h
theorem enqueueAll (h : d.Form) {f} : (d.enqueueAll f).Form := .foldl h fun h => .ite (.enqueue h) h
theorem transmit (h : d.Form) {n} : (transmit d n).Form := .ite h (by split; exacts [.sendFrame (.setPort h), h])
theorem txDiscard (h : d.Form) {n p} : (d.txDiscard n p).Form := .cnt (.setPort h)
theorem lpiEntry (h : d.Form) {n} : (lpiEntry d n).Form := .ite (.cnt (.s h)) h
theorem quarantine (h : d.Form) {n why} : (d.quarantine n why).Form :=
  .ite h (.startTest (.s (.setPort (.txDiscard
    (by
      split
      · exact .ifThen (.raise (.cnt (.logicDst h))) fun h => .sendFrame (.s (.setPort h))
      · exact .raise (.cnt (.logicDst h)))))))
theorem setLec (h : d.Form) {n v} : (d.setLec n v).Form :=
  .ifThen (.ifThen (.ifThen (.s (.s h)) fun h => .raise h) fun h => .raise h) fun h => .quarantine h
theorem lecAdd (h : d.Form) {n k} : (d.lecAdd n k).Form := .setLec h
theorem lecSub (h : d.Form) {n} : (d.lecSub n).Form := .setLec h
theorem writeLecClr (h : d.Form) {n} : (d.writeLecClr n).Form := .ite h (.setLec h)
theorem setNbr (h : d.Form) {n r} : (d.setNbr n r).Form := .ifElse (.showMac (.setPort h)) fun h => .raise h
theorem takeLldp (h : d.Form) {n body} : (d.takeLldp n body).Form := by
  unfold Dev.takeLldp
  split
  · exact .cnt h
  · exact .setNbr h
theorem linkUp (h : d.Form) {n} : (linkUp d n).Form := .ite h (.ifThen (.raise (.s h)) fun h => .enqueue h)
theorem linkDown (h : d.Form) {n} : (d.linkDown n).Form := .ite h (.setNbr (.txDiscard (.cnt (.raise (.s (.s (.s h)))))))
theorem applyMode (h : d.Form) {n v} : (d.applyMode n v).Form :=
  .ite h (.showMac (.setNbr (.setPort (.setReg (.linkDown (.ite (.sendFrame h) h))))))
theorem writeMacCtl (h : d.Form) {n v} : (d.writeMacCtl n v).Form :=
  .ite (.setPort (.s (.s (.s (.s (.manage (.ite (.sendFrame h) h))))))) (.applyMode (.s (.s (.s (.s (.manage (.ite
    (.sendFrame h) h)))))))
theorem rxLost (h : d.Form) {n} : (d.rxLost n).Form := .ifThen (.cnt (.setPort h)) fun h => .quarantine h
theorem sortFrame (h : d.Form) {n kept ovs len} : (d.sortFrame n kept ovs len).Form := by
  unfold Dev.sortFrame
  split
  exact .ite (.ite (.cnt h) h) (.ite (.ite h (.takeLldp h)) (.ite (.setPort h) (.setPort h)))
theorem receive (h : d.Form) {n f} : (receive d n f).Form := by
  unfold Machine.receive
  dsimp only
  exact .ite h (.ite h (.ite (.cnt h) (.ite (.cnt h) (.ite (.ite (.ite (.rxLost (.cnt (by split; exacts [h, .drawn h])))
    (.sortFrame (.cnt (by split; exacts [h, .drawn h])))) (.cnt (.cnt (by split; exacts [h, .drawn h])))) (.ite (.ifThen
    (.lecAdd (.cnt (.setPort h))) fun h => .quarantine h) (.ite (.cnt (.ifThen (.cnt (.setPort h)) fun h => .lecSub h))
    (.ite (.rxLost (.ifThen (.cnt (.setPort h)) fun h => .lecSub h)) (.sortFrame (.ifThen (.cnt (.setPort h)) fun h =>
    .lecSub h)))))))))
theorem foreign (h : d.Form) {n f} : (d.foreign n f).Form :=
  .ite (.cnt h) (.ite (.cnt (.bnkWrite h)) (.ifThen (.s (.bnkWrite h)) fun h => .raise h))
theorem deliver (h : d.Form) {n} : (deliver d n).Form := by
  unfold Machine.deliver
  dsimp only
  split
  · exact h
  · exact .ite (.ifElse (.setPort h) fun h => .upd h) (.foreign (.setPort h))
end Dev.Form

/-! ### Messages -/

namespace Dev.Form
variable {d : Dev}

theorem showBlw (h : d.Form) : d.showBlw.Form := .s (.s (.s (.s (.s h))))
theorem setMsg (h : d.Form) {m} : (d.setMsg m).Form := .upd h
theorem freeTag (h : d.Form) {tag} : (d.freeTag tag).Form := .showBlw (.upd h)
theorem cqWrite (h : d.Form) {c e} : (d.cqWrite c e).Form := .ifThen (.s (.bnkWrite h)) fun h => .raise h
theorem complete (h : d.Form) {c e tag} : (d.complete c e tag).Form :=
  .ite (by split; exacts [.freeTag h, h]) (.ite (by split; exacts [.freeTag (.cqWrite h), .cqWrite h]) (.s (.upd h)))
theorem cqDrain {c n} : ∀ {d : Dev}, d.Form → (d.cqDrain c n).Form := by
  induction n with
  | zero => exact id
  | succ n ih =>
    intro d h
    unfold Dev.cqDrain
    split
    · refine .ite (ih ?_) h
      split
      · exact .freeTag (.cqWrite (.upd h))
      · exact .cqWrite (.upd h)
    · exact h
theorem descEnd (h : d.Form) {q x status len result tag} : (d.descEnd q x status len result tag).Form :=
  .ite (.complete h) (by split; exacts [.freeTag h, h])
theorem endMsg (h : d.Form) {m status result} : (d.endMsg m status result).Form := by
  unfold Dev.endMsg
  dsimp only
  split
  · exact .descEnd (.ifThen (.setMsg (.ifThen (.ite (.cnt h) h) fun h => .raise h)) fun h => .upd h)
  · exact .freeTag (.placeResult (.setMsg (.ifThen (.ite (.cnt h) h) fun h => .raise h)))
  · exact .freeTag (.setMsg (.ifThen (.ite (.cnt h) h) fun h => .raise h))
  · exact .freeTag (.upd (.setMsg (.ifThen (.ite (.cnt h) h) fun h => .raise h)))
theorem flushMsgs (h : d.Form) {p} : (d.flushMsgs p).Form := .foldl h fun h => .endMsg h
theorem consumeNone (h : d.Form) {r} : (d.consumeNone r).Form := by
  unfold Dev.consumeNone
  split
  · exact .upd h
  · exact .rqSkip h
theorem consume (h : d.Form) {r slot} : (d.consume r slot).Form := by
  unfold Dev.consume
  dsimp only
  exact .ite h (.ite (.consumeNone (.bnkRead h)) (.ite (.consumeNone (.cnt (.bnkRead h)))
    (by split; exacts [.consumeNone (.cnt (.bnkRead (.bnkRead h))), .upd (.cnt (.bnkRead (.bnkRead h)))])))
theorem advanceHead {r fuel} : ∀ {d : Dev}, d.Form → (d.advanceHead r fuel).Form := by
  induction fuel with
  | zero => exact id
  | succ n ih =>
    intro d h
    unfold Dev.advanceHead
    split
    · exact .ite (ih (.consume (.s (.upd h)))) h
    · exact h
theorem deliverSlot (h : d.Form) {x void} : (d.deliverSlot x void).Form :=
  .advanceHead (.ifThen (.upd (.bnkWrite h)) fun h => .complete h)
theorem dropRec (h : d.Form) {x} : (d.dropRec x).Form := .showBlw (.upd h)
theorem endRec (h : d.Form) {x} : (d.endRec x).Form := .ifThen (.dropRec h) fun h => .deliverSlot h
theorem abandon (h : d.Form) {x} : (d.abandon x).Form := .cnt (.endRec h)
theorem flushAll (h : d.Form) : d.flushAll.Form := .showBlw (.upd (.foldl (.flushMsgs h) fun h => .abandon h))
theorem setEpos (h : d.Form) : d.setEpos.Form := .ite (.upd h) h
theorem stopTransport (h : d.Form) : d.stopTransport.Form := .showBlw (.upd (.foldl (.flushMsgs h) fun h => .deliverSlot h))
theorem post (h : d.Form) {q x k own data} : (d.post q x k own data).Form := .upd h
theorem endEvents (h : d.Form) : d.endEvents.Form := .foldl (.upd h) fun h => .descEnd h
end Dev.Form

/-! ### The ledger and the spill -/

namespace Dev.Form
variable {d : Dev}

theorem syncLeases (h : d.Form) : d.syncLeases.Form := .ite h (.s (.upd h))
theorem mapLease (h : d.Form) {l f} : (d.mapLease l f).Form := .upd h
theorem leaseScan (h : d.Form) : d.leaseScan.Form := .upd h
theorem putLedger (h : d.Form) {j v} : (d.putLedger j v).Form := .ite h (.bnkWrite h)
theorem leaseFree (h : d.Form) : (leaseFree d).Form :=
  .syncLeases (.foldl (.leaseScan (.syncLeases h)) fun h => .putLedger h)
theorem offerUpdate (h : d.Form) : (offerUpdate d).Form := .foldl (.upd (.syncLeases h)) fun h => .ite h (.putLedger h)
theorem leaseExpiry (h : d.Form) : (leaseExpiry d).Form := .foldl (.syncLeases h) fun h => .cnt (.mapLease (.mapVoices h))
theorem leaseSeen (h : d.Form) {w} : (d.leaseSeen w).Form := .ite (.mapLease (.syncLeases h)) h
theorem judgeRet (h : d.Form) : d.judgeRet.Form := .ite (.s h) (.ite h (.raise (.s h)))
theorem writeSpill2 (h : d.Form) {w} : (d.writeSpill2 w).Form := .ite (.judgeRet (.setReg h)) h
theorem postSpill (h : d.Form) {x k own data} : (d.postSpill x k own data).Form := .post h
theorem postCas (h : d.Form) {k j cmp swap kind own} : (d.postCas k j cmp swap kind own).Form := .postSpill h
theorem setClaim (h : d.Form) {c} : (d.setClaim c).Form := .upd h
theorem dropClaim (h : d.Form) {seq} : (d.dropClaim seq).Form := .upd h
theorem mapPend (h : d.Form) {seq f} : (d.mapPend seq f).Form := .upd h
theorem setCache (h : d.Form) {k j v} : (d.setCache k j v).Form := .upd h
theorem tryCas (h : d.Form) {c e} (ht : d.tryCas c = some e) : e.Form := by
  obtain ⟨_, _, rfl⟩ := Option.map_eq_some_iff.mp ht
  exact .postCas (.setClaim h)
theorem nextPeer {l} : ∀ {d : Dev} {c}, d.Form → (d.nextPeer c l).Form := by
  induction l with
  | nil => exact fun h => .cnt (.dropClaim h)
  | cons k rest ih =>
    intro d c h
    unfold Dev.nextPeer
    dsimp only
    split
    · rename_i ht
      exact .tryCas (.upd h) ht
    · exact ih (.upd h)
theorem moveOn (h : d.Form) {c} : (d.moveOn c).Form := by
  unfold Dev.moveOn
  split
  · exact .nextPeer h
  · exact .cnt (.dropClaim h)
theorem abandonClaim (h : d.Form) {c} : (d.abandonClaim c).Form := .cnt (.setClaim h)
theorem releaseBit (h : d.Form) {c} : (d.releaseBit c).Form := .ite (.dropClaim h) (.postCas (.setClaim h))
theorem won (h : d.Form) {c} : (d.won c).Form := by
  unfold Dev.won
  dsimp only
  split
  · exact .releaseBit (.setCache h)
  · exact .ite (.releaseBit (.setCache h)) (.ite (.releaseBit (.abandonClaim (.setCache h))) (.mapPend (.setClaim
      (.postSpill (.postSpill (.upd (.setCache h)))))))
theorem showMap (h : d.Form) : d.showMap.Form := .s h
theorem spilled (h : d.Form) {c} : (d.spilled c).Form := by
  unfold Dev.spilled
  split
  · exact h
  · exact .cnt (.showMap (.dropClaim (.upd h)))
theorem peerRefused (h : d.Form) {k} : (d.peerRefused k).Form := .raise (.s h)
theorem outcome (h : d.Form) {o} : (d.outcome o).Form := by
  obtain ⟨kind, own, status, old⟩ := o
  unfold Dev.outcome
  dsimp only
  split
  · exact .ite h (.cnt (.raise (.showMap (.upd (.ite (.s h) h)))))
  · split
    · exact h
    · rename_i c _
      have h : Form (if status = stRAV then d.peerRefused c.peer else d) := .ifThen h fun h => .peerRefused h
      generalize (if status = stRAV then d.peerRefused c.peer else d) = d at h ⊢
      split
      · refine .ite (.ite (.dropClaim h) (.moveOn h)) (.ite (.won h) (.ite (.dropClaim (.setCache h)) (.ite ?_ (.moveOn
        (.setCache h)))))
        split
        · rename_i ht
          exact .tryCas (.setCache h) ht
        · exact .moveOn (.upd (.setCache h))
      · exact .ite (.spilled h) (.ite (.cnt (.dropClaim (.mapPend h))) (.moveOn (.mapPend h)))
      · exact .ite (.dropClaim (.setCache h)) (.ite (.releaseBit (.setCache h)) (.dropClaim h))
      · exact h
theorem spillSteps (h : d.Form) : d.spillSteps.Form := .foldl (.upd h) fun h => .outcome h
theorem forward (h : d.Form) {e op vala valb t} : (d.forward e op vala valb t).Form :=
  .showMap (.upd (.ifThen (.postSpill h) fun h => .cnt h))
theorem offerWord (h : d.Form) {p} : (d.offerWord p).Form := .mapPend (.foldl h fun h => .forward h)
theorem offerNote (h : d.Form) {p} : (d.offerNote p).Form :=
  .ifElse (.mapPend h) fun h => .ite (.cnt h) (.ite (.cnt h) (.moveOn (.upd h)))
theorem spillOffer (h : d.Form) : (spillOffer d).Form :=
  .ifElse (.spillSteps h) fun h => by split; exacts [.ite (.offerNote h) (.offerWord h), h]
theorem spillDeadline (h : d.Form) : (spillDeadline d).Form := .foldl (.spillSteps h) fun h => .abandonClaim h
theorem keepalive (h : d.Form) : (keepalive d).Form := .foldl h fun h => .forward h
theorem intakeStep (h : d.Form) {c} : (intakeStep d c).Form :=
  .endEvents (.takeIn (by split; exacts [.ite (.leaseSeen h) h, h]))
theorem storeErr (h : d.Form) {err} : (d.storeErr err).Form := by
  unfold Dev.storeErr
  split
  · exact .cnt h
  · split
    · exact .startTest (.drawn (.raise (.cnt (.remove h))))
    · exact h
  · exact .ite h (.startTest (.drawn (.raise (.cnt (.showMbx (.updHrp h))))))
theorem releaseRow (h : d.Form) {op act} (hact : ∀ {d p}, Dev.Form d → (act d p).Form) : (releaseRow op act d).Form := by
  unfold Machine.releaseRow
  split
  · exact h
  · split
    · exact h
    · rename_i hr
      have h := h.release hr
      exact .ite (.cnt h) (.ite (.cnt h) (hact h))
theorem leaseOff (h : d.Form) {p} : (d.leaseOff p).Form := .leaseScan (.upd h)
theorem spillNote (h : d.Form) {x} : (spillNote d x).Form :=
  .ite (.cnt h) (.ite (.cnt h) (.ite h (.ite (.cnt h) (.allocate (.mapLease (.syncLeases h))))))
theorem safeClear (h : d.Form) : d.safeClear.Form := .showMap (.upd (.mapVoices h))
theorem enterSafe (h : d.Form) : d.enterSafe.Form := by
  unfold Dev.enterSafe
  exact .ifThen (.setMode (.flushMsgs (.muteReq h))) fun h => .safeClear h
theorem critical (h : d.Form) {cause} : (d.critical cause).Form :=
  .ite (.upd (.sIf (.cnt (.s (.logEntry (.raise h)))))) (.ite (.ifThen (.enterSafe (.s (.upd (.sIf (.cnt (.s (.logEntry
    (.raise h)))))))) fun h => .setEpos h) (.ifThen (.sIf (.cnt (.s (.logEntry (.raise h))))) fun h => .ifThen (.s (.upd h))
    fun h => .setEpos h))
end Dev.Form

/-! ### The Breath -/

namespace Dev.Form
variable {d : Dev}

theorem setFerr (h : d.Form) {v} : (d.setFerr v).Form := .s (.upd h)
theorem discardBlocks (h : d.Form) {dest} : (d.discardBlocks dest).Form := .updCores h
theorem discontinuity (h : d.Form) : d.discontinuity.Form := .s (.upd (.spillSteps (.flushAll h)))
theorem rewindKeys (h : d.Form) : d.rewindKeys.Form := .foldl h fun h => .ite (.s h) h
theorem stepBreath (h : d.Form) {dest} : (d.stepBreath dest).Form :=
  .setEpos (.rejudge (.ifThen (.discardBlocks (.cnt (.s (.upd h)))) fun h => .rewindKeys h))
theorem doMove (h : d.Form) : d.doMove.Form := by
  unfold Dev.doMove
  split
  · exact .raise (.stepBreath h)
  · exact .setEpos (.s (.upd h))
  · exact .stepBreath h
  · exact h
theorem startMove (h : d.Form) {m} : (d.startMove m).Form := .ifThen (.muteReq (.upd (.discontinuity h))) fun h => .doMove h
theorem toAcquire (h : d.Form) {fromFree} : (d.toAcquire fromFree).Form := .upd (.s h)
theorem toFree (h : d.Form) : d.toFree.Form := .raise (.s h)
theorem toHoldover (h : d.Form) : d.toHoldover.Form := .ifThen (.s (.s (.upd h))) fun h => .toFree h
theorem srcLost (h : d.Form) : d.srcLost.Form :=
  .ite (.toHoldover (.raise (.cnt (.ifThen (.upd (.s h)) fun h => .s h)))) (.ifThen (.ifThen (.upd (.s h)) fun h => .s h)
    fun h => .toHoldover (.raise (.cnt (.setFerr h))))
theorem tryAcquire (h : d.Form) : d.tryAcquire.Form := .ite (.toAcquire h) h
theorem refuse (h : d.Form) : d.refuse.Form := .ite (.s (.s (.s (.raise (.s h))))) (.toHoldover (.s (.s (.raise (.s h)))))
theorem filterStep (h : d.Form) {ns} : (d.filterStep ns).Form := .upd (.setFerr h)
theorem largeError (h : d.Form) {behind} : (d.largeError behind).Form :=
  .ite (.startMove h) (.ite (.refuse h) (.ite (.s h) (.ite (.startMove h) (.startMove h))))
theorem large (h : d.Form) {behind ns} : (d.large behind ns).Form := .ifThen (.largeError h) fun h => .filterStep h
theorem measure (h : d.Form) {src loc} : (d.measure src loc).Form := by
  unfold Dev.measure
  dsimp only
  exact .ite h (.ite (.ite (.startMove (.upd (.s h))) (.ite (.large (.upd (.s h))) (.ifThen (.filterStep (.s (.upd (.s h))))
    fun h => .raise (.s (.s (.upd h)))))) (.ite (.ite (.large (.upd (.toAcquire (.upd (.s h))))) (.filterStep (.upd (.s
    h)))) (.upd (.s h))))
theorem setEpoch (h : d.Form) {p} : (d.setEpoch p).Form := .s (.s (.upd h))
theorem bookEdge (h : d.Form) {first inRange n} : (d.bookEdge first inRange n).Form :=
  .ite (.srcLost (.s (.upd h))) (.tryAcquire (.sIf (.upd h)))
theorem useEvent (h : d.Form) {line loc} : (d.useEvent line loc).Form :=
  .ite (.measure (.ite h (by split; exacts [.setEpoch (.upd h), .setEpoch h]))) h
theorem sourceEvent (h : d.Form) {use} (huse : ∀ {d}, Dev.Form d → (use d).Form) : (d.sourceEvent use).Form := by
  unfold Dev.sourceEvent
  exact .ite (.cnt (.s h)) (huse (.bookEdge h))
theorem frameEnd (h : d.Form) : d.frameEnd.Form :=
  .ite (.upd h) (.upd (.ite (.upd (.foldl (.upd h) fun h => .useEvent h)) (.ifThen (.upd (.s h)) fun h => .srcLost h)))
theorem vsEdge (h : d.Form) : (vsEdge d).Form := .ite h (.sourceEvent h (fun h => .ite (.frameEnd h) (.useEvent (.upd h))))
theorem hsEdge (h : d.Form) : (hsEdge d).Form := .ite h (.upd h)
theorem wcEdge (h : d.Form) : (wcEdge d).Form := .ite h (.sourceEvent h (fun h => .useEvent h))
theorem sofSource (h : d.Form) : d.sofSource.Form := .ite h (.sourceEvent h (fun h => .useEvent h))
theorem switchSrc (h : d.Form) {v} : (d.switchSrc v).Form :=
  .ifElse (.s h) fun h => .ite (.s (.s (.s (.upd (.s (.s h)))))) (.upd (.toAcquire (.upd (.s (.s h)))))
theorem writeSrc (h : d.Form) {v} : (d.writeSrc v).Form := .ite h (.ite (.upd h) (.ite h (.switchSrc h)))
theorem writeRebase (h : d.Form) : d.writeRebase.Form := .ite (.ite (.upd (.toAcquire (.s h))) (.upd (.s h))) h
theorem srcWaited (h : d.Form) : d.srcWaited.Form := by
  unfold Dev.srcWaited
  split
  · exact .ite h (.ifElse (.upd h) fun h => .switchSrc h)
  · exact h
theorem moveReleased (h : d.Form) : d.moveReleased.Form := .srcWaited (.muteEnd (.upd h))
theorem pllUnlock (h : d.Form) : (pllUnlock d).Form :=
  .startTest (.ifThen (.upd (.raise (.s (.muteReq h)))) fun h => .muteEnd (.upd (.s (.s h))))
end Dev.Form

/-! ### The Bell -/

namespace Dev.Form
variable {d : Dev}

theorem setOut (h : d.Form) {n o} : (d.setOut n o).Form := .upd h
theorem coreRow (h : d.Form) {c j r l} : (d.coreRow c j r l).1.Form := by
  unfold Dev.coreRow
  dsimp only
  split
  · exact .s h
  · split
    · exact .s h
    · split
      · exact .bnkRow h
      · split
        · split <;> exact h
        · exact h
theorem arrive (h : d.Form) {n p v} : (d.arrive n p v).Form := .ite (.cnt h) (.ite (.cnt h) (.setOut h))
theorem fetchRow {n fuel} : ∀ {d : Dev}, d.Form → (d.fetchRow n fuel).Form := by
  induction fuel with
  | zero => exact id
  | succ fuel ih =>
    intro d h
    unfold Dev.fetchRow
    refine .ite h ?_
    extract_lets k
    split
    extract_lets rt
    split
    rename_i e st hq
    have he : e.Form := by
      rw [show e = _ from (congrArg Prod.fst hq).symm]
      split
      exacts [h, .coreRow h, h]
    cases st with
    | waits => exact he
    | missing => exact ih (.setOut he)
    | ready v => exact .foldl (.cnt (.setOut he)) fun h => .arrive h
theorem rowFetch (h : d.Form) {n} : (rowFetch d n).Form := .ite (.fetchRow h) h
theorem exitChannel (h : d.Form) {n code} : (d.exitChannel n code).Form :=
  .ite (.setOut h) (.ite (.setOut h) (by split <;> exact .ifThen (.setOut h) fun h => .raiseOnce (.cnt (.setFlag h))))
theorem usbTake (h : d.Form) {upto} : (d.usbTake upto).Form := .s (.cnt (.upd h))
theorem rampStep (h : d.Form) : d.rampStep.Form := by
  unfold Dev.rampStep
  split
  exacts [.upd h, .upd h, h]
theorem released (h : d.Form) {p left} : (d.released p left).Form :=
  .muteCheck
    (by
      split
      · exact .ifThen (.ifThen (.ite (.upd h) h) fun h => .muteEnd (.upd h)) fun h => .moveReleased h
      · exact .ifThen (.ite (.upd h) h) fun h => .muteEnd (.upd h))
theorem queueExit (h : d.Form) : (queueExit d).Form :=
  .ite h (.ite h (.ifElse (.usbTake (.rampStep (.upd h))) fun h => .released (.ifThen (.foldl h fun h => .exitChannel
    (.setOut h)) fun h => .upd h)))
theorem applyPlat (h : d.Form) : d.applyPlat.Form := by
  unfold Dev.applyPlat
  split
  · exact .upd (.s h)
  · exact h
theorem muteRampEnd (h : d.Form) : (muteRampEnd d).Form :=
  .ite (.muteCheck (.ifThen (.applyPlat (.doMove (.s h))) fun h => .safeClear h)) (.ite (.s h) h)
theorem writeMute (h : d.Form) {w} : (d.writeMute w).Form :=
  .ite (.muteReq (.setReg h)) (.ifThen (.setReg h) fun h => .muteEnd h)
theorem writePlat (h : d.Form) {v} : (d.writePlat v).Form :=
  .ite h (.ite (.ifThen (.muteReq (.upd h)) fun h => .applyPlat h) (.s h))
theorem readbackWindow (h : d.Form) {lo diff} : (readbackWindow d lo diff).Form :=
  .ite h (.ite (.ite (.startTest (.upd h)) (.upd h)) (.upd h))
theorem slip (h : d.Form) {p} : (d.slip p).Form := .raiseOnce (.cnt (.s h))
theorem sapKeep (h : d.Form) {p pos slots} : (d.sapKeep p pos slots).Form := .upd h
theorem sapSend (h : d.Form) {p} : (d.sapSend p).Form := .upd h
theorem sapFrame (h : d.Form) {p slots bclks} : (sapFrame d p slots bclks).Form :=
  .ite h (.ite (.ite h (.ifThen (.ifThen (.upd h) fun h => .sapSend h) fun h => .sapKeep h)) (.ifThen (.ifThen (.ite (.cnt
    (.s h)) h) fun h => .sapSend (.foldl h fun h => .exitChannel (.setOut h))) fun h => .ite (.slip h) (.sapKeep h)))
theorem sapClockLoss (h : d.Form) {p} : (sapClockLoss d p).Form :=
  .ite h (.ifThen (.raise (.s h)) fun h => .foldl h fun h => .exitChannel h)
theorem writeSapCtl (h : d.Form) {p w} : (d.writeSapCtl p w).Form := .ite h (.setReg h)
end Dev.Form

/-! ### Keys -/

namespace Dev.Form
variable {d : Dev}

theorem epochSlot (h : d.Form) {k} : (d.epochSlot k).Form :=
  .ite h (.ifThen (.ifThen (.s h) fun h => .raise (.upd h)) fun h => .raise (.s (.upd h)))
theorem epochScan (h : d.Form) : d.epochScan.Form := .foldl h fun h => .epochSlot h
theorem freshEpoch (h : d.Form) {k} : (d.freshEpoch k).Form := .upd h
theorem putKey (h : d.Form) {k epoch base key} : (d.putKey k epoch base key).Form :=
  .ite h (.freshEpoch (.s (.s (.s (.s (.s (.s (.upd h))))))))
theorem keyBad (h : d.Form) {slot} : (d.keyBad slot).Form := .raise (.cnt h)
theorem loadWrapped (h : d.Form) {wrap e} : (d.loadWrapped wrap e).1.Form := by
  unfold Dev.loadWrapped
  dsimp only
  split
  · exact .keyBad h
  · split
    · exact .keyBad h
    · exact .putKey h
theorem keyLoad (h : d.Form) {wrap} : (d.keyLoad wrap).1.Form := by
  unfold Dev.keyLoad
  dsimp only
  split
  · exact h
  · exact .loadWrapped h
theorem keyEpoch (h : d.Form) {k} : (d.keyEpoch k).1.Form := by
  unfold Dev.keyEpoch
  dsimp only
  split
  · exact h
  · exact .freshEpoch (.s (.s (.s (.s h))))
theorem writeKeyCmd (h : d.Form) {wrap v} : (d.writeKeyCmd wrap v).Form := by
  unfold Dev.writeKeyCmd
  split
  exacts [.s (.keyLoad h), .s (.keyEpoch h), .s (.putKey h), h]
theorem strMiss (h : d.Form) {s} : (d.strMiss s).Form := .ifThen (.cnt (.cnt h)) fun h => .cnt h
end Dev.Form

/-! ### Packets sent -/

namespace Dev.Form
variable {d : Dev}

theorem wrr (h : d.Form) {plen sec e p} (hw : d.wrr plen sec = some (e, p)) : e.Form := by
  unfold Dev.wrr at hw
  dsimp only at hw
  split at hw
  · cases hw
  · obtain ⟨_, _, hp⟩ := Option.map_eq_some_iff.mp hw
    cases hp
    exact .upd h
theorem emit (h : d.Form) {planes f} : (d.emit planes f).Form := .foldl h fun h => .ite (.cnt (.enqueue h)) h
theorem cached (h : d.Form) {i e k} (hc : d.cached i = some (e, k)) : e.Form := by
  obtain ⟨_, _, hk⟩ := Option.map_eq_some_iff.mp hc
  cases hk
  exact .upd h
theorem setAside (h : d.Form) {i rx tx} : (d.setAside i rx tx).Form := .upd (.cnt h)
theorem emitSecure (h : d.Form) {planes slot v key f} : (d.emitSecure planes slot v key f).Form := .emit (.s (.s (.upd h)))
theorem sendSecure (h : d.Form) {planes slot f} : (d.sendSecure planes slot f).Form := by
  unfold Dev.sendSecure
  refine .ite h ?_
  -- which counter comes next plays no part, and the kernel must not work it out
  generalize Dev.nextPctr = next
  revert next
  refine id fun next => ?_
  split
  · exact .setAside h
  · rename_i hc
    have h := h.cached hc
    split
    · exact .emitSecure h
    · exact .cnt (.s (.upd h))
theorem sendPkt (hd : d.Form) {planes kind timed h body} : (d.sendPkt planes kind timed h body).Form :=
  .ite (.sendSecure hd) (.emit hd)
theorem counterWaitEnd (h : d.Form) : d.counterWaitEnd.Form := by
  unfold Dev.counterWaitEnd
  dsimp only
  split
  · exact .sendSecure (.upd h)
  · exact h
theorem deriveDone (h : d.Form) : d.deriveDone.Form := by
  unfold Dev.deriveDone
  dsimp only
  split
  · exact h
  · split
    · exact .upd h
    · exact .foldl (.upd h) fun h => .sendSecure h
theorem answer (hd : d.Form) {plane h body} : (d.answer plane h body).Form := by
  unfold Dev.answer
  split
  · exact .sendPkt hd
  · exact hd
theorem nak (hd : d.Form) {p h code} : (d.nak p h code).Form := .ite hd (.answer (.ifThen (.cnt hd) fun hd => .cnt hd))
theorem frontDrop (h : d.Form) {p e} (hf : d.frontDrop p = some e) : e.Form := by
  unfold Dev.frontDrop at hf
  dsimp only at hf
  split_ifs at hf <;> cases hf
  · exact h
  · exact .cnt h
  · exact .cnt h
  · exact h
theorem dropFront {fuel} : ∀ {d : Dev}, d.Form → (d.dropFront fuel).Form := by
  induction fuel with
  | zero => exact id
  | succ fuel ih =>
    intro d h
    unfold Dev.dropFront
    split
    · exact h
    · split
      · rename_i hf
        exact ih (.upd (.frontDrop h hf))
      · exact h
theorem authFail (h : d.Form) {node} : (d.authFail node).Form := by
  unfold Dev.authFail
  dsimp only
  split
  · exact .ifElse (.cnt h) fun h => .raise (.upd h)
  · exact .raise (.upd (.cnt h))
theorem checkSec (h : d.Form) {p hdr} : (d.checkSec p hdr).1.Form := by
  unfold Dev.checkSec
  dsimp only
  split
  · exact h
  · split
    · exact .cnt h
    · split
      · exact .setAside h
      · rename_i hc
        have h := h.cached hc
        split
        · exact .authFail h
        · exact h
theorem checkLife (hd : d.Form) {h} : (d.checkLife h).1.Form := by
  unfold Dev.checkLife
  dsimp only
  split_ifs
  · exact .cnt hd
  · exact .cnt hd
  · exact .cnt hd
  · exact hd
theorem takePkt (h : d.Form) {want} : (d.takePkt want).1.Form := by
  unfold Dev.takePkt
  have h := h.dropFront (fuel := d.blw.inbox.length)
  dsimp only
  split
  · exact h
  · split
    · exact h
    · split
      · rename_i hs
        exact .ofFst hs (.checkSec (.upd h))
      · rename_i hs
        have h : Form _ := .ofFst hs (.checkSec (.upd h))
        split
        · exact .cnt h
        · split
          · rename_i hl
            exact .ofFst hl (.checkLife (.cnt h))
          · rename_i hl
            exact .ofFst hl (.checkLife (.cnt h))
end Dev.Form

/-! ### The initiator -/

namespace Dev.Form
variable {d : Dev}

theorem descAt (h : d.Form) {q e x} (hd : d.descAt q = some (e, x)) : e.Form := by
  unfold Dev.descAt at hd
  dsimp only at hd
  split_ifs at hd
  cases hd
  exact .bnkRead h
theorem advanceCi (h : d.Form) {q} : (d.advanceCi q).Form := .s h
theorem refuseMsg (h : d.Form) {q x k own status} : (d.refuseMsg q x k own status).Form := by
  unfold Dev.refuseMsg
  split
  · exact .descEnd (.ite (.upd h) h)
  · exact .placeResult h
  · exact h
  · exact .upd h
theorem tagPause (h : d.Form) : d.tagPause.Form := .ite h (.cnt (.upd h))
theorem beginMsg (h : d.Form) {wq x pd k own data e} (hb : d.beginMsg wq x pd k own data = some e) : e.Form := by
  obtain ⟨_, _, rfl⟩ := Option.map_eq_some_iff.mp hb
  exact .showBlw (.upd h)
theorem tryStart (h : d.Form) {q x k own data take} (htake : ∀ {d}, Dev.Form d → (take d).Form) :
    (d.tryStart q x k own data take).Form := by
  unfold Dev.tryStart
  refine .ite (.refuseMsg (htake h)) (.ite h ?_)
  split
  · exact .refuseMsg (htake h)
  · split
    · rename_i hb
      exact htake (.beginMsg h hb)
    · exact .tagPause h
theorem workStart (h : d.Form) {q} : (workStart d q).Form := by
  unfold Machine.workStart
  refine .ite h ?_
  split
  · exact .spillSteps (.tryStart h fun h => .upd h)
  · split
    · exact h
    · rename_i hx
      have h := h.descAt hx
      exact .ite h (.tryStart h fun h => .advanceCi h)
theorem injectWords (h : d.Form) {q x} : (d.injectWords q x).Form :=
  .ite (.descEnd (.advanceCi h)) (.ite (.descEnd (.bnkRead (.advanceCi h))) (.upd (.bnkRead (.advanceCi h))))
theorem triggerEnabled (h : d.Form) {q} : (triggerEnabled d q).Form := by
  unfold Machine.triggerEnabled
  refine .ite h ?_
  split
  · exact h
  · rename_i hd
    have h := h.descAt hd
    exact .ite h (.ite (.injectWords h) (.tryStart h fun h => .advanceCi h))
theorem payload (h : d.Form) {m k} : (d.payload m k).1.Form := by
  unfold Dev.payload
  dsimp only
  split
  · exact h
  · split
    · exact h
    · split
      · exact h
      · split
        · exact h
        · exact .bnkRead h
theorem sendOne (h : d.Form) {m k planes retx} : (d.sendOne m k planes retx).1.Form := by
  unfold Dev.sendOne
  split
  · rename_i hp
    exact .endMsg (.ofFst hp h.payload)
  · rename_i hp
    exact .sendPkt (.ofFst hp h.payload)
theorem markSent (h : d.Form) {m k plane} : (d.markSent m k plane).Form := .setMsg h
theorem packetSend (h : d.Form) {tag} : (packetSend d tag).Form := by
  unfold Machine.packetSend
  split
  · exact h
  · refine .ite h ?_
    extract_lets k m sec n
    refine .ite ?_ (.ite ?_ ?_)
    · extract_lets _
      refine .ite h ?_
      split
      · rename_i hs
        exact .endMsg (.ofFst hs (.sendOne (.setMsg h)))
      · rename_i hs
        exact .ofFst hs (.sendOne (.setMsg h))
    · split
      · rename_i hs
        have h : Form _ := .ofFst hs (.sendOne (.setMsg h))
        exact .ite (.endMsg h) (.markSent h)
      · rename_i hs
        exact .ofFst hs (.sendOne (.setMsg h))
    · split
      · exact h
      · rename_i hw
        have h := h.wrr hw
        split
        · rename_i hs
          exact .markSent (.ofFst hs (.sendOne (.setMsg h)))
        · rename_i hs
          exact .ofFst hs (.sendOne (.setMsg h))
theorem resend (h : d.Form) {m p plane} : (d.resend m p plane).Form := .ite (.setMsg h) (.sendOne (.setMsg h))
theorem retransmit (h : d.Form) {tag psn} : (retransmit d tag psn).Form := by
  unfold Machine.retransmit
  split
  · exact h
  · split
    · exact h
    · exact .ite h (.ite (.endMsg h) (.resend (.ite (.cnt h) h)))
theorem nakWaitEnd (h : d.Form) {tag psn} : (nakWaitEnd d tag psn).Form := by
  unfold Machine.nakWaitEnd
  split
  · exact h
  · split
    · exact h
    · exact .ite h (.resend h)
theorem lifetimeEnd (h : d.Form) {tag} : (lifetimeEnd d tag).Form := by
  unfold Machine.lifetimeEnd
  split
  · exact h
  · exact .ite h (.endMsg h)
theorem takeAck (h : d.Form) {g} : (takeAck d g).Form := by
  unfold Machine.takeAck
  split
  · exact .cnt h
  · exact .ite (.cnt h) (.ite (.endMsg h) (.setMsg h))
theorem takeNak (h : d.Form) {g} : (takeNak d g).Form := by
  unfold Machine.takeNak
  dsimp only
  split
  · exact .cnt (.cnt h)
  · split
    · exact .endMsg (.ifThen (.cnt h) fun h => .cnt h)
    · split
      · exact .cnt h
      · exact .ite (.setMsg (.cnt h)) (.ifThen (.cnt h) fun h => .cnt (.setMsg h))
theorem readAsk (h : d.Form) {m} : (d.readAsk m).Form := by
  unfold Dev.readAsk
  refine .ite (.setMsg h) ?_
  split
  · exact .setMsg h
  · rename_i hw
    exact .sendOne (.setMsg (.wrr h hw))
theorem takeResp (h : d.Form) {g} : (takeResp d g).Form := by
  unfold Machine.takeResp
  split
  · exact .cnt h
  · exact .ite (.endMsg h) (.ite (.cnt h) (.ite (.endMsg (.bnkWrite h)) (.ite (.endMsg (.bnkWrite h)) (.readAsk (.bnkWrite
      h)))))
theorem hostAtomic (h : d.Form) : d.hostAtomic.Form := .ite h (.post h)
theorem streamSend (h : d.Form) {s} : (streamSend d s).Form := by
  unfold Machine.streamSend
  refine .ite h ?_
  split
  · exact h
  · exact .ite h (.ite (.strMiss (.upd h)) (.getD (.strMiss (.upd h)) fun hb => .beginMsg (.upd h) hb))
theorem streamStop (h : d.Form) {s} : (streamStop d s).Form := .foldl h fun h => .freeTag h
end Dev.Form

/-! ### Timers and the watchdog -/

namespace Dev.Form
variable {d : Dev}

theorem showIo (h : d.Form) {n} : (d.showIo n).Form := .s h
theorem pinAct (h : d.Form) {n act} : (d.pinAct n act).Form := .ite h (.showIo (.setTch h))
theorem matchEvent (h : d.Form) {n} : (d.matchEvent n).Form := .ite (.pinAct (.s (.setTch h))) h
theorem setCnt (h : d.Form) {n v} : (d.setCnt n v).Form := .setTch (.s h)
theorem zeroIrq (h : d.Form) {n} : (d.zeroIrq n).Form := .updCores h
theorem zeroTick (h : d.Form) {n} : (d.zeroTick n).Form :=
  .ite (.s (.s (.ifThen (.zeroIrq (.pinAct (.s h))) fun h => .raiseOnce h))) (.setCnt (.ifThen (.zeroIrq (.pinAct (.s h)))
    fun h => .raiseOnce h))
theorem chTick {fuel} : ∀ {d : Dev} {n}, d.Form → (d.chTick n fuel).Form := by
  induction fuel with
  | zero => exact id
  | succ fuel ih =>
    exact fun h => .ite h (.ite (.matchEvent (.setCnt h)) (.ifThen (.matchEvent (.zeroTick h)) fun h => ih h))
theorem timCycle (h : d.Form) : d.timCycle.Form :=
  .foldl h fun h => .ifThen (.matchEvent h) fun h => .ite (.setTch h) (.chTick (.setTch h))
theorem writeTimCtl (h : d.Form) {n w} : (d.writeTimCtl n w).Form :=
  .showIo (.ifThen (.ite (.setTch (.s (.s (.setReg h)))) (.ifThen (.setReg h) fun h => .s h)) fun h => .setTch h)
theorem capture (h : d.Form) {n} : (d.capture n).Form :=
  .ifThen (.sIf (.s (.s h))) fun h => .ifThen (.raiseOnce h) fun h => .raiseOnce h
theorem capRead (h : d.Form) {n} : (d.capRead n).Form := .s h
theorem wdtRestart (h : d.Form) : d.wdtRestart.Form := .updTim (.s (.s h))
theorem wdtKey (h : d.Form) {k} : (d.wdtKey k).Form := .ite (.ite (.wdtRestart h) h) (.cnt (.s h))
theorem wdtWarn (h : d.Form) : d.wdtWarn.Form := .updTim (.raise (.s (.s h)))
theorem biteSafe (h : d.Form) : d.biteSafe.Form :=
  .ite (.wdtRestart (.critical (.raise h))) (.s (.s (.critical (.raise h))))
theorem writeWdtCtl (h : d.Form) {w} : (d.writeWdtCtl w).Form :=
  .ite h (.ite (.wdtRestart (.setReg h)) (.ifThen (.setReg h) fun h => .s h))
end Dev.Form

/-! ### Power -/

namespace Dev.Form
variable {d : Dev}

theorem refuseReq (h : d.Form) {code} : (d.refuseReq code).Form := .raise (.s h)
theorem leaveSafe (h : d.Form) : d.leaveSafe.Form :=
  .ite (.critical (.muteEnd (.setMode h))) (.ifThen (.muteEnd (.setMode h)) fun h => .critical h)
theorem beginSleep (h : d.Form) {m} : (d.beginSleep m).Form := .upd (.s (.s h))
theorem request (h : d.Form) {v} : (d.request v).Form :=
  .ite h
    (by
      split
      · split
        · exact .ite (.leaveSafe h) (.setMode h)
        · exact .critical h
        · exact .beginSleep h
        · exact .beginSleep h
        · exact .setMode h
      · exact .refuseReq h)
theorem holdPorts (h : d.Form) : d.holdPorts.Form := .foldl (.upd h) fun h => .ite h (.ite (.upd (.s (.s h))) (.s h))
theorem sleepSteps (h : d.Form) {m} : (d.sleepSteps m).Form :=
  .upd (.ifThen (.holdPorts (.stopTransport (.foldl (.showMap (.upd h)) fun h => .putLedger h))) fun h => .showEvs (.cnt
    (.upd h)))
theorem powerDownEntry (h : d.Form) : (powerDownEntry d).Form := by
  unfold Machine.powerDownEntry
  split
  · exact .ite h (.sleepSteps h)
  · exact h
theorem entryComplete (h : d.Form) : (entryComplete d).Form := by
  unfold Machine.entryComplete
  dsimp only
  split
  · exact .ite h (.ite (.upd (.cnt (.foldl (.setMode (.s (.upd (.cnt h)))) fun h => .ite h (.linkDown h)))) (.cnt (.setMode
      (.s (.upd (.cnt h))))))
  · exact h
theorem wakeUarts (h : d.Form) {l} : (d.wakeUarts l).Form := .ifElse (.foldl h fun h => .cnt h) fun h => .setSer h
theorem releasePorts (h : d.Form) : d.releasePorts.Form := .foldl h fun h => .ite (.s (.s h)) h
theorem loseMemories (h : d.Form) : d.loseMemories.Form := by
  unfold Dev.loseMemories
  refine .foldl (.s (.foldl (.foldl ?_ fun h => .s h) fun h => .setReg h)) fun h => .logicDst h
  exact { h with cores := (List.length_map _).trans h.cores, memory := rfl }
theorem wakeDormant (h : d.Form) : d.wakeDormant.Form :=
  .ite (.s (.s (.sIf (.ifElse (.upd h) fun h => .loseMemories h)))) (.toAcquire (.s (.sIf (.ifElse (.upd h) fun h =>
    .loseMemories h))))
theorem wakeUp (h : d.Form) {reason} : (d.wakeUp reason).Form := by
  have hset : ∀ {d m}, Form d → Form (Dev.setMode d m) := fun h => .setMode h
  -- an opaque `set` keeps the kernel from working out the device that the `match` of `wakeUp` looks at
  generalize hw : Dev.wakeUp = wake
  delta Dev.wakeUp at hw
  generalize Dev.setMode = set at hw hset
  subst hw
  revert set
  refine id fun set hset => ?_
  beta_reduce
  extract_lets d1 d2 p2 d3 d4 d5 d6
  have h1 : d1.Form := .ifThen h fun h => .wakeDormant h
  have h3 : d3.Form := .upd (.releasePorts h1)
  have h5 : d5.Form := .ifThen (.setEpos (.rejudge (.discardBlocks h3))) fun h => .wdtRestart h
  have h6 : d6.Form := hset (.raise (.s h5))
  split
  · exact .ite (.upd h6) (.enterSafe (.upd h6))
  · exact h6
theorem cancelSleep (h : d.Form) {reason} : (d.cancelSleep reason).Form :=
  .raise (.s (.cnt (.s (.ifThen (.upd (.releasePorts h)) fun h => .setEpos h))))
theorem wake (h : d.Form) {sources} : (d.wake sources).Form := by
  unfold Dev.wake
  split
  · exact .ite (.wakeUp (.wakeUarts h)) (.ite (.cancelSleep (.ite (.wakeUarts h) h)) h)
  · exact h
theorem hwake (h : d.Form) : (hwake d).Form :=
  .ite (.raise (.prepRwake (.wake (.updHrp (.s (.s h)))))) (.ifThen (.prepRwake (.wake (.updHrp (.s (.s h))))) fun h =>
    .raise (.cnt (.s h)))
theorem writeVid (h : d.Form) {w} : (d.writeVid w).Form := .ite h (.s (.setReg h))
theorem temperature (h : d.Form) {tj} : (d.temperature tj).Form :=
  .ite h (.ifThen (.ite (.raise (.s (.s h))) (.ifThen (.s h) fun h => .s h)) fun h => .critical h)
end Dev.Form

/-! ### Beacons -/

namespace Dev.Form
variable {d : Dev}

theorem setMaster (h : d.Form) {node prio} : (d.setMaster node prio).Form := .s (.s (.s h))
theorem newMaster (h : d.Form) {node prio} : (d.newMaster node prio).Form := .ite (.setMaster h) (.setMaster (.upd h))
theorem sendBeaconKind (h : d.Form) {plane kind dst body} : (d.sendBeaconKind plane kind dst body).Form := .sendPkt h
theorem beaconSend (h : d.Form) : (beaconSend d).Form := .ite h (.foldl (.upd h) fun h => .sendBeaconKind h)
theorem delayRequests (h : d.Form) : (delayRequests d).Form := .ite h (.foldl h fun h => .sendBeaconKind (.upd h))
theorem masterTakeover (h : d.Form) : (masterTakeover d).Form := .ite (.newMaster (.upd (.s h))) h
theorem bookBeacon (h : d.Form) {follows} : (d.bookBeacon follows).Form :=
  .ite (.srcLost (.s (.upd h))) (.tryAcquire (.sIf (.upd h)))
theorem measureBeacon (h : d.Form) {src loc} : (d.measureBeacon src loc).Form :=
  .ite h (.ifElse (.measure (.upd h)) fun h' => .ite (.cnt (.upd h)) (.ite h' (.large (.upd (.ifThen (.s (.upd h)) fun h =>
    .toAcquire h)))))
theorem beaconCfg (h : d.Form) {node} : (d.beaconCfg node).Form := .ifThen (.cnt h) fun h => .raise (.upd h)
theorem hearOutranking (h : d.Form) {node prio seq} : (d.hearOutranking node prio seq).Form :=
  .ifThen (.upd h) fun h => .newMaster (.s h)
theorem useBeacon (h : d.Form) {g seq} : (d.useBeacon g seq).Form :=
  .ifElse (.upd h) fun h => .ite (.measureBeacon (.bookBeacon (.upd (.s h)))) (.ifThen (.s h) fun h => .upd h)
theorem hearBeacon (h : d.Form) {g} : (hearBeacon d g).Form :=
  .ite h (.ifElse (.ite (.hearOutranking h) h) fun h => .ite h (.ite (.beaconCfg h) (.useBeacon (.newMaster h))))
theorem answerDelay (h : d.Form) {g} : (answerDelay d g).Form := .ite h (by split; exacts [.sendBeaconKind h, h])
theorem takeDelay (h : d.Form) {g} : (takeDelay d g).Form := .ite h (by split; exacts [h, .upd h])
end Dev.Form

/-! ### Cores: the pipeline -/

namespace Dev.Form
variable {d : Dev}

theorem drainOne (h : d.Form) {c} : (d.drainOne c).Form := by
  unfold Dev.drainOne
  dsimp only
  split
  · exact h
  · split
    · exact .setCore (.setCore h)
    · exact .ifThen (.bnkRowWrite (.setCore h)) fun h => .setCore h
theorem drain {c n} : ∀ {d : Dev}, d.Form → (d.drain c n).Form := by
  induction n with
  | zero => exact id
  | succ n ih => exact fun h => ih (.drainOne h)
theorem drainAll (h : d.Form) {c} : (d.drainAll c).Form := .drain h
theorem settleLoad (h : d.Form) {c a k} : (d.settleLoad c a k).Form :=
  .ite h (by split; exacts [.ite h (.setCore (.drain h)), h])
theorem store (h : d.Form) {c a v} : (d.store c a v).Form := .ite (.setCore h) (.setCore (.ite h (.drainOne h)))
theorem stepPointers (h : d.Form) {c u v} : (d.stepPointers c u v).Form := by
  unfold Dev.stepPointers
  extract_lets set
  have hset : ∀ {d u}, Dev.Form d → (set d u).Form := by
    intro d u h
    dsimp only [set]
    split
    · exact .setCore h
    · exact h
  clear_value set
  split
  · exact .ite (hset (.drawn h)) (hset (hset h))
  · exact hset (hset h)
theorem startLoad (h : d.Form) {c w code v} : (d.startLoad c w code v).Form := .ite (.setCore (.drawn h)) (.setCore h)
theorem access (h : d.Form) {c w src a} : (d.access c w src a).Form := .ite (.store (.setCore h)) (.startLoad (.setCore h))
theorem stopCore (h : d.Form) {c fcode} : (d.stopCore c fcode).Form :=
  .setCore (.logicDst (.setCore (.drainAll (.setCore h))))
theorem progFault (h : d.Form) {c fcode} : (d.progFault c fcode).Form := .raise (.stopCore h)
theorem memErr (h : d.Form) {c a double} : (d.memErr c a double).Form :=
  .ite h (.ite (.startTest (.raise (.setCore (.drawn h)))) (.setCore h))
theorem memErrs (h : d.Form) {c err l} : (d.memErrs c err l).Form := by
  unfold Dev.memErrs
  split
  · split
    · exact .memErr h
    · exact h
  · exact h
theorem issue (h : d.Form) {c i branchClass body} (hbody : ∀ {d k}, Dev.Form d → (body k d).Form) :
    (d.issue c i branchClass body).Form := by
  unfold Dev.issue
  split
  · exact h
  · split
    · exact .progFault h
    · exact .ifThen (hbody (.setCore h)) fun h => .setCore h
theorem issueAcc (h : d.Form) {c i acc w effect err} : (d.issueAcc c i acc w effect err).Form := by
  unfold Dev.issueAcc
  split
  · exact h
  · split
    · exact .progFault h
    · exact .ite (.setCore (.foldl h fun h => .settleLoad h)) (.setCore (.stepPointers (.foldl (.memErrs (.setCore (.foldl h
        fun h => .settleLoad h))) fun h => .access h)))
end Dev.Form

/-! ### Cores: control -/

namespace Dev.Form
variable {d : Dev}

theorem plain (h : d.Form) {c i body} (hbody : ∀ {d k}, Dev.Form d → (body k d).Form) : (d.plain c i body).Form :=
  .issue h fun h => .setCore (hbody h)
theorem branch (h : d.Form) {c i f} : (d.branch c i f).Form := .issue h fun h => .setCore h
theorem repeat_ (h : d.Form) {c i count le} : (d.repeat_ c i count le).Form := by
  unfold Dev.repeat_
  split
  · exact h
  · split
    · exact .progFault h
    · exact .ite (.progFault h) (.ite (.progFault h) (.issue h fun h => .setCore h))
theorem exportCore (h : d.Form) {c} : (d.exportCore c).Form := .ite h (.placeResult h)
theorem setDone (h : d.Form) {c} : (d.setDone c).Form := .exportCore (.setCore h)
theorem lineFill (h : d.Form) {c y} : (d.lineFill c y).Form := by
  unfold Dev.lineFill
  split
  · exact h
  · exact .ite (.setCore (.bnkRow h)) (.ifThen (.setCore (.bnkRow h)) fun h => .raise h)
theorem windowTimeout (h : d.Form) {c y} : (d.windowTimeout c y).Form := by
  unfold Dev.windowTimeout
  dsimp only
  split
  · exact .raise (.setCore h)
  · split
    · split
      · exact .ite (.raise (.setCore h)) h
      · exact h
    · exact h
end Dev.Form

/-! ### Cores from outside -/

namespace Dev.Form
variable {d : Dev}

theorem chnWrite (h : d.Form) {ag c mem off data} : (d.chnWrite ag c mem off data).1.Form := by
  unfold Dev.chnWrite
  split
  · exact .setCore h
  · exact h
theorem tellDenied (h : d.Form) {ag denied} : (d.tellDenied ag denied).Form := .sIf h
theorem chnOff (h : d.Form) {c} : (d.chnOff c).Form := .setCore (.ifThen (.ite h (.putMst h)) fun h => .drainAll h)
theorem chnOn (h : d.Form) {c} : (d.chnOn c).Form := .ite h (.setCore h)
theorem chnCtl (h : d.Form) {c v} : (d.chnCtl c v).Form :=
  .ite (.setCore (.manage (.chnOn (.setCore h)))) (.chnOff (.setCore h))
theorem chnView (h : d.Form) {c o v} : (d.chnView c o v).Form := .ite (.setCore h) h
theorem chnReg (h : d.Form) {c o v} : (d.chnReg c o v).Form :=
  .ite (.chnCtl h) (.ite (.setCore h) (.ite (.setCore h) (.ite (.setCore h) (.ite (.setCore h) (.ite (.ite (.setCore h) h)
    (.ite (.chnView h) h))))))
end Dev.Form

/-! ### The target -/

namespace Dev.Form
variable {d : Dev}

theorem endNamed (hd : d.Form) {h} : (d.endNamed h).Form := by
  refine .ite ?_ hd
  split
  · exact .endRec hd
  · exact hd
theorem vlog (h : d.Form) {hdr reason} : (d.vlog hdr reason).Form :=
  .s (.sIf (.setReg (.setReg (.setReg (.setReg h)))))
theorem violate (h : d.Form) {g reason} : (d.violate g reason).Form := .nak (.endNamed (.raiseOnce (.cnt (.vlog h))))
theorem invalid (h : d.Form) {g} : (d.invalid g).Form := .answer (.cnt (.endNamed h))
theorem endWith (h : d.Form) {g code} : (d.endWith g code).Form := .nak (.endNamed h)
theorem writeMrAttr (h : d.Form) {v} : (d.writeMrAttr v).Form := .ite h (.upd (.sIf h))
theorem writeMr (h : d.Form) {f} : (d.writeMr f).Form := .ite h (.upd h)
theorem mposRule (hd : d.Form) {h} : (d.mposRule h).1.Form := by
  unfold Dev.mposRule
  split
  · split_ifs
    · exact .cnt hd
    · exact .abandon hd
    · exact hd
  · split
    · split_ifs
      · exact .cnt hd
      · exact hd
    · exact hd
theorem takeReq (h : d.Form) {op records} : (d.takeReq op records).1.Form := by
  unfold Dev.takeReq
  split
  · rename_i ht
    exact .ofFst ht h.takePkt
  · rename_i ht
    have h : Form _ := .ofFst ht h.takePkt
    split
    · rename_i hm
      refine .ofFst hm ?_
      split
      · exact h.mposRule
      · exact h
    · rename_i e hm
      have h : e.Form := .ofFst hm (by
        split
        · exact h.mposRule
        · exact h)
      split
      · exact .nak h
      · split
        · exact .violate h
        · exact h
theorem ackRec (h : d.Form) {r flags} : (d.ackRec r flags).Form := .ite h (.answer h)
theorem ackDone (hd : d.Form) {p h e flags} : (d.ackDone p h e flags).Form := .ite hd (.answer hd)
theorem setRec (h : d.Form) {r} : (d.setRec r).Form := .upd h
theorem openRec (h : d.Form) {g slot} : (d.openRec g slot).Form := .showBlw (.upd h)
theorem bumpTrig (h : d.Form) {t} : (d.bumpTrig t).Form := .ite h (.s h)
theorem trigger (h : d.Form) {r} : (d.trigger r).Form := .ite (.ite (.bumpTrig h) h) (.ite (.bumpTrig h) h)
theorem markReady (h : d.Form) {r} : (d.markReady r).Form := .upd h
theorem completeRec (h : d.Form) {r} : (d.completeRec r).Form :=
  .ackRec (.showBlw (.upd (.dropRec (.ite (.deliverSlot (.trigger h)) (.markReady (.trigger h))))))
theorem placed (h : d.Form) {g r} : (d.placed g r).Form :=
  .ite (.completeRec (.setRec h)) (.ite (.ackRec (.setRec h)) (.setRec h))
theorem duplicate (h : d.Form) {g e} (hd : d.duplicate g = some e) : e.Form := by
  unfold Dev.duplicate at hd
  split at hd
  · cases hd
    exact .ackDone (.cnt h)
  · split at hd
    · split at hd <;> cases hd
      exact .ackRec (.setRec (.cnt h))
    · cases hd
theorem placeBank (h : d.Form) {a data coll} : (d.placeBank a data coll).1.Form := by
  unfold Dev.placeBank
  dsimp only
  split
  · split_ifs
    · exact .bnkRowWrites h
    · exact .collide (.bnkRowWrites h)
    · exact .bnkWrite h
    · exact .bnkWrite h
  · exact .bnkWrite h
theorem placeWindow (h : d.Form) {a data} : (d.placeWindow a data).1.Form := by
  unfold Dev.placeWindow
  dsimp only
  split
  · exact h
  · exact .cnt (.foldl h fun h => .intake (.leaseSeen h))
theorem placeAt (h : d.Form) {a data coll} : (d.placeAt a data coll).1.Form := by
  unfold Dev.placeAt
  split
  · exact .placeBank h
  · split
    · exact .placeWindow h
    · split
      · exact .chnWrite h
      · exact h
theorem placing (h : d.Form) {g slot claim p} : (d.placing g slot claim p).Form := by
  unfold Dev.placing
  split
  · exact .violate h
  · exact .nak h
  · exact .nak h
  · split
    · exact .placed h
    · extract_lets b d1 d2
      have h1 : d1.Form := by
        dsimp only [d1]
        split
        · exact .upd h
        · exact h
      have h2 : d2.Form := .openRec h1
      clear_value d2
      split
      · exact .placed h2
      · exact h2
theorem writePkt (h : d.Form) {g coll} : (writePkt d g coll).Form := by
  unfold Machine.writePkt
  split
  · exact .violate h
  · refine .ite (.invalid h) ?_
    split
    · rename_i hd
      exact .duplicate h hd
    · exact .ite h (.ite (.nak h) (.placing (.placeAt h)))
theorem claimSlot (h : d.Form) {g} : (d.claimSlot g).1.Form := by
  unfold Dev.claimSlot
  dsimp only
  split_ifs
  · exact .endWith h
  · exact .endWith h
  · exact .cnt h
  · exact .nak h
  · split
    · exact .nak h
    · exact h
theorem sendPacket (h : d.Form) {g coll} : (sendPacket d g coll).Form := by
  unfold Machine.sendPacket
  refine .ite (.violate h) (.ite (.invalid h) ?_)
  split
  · rename_i hd
    exact .duplicate h hd
  · refine .ite h ?_
    split
    · exact .placing (.placeBank h)
    · split
      · rename_i hc
        exact .ofFst hc h.claimSlot
      · rename_i hc
        exact .placing (.placeBank (.ofFst hc h.claimSlot))
theorem readFor (h : d.Form) {a n} : (d.readFor a n).1.Form := by
  unfold Dev.readFor
  split
  · exact .bnkRead h
  · split
    · exact .drawn h
    · split <;> exact h
theorem readPkts {g u l} : ∀ {d : Dev}, d.Form → (d.readPkts g u l).Form := by
  induction l with
  | nil => exact id
  | cons k rest ih =>
    intro d h
    unfold Dev.readPkts
    split
    · rename_i hr
      exact .nak (.ofFst hr h.readFor)
    · rename_i hr
      exact ih (.answer (.ofFst hr h.readFor))
theorem readReq (h : d.Form) {g} : (readReq d g).Form := by
  unfold Machine.readReq
  extract_lets u
  split
  · exact .violate h
  · exact .ite (.invalid h) (.readPkts h)
theorem atomicFor (h : d.Form) {g cas} : (d.atomicFor g cas).1.Form := by
  unfold Dev.atomicFor
  extract_lets n a op0 op1 r
  split
  · exact .bnkAtomic h
  · split
    · extract_lets
      split
      · exact h
      · split
        · exact .chnWrite h
        · exact h
    · exact h
theorem atomicResp (h : d.Form) {g old flags} : (d.atomicResp g old flags).Form := .answer h
theorem atomicReq (h : d.Form) {g cas collided} : (atomicReq d g cas collided).Form := by
  unfold Machine.atomicReq
  extract_lets n
  split
  · exact .violate h
  · refine .ite (.invalid h) ?_
    split
    · exact .atomicResp (.cnt h)
    · refine .ite (.nak h) (.ite (.nak (.collide h)) ?_)
      split
      · rename_i ha
        exact .nak (.ofFst ha h.atomicFor)
      · rename_i ha
        exact .atomicResp (.showBlw (.upd (.ofFst ha h.atomicFor)))
theorem ackDelay (h : d.Form) {src tag} : (ackDelay d src tag).Form := by
  unfold Machine.ackDelay
  split
  · exact .ite h (.ackRec (.setRec h))
  · exact h
theorem recordExpiry (h : d.Form) {src tag} : (recordExpiry d src tag).Form :=
  .showBlw (.upd (.foldl h fun h => .abandon h))
theorem writeBlwCtl (h : d.Form) {v} : (d.writeBlwCtl v).Form :=
  .ite h (.ite (.setEpos (.s (.foldl (.s h) fun h => .s (.s h)))) (.ifThen (.s h) fun h => .upd (.spillSteps (.stopTransport
    (.s h)))))
end Dev.Form

/-! ### Faults -/

namespace Dev.Form
variable {d : Dev}

theorem setScore (h : d.Form) {cls i v} : (d.setScore cls i v).Form := .upd h
theorem setScoreAt (h : d.Form) {cls i v} : (d.setScoreAt cls i v).Form := .upd h
theorem scorePass (h : d.Form) {cls i} : (d.scorePass cls i).1.Form := by
  unfold Dev.scorePass
  dsimp only
  split
  · exact h
  · split
    · exact .setScore h
    · exact .setScore (.ite (.setScoreAt h) h)
theorem scoreDecay (h : d.Form) {cls i upset} : (scoreDecay d cls i upset).Form :=
  .ite (.raise (.cnt (.setScore h))) (.ite h (.setScore (.setScoreAt h)))
theorem logUnit (h : d.Form) {w detail} : (d.logUnit w detail).Form := .logEntry h
theorem retireUnit (h : d.Form) {kind i w} : (d.retireUnit kind i w).Form := .logUnit (.logicDst h)
theorem retireRow (h : d.Form) {bank row w} : (d.retireRow bank row w).Form :=
  .ifElse (.poisonRow h) fun h' => .ite (.logUnit (.raise (.cnt (.s (.updBnk h))))) (.logUnit (.bankDraining h'))
theorem retireBank (h : d.Form) {bank w} : (d.retireBank bank w).Form := .ite (.logUnit (.bankDraining h)) h
theorem showSpares (h : d.Form) {c} : (d.showSpares c).Form := .setReg h
theorem retirePm (h : d.Form) {c row w} : (d.retirePm c row w).Form :=
  .ite (.logUnit (.showSpares (.upd h))) (.retireUnit h)
theorem retirePort (h : d.Form) {n w} : (d.retirePort n w).Form :=
  .raise (.linkDown (.s (.setPort (.txDiscard (.retireUnit h)))))
theorem retireTable (h : d.Form) {t row} : (d.retireTable t row).Form := by
  unfold Dev.retireTable
  split
  · exact .showEvs (.raise (.s (.upd h)))
  · exact .s (.upd h)
  · exact .s (.upd h)
  · exact .showMbx (.upd h)
  · exact .upd h
theorem dropProt (h : d.Form) {e} : (d.dropProt e).Form :=
  .ite (.upd h) (.ite (.s h) (.ite (.s h) (.ite (.putKey h) (.upd h))))
theorem tableUpset (h : d.Form) {t row} : (d.tableUpset t row).Form := by
  refine .startTest (.ite (.raise ?_) (.raise (.cnt ?_)))
  all_goals
    split
    · split
      · exact .dropRec (.drawn h)
      · exact .drawn h
    · exact .showBlw (.upd (.drawn h))
    · exact .upd (.drawn h)
    · exact .dropProt (.drawn h)
theorem passUnit (h : d.Form) {kind i} : (d.passUnit kind i).Form := by
  unfold Dev.passUnit
  dsimp only
  split
  · exact .raise (.cnt h)
  · exact .cnt h
  · split
    · exact .applyMode (.ifThen (.logicDst (.s (.setPort h))) fun h => .setLec h)
    · exact .ifThen (.logicDst (.s (.setPort h))) fun h => .setLec h
  · exact .ite (.cnt h) (.raise (.s h))
  · exact .srcWaited (.muteEnd (.upd h))
  · exact h
theorem lastUnit (h : d.Form) {kind i row w} : (d.lastUnit kind i row w).Form := by
  unfold Dev.lastUnit
  split
  · exact .retireRow h
  · exact .retireBank h
  · exact .showLanes (.retireUnit h)
  · exact .retireUnit h
  · exact .retirePort h
  · exact .ite (.raise (.retireUnit h)) (.raise (.retireUnit h))
  · exact .logUnit (.raise (.s h))
  · exact .retirePm h
  · exact .critical h
  · exact .retireTable h
  · exact h
theorem testResult (h : d.Form) {kind i verdict micros st2} : (d.testResult kind i verdict micros st2).Form :=
  .placeResult h
theorem judgeUnit (h : d.Form) {kind i row at_ pass micros} : (d.judgeUnit kind i row at_ pass micros).Form :=
  .ite (.lastUnit (.raise (.cnt (.testResult (by split; exacts [.scorePass h, h]))))) (.passUnit (.ifThen (.cnt (.testResult
    (by split; exacts [.scorePass h, h]))) fun h => .raiseOnce h))
theorem endReadback (h : d.Form) {lo step pass micros} : (d.endReadback lo step pass micros).Form :=
  .ite (.judgeUnit (.upd (.endTest h))) (.judgeUnit (.upd (.endTest h)))
theorem verdict (h : d.Form) {u pass step micros} : (verdict d u pass step micros).Form :=
  .ifElse (.ite (.tableUpset h) h) fun h => .ite (.endReadback h) (.judgeUnit (.endTest h))
theorem stateSplit (h : d.Form) {kind i} : (stateSplit d kind i).Form := .ite h (.raise (.cnt (.s (.s (.s (.s (.upd h)))))))
theorem flushQueue (h : d.Form) {q} : (d.flushQueue q).Form := .flushMsgs h
theorem afterState (h : d.Form) {kind i} : (d.afterState kind i).Form := by
  unfold Dev.afterState
  split
  · exact .showLanes h
  · exact .setCore h
  · exact .ite (.linkDown h) h
  · exact .ite (.flushQueue h) h
  · exact h
theorem writeMst (h : d.Form) {kind i v} : (d.writeMst kind i v).Form := .ite h (.afterState (.manage h))
theorem writeLaneMst (h : d.Form) {k w} : (d.writeLaneMst k w).Form := .foldl h fun h => .writeMst h
end Dev.Form

/-! ### Register reads -/

namespace Dev.Form
variable {d : Dev}

theorem uartSee (h : d.Form) {n} : (d.uartSee n).Form := .setSer h
theorem uartTake (h : d.Form) {n} : (d.uartTake n).Form :=
  .ite (by split; exacts [.setSer (.drawn h), .setSer h]) (.setSer h)
theorem noticePop (h : d.Form) {ecc} : (d.noticePop ecc).Form := by
  unfold Dev.noticePop
  split
  · exact .upd h
  · exact .ite (.startTest (.drawn (.upd h))) (.upd h)
theorem readClear (h : d.Form) {off} : (d.readClear off).Form := .ite (.s h) (by split; exacts [.ite h (.setReg h), h])
theorem readEffect (h : d.Form) {off} : (d.readEffect off).Form := by
  unfold Dev.readEffect
  split
  · exact .setGrp h
  · exact .setGrp h
  · exact .ite (.setCore h) (.ite h (.ite (.upd h) (.ite (.upd h) (.ite (.upd h) (.ite (.upd h) (.ite (.uartSee h) (.ite
      (.uartTake h) (.ite (.capRead h) (.ite (.noticePop h) (.readClear h))))))))))
theorem readReg (h : d.Form) {off} : (d.readReg off).1.Form := .readEffect h
end Dev.Form

/-! ### Register writes -/

namespace Dev.Form
variable {d : Dev}

theorem plainWrite (h : d.Form) {off v} : (d.plainWrite off v).Form := by
  unfold Dev.plainWrite
  split
  · exact .setReg h
  · exact h
theorem wholeWrite (h : d.Form) {off v} : (d.wholeWrite off v).Form := .ite (.plainWrite h) h
theorem wrSys (h : d.Form) {ag off v} : (d.wrSys ag off v).Form := .ite h (.plainWrite h)
theorem wrBrt (h : d.Form) {ag off v} : (d.wrBrt ag off v).Form :=
  .ite (.ifThen (.writeSrc (.ifThen (.s (.plainWrite h)) fun h => .s h)) fun h => .writeRebase h) (.ifThen (.plainWrite h)
    fun h => .ite h (.judgeRet h))
theorem wrEvs (h : d.Form) {off v} : (d.wrEvs off v).Form := .ite h (.plainWrite h)
theorem wrVal (h : d.Form) {ag off v} : (d.wrVal ag off v).Form :=
  .ite (.upd h) (.ite (.ite (.setReg h) (.writeSpill2 h)) (.plainWrite h))
theorem wrRda (h : d.Form) {ag off v} : (d.wrRda ag off v).Form :=
  .ite (.ite (.plainWrite h) (.writePlib h)) (.ite (.patchCmd h) (.ite (.writeRsel h) (.plainWrite h)))
theorem wrChn (h : d.Form) {off v} : (d.wrChn off v).Form := .ifThen (.chnReg h) fun h => .afterState h
theorem wrBnk (h : d.Form) {off v} : (d.wrBnk off v).Form :=
  .ite (by split; exacts [.writeOwn h, .writeGuest h, .writeMst h, h]) (.plainWrite h)
theorem wrMac (h : d.Form) {off v} : (d.wrMac off v).Form :=
  .ite h (.ite (.afterState (.writeMacCtl h)) (.ite (.ite (.writeLecClr h) h) (.ite h (.ite h (.ifThen (.plainWrite h) fun h
    => .s (.s h))))))
theorem wrQueues (h : d.Form) {off v} : (d.wrQueues off v).Form :=
  .ite (.ite (.plainWrite h) (.upd (.s (.s (.ite (.writeMst (.setReg h)) (.setReg h)))))) (.ite (.ifElse (.plainWrite h)
    fun h => .upd (.s (.s h))) (.ifElse (.plainWrite h) fun h => .s (.s h)))
theorem wrBlw (h : d.Form) {off v} : (d.wrBlw off v).Form :=
  .ite (.writeBlwCtl h) (.ite (.ite h (.plainWrite h)) (.ite (.ite h (.plainWrite h)) (.ite (.wholeWrite h) (.ite (.ifThen
    (.plainWrite h) fun h => .hostAtomic h) (.ite (.wrQueues h) (.plainWrite h))))))
theorem wrSec (h : d.Form) {wrap off v} : (d.wrSec wrap off v).Form :=
  .ite (.writeKeyCmd h) (.ite (.writeMr h) (.ite (.writeMr h) (.ite (.writeMrAttr h) (.ite (.writeMr h) (.ite h (.ite h
    (.plainWrite h)))))))
theorem wrStr (h : d.Form) {ag off v} : (d.wrStr ag off v).Form :=
  .ite (.ite (.s h) (.ifThen (.setReg h) fun h => .upd h)) (.plainWrite h)
theorem wrBel (h : d.Form) {ag off v} : (d.wrBel ag off v).Form :=
  .ite (.ite (.ite (.plainWrite h) h) (.writePlat h)) (.ite (.writeMute h) (.ite (.writeMst h) (.plainWrite h)))
theorem wrSap (h : d.Form) {off v} : (d.wrSap off v).Form := .ite (.writeSapCtl h) (.plainWrite h)
theorem updEnd (h : d.Form) : d.updEnd.Form := .s (.upd h)
theorem usbDrop (h : d.Form) : d.usbDrop.Form := .s (.upd (by split; exacts [.ite (.updEnd h) h, h]))
theorem usbOff (h : d.Form) : d.usbOff.Form := .ite h (.ifThen (.raise (.setReg (.usbDrop h))) fun h => .srcLost h)
theorem uartPut (h : d.Form) {n b} : (d.uartPut n b).Form := .ite h (.ite (.cnt h) (.setSer h))
theorem wrUsb (h : d.Form) {off v} : (d.wrUsb off v).Form :=
  .ite (.ifElse (.plainWrite h) fun h => .usbOff h) (.ite (.uartPut h) (.plainWrite h))
theorem startFill (h : d.Form) {row} : (d.startFill row).Form := .updHrp h
theorem mbxWrite (h : d.Form) {o bytes} : (d.mbxWrite o bytes).Form := by
  unfold Dev.mbxWrite
  have hl : (bytes.foldl (fun l e => setAt l (o + e.1) e.2) d.hrp.mbxLatch).length = 16 :=
    foldl_keeps (fun l : List Byte => l.length = 16) _ _ _ h.latch fun _ _ hl => (length_setAt _ _ _).trans hl
  refine .ifThen ?_ fun h => .submit h
  exact { h with latch := hl }
theorem hostAwake (h : d.Form) : d.hostAwake.Form := .ite (.updHrp (.s (.s h))) h
theorem wrHrp (h : d.Form) {off v} : (d.wrHrp off v).Form :=
  .ite (.startFill (.plainWrite h)) (.ite (.ite (.startFill h) h) (.ite (.mbxWrite h) (.ite (.ifThen (.plainWrite h) fun h
    => .updHrp (.s h)) (.ifThen (.plainWrite h) fun h => .setGrp h))))
theorem wrTim (h : d.Form) {off v} : (d.wrTim off v).Form :=
  .ite (.ite (.writeTimCtl h) (.plainWrite h)) (.ite (.ite (.writeWdtCtl h) h) (.ite (.ite h (.wholeWrite h)) (.ite (.wdtKey
    h) (.ite (.wrHrp h) (.plainWrite h)))))
theorem wrFlt (h : d.Form) {off v} : (d.wrFlt off v).Form := .ite (.writeLaneMst h) (.plainWrite h)
theorem wrPwr (h : d.Form) {ag off v} : (d.wrPwr ag off v).Form :=
  .ite (.request (.ite h (.plainWrite h))) (.ite (.writeVid h) (.plainWrite h))
theorem regWrite (h : d.Form) {wrap ag off v} : (d.regWrite wrap ag off v).Form :=
  .ite h
    (by
      split
      · exact .wrSys h
      · exact .wrBrt h
      · exact .wrEvs h
      · exact .wrVal h
      · exact .wrRda h
      · exact .wrBnk h
      · exact .wrBnk h
      · exact .wrMac h
      · exact .wrBlw h
      · exact .wrSec h
      · exact .wrStr h
      · exact .wrBel h
      · exact .wrSap h
      · exact .wrUsb h
      · exact .wrTim h
      · exact .wrFlt h
      · exact .wrPwr h
      · exact .ite (.wrChn h) (.plainWrite h))
end Dev.Form

/-! ### MIDI -/

namespace Dev.Form
variable {d : Dev}

theorem fromInput (h : d.Form) {inp w} : (d.fromInput inp w).Form := .ite (.upd h) (.ite (.upd h) (.cnt h))
theorem voice (h : d.Form) {inp grp ch t op nid vala valb} : (d.voice inp grp ch t op nid vala valb).Form := by
  unfold Dev.voice
  split
  · exact .cnt h
  · exact .foldl h fun h => .fromInput h
theorem setSel (h : d.Form) {k m} : (d.setSel k m).Form := .upd h
theorem keepCc (h : d.Form) {k cc v} : (d.keepCc k cc v).Form := by
  unfold Dev.keepCc
  split
  · exact .setSel h
  · exact .setSel h
  · exact .setSel h
  · exact .setSel h
  · exact .setSel h
  · exact h
theorem ccWord (h : d.Form) {inp grp ch t cc v} : (d.ccWord inp grp ch t cc v).Form := by
  unfold Dev.ccWord
  split <;> exact .voice h
theorem cc1 (h : d.Form) {inp grp ch t cc v} : (d.cc1 inp grp ch t cc v).Form :=
  .ite (.keepCc h) (.ite (.voice (.setSel h)) (.ite (.voice h) (.ccWord h)))
theorem midi1 (h : d.Form) {inp grp t st d1 d2} : (d.midi1 inp grp t st d1 d2).Form := by
  unfold Dev.midi1
  split
  · exact .voice h
  · exact .ite (.voice h) (.voice h)
  · exact .voice h
  · exact .cc1 h
  · exact .voice h
  · exact .voice h
  · exact .voice h
  · exact .cnt h
theorem midi2 (h : d.Form) {inp grp t w v} : (d.midi2 inp grp t w v).Form := by
  unfold Dev.midi2
  split
  · exact .voice h
  · exact .voice h
  · exact .voice h
  · exact .voice h
  · exact .voice h
  · exact .voice h
  · exact .voice h
  · exact .voice h
  · exact .ite (.keepCc h) (.ccWord h)
  · exact .voice h
  · exact .voice h
  · exact .voice h
  · exact .voice h
  · exact .cnt h
theorem jrStamp (h : d.Form) {group ts} : (d.jrStamp group ts).Form :=
  .ite h (.upd (.ifThen (.ite (.cnt h) h) fun h => .cnt h))
theorem jrTarget (h : d.Form) {group} : (d.jrTarget group).1.Form := by
  unfold Dev.jrTarget
  dsimp only
  split
  · exact .upd h
  · exact h
theorem regwr (h : d.Form) {wrap a v} : (d.regwr wrap a v).Form := .ite (.regWrite h) (.cnt (.ite (.cnt h) h))
theorem sysex (h : d.Form) {wrap l} : (d.sysex wrap l).Form := by
  unfold Dev.sysex
  split
  · exact .cnt h
  · exact .ifThen (.cnt h) fun h' => by split; exacts [.regwr h, h']
end Dev.Form

/-! ### The UARTs -/

namespace Dev.Form
variable {d : Dev}

theorem parse (h : d.Form) {wrap b} : (d.parse wrap b).Form :=
  .ite h (.ite (.setSer h) (.ite (by split; exacts [.sysex (.setSer h), .setSer h]) (.ite (.cnt (.setSer h)) (.ite (.setSer
    h) (by split; exacts [.setSer h, .ite (.setSer h) (.midi1 (.setSer h)), .cnt h])))))
theorem parseError (h : d.Form) : d.parseError.Form := .setSer h
theorem lineErrors (h : d.Form) {n fe pe brk} : (d.lineErrors n fe pe brk).Form :=
  .ifThen (.ifThen (.setSer h) fun h => .cnt h) fun h => .cnt h
theorem fifoIn (h : d.Form) {n b} : (d.fifoIn n b).Form := .ite (.setSer h) (.cnt (.setSer h))
theorem statusWakes (h : d.Form) {b} : (d.statusWakes b).Form := .ite h (.prepRwake (.prepDwake h))
theorem consoleByte (h : d.Form) {b bad} : (d.consoleByte b bad).Form := .ite (.cnt (.setSer h)) (.setSer h)
theorem receiveByte (h : d.Form) {wrap n byte fe pe brk} : (d.receiveByte wrap n byte fe pe brk).Form :=
  .ite (.ite (.parseError (.setSer (.lineErrors h))) (.parse (.statusWakes (.setSer (.lineErrors h))))) (.ite (.fifoIn
    (.setSer (.lineErrors h))) (.consoleByte (.setSer (.lineErrors h))))
theorem receiveChar (h : d.Form) {wrap n byte fe pe brk} : (receiveChar wrap n byte fe pe brk d).Form :=
  .ite h (.ifElse (.wake h) fun h' => .ite h (.receiveByte h'))
theorem agentRead (h : d.Form) {off} : (d.agentRead off).Form := .ite h (.updHrp (.readReg h))
theorem transmitChar (h : d.Form) {n} : (transmitChar n d).Form := .ite h (by split; exacts [.setSer h, h])
end Dev.Form

/-! ### The host port -/

namespace Dev.Form
variable {d : Dev}

theorem drive (h : d.Form) {v} : (d.drive v).Form := .updHrp h
theorem asleepRead (h : d.Form) : d.asleepRead.Form := .ite h (.drive h)
theorem unmap (h : d.Form) : d.unmap.Form := .s h
theorem apRead (h : d.Form) {o} : (d.apRead o).Form :=
  .ifElse (.drive h) fun h' => by split; exacts [.unmap h', h', .ifElse (.setGrp (.drive h)) fun h => .startFill h]
theorem lineWrite (h : d.Form) {row b} : (d.lineWrite row b).Form := by
  unfold Dev.lineWrite
  dsimp only
  split
  · exact .ifElse (.ite (.updHrp h) h) fun h => .setGrp (.updHrp h)
  · exact .ite (.updHrp h) h
theorem apWrite (h : d.Form) {o data be} : (d.apWrite o data be).Form :=
  .ite h (.ite (.unmap h) (.ite (.s h) (.updHrp (.lineWrite h))))
theorem apPerform (h : d.Form) {collided} : (apPerform collided d).Form := by
  unfold Machine.apPerform
  dsimp only
  split
  · exact h
  · exact .ite h
      (by
        split
        · exact .ite (.collide (.updHrp h)) (.tellDenied (.bnkWrite (.updHrp h)))
        · split
          · exact .tellDenied (.chnWrite (.updHrp h))
          · exact .updHrp h
        · exact .windowWrite (.updHrp h))
theorem fillRow (h : d.Form) {row ecc} : (d.fillRow row ecc).dev.Form := by
  unfold Dev.fillRow
  split
  · exact h
  · exact .bnkRead (.ifThen (.settled h) fun h => .eccEvents h)
theorem fillComplete (h : d.Form) {ecc} : (fillComplete ecc d).Form := by
  unfold Machine.fillComplete
  split
  · exact h
  · exact .ite h (.ite (.updHrp h) (.placeResult (.updHrp (.sIf (.tellDenied (.fillRow h))))))
theorem readNotice (h : d.Form) {ecc} : (d.readNotice ecc).Form := .drive (.noticePop h)
theorem hostLow (h : d.Form) {off} : (hostLow off d).Form :=
  .ite (.asleepRead h) (.ite (.apRead (.hostAwake h)) (.ite (.unmap (.drive (.updHrp (.hostAwake h)))) (.ite (.readNotice
    (.hostAwake h)) (.ite (.drive (.hostAwake h)) (.ifElse (.drive (.readEffect (.hostAwake h))) fun h => .updHrp h)))))
theorem hostHigh (h : d.Form) {off} : (hostHigh off d).Form :=
  .ite (.asleepRead h) (.ite (.apRead (.hostAwake h)) (.ite (.unmap (.drive (.hostAwake h))) (.ite (.drive (.hostAwake h))
    (.ite (.drive (.hostAwake h))
    (by split; exacts [.drive (.hostAwake h), .ite (.drive (.hostAwake h)) (.drive (.hostAwake h))])))))
theorem hostMbx (h : d.Form) {o data be} : (d.hostMbx o data be).Form := .mbxWrite h
theorem hostLowW (h : d.Form) {off data be} : (hostLowW off data be d).Form := by
  unfold Machine.hostLowW
  refine .ite h ?_
  have h := h.hostAwake
  generalize d.hostAwake = d at h ⊢
  exact .ite (.apWrite h) (.ite (.unmap h) (.ite (.hostMbx h) (.ite (.ite (.uartPut h) h) (.ite h
    (.updHrp (.sIf h) (by simp only [Dev.sIf_hrp]) (by simp only [Dev.sIf_hrp]))))))
theorem hostHighW (h : d.Form) {off data be} : (hostHighW off data be d).1.Form := by
  unfold Machine.hostHighW
  dsimp only
  split_ifs
  · exact h
  · exact .apWrite (.hostAwake h)
  · exact .unmap (.hostAwake h)
  · exact .hostMbx (.hostAwake h)
  · exact .hostAwake h
  · split
    · split_ifs
      · exact .updHrp (.hostAwake h)
      · exact .hostAwake h
    · exact .hostAwake h
theorem dwakeAssert (h : d.Form) : (dwakeAssert d).Form := by
  unfold Machine.dwakeAssert
  split
  · exact .ite (.updHrp (.cnt (.s (.s h)))) h
  · exact h
end Dev.Form

/-! ### The flash -/

namespace Dev.Form
variable {d : Dev}

theorem mirror (h : d.Form) {l} : (d.mirror l).Form := .foldl (.foldl h fun h => .setReg h) fun h => .setReg h
end Dev.Form

namespace State.Form

theorem putEntry {s : State} (h : s.Form) {base slot fseq rest} : (s.putEntry base slot fseq rest).Form :=
  .dev (.mirror (.upd h))
theorem appendHere {s t : State} (h : s.Form) {base rest} (ha : s.appendHere base rest = some t) : t.Form := by
  unfold State.appendHere at ha
  split at ha
  · cases ha
  · obtain ⟨_, _, rfl⟩ := Option.map_eq_some_iff.mp ha
    exact .putEntry h
theorem enterSector {s : State} (h : s.Form) {base k fseq rest} : (s.enterSector base k fseq rest).Form := by
  unfold State.enterSector
  exact foldl_keeps (fun r : State × Nat × Nat => r.1.Form) _ _ _ (.dev h) fun _ _ h => .putEntry h
theorem append {s : State} (h : s.Form) {e} : (s.append e).Form := by
  unfold State.append
  split
  · exact h
  · split
    · exact .putEntry (.ite h (.dev h))
    · split
      · rename_i ha
        exact .appendHere h ha
      · exact .enterSector h
theorem appendPending {s : State} (h : s.Form) : s.appendPending.Form := by
  unfold State.appendPending
  split
  · exact h
  · exact .append (.dev (.upd h))
theorem flushPend {s : State} (h : s.Form) : s.flushPend.Form := .foldl h fun h => .appendPending h
theorem pmReload {s : State} (h : s.Form) {c} : (pmReload s c).Form :=
  .ite h
    (by
      split
      · exact h
      · exact .ite (.dev (.s (.logicDst (.setCore (.drawn (.logEntry h)))))) (.dev (.setCore (.drawn (.logEntry h)))))
end State.Form

/-! ### The update -/

namespace Dev.Form
variable {d : Dev}

theorem cmdEnd (h : d.Form) {err} : (d.cmdEnd err).Form := .raise (.s (.s h))
end Dev.Form

namespace State.Form

theorem rejectUpd {s : State} (h : s.Form) {err} : (s.rejectUpd err).Form := .dev (.raise (.s h))
theorem failUpd {s : State} (h : s.Form) {err} : (s.failUpd err).Form := .dev (.cmdEnd (.updEnd h))
theorem runUpd {s : State} (h : s.Form) {u cmd ops} : (s.runUpd u cmd ops).Form := .dev (.s (.upd h))
theorem updStart {s : State} (h : s.Form) {usb} : (s.updStart usb).Form :=
  .ite (.failUpd (.dev (.s (.s h)))) (.ite (.failUpd (.dev (.s (.s h)))) (.runUpd (.dev (.s (.s (.s h))))))
theorem updProgram {s : State} (h : s.Form) {u} : (s.updProgram u).Form :=
  .ite (.rejectUpd h) (.ite (.failUpd h) (.runUpd (.dev (.bnkRead h))))
theorem updRecord {s : State} (h : s.Form) {u} : (s.updRecord u).Form :=
  .ite (.rejectUpd h) (.ite (.rejectUpd (.dev (.bnkRead h))) (.ite (.failUpd (.dev (.bnkRead h))) (.runUpd (.dev (.bnkRead
    h)))))
theorem updOwn {s : State} (h : s.Form) {usb cmd} : (s.updOwn usb cmd).Form := by
  unfold State.updOwn
  split
  · exact .ite (.updStart h) (.ite (.dev (.cmdEnd h)) (.rejectUpd h))
  · refine .ite (.failUpd h) (.ite (.rejectUpd h) ?_)
    split
    · exact .updProgram h
    · exact .updProgram h
    · exact .runUpd h
    · exact .updRecord h
    · exact .ite (.failUpd h) (.runUpd h)
    · exact .rejectUpd h
theorem updCmd {s : State} (h : s.Form) {usb cmd} : (s.updCmd usb cmd).Form :=
  .ite h (by split; exacts [.ite (.dev (.s h)) (.updOwn h), .updOwn h])
theorem updDone {s : State} (h : s.Form) {u cmd} : (s.updDone u cmd).Form := by
  unfold State.updDone
  split
  · exact .dev (.cmdEnd (.s (.upd h)))
  · exact .dev (.cmdEnd (.s (.upd h)))
  · exact .ite (.failUpd h) (.dev (.cmdEnd (.s (.upd h))))
  · exact .dev (.cmdEnd (.s (.upd h)))
  · exact .dev (.logEntry (.cmdEnd (.s (.updEnd h))))
theorem cmdEnd {s : State} (h : s.Form) {opsDone flashFail} : (cmdEnd s opsDone flashFail).Form := by
  unfold Machine.cmdEnd
  split
  · exact h
  · split
    · exact h
    · exact .ite (.failUpd (.ite (.dev (.s h)) (.dev h))) (.updDone (.dev h))
theorem opsPerformed {s : State} (h : s.Form) {opsDone} : (s.opsPerformed opsDone).Form := by
  unfold State.opsPerformed
  split
  · exact .ite (.dev h) h
  · exact h
end State.Form

/-! ### The field lock -/

namespace Dev.Form
variable {d : Dev}

theorem relock (h : d.Form) : d.relock.Form := .ite h (.ifThen (.raise (.s h)) fun h => .setMode h)
end Dev.Form

namespace State.Form

theorem lockMatch {s : State} (h : s.Form) {scope detail} : (lockMatch s scope detail).Form :=
  .dev (.raise (.s (.s (.ofState (.append h)))))
end State.Form

namespace Dev.Form
variable {d : Dev}

theorem lockMiss (h : d.Form) {n} : (d.lockMiss n).Form := .ifThen (.raise (.upd (.s h))) fun h => .raise (.s h)
end Dev.Form

namespace State.Form

theorem judgeAttempt {s : State} (h : s.Form) {method carrier scope good} : (judgeAttempt s method carrier scope
    good).1.Form :=
  by
  unfold Machine.judgeAttempt
  split
  · exact .lockMatch (.append (.flushPend h))
  · exact .dev (.lockMiss (.ofState (.append (.flushPend h))))
end State.Form

namespace Dev.Form
variable {d : Dev}

theorem attemptRefused (h : d.Form) {op r} (hr : d.attemptRefused op = some r) : r.1.Form := by
  unfold Dev.attemptRefused at hr
  split_ifs at hr <;> cases hr
  · exact h
  · exact h
end Dev.Form

namespace State.Form

theorem lockRespond {s : State} (h : s.Form) {k body} : (lockRespond s k body).1.Form := by
  unfold Machine.lockRespond
  split
  · rename_i hr
    exact .dev (.attemptRefused h hr)
  · split
    · exact h
    · split_ifs
      · exact h
      · exact .dev (.s h)
      · exact .judgeAttempt (.dev (.upd h))
theorem lockPassword {s : State} (h : s.Form) {k scope body} : (lockPassword s k scope body).1.Form := by
  unfold Machine.lockPassword
  split
  · rename_i hr
    exact .dev (.attemptRefused h hr)
  · split
    · exact .dev (.s h)
    · exact .judgeAttempt h
end State.Form

namespace Dev.Form
variable {d : Dev}

theorem lockChallenge (h : d.Form) {k scope} : (d.lockChallenge k scope).1.Form := .upd (.drawn h)
end Dev.Form

namespace State.Form

theorem lockMsg {s : State} (h : s.Form) {k msg} : (s.lockMsg k msg).1.Form := by
  unfold State.lockMsg
  dsimp only
  split
  · exact h
  · split
    · exact h
    · split
      · exact h
      · split
        · exact .dev (.relock h)
        · split
          · split
            · exact .dev (.lockChallenge h)
            · exact h
          · split
            · split
              · exact .lockRespond h
              · exact h
            · split
              · exact .lockPassword h
              · exact h
theorem lockRow {s : State} (h : s.Form) {k msg} : (lockRow k msg s).Form := .ite h (.dev (.upd (.ofState (.lockMsg h))))
end State.Form

namespace Dev.Form
variable {d : Dev}

theorem putLockBuf (h : d.Form) {l} : (d.putLockBuf l).Form := .foldl h fun h => .ite (.s h) h
end Dev.Form

namespace State.Form

theorem lockHost {s : State} (h : s.Form) : (lockHost s).Form :=
  .dev (.s (.s (.putLockBuf (.ofState (by split; exacts [h, .lockMsg h])))))
theorem otpCommand {s : State} (h : s.Form) {cmd} : (otpCommand s cmd).Form := .ite h (.ite (.dev (.s h)) (.dev (.s h)))
end State.Form

namespace Dev.Form
variable {d : Dev}

theorem serviceTest (h : d.Form) : d.serviceTest.Form :=
  .ite (.upd (.startTest (.s (.drawn h)))) (.s (.startTest (.s (.drawn h))))
end Dev.Form

namespace State.Form

theorem flogRead {s : State} (h : s.Form) : (flogRead s).Form := by
  unfold Machine.flogRead
  split
  · exact .dev (.s h)
  · exact .dev (.s (.ifThen h fun h => .bnkWrite h))
theorem lockService {s : State} (h : s.Form) {v} : (lockService s v).Form :=
  .ifElse (.dev (.plainWrite h)) fun h' => .ifThen (.ite (.dev (.serviceTest (.plainWrite h))) h') fun h => .flogRead h
theorem lockWrite {s : State} (h : s.Form) {off v} : (lockWrite s off v).Form := by
  unfold Machine.lockWrite
  split
  · exact .ite (.dev (.relock h)) h
  · exact .ifThen (.dev (.plainWrite h)) fun h => .lockHost h
  · exact .otpCommand h
  · exact .lockService h
  · exact .dev (.plainWrite h)
end State.Form

/-! ### Start-up -/

namespace Dev.Form
variable {d : Dev}

theorem reset : Dev.reset.Form where
  cores := List.length_replicate
  ports := List.length_replicate
  uarts := List.length_replicate
  timers := List.length_replicate
  groups := rfl
  latch := List.length_replicate
  memory := rfl
theorem resetN : d.resetN.Form := .s (.s (.s (.upd reset)))
theorem restarted : d.restarted.Form := by
  unfold Dev.restarted
  refine .s (.s ?_)
  exact ⟨reset.cores, reset.ports, reset.uarts, reset.timers, reset.groups, reset.latch, reset.memory⟩
theorem step1 (h : d.Form) {o} : (d.step1 o).Form :=
  .s (.updCores (.foldl (.s (.s (.s (.s (.s (.s (.s (.s h)))))))) fun h => .s (.s h)))
theorem step2 (h : d.Form) {f} : (d.step2 f).Form := by
  unfold Dev.step2
  split
  exacts [.s (.s h), .s (.s h), .s (.s (.s h))]
theorem fillBank (h : d.Form) {a data} : (d.fillBank a data).Form := by
  unfold Dev.fillBank
  dsimp only
  refine .ifThen (.foldl h fun h => ?_) fun h => .cnt h
  exact { h with memory := swf_sput (fun _ => 0) _ _ _ h.memory }
theorem fill (h : d.Form) {a data} : (d.fill a data).Form := .ite h (.ite (.fillBank h) (by split; exacts [.setCore h, h]))
theorem loadReg (h : d.Form) {wrap a v} : (d.loadReg wrap a v).Form := .ite (.regWrite h) (.cnt h)
theorem loadOff (h : d.Form) {wrap base last off v} : (d.loadOff wrap base last off v).Form := .ite (.regWrite h) (.cnt h)
theorem loadWords (h : d.Form) {wrap off n p} : (d.loadWords wrap off n p).Form := .foldl h fun h => .regWrite h
theorem loadPrograms (h : d.Form) {p} : (d.loadPrograms p).Form := .foldl h fun h => .ite (.setCore h) h
theorem applyRates (h : d.Form) {wrap l} : (d.applyRates wrap l).Form := .foldl h fun h => .ite (.loadReg h) h
theorem restore (h : d.Form) {k} : (d.restore k).Form :=
  .ite (.s (.ifElse (.cnt h) fun h => .updBnk h)) (.ite (.showSpares (.ifElse (.cnt h) fun h => .upd h)) (.ite (.s (.cnt h))
    (.ifElse (.cnt h) fun h => .putMst (.putDst h))))
theorem openLog (h : d.Form) {f base rowFails} : (d.openLog f base rowFails).Form :=
  .foldl
    (by split; exacts [.foldl (.foldl (by split <;> exact .upd (.s h)) fun h => .mirror h) fun h => .restore h, .s (.s h)])
    fun h => .retireTable h
theorem judgeBlk (h : d.Form) : d.judgeBlk.Form :=
  .foldl (.foldl (.ite (.s (.s h)) h) fun h => .sIf h) fun h => .ite (.s (.s h)) h
theorem startCores (h : d.Form) {mask} : (d.startCores mask).Form := .foldl h fun h => .ite (.setCore h) (.setCore h)
theorem startBreath (h : d.Form) : d.startBreath.Form := .ite (.s (.s (.s (.upd h)))) (.upd (.s (.toAcquire (.s (.upd h)))))
theorem bootNews (h : d.Form) : d.bootNews.Form :=
  .ifThen (.ifThen (.ite (.logEntry (.updTim h)) h) fun h => .raise (.upd (.cnt h))) fun h => .raise h
theorem step7 (h : d.Form) {mask mode} : (d.step7 mask mode).Form :=
  .muteEnd (.setEpos (.ifThen (.bootNews (.setMode (.sIf (.upd (.startBreath (.startCores (.showLanes (.judgeRet (.judgeBlk
    (.foldl (.upd h) fun h => .partErr h)))))))))) fun h => .wdtRestart h))
theorem loadApply {wrap l x} (h : l.dev.Form) : (Load.apply wrap l x).dev.Form := by
  unfold Load.apply
  extract_lets p d
  split
  · exact h
  · exact .foldl h fun h => .loadReg h
  · exact .loadWords h
  · exact .fillBank h
  · exact .fill h
  · exact .loadPrograms h
  · exact .loadWords (.loadWords h)
  · exact .foldl h fun h => .loadOff h
  · exact .foldl h fun h => .loadWrapped h
  · exact .foldl h fun h => .ite (.cnt h) (.loadOff h)
  · exact .foldl h fun h => .loadOff h
  · exact .cnt h
theorem defaults (h : d.Form) : d.defaults.Form :=
  .s (.foldl (.setReg (.fillBank (.drawn (.foldl h fun h => .loadWords h)))) fun h => .s (.s h))
end Dev.Form

namespace State.Form

theorem commitDefaults {s : State} (h : s.Form) {rowFails} : (commitDefaults s rowFails).Form :=
  .dev (.step7 (.defaults (.openLog (.s h))))
end State.Form

namespace Dev.Form
variable {d : Dev}

theorem commitCopy {s : State} (h : s.Form) {c r body rowFails} : (commitCopy s c r body rowFails).Form :=
  .dev (.step7 (.foldl
    (foldl_keeps (fun l : Load => l.dev.Form) _ _ ⟨_, [], 0⟩
      (.applyRates (.openLog (.s (.s (.s (.s (.s (.s (.ofState h)))))))))
      fun _ _ h => .loadApply h)
    fun h => .setFlag h))
end Dev.Form

namespace State.Form

theorem step3 {s : State} (h : s.Form) : (step3 s).Form :=
  .ite (.commitDefaults (.dev (.s (.s h)))) (.ite (.ite (.dev (.upd (.s (.s h)))) (.dev (.upd (.s (.s h))))) (.ite (.dev
    (.upd (.s (.s h)))) (.ite (.dev (.upd (.s (.s h)))) (.commitDefaults (.dev (.s (.s h)))))))
theorem bodyRead {s : State} (h : s.Form) {rowFails} : (bodyRead s rowFails).Form := by
  unfold Machine.bodyRead
  split
  · exact h
  · extract_lets r body why bad d1 d2
    have h2 : d2.Form := .sIf (.sIf (.s (.ofState h)))
    clear_value d2
    refine .ite (.commitCopy h) ?_
    split
    · exact .dev (.upd h2)
    · exact .commitDefaults (.dev (.upd h2))
theorem startUp {s : State} (h : s.Form) : (startUp s).Form := .step3 (.dev (.step2 (.step1 h)))
theorem restart {s : State} : (restart s).Form := .startUp (.dev .restarted)
end State.Form

/-! ### USB -/

namespace Dev.Form
variable {d : Dev}

theorem usbIdle (h : d.Form) : d.usbIdle.Form := .upd (.s (.s (.s (.s h))))
theorem usbAttach (h : d.Form) {hs} : (usbAttach hs d).Form :=
  .ifElse (.s h) fun h => .raise (.upd (.usbIdle (.sIf (.s (.s (.s h))))))
theorem busReset (h : d.Form) : (busReset d).Form := .ite h (.s (.s (.s (.usbIdle (.usbDrop (.wake (.cnt h)))))))
theorem reply0 (h : d.Form) {r} : (d.reply0 r).Form := .upd h
theorem setInterface (h : d.Form) {ifc alt} : (setInterface ifc alt d).Form :=
  .ite h
    (by
      split
      · exact .reply0 h
      · exact .reply0 h
      · exact .ite (.reply0 (.upd (.s h))) (.reply0 h)
      · exact .ite (.reply0 (.upd h)) (.reply0 h)
      · exact .ite (.reply0 (.upd h)) (.reply0 h)
      · exact .reply0 h)
theorem clockRequest (h : d.Form) {req} : (clockRequest req d).Form := .ite h (by split <;> exact .reply0 h)
theorem getDescriptor (h : d.Form) {serial type index} : (getDescriptor serial type index d).Form :=
  .ite h
    (by
      split
      · exact .reply0 h
      · exact .drawn (.reply0 h)
      · exact .reply0 h
      · exact .reply0 h
      · exact .reply0 h
      · exact .reply0 h
      · exact .reply0 h
      · exact .drawn (.reply0 h)
      · exact .reply0 h)
theorem applyAlts (h : d.Form) : d.applyAlts.Form := .foldl (.upd h) fun h => .ite (.s (.upd (.s h))) (.upd (.s h))
theorem startOfFrame (h : d.Form) : (startOfFrame d).Form :=
  .ite h (.ifThen (.applyAlts (.upd (.ifThen (.sofSource h) fun h => .usbTake h))) fun h => .s h)
theorem outFrame (h : d.Form) {f} : (d.outFrame f).Form := .ite (.cnt h) (.s (.upd h))
theorem audioOutPacket (h : d.Form) {data} : (audioOutPacket data d).Form :=
  .ite h (.ite (.cnt h) (.foldl (.usbTake h) fun h => .outFrame h))
theorem syxBytes (h : d.Form) {wrap k start ends l} : (d.syxBytes wrap k start ends l).Form :=
  .ite (.sysex (.upd h)) (.upd h)
theorem midiEvent (h : d.Form) {wrap pkt} : (midiEvent wrap pkt d).Form :=
  .ite h (.ite (.cnt h) (.ifElse (.cnt h) fun h' => .ite (.syxBytes h) (.ite (.ite (.syxBytes h) h') (.ite (.syxBytes h)
    (.ite (.syxBytes h) (.ite h (.midi1 h)))))))
theorem umpReply (h : d.Form) {l} : (d.umpReply l).Form := .upd h
theorem endpointDiscovery (h : d.Form) {serial filter} : (endpointDiscovery serial filter d).Form := .ite h (.umpReply h)
theorem streamConfig (h : d.Form) {protocol jrRx} : (streamConfig protocol jrRx d).Form := .ite h (.umpReply h)
theorem functionBlock (h : d.Form) {block filter} : (functionBlock block filter d).Form := .ite h (.umpReply h)
theorem umpStream (h : d.Form) {serial w0 w1} : (umpStream serial w0 w1 d).Form := by
  unfold Machine.umpStream
  split
  · exact .endpointDiscovery h
  · exact .streamConfig h
  · exact .functionBlock h
  · exact .cnt h
theorem umpSysex (h : d.Form) {wrap group w0 w1} : (umpSysex wrap group w0 w1 d).Form := .ite (.cnt h) (.syxBytes h)
theorem umpPacket (h : d.Form) {wrap serial words} : (umpPacket wrap serial words d).Form :=
  .ite h
    (by
      split
      · split
        exacts [h, h, .jrStamp h, .cnt h]
      · exact .ite h (.cnt h)
      · exact .midi1 (.jrTarget h)
      · exact .umpSysex h
      · exact .midi2 (.jrTarget h)
      · exact .umpStream h
      · exact .cnt h)
theorem usbSuspend (h : d.Form) : (usbSuspend d).Form := by
  unfold Machine.usbSuspend
  dsimp only
  exact .ite h
    (by
      split
      · exact .request (.ifThen (.s (.upd (.cnt (.raise (.upd (.s h)))))) fun h => .srcLost h)
      · exact .request (.ifThen (.s (.upd (.cnt (.raise (.upd (.s h)))))) fun h => .srcLost h)
      · exact .ifThen (.s (.upd (.cnt (.raise (.upd (.s h)))))) fun h => .srcLost h)
theorem usbResume (h : d.Form) : (usbResume d).Form :=
  .ite h (.prepDwake
    (by
      split
      · exact .raise (.raise (.upd (.s (.s (.wake (.ite (.cnt h) h))))))
      · exact .raise (.upd (.s (.s (.wake (.ite (.cnt h) h)))))))
theorem remoteWake (h : d.Form) {busLeftIdle} : (remoteWake busLeftIdle d).Form := by
  unfold Machine.remoteWake
  split
  · exact .ite h (.ite (.usbResume h) (.ite h (.s (.cnt (.upd h)))))
  · exact h
end Dev.Form

/-! ### Access of the agents -/

namespace State.Form

theorem regWrite {s : State} (h : s.Form) {ag off v} : (s.regWrite ag off v).Form :=
  .ite h (.ite (.ite .restart h) (.ite (.updCmd h) (.ite (.lockWrite h) (.dev (.regWrite h)))))
end State.Form

namespace Dev.Form
variable {d : Dev}

theorem mgmtEntry (h : d.Form) {wrap a v} : (mgmtEntry wrap d a v).1.Form := by
  unfold Machine.mgmtEntry
  extract_lets reg off
  clear_value off
  split
  · exact h
  · split
    · exact .regWrite h
    · exact .readReg h
theorem mgmtEntries {wrap body l} : ∀ {d : Dev} {out}, d.Form → (mgmtEntries wrap body l d out).1.Form := by
  induction l with
  | nil => exact id
  | cons i t ih => exact fun h => ih (.mgmtEntry h)
theorem mgmtReq (h : d.Form) {wrap g} : (mgmtReq wrap d g).Form := by
  unfold Machine.mgmtReq
  refine .ite (.violate h) (.ite (.invalid h) ?_)
  split
  · exact .answer (.cnt h)
  · exact .ite (.nak h) (.answer (.showBlw (.upd h.mgmtEntries)))
end Dev.Form

namespace State.Form

theorem vendorRegRead {s : State} (h : s.Form) {a n} : (vendorRegRead s a n).st.Form := by
  unfold Machine.vendorRegRead
  split
  · exact h
  · exact foldl_keeps (fun r : Dev × List Byte => r.1.Form) _ _ _ h fun _ _ h => .readReg h
theorem vendorRegWrite {s : State} (h : s.Form) {ag a n data} : (vendorRegWrite s ag a n data).st.Form := by
  unfold Machine.vendorRegWrite
  split_ifs
  · exact h
  · exact h
  · exact .foldl h fun h => .regWrite h
theorem vendorMemRead {s : State} (h : s.Form) {a n} : (vendorMemRead s a n).st.Form := by
  unfold Machine.vendorMemRead
  split
  · exact h
  · split
    · exact .dev (.bnkRead h)
    · split <;> exact h
theorem vendorMemWrite {s : State} (h : s.Form) {ag a n data} : (vendorMemWrite s ag a n data).st.Form := by
  unfold Machine.vendorMemWrite
  dsimp only
  split
  · exact h
  · split
    · exact h
    · split
      · exact .dev (.bnkWrite h)
      · split
        · exact .dev (.chnWrite h)
        · exact .dev (.windowWrite h)
theorem vendorLock {s : State} (h : s.Form) {k a n data} : (vendorLock s k a n data).st.Form := by
  unfold Machine.vendorLock
  split
  · exact h
  · split
    · exact h
    · exact .lockMsg h
theorem consoleVendor {s : State} (h : s.Form) {m} : (consoleVendor s m).st.Form := by
  unfold Machine.consoleVendor
  dsimp only
  split
  · exact h
  · split
    · exact h
    · split
      · exact .vendorRegRead h
      · exact .vendorRegWrite h
      · exact .vendorMemRead h
      · exact .vendorMemWrite h
      · exact .vendorLock h
end State.Form

namespace Dev.Form
variable {d : Dev}

theorem frameErr (h : d.Form) {rest} : (d.frameErr rest).Form := .cnt (.setSer h)
end Dev.Form

namespace State.Form

theorem consoleTake {s : State} (h : s.Form) {type msg rest} : (consoleTake s type msg rest).Form :=
  .ite (.dev (.setSer (.ofState (.lockMsg (.dev (.setSer h)))))) (.ite (.dev (.setSer (.ofState (.consoleVendor (.dev
    (.setSer h)))))) (.dev (.frameErr h)))
theorem consoleFrame {s : State} (h : s.Form) {gap} : (consoleFrame s gap).Form :=
  .ite h (.ite (.ite (.dev (.frameErr h)) h) (.ite (.dev (.frameErr h)) (.consoleTake h)))
end State.Form

/-! ### The block -/

namespace Dev.Form
variable {d : Dev}

theorem addBus (h : d.Form) {bus p x} : (d.addBus bus p x).Form := .ifElse (.upd h) fun h => .cnt h
theorem inputRoutes (h : d.Form) {b n} : (d.inputRoutes b n).Form :=
  .upd (.foldl (.foldl (.usbTake h) fun h => .ite (.foldl h fun h => .ite (.slip h) h) h) fun h => .foldl h fun h => .addBus
    h)
theorem streamTake (h : d.Form) {s b n} : (d.streamTake s b n).Form :=
  .ite h (.ite (.strMiss h) (.ifElse (.upd h) fun h => .ite (.strMiss (.bnkRead h)) (.foldl (.bnkRead h) fun h => .foldl h
    fun h => .addBus h)))
theorem exchange (h : d.Form) {k b n c} : (d.exchange k b n c).Form := .ite h (.ite (.s h) (.foldl h fun h => .bnkWrite h))
theorem stageS2 (h : d.Form) {k} : (d.stageS2 k).Form :=
  .foldl (.placeResult (.foldl (.inputRoutes (.renderBlock h)) fun h => .streamTake h)) fun h => .exchange h
theorem pace (h : d.Form) {finished c} : (d.pace finished c).Form := .setCore (.ite (.raise h) h)
theorem blockStart (h : d.Form) {parity} : (blockStart parity d).Form :=
  .ite h (.ite h (.s (.epochScan (.leaseScan (.upd (.foldl (.ifElse (.foldl (.lanesBlockStart (.patchBlockStart
    (.partsBlockStart (.updBnk h)))) fun h => .laneParity h) fun h => .stageS2 h) fun h => .pace h))))))
end Dev.Form

/-! ### Cores: arithmetic -/

namespace Dev.Form
variable {d : Dev}

theorem par (h : d.Form) {c i xm ym w effect err} : (d.par c i xm ym w effect err).Form := .issueAcc h
theorem accOp (h : d.Form) {c i xm ym f} : (d.accOp c i xm ym f).Form := .par h
theorem pmParity (h : d.Form) {c} : (d.pmParity c).Form := .ite (.startTest (.setCore h)) h
theorem logic (h : d.Form) {c i a b xm ym f} : (d.logic c i a b xm ym f).Form := .par h
theorem searchOp (h : d.Form) {c i src xm ym doMax doMin} : (d.searchOp c i src xm ym doMax doMin).Form := .par h
end Dev.Form

/-! ### Time -/

namespace Dev.Form
variable {d : Dev}

theorem advancePos (h : d.Form) {n ferr} : (d.advancePos n ferr).Form := .upd h
theorem freeSlew (h : d.Form) : d.freeSlew.Form := .ite (.setFerr h) h
theorem wdtTick (h : d.Form) : d.wdtTick.Form := .ite h (.ite (.updTim h) (.updTim (.s h)))
theorem lockTick (h : d.Form) {n} : (d.lockTick n).Form := .upd h
theorem tick (h : d.Form) : (tick d).Form :=
  .ite h (.ite (.ifThen (.lockTick (.upd h)) fun h => .advancePos h) (.wdtTick (.ifThen (.freeSlew (.ifThen (.lockTick (.upd
    h)) fun h => .advancePos h)) fun h => .timCycle h)))
end Dev.Form

/-! ### Commands -/

/-- Every next state of the outcome `o` has the fixed form. -/
def FormAfter (o : Out) : Prop := ∀ t, o = .next t → t.Form

namespace FormAfter
variable {s : State}

theorem next (h : s.Form) : FormAfter (.next s) := by
  intro t ht
  cases ht
  exact h

theorem dev {o : Otp} {t : Tap} {f : Flash} {p : Pins} {d : Dev} {q : List Instr} (h : d.Form) :
    FormAfter (.next ⟨o, t, f, p, d, q⟩) := .next h

theorem ite {c : Prop} {_ : Decidable c} {o p : Out} (ho : FormAfter o) (hp : FormAfter p) : FormAfter (if c then o else p)
    :=
  by
  split
  · exact ho
  · exact hp

theorem fault {e : Fault} : FormAfter (.fault e) := fun _ ht => nomatch ht

theorem writeRow (h : s.Form) {ag off v} : FormAfter (writeRow ag off v s) := .next h.regWrite

theorem updRow (h : s.Form) {ag cmd} : FormAfter (updRow ag cmd s) := .next (.ite h.updCmd h)

theorem vendorRow {f : State → Vendor} (h : s.Form) (hf : ∀ {s}, State.Form s → (f s).st.Form) {cmd seq addr} :
    FormAfter (vendorRow cmd seq addr f s) := .ite (.next h) (.dev (.upd (.ite (hf h) (.cnt (hf h)))))

theorem onTap {f : State → State} (h : s.Form) (hf : ∀ {s}, State.Form s → (f s).Form) :
    FormAfter (onTap f s) := .next (.ite (hf h) h)

theorem onReq (h : s.Form) {op records f} (hf : ∀ {d g}, Dev.Form d → (f d g).Form) :
    FormAfter (onReq op records f s) := by
  refine .next (.dev ?_)
  beta_reduce
  split
  · rename_i ht
    exact hf (.ofFst ht (.takeReq h))
  · rename_i ht
    exact .ofFst ht (.takeReq h)

theorem onAnswer (h : s.Form) {op f} (hf : ∀ {d g}, Dev.Form d → (f d g).Form) : FormAfter (onAnswer op f s) := by
  refine .next (.dev ?_)
  beta_reduce
  split
  · rename_i ht
    exact .ofFst ht (.takePkt h)
  · rename_i ht
    have h : Dev.Form _ := .ofFst ht (.takePkt h)
    split
    · exact .violate h
    · exact .spillSteps (hf h)

theorem onPacket (h : s.Form) {want} {f : Dev → Got → Dev} (hf : ∀ {d g}, Dev.Form d → (f d g).Form) :
    FormAfter (onDev (fun d => match d.takePkt want with
      | (d, some g) => f d g
      | (d, none) => d) s) := by
  refine .dev ?_
  beta_reduce
  split
  · rename_i ht
    exact hf (.ofFst ht (.takePkt h))
  · rename_i ht
    exact .ofFst ht (.takePkt h)

theorem hostHigh (h : s.Form) {off data be} : FormAfter (execHostHighHalfWrite off data be s) := by
  unfold execHostHighHalfWrite
  have h : State.Form { s with dev := (hostHighW off.toNat data be s.dev).1 } := .dev (.hostHighW h)
  dsimp only
  split
  · exact .next (.regWrite h)
  · exact .next h

theorem nop (h : s.Form) {c form} : FormAfter (execNop c form s) := by
  refine .dev ?_
  cases form with
  | moves xm ym err => exact .par h
  | parity => exact .pmParity h
  | reserved =>
    dsimp only
    split
    · exact .progFault h
    · exact h

/-- Whatever the command, the state after it has the fixed form. -/
theorem exec (h : s.Form) (i : Instr) : FormAfter (exec i s) := by
  cases i with
  | resetNRise => exact .ite (.next h) (.next (.startUp (.dev (.ifThen (.s h) fun h => .upd h))))
  | bodyReadComplete => exact .next (.bodyRead h)
  | reload => exact .next (.ite .restart h)
  | start | programBody | verify | record | commit | abort => exact .updRow h
  | cfgCmdend => exact .next (.cmdEnd h)
  | pmReload => exact .next (.pmReload h)
  | blockStart => exact .dev (.blockStart h)
  | eventIntake => exact .dev (by split; exacts [.intakeStep (.storeErr h), .intakeStep h])
  | allOff => exact .dev (.ite (by split; exacts [.critical (.remove h), h]) (.releaseRow h fun h => .leaseOff (.allOff h)))
  | ingressWindowWrite => exact .dev (.ifThen h fun h => .windowWrite h)
  | reedPrefetch => exact .dev (.prefetch h)
  | invalidate | validate => exact .dev (.patchCmd h)
  | rdaPlibWrite | rdaRselWrite | valSpill2Write | chnPowerOff | chnPowerOn | restart | door | chnWindowWrite
  | bnkOwnWrite | bnkGuestWrite | hmuteWrite | belPlatWrite | brtSrcWrite | rebase | macModeWrite | lecClear
  | hostAtomicGo | transportEnable | transportDisable | keyLoad | keyEpoch | keyErase | mrAttrWrite | refresh
  | hrpApbaseWrite | hrpCxselWrite | timerEnable | timerDisable | timerIomodeWrite | wdtLock | reqLeave | reqSafe
  | reqIdle | reqDormant | reqService | lckCtlRelock | lckHcmdGo | setpw | setkey | lockpw | lockcr | sealLock
  | serviceTest | flogrd | registerWrite => exact .writeRow h
  | nop => exact .nop h
  | cmac | cmsu | cmpy | cmacj | dmac | mac | msu | mpy | mag | add | sub | tfr | addx | neg | abs | clr | asl | asr =>
    exact .dev (.accOp h)
  | and | or | xor => exact .dev (.logic h)
  | maxi | mini | maxmin => exact .dev (.searchOp h)
  | clrmx => exact .dev (.par h)
  | ldi | movr | pmw | pmr | linv => exact .dev (.plain h fun h => .setCore h)
  | mova | movp => exact .dev (.issueAcc h)
  | bra | call | ret | rti => exact .dev (.branch h)
  | rep | repr => exact .dev (.repeat_ h)
  | evpost => exact .dev (.plain h fun h => .ite (.cnt (.setCore h)) (.setCore h))
  | syncp | lopen => exact .dev (.issue h fun h => .setCore h)
  | waitb => exact .dev (.issue h fun h => .ite (.setCore (.drainAll h)) (.setDone (.setCore (.drainAll h))))
  | notify => exact .dev (.plain h fun h => .raise (.setCore h))
  | stop => exact .dev (.issue h fun h => .stopCore h)
  | interruptAccept => exact .dev (.ifThen h fun h => .setCore h)
  | storeBufferDrain => exact .dev (.drainOne h)
  | windowLineFill => exact .dev (.lineFill h)
  | windowTimeout => exact .dev (.windowTimeout h)
  | outsideAccess => exact .dev (.ifElse h fun h => by split; exacts [.tellDenied (.chnWrite h), .tellDenied (.updHrp h)])
  | coreRegisterViewWrite => exact .ite (.writeRow h) (.next h)
  | bankPortOperation => exact .dev (.portGrant h)
  | handoverComplete => exact .dev (.settled h)
  | handoverForced => exact .dev (by beta_reduce; split; exacts [.settle (.cnt (.ifElse h fun h => .discardOwner h)), h])
  | salvageEnd => exact .dev (.ifThen h fun h => .bankRetire h)
  | bellRowFetch => exact .dev (.rowFetch h)
  | readbackWindow => exact .dev (.readbackWindow h)
  | readbackTestStepEnd => exact .dev (.ifElse h fun h => .ite (.upd h) (.endReadback h))
  | loCurrentLimit => exact .dev (.ifElse h fun h => .raise (.s (.setOut h)))
  | loShortRetry | coLoadRetry | autoNegotiationFail | partnerLowPowerIdle => exact .dev (.ifThen h fun h => .s h)
  | coComplianceFlag => exact .dev (.ifElse h fun h => .startTest (.cnt (.s h)))
  | sapFrame => exact .dev (.sapFrame h)
  | sapClockLoss => exact .dev (.sapClockLoss h)
  | brtPosRead | uartStatRead | uartDataRead | timerCapRead => exact .dev (.agentRead h)
  | pllRelockRetry => exact .dev (.ifThen h fun h => .srcWaited (.muteEnd (.upd (.s h))))
  | linkUp => exact .dev (.linkUp h)
  | linkDown => exact .dev (.linkDown h)
  | frameReceive => exact .dev (.receive h)
  | frameDelivery => exact .dev (.deliver h)
  | frameTransmit => exact .dev (.transmit h)
  | lpiEntry => exact .dev (.lpiEntry h)
  | lpiExit => exact .dev (.ifThen h fun h => .transmit (.s h))
  | lldpTransmit => exact .dev (.ifThen h fun h => .enqueue h)
  | lldpTtlExpiry => exact .dev (.ifThen h fun h => .setNbr h)
  | workRequestStart => exact .dev (.workStart h)
  | packetSend => exact .dev (.spillSteps (.packetSend h))
  | write => exact .onReq h fun h => .writePkt h
  | send => exact .onReq h fun h => .sendPacket h
  | atomicAdd | cas => exact .onReq h fun h => .atomicReq h
  | ackDelayExpiry => exact .dev (.ackDelay h)
  | retransmitTimeout => exact .dev (.spillSteps (.retransmit h))
  | nakResendWaitEnd => exact .dev (.spillSteps (.nakWaitEnd h))
  | messageLifetimeEnd => exact .dev (.spillSteps (.lifetimeEnd h))
  | recordExpiry => exact .dev (.recordExpiry h)
  | completionSpaceWaitEnd => exact .dev (.cqDrain h)
  | triggerEnabled => exact .dev (.triggerEnabled h)
  | streamBlockSend => exact .dev (.streamSend h)
  | streamResendStop => exact .dev (.streamStop h)
  | usbAttach => exact .dev (.usbAttach h)
  | getDescriptor => exact .dev (.getDescriptor h)
  | setInterface => exact .dev (.setInterface h)
  | clockRequest => exact .dev (.clockRequest h)
  | audioOutPacket => exact .dev (.audioOutPacket h)
  | usbMidiEventPacket => exact .dev (.midiEvent h)
  | universalMidiPacket => exact .dev (.umpPacket h)
  | jrTimestamp => exact .dev (.ifThen h fun h => .jrStamp h)
  | endpointDiscovery => exact .dev (.endpointDiscovery h)
  | streamConfigurationRequest => exact .dev (.streamConfig h)
  | functionBlockDiscovery => exact .dev (.functionBlock h)
  | regwr => exact .dev (.ifThen h fun h => .regwr h)
  | regRead => exact .vendorRow h fun h => .vendorRegRead h
  | regWrite => exact .vendorRow h fun h => .vendorRegWrite h
  | memRead => exact .vendorRow h fun h => .vendorMemRead h
  | memWrite => exact .vendorRow h fun h => .vendorMemWrite h
  | lock => exact .vendorRow h fun h => .vendorLock h
  | remoteWake => exact .dev (.remoteWake h)
  | uartReceiveCharacter => exact .dev (.receiveChar h)
  | uartDataWrite => exact .dev (.regWrite h)
  | consoleFrame => exact .next (.consoleFrame h)
  | hostLowHalfRead | resWordRead => exact .dev (.hostLow h)
  | hostHighHalfRead => exact .dev (.hostHigh h)
  | hostLowHalfWrite => exact .dev (.hostLowW h)
  | hostHighHalfWrite => exact .hostHigh h
  | resultGroupRead => exact .dev (.ite (.ite (.asleepRead h) (.setGrp (.drive (.hostAwake h)))) (.hostLow h))
  | resultLockTimeout => exact .dev (.ifThen h fun h => .cnt (.setGrp h))
  | mailboxWrite => exact .dev (.ifElse h fun h => .hostMbx (.hostAwake h))
  | apertureRead => exact .dev (.ite (.asleepRead h) (.apRead (.hostAwake h)))
  | apertureFillComplete => exact .dev (.fillComplete h)
  | apertureWrite => exact .dev (.ifElse h fun h => .apWrite (.hostAwake h))
  | apertureWritePerform => exact .dev (.apPerform h)
  | noticeRead => exact .dev (.ite (.asleepRead h) (.readNotice (.hostAwake h)))
  | timerZero => exact .dev (.ifThen h fun h => .ifThen (.zeroTick (.setTch h)) fun h => .chTick h)
  | timerMatch => exact .dev (.ifThen h fun h => .matchEvent h)
  | timerCapture => exact .dev (.ifElse h fun h => .ifThen (.showIo (.setTch h)) fun h => .capture h)
  | wdtKick => exact .dev (by split; exacts [.ifThen h fun h => .wdtKey h, .ifThen h fun h => .wdtRestart h])
  | wake => exact .ite (.next .restart) (.dev (.wake h))
  | vidStep => exact .dev (.ifElse h fun h => .ite (.ite (.s h) h) (.ite (.s h) h))
  | hot | temperatureLimit => exact .dev (.temperature h)
  | selftestVerdict => exact .dev (.verdict h)
  | selftestAbort => exact .dev (.ifElse h fun h => .passUnit (.upd (.testResult (.cnt (.endTest h)))))
  | scoreDecay => exact .dev (.scoreDecay h)
  | stateSplit => exact .dev (.stateSplit h)
  | mstWrite => exact .dev (.ifElse h fun h => .ite (.wrQueues h) (.writeMst h))
  | getstate | challenge | respond | password | relock => exact .next (.lockRow h)
  | powerOnRelease => exact .ite (.next h) (.next (.dev (.s (.resetN))))
  | samplePreload | extest => exact .onTap h fun h => .dev (.drawn h)
  | bypass => exact .ite (.next h) (.ite .fault (.next (.dev h)))
  | supplyCollapse => exact .next (.dev (.upd .reset))
  | pcsBlockError => exact .dev (.ifThen h fun h => .lecAdd (.cnt h))
  | setAddress => exact .dev (.ifThen h fun h => .upd (.s (.reply0 h)))
  | setConfiguration =>
    exact .dev (.ifThen h fun h => .ite (.reply0 (.s (.usbIdle h))) (.ite (.reply0 (.s (.usbIdle h))) (.reply0 h)))
  | remoteWakeEnable => exact .dev (.ifThen h fun h => .reply0 (.s h))
  | uartTransmitCharacter => exact .dev (.transmitChar h)
  | resetNLow => exact .next (.dev .resetN)
  | faultLogAppend => exact .next (.ite h (.appendPending h))
  | spillOffer => exact .dev (.spillOffer h)
  | noteOn => exact .dev (.releaseRow h fun h => .noteOn h)
  | noteOff => exact .dev (.releaseRow h fun h => .leaseOff (.noteOff h))
  | polyPress => exact .dev (.releaseRow h fun h => .polyPress h)
  | control => exact .dev (.releaseRow h fun h => .control h)
  | pitchBend => exact .dev (.releaseRow h fun h => .partChange h)
  | program => exact .dev (.releaseRow h fun h => .program h)
  | perNote => exact .dev (.releaseRow h fun h => .perNote h)
  | partMode => exact .dev (.releaseRow h fun h => .partMode h)
  | spillNote => exact .dev (.releaseRow h fun h => .spillNote h)
  | mark => exact .dev (.releaseRow h fun h => .mark h)
  | validateDone => exact .dev (.validateDone h)
  | spillDeadline => exact .dev (.spillDeadline h)
  | leaseKeepalive => exact .dev (.keepalive h)
  | leaseExpiry => exact .dev (.leaseExpiry h)
  | leaseFree => exact .dev (.leaseFree h)
  | ledgerOfferUpdate => exact .dev (.offerUpdate h)
  | queueExit => exact .dev (.queueExit h)
  | muteRampEnd => exact .dev (.muteRampEnd h)
  | pauseResume => exact .dev (.ifThen h fun h => .upd (.s h))
  | bthVsEdge => exact .dev (.vsEdge h)
  | bthHsEdge => exact .dev (.hsEdge h)
  | bthWcEdge => exact .dev (.wcEdge h)
  | sourceLost => exact .dev (.ifThen h fun h => .srcLost h)
  | holdmaxExpiry => exact .dev (.ifThen h fun h => .ite (.tryAcquire h) (.toFree h))
  | beaconSend => exact .dev (.beaconSend h)
  | delayRequestSend => exact .dev (.delayRequests h)
  | masterTakeover => exact .dev (.masterTakeover h)
  | beacon => exact .onPacket h fun h => .hearBeacon h
  | delayReq => exact .onPacket h fun h => .answerDelay h
  | delayResp => exact .onPacket h fun h => .takeDelay h
  | pllUnlock => exact .dev (.ifThen h fun h => .pllUnlock h)
  | pllRelock => exact .dev (.ifThen h fun h => .judgeUnit (.endTest h))
  | read => exact .onReq h fun h => .readReq h
  | mgmt => exact .onReq h fun h => .mgmtReq h
  | ack => exact .onAnswer h fun h => .takeAck h
  | nak => exact .onAnswer h fun h => .takeNak h
  | resp => exact .onAnswer h fun h => .takeResp h
  | keyDerivationDone => exact .dev (.deriveDone h)
  | secureCounterWaitEnd => exact .dev (.counterWaitEnd h)
  | usbDetach => exact .dev (.usbOff (.s h))
  | busReset => exact .dev (.busReset h)
  | startOfFrame => exact .dev (.startOfFrame h)
  | audioInPacket | noticePacket => exact .dev (.ifThen h fun h => .upd h)
  | usbSuspend => exact .dev (.usbSuspend h)
  | usbResume => exact .dev (.usbResume h)
  | hwake => exact .dev (.hwake h)
  | dwakeAssert => exact .dev (.dwakeAssert h)
  | wdtWarn => exact .dev (.ifThen h fun h => .wdtWarn h)
  | wdtBite => exact .ite (.next h) (.ite (.next (.dev (.biteSafe h))) (.next .restart))
  | powerDownEntry => exact .dev (.powerDownEntry h)
  | voltageAlarm => exact .dev (.ifElse h fun h => .ifThen (.raise (.cnt (.s (.upd h)))) fun h => .critical h)
  | clockHalveEnd | nonceExpiry => exact .dev (.upd h)
  | brownOutWarning => exact .dev (.ifElse h fun h => .raise (.cnt (.s (.s h))))
  | brownOutClear => exact .dev (.s h)
  | tapReset | idcode => exact .onTap h fun h => .dev h
  | usbPacketError => exact .dev (.ifThen h fun h => .cnt h)
  | idleDormantEntryComplete => exact .dev (.entryComplete h)
end FormAfter

theorem FormAfter.step {s : State} (h : s.Form) : FormAfter (step s) := by
  unfold Machine.step
  split
  · exact .dev (.tick h)
  · exact .exec (.dev h) _

/-- Settles O6: the form is one predicate, and every function of the model that a step runs keeps it. -/
theorem unitsAndBanksKeepTheirForm : Obligations.UnitsAndBanksKeepTheirForm := by
  intro s t hcores hports huarts htimers hgroups hlatch hmem hstep
  have h : s.Form := ⟨hcores, hports, huarts, htimers, hgroups, hlatch, hmem⟩
  have ht := FormAfter.step h t hstep
  exact ⟨ht.cores, ht.ports, ht.uarts, ht.timers, ht.groups, ht.latch, ht.memory⟩

end Sys2Proof.Machine

/-! SUPPORT. Chanter cores: what a change of one core, a drained store, an access and the sequencing of an instruction leave as
it was, of that core and of the rest of the device. -/
namespace Sys2Proof.Machine

/-! ### Bits of CST -/

theorem st_setSt (k : Core) (i j : Nat) (b : Bool) (hi : i < 32) : (k.setSt i b).st j = if j = i then b else k.st j := by
  have h := putBits_testBit k.cst i i (b2n b) j hi le_rfl
  unfold Core.st Core.setSt setBit bit
  rw [h]
  by_cases hj : j = i
  · subst hj
    cases b <;> simp [b2n]
  · rw [if_neg (by omega), if_neg hj]

theorem st_setSt_same (k : Core) (i : Nat) (b : Bool) (hi : i < 32) : (k.setSt i b).st i = b := by
  rw [st_setSt k i i b hi, if_pos rfl]

theorem st_setSt_other (k : Core) (i j : Nat) (b : Bool) (hi : i < 32) (h : j ≠ i) : (k.setSt i b).st j = k.st j := by
  rw [st_setSt k i j b hi, if_neg h]

theorem st_stick_same (k : Core) (i : Nat) (b : Bool) (hi : i < 32) : (k.stick i b).st i = (k.st i || b) := by
  unfold Core.stick
  split
  · rename_i h
    rw [st_setSt_same k i true hi, h, Bool.or_true]
  · rename_i h
    rw [Bool.eq_false_iff.mpr h, Bool.or_false]

theorem st_stick_other (k : Core) (i j : Nat) (b : Bool) (hi : i < 32) (h : j ≠ i) : (k.stick i b).st j = k.st j := by
  unfold Core.stick
  split
  · exact st_setSt_other k i j true hi h
  · rfl

theorem st_setLl (k : Core) (n b : Nat) (h : b < 8 ∨ 10 < b) : (k.setLl n).st b = k.st b := by
  unfold Core.st Core.setLl bit
  rw [putBits_testBit k.cst 10 8 n b (by decide) (by decide), if_neg (by omega)]

theorem ll_setLl (k : Core) (n : Nat) (h : n < 8) : (k.setLl n).ll = n := by
  unfold Core.ll Core.setLl
  rw [bitsOf_putBits_same k.cst 10 8 n (by decide) (by decide)]
  exact Nat.mod_eq_of_lt h

theorem ll_setSt (k : Core) (i : Nat) (b : Bool) (hi : i < 32) (h : 10 < i ∨ i < 8) : (k.setSt i b).ll = k.ll :=
  bitsOf_putBits_other k.cst i i (b2n b) 10 8 hi le_rfl h

/-! ### One core of the device -/

theorem core_setCore_same (d : Dev) (c : Nat) (v : Core) (h : c < d.chn.length) : (d.setCore c v).core c = v := by
  rw [core_setCore, if_pos ⟨rfl, h⟩]

theorem core_setCore_other (d : Dev) (c n : Nat) (v : Core) (h : n ≠ c) : (d.setCore c v).core n = d.core n := by
  rw [core_setCore, if_neg fun e => h e.1]

@[simp] theorem length_chn_setCore (d : Dev) (c : Nat) (v : Core) : (d.setCore c v).chn.length = d.chn.length :=
  length_setAt _ _ _

theorem setCore_setCore (d : Dev) (c : Nat) (v w : Core) : (d.setCore c v).setCore c w = d.setCore c w := by
  simp [Dev.setCore, setAt, List.modify_modify_eq, Function.comp_def]

theorem setCore_core (d : Dev) (c : Nat) : d.setCore c (d.core c) = d := by
  have h : setAt d.chn c (d.core c) = d.chn := by
    refine List.ext_getElem (length_setAt _ _ _) fun i _ hi => ?_
    simp only [setAt, List.getElem_modify]
    split
    · rename_i h
      subst h
      exact List.getD_eq_getElem _ _ hi
    · rfl
  unfold Dev.setCore
  rw [h]

/-- From `d` to `e` nothing changes but registers, banks, ports, transport, power and free values; handovers neither begin nor
end. -/
structure BankFrame (d e : Dev) : Prop where
  chn : e.chn = d.chn
  hand : e.bnk.hand = d.bnk.hand
  rda : e.rda = d.rda
  evs : e.evs = d.evs
  val : e.val = d.val
  bel : e.bel = d.bel
  brt : e.brt = d.brt
  not : e.not = d.not
  flt : e.flt = d.flt

namespace BankFrame
variable {d e f : Dev}

theorem refl : BankFrame d d := ⟨rfl, rfl, rfl, rfl, rfl, rfl, rfl, rfl, rfl⟩

theorem trans (h : BankFrame d e) (g : BankFrame e f) : BankFrame d f :=
  ⟨g.chn.trans h.chn, g.hand.trans h.hand, g.rda.trans h.rda, g.evs.trans h.evs, g.val.trans h.val, g.bel.trans h.bel,
    g.brt.trans h.brt, g.not.trans h.not, g.flt.trans h.flt⟩

theorem ite {p : Prop} {_ : Decidable p} (h : BankFrame d e) (g : BankFrame d f) : BankFrame d (if p then e else f) := by
  split
  · exact h
  · exact g

theorem upd {r : Sparse Word} {b : Banks} {x : Blw} {u : Usb} {p : List Port} {q : List Uart} {h : Hrp} {t : Tim} {w : Pwr}
    {o : Boot} {l : Lck} {n : Nat} (hb : b.hand = d.bnk.hand := by rfl) :
    BankFrame d ⟨r, d.not, d.brt, d.evs, d.val, d.rda, d.chn, b, d.bel, p, x, u, q, h, t, w, d.flt, o, l, n⟩ :=
  ⟨rfl, hb, rfl, rfl, rfl, rfl, rfl, rfl, rfl⟩

theorem s {fl : Fld} {v i : Nat} : BankFrame d (d.s fl v i) := upd
theorem sIf {c : Bool} {fl : Fld} {v i : Nat} : BankFrame d (d.sIf c fl v i) := .ite .s .refl
theorem cnt {fl : Fld} {i n : Nat} : BankFrame d (d.cnt fl i n) := upd
theorem drawn : BankFrame d d.drawn := upd
theorem putMem {a : Nat} {l : List Byte} : BankFrame d (d.putMem a l) := upd
theorem showPoison {b : Nat} : BankFrame d (d.showPoison b) := .s
theorem unpoison {w : Nat} : BankFrame d (d.unpoison w) := .ite (.trans .upd .showPoison) .refl
theorem wordWrite {a : Nat} {l : List Byte} : BankFrame d (d.wordWrite a l) :=
  .trans (.ite .putMem .refl) (.trans .putMem .unpoison)
theorem memWrite {a : Nat} {l : List Byte} : BankFrame d (d.memWrite a l) :=
  foldl_keeps (BankFrame d) _ _ d .refl fun _ _ h => h.trans .wordWrite
theorem memRead {a n : Nat} : BankFrame d (d.memRead a n).1 := .cnt
theorem deny {b a : Nat} {wr : Bool} : BankFrame d (d.deny b a wr) :=
  .trans .cnt (.trans .s (.trans .s (.trans .s (.trans .s .s))))

end BankFrame

/-- With no handover under way, nothing is owed to a bank's last owner. -/
theorem settled_of_hand (d : Dev) (bank : Nat) (h : d.bnk.hand = []) : d.settled bank = d := by
  have hs : ∀ g, d.settle bank g = d := fun g => by
    unfold Dev.settle
    rw [h]
    rfl
  rw [Dev.settled, hs, hs]

theorem bnkRowWrite_of_hand (d : Dev) (agent a : Nat) (l : List Byte) (h : d.bnk.hand = []) :
    d.bnkRowWrite agent a l = if d.bankMay agent (bankOf a) true then ⟨d.memWrite a l, [], false, false⟩
      else ⟨d.deny (bankOf a) agent true, [], true, false⟩ := by
  simp only [Dev.bnkRowWrite, settled_of_hand d _ h]

theorem bnkRow_of_hand (d : Dev) (agent a n : Nat) (h : d.bnk.hand = []) :
    d.bnkRow agent a n =
      if d.bankMay agent (bankOf a) false then ⟨(d.memRead a n).1, (d.memRead a n).2.1, false, (d.memRead a n).2.2⟩
      else ⟨d.deny (bankOf a) agent false, List.replicate n 0, true, false⟩ := by
  simp only [Dev.bnkRow, settled_of_hand d _ h]

theorem BankFrame.bnkRowWrite {d : Dev} {agent a : Nat} {l : List Byte} (h : d.bnk.hand = []) :
    BankFrame d (d.bnkRowWrite agent a l).dev := by
  rw [bnkRowWrite_of_hand d agent a l h]
  split
  · exact .memWrite
  · exact .deny

/-- From `d` to `e`, of what `OthersKeep` names and the notice queue and the states' splits, nothing but core `c` changes. -/
structure CoreFrame (c : Nat) (d e : Dev) : Prop where
  others : ∀ n, n ≠ c → e.core n = d.core n
  size : e.chn.length = d.chn.length
  hand : e.bnk.hand = d.bnk.hand
  rda : e.rda = d.rda
  evs : e.evs = d.evs
  val : e.val = d.val
  bel : e.bel = d.bel
  brt : e.brt = d.brt
  not : e.not = d.not
  flt : e.flt = d.flt

namespace CoreFrame
variable {c : Nat} {d e f : Dev}

theorem ofBank (h : BankFrame d e) : CoreFrame c d e :=
  ⟨fun n _ => congrArg (·.getD n Core.reset) h.chn, congrArg List.length h.chn, h.hand, h.rda, h.evs, h.val, h.bel, h.brt, h.not,
    h.flt⟩

theorem refl : CoreFrame c d d := .ofBank .refl

theorem trans (h : CoreFrame c d e) (g : CoreFrame c e f) : CoreFrame c d f :=
  ⟨fun n hn => (g.others n hn).trans (h.others n hn), g.size.trans h.size, g.hand.trans h.hand, g.rda.trans h.rda,
    g.evs.trans h.evs, g.val.trans h.val, g.bel.trans h.bel, g.brt.trans h.brt, g.not.trans h.not, g.flt.trans h.flt⟩

theorem setCore {v : Core} : CoreFrame c d (d.setCore c v) :=
  ⟨fun n hn => core_setCore_other d c n v hn, length_setAt _ _ _, rfl, rfl, rfl, rfl, rfl, rfl, rfl, rfl⟩

/-- A frame says what `OthersKeep` says. -/
theorem othersKeep {s : State} {c : BitVec 4} (h : CoreFrame c.toNat s.dev e) : OthersKeep s { s with dev := e } c :=
  ⟨h.others, h.rda, h.evs, h.val, h.bel, h.brt, rfl, rfl, rfl, rfl, rfl⟩

end CoreFrame

theorem BankFrame.core {d e : Dev} (h : BankFrame d e) (n : Nat) : e.core n = d.core n := congrArg (·.getD n Core.reset) h.chn

/-! ### The store buffer -/

/-- `j` is core `k` after stores left its buffer: local memory may hold them, and a denied one has set AERR. -/
def Core.Drained (k j : Core) : Prop :=
  ∃ sb xm ym cst, j = { k with sb := sb, xm := xm, ym := ym, cst := cst } ∧ ∀ b, b ≠ cAERR → j.st b = k.st b

theorem Core.Drained.refl {k : Core} : k.Drained k := ⟨k.sb, k.xm, k.ym, k.cst, rfl, fun _ _ => rfl⟩

theorem Core.Drained.trans {i j k : Core} (h : i.Drained j) (g : j.Drained k) : i.Drained k := by
  obtain ⟨_, _, _, _, rfl, hst⟩ := h
  obtain ⟨_, _, _, _, rfl, gst⟩ := g
  exact ⟨_, _, _, _, rfl, fun b hb => (gst b hb).trans (hst b hb)⟩

theorem Core.Drained.sb {k : Core} {l : List SbEnt} : k.Drained { k with sb := l } := ⟨_, _, _, _, rfl, fun _ _ => rfl⟩

theorem Core.Drained.writeLocal {k : Core} {y wide : Bool} {a : BitVec 16} {v : BitVec 64} :
    k.Drained (k.writeLocal y a wide v) := by
  unfold Core.writeLocal
  cases y
  · exact ⟨_, _, _, _, rfl, fun _ _ => rfl⟩
  · exact ⟨_, _, _, _, rfl, fun _ _ => rfl⟩

theorem Core.Drained.aerr {k : Core} : k.Drained (k.setSt cAERR true) :=
  ⟨_, _, _, _, rfl, fun b hb => st_setSt_other k cAERR b true (by decide) hb⟩

@[simp] theorem writeLocal_sb (k : Core) (y wide : Bool) (a : BitVec 16) (v : BitVec 64) : (k.writeLocal y a wide v).sb = k.sb := by
  unfold Core.writeLocal
  cases y <;> rfl

/-- A drain of the oldest store changes its core as `Drained` says, and nothing else in the frame. -/
theorem drainOne_spec {d : Dev} {c : Nat} (hc : c < d.chn.length) (h : d.bnk.hand = []) :
    CoreFrame c d (d.drainOne c) ∧ (d.core c).Drained ((d.drainOne c).core c) ∧
      ((d.drainOne c).core c).sb = (d.core c).sb.tail := by
  unfold Dev.drainOne
  dsimp only
  cases hsb : (d.core c).sb with
  | nil => exact ⟨.refl, .refl, hsb⟩
  | cons e t =>
    dsimp only
    have hk : (d.setCore c { d.core c with sb := t }).core c = { d.core c with sb := t } := core_setCore_same _ _ _ hc
    cases e.ext with
    | none =>
      dsimp only
      rw [setCore_setCore, hk, core_setCore_same _ _ _ hc]
      exact ⟨.setCore, .trans .sb .writeLocal, writeLocal_sb _ _ _ _ _⟩
    | some a =>
      dsimp only
      have hf : BankFrame (d.setCore c { d.core c with sb := t }) _ := .bnkRowWrite (agent := oChn c) (a := a) (l := e.bytes) h
      have hcore := (hf.core c).trans hk
      split
      · rw [core_setCore_same _ _ _ (by rw [hf.chn]; simpa using hc), hcore]
        exact ⟨.trans .setCore (.trans (.ofBank hf) .setCore), .trans .sb .aerr, rfl⟩
      · rw [hcore]
        exact ⟨.trans .setCore (.ofBank hf), .sb, rfl⟩

theorem drain_spec {c : Nat} (n : Nat) {d : Dev} (hc : c < d.chn.length) (h : d.bnk.hand = []) :
    CoreFrame c d (d.drain c n) ∧ (d.core c).Drained ((d.drain c n).core c) ∧
      ((d.drain c n).core c).sb = (d.core c).sb.drop n := by
  induction n generalizing d with
  | zero => exact ⟨.refl, .refl, rfl⟩
  | succ n ih =>
    obtain ⟨hf, hd, hs⟩ := drainOne_spec hc h
    obtain ⟨gf, gd, gs⟩ := ih (d := d.drainOne c) (by rw [hf.size]; exact hc) (hf.hand.trans h)
    refine ⟨hf.trans gf, hd.trans gd, gs.trans ?_⟩
    rw [hs, List.drop_tail]

theorem drainAll_spec {d : Dev} {c : Nat} (hc : c < d.chn.length) (h : d.bnk.hand = []) :
    CoreFrame c d (d.drainAll c) ∧ (d.core c).Drained ((d.drainAll c).core c) ∧ ((d.drainAll c).core c).sb = [] := by
  obtain ⟨hf, hd, hs⟩ := drain_spec (d.core c).sb.length hc h
  exact ⟨hf, hd, hs.trans List.drop_length⟩

/-! ### What an instruction's accesses and sequencing leave of its core -/

/-- From `k` to `j` the core keeps what `CoreKeeps` names, its accumulators, its search registers, GOV, Z, N and E, and every
delayed write but those to the accumulators `accs`. -/
structure Core.Quiet (accs : List Nat) (k j : Core) : Prop where
  keeps : CoreKeeps k j
  search : SameSearch k j
  acc : j.acc = k.acc
  st : ∀ b, b = cGOV ∨ 10 < b → j.st b = k.st b
  pend : ∀ e ∈ k.pend, (accsOf e.code.toNat).any (accs.contains ·) = false → e ∈ j.pend

theorem coreKeeps_trans {i j k : Core} (h : CoreKeeps i j) (g : CoreKeeps j k) : CoreKeeps i k := by
  simp only [CoreKeeps] at h g ⊢
  simp only [g, h, and_self]

theorem sameSearch_trans {i j k : Core} (h : SameSearch i j) (g : SameSearch j k) : SameSearch i k := by
  simp only [SameSearch] at h g ⊢
  simp only [g, h, and_self]

namespace Core.Quiet
variable {accs : List Nat} {i j k : Core}

theorem trans (h : Quiet accs i j) (g : Quiet accs j k) : Quiet accs i k where
  keeps := coreKeeps_trans h.keeps g.keeps
  search := sameSearch_trans h.search g.search
  acc := g.acc.trans h.acc
  st b hb := (g.st b hb).trans (h.st b hb)
  pend e he ha := g.pend e (h.pend e he ha) ha

/-- Pointers, loop counts, PC, local memory, the pipeline, the store buffer and the windows' rows are the instruction's own. -/
theorem upd {p lc cst pc xm ym pend accOld cond1 cond2 loopPend lopen mxOld slots noIrq sb xline yline xdead ydead stalled}
    (hst : ∀ b, b = cGOV ∨ 10 < b → bit cst.toNat b = k.st b := by exact fun _ _ => rfl)
    (hpend : ∀ e ∈ k.pend, (accsOf e.code.toNat).any (accs.contains ·) = false → e ∈ pend := by exact fun _ he _ => he) :
    Quiet accs k { k with
      p := p, lc := lc, cst := cst, pc := pc, xm := xm, ym := ym, pend := pend, accOld := accOld, cond1 := cond1,
      cond2 := cond2, loopPend := loopPend, lopen := lopen, mxOld := mxOld, slots := slots, noIrq := noIrq, sb := sb,
      xline := xline, yline := yline, xdead := xdead, ydead := ydead, stalled := stalled } :=
  ⟨⟨rfl, rfl, rfl, rfl, rfl, rfl, rfl, rfl, rfl, rfl, rfl, rfl, rfl, rfl, rfl, rfl, rfl, rfl, rfl⟩, ⟨rfl, rfl, rfl, rfl, rfl⟩,
    rfl, hst, hpend⟩

theorem refl : Quiet accs k k := upd

theorem ite {p : Prop} {_ : Decidable p} (h : Quiet accs i j) (g : Quiet accs i k) : Quiet accs i (if p then j else k) := by
  split
  · exact h
  · exact g

theorem setSt {b : Nat} {v : Bool} (hb : b = cSAT ∨ b = cAERR) : Quiet accs k (k.setSt b v) := by
  refine upd fun n hn => st_setSt_other k b n v ?_ ?_
  · rcases hb with rfl | rfl <;> decide
  · rintro rfl
    rcases hb with rfl | rfl <;> exact absurd hn (by decide)

theorem stick {b : Nat} {v : Bool} (hb : b = cSAT ∨ b = cAERR) : Quiet accs k (k.stick b v) := .ite (.setSt hb) .refl

theorem setLl {n : Nat} : Quiet accs k (k.setLl n) :=
  upd fun b hb => st_setLl k n b (by rcases hb with rfl | hb; exacts [.inl (by decide), .inr hb])

theorem setLine {y : Bool} {l : Option (Nat × List Byte)} : Quiet accs k (k.setLine y l) := .ite upd upd

theorem done_ {before : Core} : Quiet accs k (k.done_ before) := upd

theorem advance : Quiet accs k k.advance := by
  unfold Core.advance
  refine .ite upd (.ite upd ?_)
  split
  · exact .ite upd upd
  · exact .ite upd (.trans upd .setLl)

theorem drained (h : k.Drained j) : Quiet accs k j := by
  obtain ⟨_, _, _, _, rfl, hst⟩ := h
  refine upd fun b hb => hst b ?_
  rintro rfl
  exact absurd hb (by decide)

/-- A load writes no register yet; only one of CST acts at once, on the sticky bits. -/
theorem load {code : Nat} {v : BitVec 64} (h : code ≠ 111) : Quiet accs k (k.load code v) := by
  unfold Core.load
  have hpend : ∀ l, ∀ e ∈ k.pend, (accsOf e.code.toNat).any (accs.contains ·) = false → e ∈ k.pend ++ l :=
    fun l e he _ => List.mem_append_left l he
  dsimp only
  rw [if_neg h]
  exact .ite (upd (hpend := hpend _)) (.ite upd (upd (hpend := hpend _)))

end Core.Quiet

/-- From `d` to `e` core `c` is quiet and nothing else in the frame changes. -/
structure Tame (c : Nat) (accs : List Nat) (d e : Dev) : Prop where
  frame : CoreFrame c d e
  quiet : (d.core c).Quiet accs (e.core c)

namespace Tame
variable {c : Nat} {accs : List Nat} {d e f : Dev}

theorem refl : Tame c accs d d := ⟨.refl, .refl⟩

theorem trans (h : Tame c accs d e) (g : Tame c accs e f) : Tame c accs d f := ⟨h.frame.trans g.frame, h.quiet.trans g.quiet⟩

theorem ite {p : Prop} {_ : Decidable p} (h : Tame c accs d e) (g : Tame c accs d f) : Tame c accs d (if p then e else f) := by
  split
  · exact h
  · exact g

theorem setCore {v : Core} (h : (d.core c).Quiet accs v) : Tame c accs d (d.setCore c v) := by
  refine ⟨.setCore, ?_⟩
  rw [core_setCore]
  exact .ite h .refl

theorem ofBank (h : BankFrame d e) : Tame c accs d e := ⟨.ofBank h, by rw [h.core]; exact .refl⟩

theorem drainOne (hc : c < d.chn.length) (h : d.bnk.hand = []) : Tame c accs d (d.drainOne c) :=
  ⟨(drainOne_spec hc h).1, .drained (drainOne_spec hc h).2.1⟩

theorem store {a : Access} {v : BitVec 64} (hc : c < d.chn.length) (h : d.bnk.hand = []) : Tame c accs d (d.store c a v) := by
  unfold Dev.store
  extract_lets k d1 k1 ent k2
  refine .ite (.setCore (.setSt (.inr rfl))) ?_
  have h1 : Tame c accs d d1 := .ite .refl (.drainOne hc h)
  have h2 : k1.Quiet accs k2 := .upd
  refine h1.trans (.setCore (h2.trans ?_))
  split
  · exact .ite .setLine .refl
  · exact .refl

theorem startLoad {w : Writes} {code : Nat} {v : BitVec 64} (h : code ≠ 111) : Tame c w.accs d (d.startLoad c w code v) := by
  unfold Dev.startLoad
  refine .ite (.trans (.ofBank .drawn) (.setCore (.load h))) (.setCore (.trans (.load h) (.upd (hpend := ?_))))
  intro e he ha
  exact List.mem_filter.mpr ⟨he, by rw [ha]; rfl⟩

theorem access {w : Writes} {src : Core} {a : Access} (hc : c < d.chn.length) (h : d.bnk.hand = []) (ha : a.code ≠ 111) :
    Tame c w.accs d (d.access c w src a) := by
  unfold Dev.access
  refine .ite (.trans (.setCore (.stick (.inl rfl))) (.store ?_ h)) (.trans (.setCore (.stick (.inr rfl))) (.startLoad ha))
  rwa [length_chn_setCore]

theorem stepPointers {u v : Option (Nat × BitVec 16)} : Tame c accs d (d.stepPointers c u v) := by
  unfold Dev.stepPointers
  extract_lets set
  have hset : ∀ d u, Tame c accs d (set d u) := by
    intro d u
    dsimp only [set]
    split
    · exact .setCore .upd
    · exact .refl
  clear_value set
  split
  · exact .ite (.trans (.ofBank .drawn) (hset _ _)) (.trans (hset _ _) (hset _ _))
  · exact .trans (hset _ _) (hset _ _)

end Tame

/-! ### Issue of an instruction that waits for nothing -/

theorem front_of_atInstr {d : Dev} {c : BitVec 4} {i : Instr} {k : Core} (h : d.atInstr c i = some k) :
    (d.core c.toNat).front = k := by
  unfold Dev.atInstr at h
  dsimp only at h
  split at h
  · exact Option.some.inj h
  · cases h

theorem issuing_of_atInstr {d : Dev} {c : BitVec 4} {i : Instr} {k : Core} (h : d.atInstr c i = some k) :
    (d.core c.toNat).issuing = true := by
  unfold Dev.atInstr at h
  dsimp only at h
  split at h
  · rename_i hc
    simp only [Bool.and_eq_true] at hc
    exact hc.1.1.2
  · cases h

/-- An access that has nothing to wait for: a store, a reserved address, or a load that needs no row and that no entry overlaps
in part. -/
def Core.CalmAccess (k : Core) (a : Access) : Prop :=
  (a.store || a.isReserved) = true ∨ (k.needs a = none ∧ ∀ y, k.youngest a = some y → k.covers a y.2 = true)

theorem Core.CalmAccess.needs {k : Core} {a : Access} (h : k.CalmAccess a) : k.needs a = none := by
  rcases h with h | h
  · unfold Core.needs
    rw [if_pos h]
  · exact h.1

theorem settleLoad_of_calm (d : Dev) (c : Nat) {k : Core} {a : Access} (h : k.CalmAccess a) : d.settleLoad c a k = d := by
  unfold Dev.settleLoad
  split
  · rfl
  · rename_i hs
    rcases h with h | h
    · exact absurd h hs
    · split
      · rename_i hy
        rw [if_pos (h.2 _ hy)]
      · rfl

/-- The accesses and pointer steps of an instruction on core `c`, found as `k`, and the move to the next. -/
def Dev.moveAcc (d : Dev) (c : Nat) (w : Writes) (k : Core) (l : List (Access × Option (Nat × BitVec 16))) : Dev :=
  let e := (l.foldl (fun (d : Dev) a => d.access c w k a.1) d).stepPointers c ((l.getD 0 (⟨false, false, 0, 0⟩, none)).2)
    ((l.getD 1 (⟨false, false, 0, 0⟩, none)).2)
  e.setCore c ((e.core c).advance.done_ k)

/-- Once nothing stalls it, an instruction's effect and its accesses take place together. -/
theorem issueAcc_of_calm {d : Dev} {c : BitVec 4} {i : Instr} {k : Core}
    {acc : Core → List (Access × Option (Nat × BitVec 16))} {w : Core → Writes} {effect : Core → Core}
    (hk : d.atInstr c i = some k) (hp : k.placeFault false = none) (hcalm : ∀ a ∈ acc k, k.CalmAccess a.1) :
    d.issueAcc c i acc w effect = (d.setCore c.toNat (effect k)).moveAcc c.toNat (w k) k (acc k) := by
  have hfront := front_of_atInstr hk
  have hsettle : (acc k).foldl (fun (d : Dev) (a : Access × Option (Nat × BitVec 16)) =>
      d.settleLoad c.toNat a.1 (d.core c.toNat).front) d = d :=
    List.foldlRecOn (motive := (· = d)) (acc k) _ rfl fun e he a ha => by
      rw [he, hfront]
      exact settleLoad_of_calm d _ (hcalm a ha)
  have hneed : ∀ y, (acc k).findSome? (fun a => if a.1.ySpace = y then k.needs a.1 else none) = none := fun y => by
    refine List.findSome?_eq_none_iff.mpr fun a ha => ?_
    split
    · exact (hcalm a ha).needs
    · rfl
  unfold Dev.issueAcc
  simp only [hk, hp, hsettle, hfront, hneed]
  rfl

theorem moveAcc_tame {d : Dev} {c : Nat} {w : Writes} {k : Core} {l : List (Access × Option (Nat × BitVec 16))}
    (hc : c < d.chn.length) (h : d.bnk.hand = []) (hcode : ∀ a ∈ l, a.1.code ≠ 111) : Tame c w.accs d (d.moveAcc c w k l) := by
  have hl : Tame c w.accs d (l.foldl (fun (d : Dev) a => d.access c w k a.1) d) :=
    List.foldlRecOn (motive := Tame c w.accs d) l _ .refl fun e he a ha =>
      he.trans (.access (by rw [he.frame.size]; exact hc) (he.frame.hand.trans h) (hcode a ha))
  exact (hl.trans .stepPointers).trans (.setCore (.trans .advance .done_))

/-! ### Parallel instructions -/

/-- The accesses of two move fields. -/
def Core.moves (k : Core) (xm ym : Mv) : List (Access × Option (Nat × BitVec 16)) :=
  [k.mvAccess false xm, k.mvAccess true ym].filterMap id

/-- A move field names a register by six bits: never CST. -/
theorem code_of_mvAccess {k : Core} {y : Bool} {m : Mv} {a : Access × Option (Nat × BitVec 16)} (h : k.mvAccess y m = some a) :
    a.1.code ≠ 111 := by
  have hlt : ∀ r : BitVec 6, r.toNat ≠ 111 := fun r => by omega
  cases m with
  | none => cases h
  | load reg p mode | store reg p mode =>
    cases h
    exact hlt reg

theorem code_of_moves {k : Core} {xm ym : Mv} {a : Access × Option (Nat × BitVec 16)} (h : a ∈ k.moves xm ym) :
    a.1.code ≠ 111 := by
  obtain ⟨o, ho, ha⟩ := List.mem_filterMap.mp h
  simp only [List.mem_cons, List.not_mem_nil, or_false] at ho
  rcases ho with rfl | rfl <;> exact code_of_mvAccess ha

/-- A parallel instruction does its effect, and its calm moves leave core `c` quiet and the rest of the frame as it was. -/
theorem par_of_calm {s : State} {c : BitVec 4} {i : Instr} {k : Core} {xm ym : Mv} {w : Core → Writes} {effect : Core → Core}
    (hcalm : Calm k xm ym) (hnext : Next s c k i false) :
    ∃ e, s.dev.par c i xm ym w effect = e ∧ CoreFrame c.toNat s.dev e ∧
      (effect k).Quiet (w k).accs (e.core c.toNat) := by
  obtain ⟨hc, hhand, hk, hp⟩ := hnext
  have ht : Tame c.toNat (w k).accs (s.dev.setCore c.toNat (effect k))
      ((s.dev.setCore c.toNat (effect k)).moveAcc c.toNat (w k) k (k.moves xm ym)) :=
    moveAcc_tame (by rwa [length_chn_setCore]) hhand fun a => code_of_moves
  have hq := ht.quiet
  rw [core_setCore_same _ _ _ hc] at hq
  have hcalm' : ∀ a ∈ k.moves xm ym, k.CalmAccess a.1 := fun a ha =>
    (hcalm a ha).imp_left fun h => by rw [h, Bool.true_or]
  exact ⟨_, issueAcc_of_calm hk hp hcalm', .trans .setCore ht.frame, hq⟩

/-! ### Arithmetic results -/

theorem putAccs_acc (k : Core) (l : List (Nat × Int)) :
    (k.putAccs l).acc = l.foldl (fun a e => setAt a e.1 (BitVec.ofInt 72 e.2)) k.acc := by
  unfold Core.putAccs Core.stick
  cases l <;> dsimp only <;> split <;> rfl

theorem putAccs_keeps (k : Core) (l : List (Nat × Int)) : CoreKeeps k (k.putAccs l) ∧ SameSearch k (k.putAccs l) := by
  unfold Core.putAccs Core.stick CoreKeeps SameSearch
  cases l <;> dsimp only <;> split <;> exact ⟨by repeat constructor, by repeat constructor⟩

theorem flags_st (k : Core) (v : BitVec 72) (b : Nat) (h : b ≠ cZ ∧ b ≠ cN ∧ b ≠ cE) : (k.flags v).st b = k.st b := by
  unfold Core.flags
  rw [st_setSt_other _ _ _ _ (by decide) h.2.2, st_setSt_other _ _ _ _ (by decide) h.2.1, st_setSt_other _ _ _ _ (by decide) h.1]

theorem flags_result (k : Core) (v : BitVec 72) :
    (k.flags v).st cZ = decide (v = 0) ∧ (k.flags v).st cN = v.msb ∧ (k.flags v).st cE = guardsDiffer v := by
  unfold Core.flags
  refine ⟨?_, ?_, st_setSt_same _ _ _ (by decide)⟩
  · rw [st_setSt_other _ _ _ _ (by decide) (by decide), st_setSt_other _ _ _ _ (by decide) (by decide),
      st_setSt_same _ _ _ (by decide)]
  · rw [st_setSt_other _ _ _ _ (by decide) (by decide), st_setSt_same _ _ _ (by decide)]

theorem putAccs_gov (k : Core) (l : List (Nat × Int)) :
    (k.putAccs l).st cGOV = (k.st cGOV || l.any (fun e => outOf72 e.2)) := by
  unfold Core.putAccs
  cases l with
  | nil => exact st_stick_same _ _ _ (by decide)
  | cons e t => exact (flags_st _ _ _ (by decide)).trans (st_stick_same _ _ _ (by decide))

theorem putAccs_flags (k : Core) (l : List (Nat × Int)) (e : Nat × Int) (h : e ∈ l.head?) :
    (k.putAccs l).st cZ = decide (BitVec.ofInt 72 e.2 = 0) ∧ (k.putAccs l).st cN = (BitVec.ofInt 72 e.2).msb ∧
      (k.putAccs l).st cE = guardsDiffer (BitVec.ofInt 72 e.2) := by
  unfold Core.putAccs
  cases l with
  | nil => cases h
  | cons a t =>
    cases h
    exact flags_result _ _

/-- An instruction whose arithmetic writes the results `f k` computes them. -/
theorem computes_of_accOp {s : State} {c : BitVec 4} {k : Core} {xm ym : Mv} {i : Instr} {f : Core → List (Nat × Int)}
    {l : List (Nat × Int)} (hcalm : Calm k xm ym) (hexec : exec i s = onDev (fun d => d.accOp c i xm ym f) s) (hl : f k = l)
    (hnext : Next s c k i false) : Computes s c k i l := by
  obtain ⟨e, he, hframe, hq⟩ := par_of_calm (w := fun k => { accs := (f k).map (·.1) }) (effect := fun k => k.putAccs (f k)) hcalm
    hnext
  rw [hl] at hq
  refine ⟨{ s with dev := e }, by rw [hexec, onDev, Dev.accOp, he], ?_, ?_, ?_, ?_, ?_, hframe.othersKeep⟩
  · exact hq.acc.trans (putAccs_acc k l)
  · exact (hq.st _ (.inl rfl)).trans (putAccs_gov k l)
  · intro r hr
    obtain ⟨hz, hn, he⟩ := putAccs_flags k l r hr
    exact ⟨(hq.st _ (.inr (by decide))).trans hz, (hq.st _ (.inr (by decide))).trans hn, (hq.st _ (.inr (by decide))).trans he⟩
  · exact coreKeeps_trans (putAccs_keeps k l).1 hq.keeps
  · exact sameSearch_trans (putAccs_keeps k l).2 hq.search

theorem prod31_eq (a b : BitVec 32) : prod31 a b = 2 * (a.toInt * b.toInt) := Int.mul_comm _ _

/-- Settles O25: every arithmetic instruction is a parallel instruction whose effect writes the results that R257 lists. -/
theorem accumulatorInstructionsCompute : Obligations.AccumulatorInstructionsCompute := by
  intro s c k xm ym p a b n m hx hy sh hcalm A re im yr yi xh yh e o
  have hre : k.cre a b = 2 * (re * yr - im * yi) := by
    rw [Core.cre, prod31_eq, prod31_eq, ← Int.mul_sub]
    rfl
  have him : k.cim a b = 2 * (re * yi + im * yr) := by
    rw [Core.cim, prod31_eq, prod31_eq, ← Int.mul_add]
    rfl
  have hreJ : k.creJ a b = 2 * (re * yr + im * yi) := by
    rw [Core.creJ, prod31_eq, prod31_eq, ← Int.mul_add]
    rfl
  have himJ : k.cimJ a b = 2 * (im * yr - re * yi) := by
    rw [Core.cimJ, prod31_eq, prod31_eq, ← Int.mul_sub]
    rfl
  have hreal : k.real a hx b hy = 2 * (xh * yh) := prod31_eq _ _
  have habs : (if A n.toNat < 0 then -A n.toNat else A n.toNat) = max (A n.toNat) (-A n.toNat) := by omega
  refine ⟨?_, ?_, ?_, ?_, ?_, ?_, ?_, ?_, ?_, ?_, ?_, ?_, ?_, ?_, ?_, ?_, ?_, ?_⟩
  · exact computes_of_accOp hcalm rfl (by rw [← hre, ← him]; rfl)
  · exact computes_of_accOp hcalm rfl (by rw [← hre, ← him]; rfl)
  · exact computes_of_accOp hcalm rfl (by rw [← hre, ← him]; rfl)
  · exact computes_of_accOp hcalm rfl (by rw [← hreJ, ← himJ]; rfl)
  · exact computes_of_accOp hcalm rfl (by rw [← prod31_eq, ← prod31_eq]; rfl)
  · exact computes_of_accOp hcalm rfl (by rw [← hreal]; rfl)
  · exact computes_of_accOp hcalm rfl (by rw [← hreal]; rfl)
  · exact computes_of_accOp hcalm rfl (by rw [← hreal])
  · exact computes_of_accOp hcalm rfl (by rw [Int.mul_add, ← prod31_eq, ← prod31_eq]; rfl)
  · exact computes_of_accOp hcalm rfl rfl
  · exact computes_of_accOp hcalm rfl rfl
  · exact computes_of_accOp hcalm rfl rfl
  · exact computes_of_accOp hcalm rfl rfl
  · exact computes_of_accOp hcalm rfl rfl
  · exact computes_of_accOp hcalm rfl (by rw [← habs]; rfl)
  · exact computes_of_accOp hcalm rfl rfl
  · exact computes_of_accOp hcalm rfl rfl
  · exact computes_of_accOp hcalm rfl rfl

/-! ### Logic and search -/

/-- From `k` to `j` the accumulators, CST and what `CoreKeeps` names stay. -/
structure Core.EffectKeeps (k j : Core) : Prop where
  acc : j.acc = k.acc
  cst : j.cst = k.cst
  keeps : CoreKeeps k j

/-- A parallel instruction whose effect leaves accumulators and CST leaves them altogether. -/
theorem par_keeps {s : State} {c : BitVec 4} {i : Instr} {k : Core} {xm ym : Mv} {w : Core → Writes} {effect : Core → Core}
    (hcalm : Calm k xm ym) (hexec : exec i s = onDev (fun d => d.par c i xm ym w effect) s) (he : k.EffectKeeps (effect k))
    (hnext : Next s c k i false) :
    ∃ t, exec i s = .next t ∧ ((t.dev.core c.toNat).acc = k.acc ∧ (t.dev.core c.toNat).st cZ = k.st cZ ∧
      (t.dev.core c.toNat).st cN = k.st cN ∧ (t.dev.core c.toNat).st cE = k.st cE ∧
      (t.dev.core c.toNat).st cGOV = k.st cGOV ∧ CoreKeeps k (t.dev.core c.toNat) ∧ OthersKeep s t c) ∧
      (effect k).Quiet (w k).accs (t.dev.core c.toNat) := by
  obtain ⟨e, hpar, hframe, hq⟩ := par_of_calm (w := w) (effect := effect) hcalm hnext
  have hst : ∀ b, b = cGOV ∨ 10 < b → (e.core c.toNat).st b = k.st b := fun b hb => by
    rw [hq.st b hb, Core.st, he.cst]
    rfl
  refine ⟨{ s with dev := e }, by rw [hexec, onDev, hpar], ⟨hq.acc.trans he.acc, hst _ (.inr (by decide)),
    hst _ (.inr (by decide)), hst _ (.inr (by decide)), hst _ (.inl rfl), coreKeeps_trans he.keeps hq.keeps,
    hframe.othersKeep⟩, hq⟩

theorem load_of_lt (k : Core) {code : Nat} (v : BitVec 64) (h : code < 40) :
    k.load code v = { k with pend := k.pend ++ [⟨3, BitVec.ofNat 8 code, v⟩] } := by
  unfold Core.load
  dsimp only
  rw [if_neg (by simp; omega), if_neg (by simp; omega), if_neg (by omega)]

/-- A logic instruction sends its result on its way to Xa and leaves the rest. -/
theorem logic_acts {s : State} {c : BitVec 4} {i : Instr} {k : Core} {xm ym : Mv} {a b : BitVec 2}
    {f : BitVec 64 → BitVec 64 → BitVec 64} (hcalm : Calm k xm ym)
    (hexec : exec i s = onDev (fun d => d.logic c i a b xm ym f) s) (hnext : Next s c k i false) :
    ∃ t, exec i s = .next t ∧ ((t.dev.core c.toNat).acc = k.acc ∧ (t.dev.core c.toNat).st cZ = k.st cZ ∧
      (t.dev.core c.toNat).st cN = k.st cN ∧ (t.dev.core c.toNat).st cE = k.st cE ∧
      (t.dev.core c.toNat).st cGOV = k.st cGOV ∧ CoreKeeps k (t.dev.core c.toNat) ∧ OthersKeep s t c) ∧
      SameSearch k (t.dev.core c.toNat) ∧
      (⟨3, BitVec.ofNat 8 a.toNat, f (k.x.getD a.toNat 0) (k.y.getD b.toNat 0)⟩ : Delayed) ∈ (t.dev.core c.toNat).pend := by
  have hload := load_of_lt k (code := a.toNat) (f (k.xr a) (k.yr b)) (by omega)
  have hqload : k.Quiet [] (k.load a.toNat (f (k.xr a) (k.yr b))) := .load (by omega)
  obtain ⟨t, ht, hkeeps, hq⟩ := par_keeps (w := fun _ => { xreg := some a.toNat }) hcalm hexec
    ⟨hqload.acc, by rw [hload], hqload.keeps⟩ hnext
  refine ⟨t, ht, hkeeps, sameSearch_trans hqload.search hq.search, hq.pend _ ?_ (List.any_eq_false.mpr fun _ _ => nofun)⟩
  rw [hload]
  exact List.mem_append_right _ (List.mem_singleton.mpr rfl)

theorem search_keeps (k : Core) (v : BitVec 32) (doMax doMin : Bool) : k.EffectKeeps (k.search v doMax doMin) :=
  ⟨rfl, rfl, by repeat constructor⟩

/-- Settles O26: logic is a load of the result, a search step is its effect on the search registers, and the moves beside them
are quiet. -/
theorem logicAndSearchInstructionsAct : Obligations.LogicAndSearchInstructionsAct := by
  intro s c k xm ym a b src hcalm x y v gt lt keeps
  refine ⟨logic_acts hcalm rfl, logic_acts hcalm rfl, logic_acts hcalm rfl, fun hnext => ?_, fun hnext => ?_, fun hnext => ?_,
    fun hnext => ?_⟩
  · obtain ⟨t, ht, hkeeps, hq⟩ := par_keeps hcalm rfl (search_keeps k _ _ _) hnext
    obtain ⟨hmxv, hmnv, hmxi, hmni, hsidx⟩ := hq.search
    exact ⟨t, ht, hkeeps, hmxv, hmxi, hmnv, hmni, hsidx⟩
  · obtain ⟨t, ht, hkeeps, hq⟩ := par_keeps hcalm rfl (search_keeps k _ _ _) hnext
    obtain ⟨hmxv, hmnv, hmxi, hmni, hsidx⟩ := hq.search
    exact ⟨t, ht, hkeeps, hmnv, hmni, hmxv, hmxi, hsidx⟩
  · obtain ⟨t, ht, hkeeps, hq⟩ := par_keeps hcalm rfl (search_keeps k _ _ _) hnext
    obtain ⟨hmxv, hmnv, hmxi, hmni, hsidx⟩ := hq.search
    exact ⟨t, ht, hkeeps, hmxv, hmxi, hmnv, hmni, hsidx⟩
  · obtain ⟨t, ht, hkeeps, hq⟩ := par_keeps hcalm rfl ⟨rfl, rfl, by repeat constructor⟩ hnext
    obtain ⟨hmxv, hmnv, hmxi, hmni, hsidx⟩ := hq.search
    exact ⟨t, ht, hkeeps, hmxv, hmnv, hmxi, hmni, hsidx⟩

/-! ### One access to local memory -/

/-- Moving on from an instruction changes PC, the delay slots, the loop counts and levels, LOPEN's delay and the loop bits of CST. -/
theorem advance_spec (k : Core) :
    ∃ pc slots lc lopen cst, k.advance = { k with pc := pc, slots := slots, lc := lc, lopen := lopen, cst := cst } ∧
      ∀ b, b < 8 → bit cst.toNat b = k.st b := by
  unfold Core.advance
  split
  · exact ⟨_, _, _, _, _, rfl, fun _ _ => rfl⟩
  · split
    · exact ⟨_, _, _, _, _, rfl, fun _ _ => rfl⟩
    · split
      · split
        · exact ⟨_, _, _, _, _, rfl, fun _ _ => rfl⟩
        · exact ⟨_, _, _, _, _, rfl, fun _ _ => rfl⟩
      · split
        · exact ⟨_, _, _, _, _, rfl, fun _ _ => rfl⟩
        · exact ⟨_, _, _, _, _, rfl, fun b hb => st_setLl _ _ b (.inl hb)⟩

/-- A pointer takes its stepped value. -/
def Core.stepped (k : Core) : Option (Nat × BitVec 16) → Core
  | some (n, p) => { k with p := setAt k.p n p }
  | none => k

theorem stepPointers_one (d : Dev) (c : Nat) (u : Option (Nat × BitVec 16)) :
    d.stepPointers c u none = d.setCore c ((d.core c).stepped u) := by
  cases u with
  | none => exact (setCore_core d c).symm
  | some e => rfl

/-- The move to the next instruction after one access. -/
theorem moveAcc_one {d : Dev} {c : Nat} {w : Writes} {k K : Core} {a : Access} {u : Option (Nat × BitVec 16)}
    (hc : c < d.chn.length) (ha : d.access c w k a = d.setCore c K) :
    d.moveAcc c w k [(a, u)] = d.setCore c ((K.stepped u).advance.done_ k) := by
  unfold Dev.moveAcc
  simp only [List.foldl_cons, List.foldl_nil, ha, List.getD_cons_zero, List.getD_cons_succ, List.getD_nil, stepPointers_one,
    core_setCore_same _ _ _ hc, setCore_setCore]

theorem ext_of_local {k : Core} {a : Access} (h : a.addr.toNat < 0x4000) : k.ext a = none := if_pos (by omega)

theorem isReserved_of_local {a : Access} (h : a.addr.toNat < 0x4000) : a.isReserved = false := by
  unfold Access.isReserved
  rw [Bool.and_eq_false_iff]
  exact .inl (decide_eq_false (by omega))

theorem access_load {d : Dev} {c : Nat} {k : Core} {a : Access} (hc : c < d.chn.length) (h : a.store = false) :
    d.access c {} k a = d.setCore c (((d.core c).stick cAERR a.isReserved).load a.code ((d.core c).loadVal a)) := by
  have hclash : Writes.clash {} a.code = false := by
    unfold Writes.clash
    cases searchOf a.code <;> rfl
  have hfilter : ∀ l : List Delayed, l.filter (fun e => !(accsOf e.code.toNat).any (List.contains [] ·)) = l := fun l =>
    List.filter_eq_self.mpr fun e _ => by simp
  unfold Dev.access Dev.startLoad
  simp only [h, hclash, Bool.false_eq_true, if_false, core_setCore_same _ _ _ hc, setCore_setCore, hfilter]

/-- Core `k` with the register that the store `a` names read into its buffer, behind the others. -/
def Core.stored (k : Core) (a : Access) : Core :=
  { k.stick cSAT (k.readCode a.code).2 with sb := k.sb ++ [⟨a.ySpace, a.at_, a.wide, (k.readCode a.code).1, none⟩] }

theorem access_store {d : Dev} {c : Nat} {w : Writes} {a : Access} (hc : c < d.chn.length) (h : a.store = true)
    (haddr : a.addr.toNat < 0x4000) (hsb : (d.core c).sb.length < 4) :
    d.access c w (d.core c) a = d.setCore c ((d.core c).stored a) := by
  have hstick : ((d.core c).stick cSAT ((d.core c).readCode a.code).2).sb = (d.core c).sb := by
    unfold Core.stick
    split <;> rfl
  unfold Dev.access Dev.store Core.stored
  simp only [h, if_true, isReserved_of_local haddr, Bool.false_eq_true, if_false, core_setCore_same _ _ _ hc, hstick, hsb,
    ext_of_local haddr, setCore_setCore]

/-- A load from a local address that no entry overlaps delivers the memory's value and waits for nothing. -/
theorem loadVal_local {k : Core} {a : Access} (h : a.addr.toNat < 0x4000) (hy : k.youngest a = none) :
    k.loadVal a = k.readLocal a.ySpace a.at_ a.wide := by
  unfold Core.loadVal
  simp only [isReserved_of_local h, Bool.false_eq_true, if_false, hy, ext_of_local h]

theorem calmAccess_local {k : Core} {a : Access} (h : a.addr.toNat < 0x4000) (hy : k.youngest a = none) : k.CalmAccess a := by
  refine .inr ⟨?_, fun y hy' => by rw [hy] at hy'; cases hy'⟩
  unfold Core.needs
  simp only [isReserved_of_local h, ext_of_local h, Bool.or_false, ite_self]

/-- The core after a load of an operand register, found as `k`. -/
def Core.afterLoad (k : Core) (a : Access) (u : Option (Nat × BitVec 16)) : Core :=
  ((((k.stick cAERR a.isReserved).load a.code (k.loadVal a)).stepped u).advance).done_ k

/-- The core after a store of a register, found as `k`. -/
def Core.afterStore (k : Core) (a : Access) (u : Option (Nat × BitVec 16)) : Core :=
  (((k.stored a).stepped u).advance).done_ k

section
variable {s : State} {c : BitVec 4} {i : Instr} {k : Core} {a : Access} {u : Option (Nat × BitVec 16)}
  {acc : Core → List (Access × Option (Nat × BitVec 16))}

theorem issueAcc_load (hnext : Next s c k i false) (hacc : acc k = [(a, u)]) (h : a.store = false) (hcalm : k.CalmAccess a) :
    s.dev.issueAcc c i acc (fun _ => {}) id = s.dev.setCore c.toNat (k.afterLoad a u) := by
  obtain ⟨hc, -, hk, hp⟩ := hnext
  have hc' : c.toNat < (s.dev.setCore c.toNat k).chn.length := by rwa [length_chn_setCore]
  have hload := access_load (k := k) hc' h
  rw [core_setCore_same _ _ _ hc] at hload
  rw [issueAcc_of_calm hk hp (by rw [hacc]; simpa using hcalm), hacc]
  exact (moveAcc_one hc' hload).trans (setCore_setCore _ _ _ _)

theorem issueAcc_store (hnext : Next s c k i false) (hacc : acc k = [(a, u)]) (h : a.store = true) (haddr : a.addr.toNat < 0x4000)
    (hsb : k.sb.length < 4) :
    s.dev.issueAcc c i acc (fun _ => {}) id = s.dev.setCore c.toNat (k.afterStore a u) := by
  obtain ⟨hc, -, hk, hp⟩ := hnext
  have hc' : c.toNat < (s.dev.setCore c.toNat k).chn.length := by rwa [length_chn_setCore]
  have hstore := access_store (w := {}) hc' h haddr (by rwa [core_setCore_same _ _ _ hc])
  rw [core_setCore_same _ _ _ hc] at hstore
  have hcalm : k.CalmAccess a := .inl (by rw [h, Bool.true_or])
  rw [issueAcc_of_calm hk hp (by rw [hacc]; simpa using hcalm), hacc]
  exact (moveAcc_one hc' hstore).trans (setCore_setCore _ _ _ _)
end

theorem stepped_quiet {accs : List Nat} {k : Core} {u : Option (Nat × BitVec 16)} : k.Quiet accs (k.stepped u) := by
  cases u with
  | none => exact .refl
  | some e => exact .upd

/-- What a load of an operand register leaves and starts. -/
theorem afterLoad_spec (k : Core) {a : Access} (u : Option (Nat × BitVec 16)) (h : a.code < 24) :
    CoreKeeps k (k.afterLoad a u) ∧ (k.afterLoad a u).acc = k.acc ∧ (k.afterLoad a u).xm = k.xm ∧ (k.afterLoad a u).ym = k.ym ∧
      (k.afterLoad a u).sb = k.sb ∧ (k.afterLoad a u).pend = k.pend ++ [⟨3, BitVec.ofNat 8 a.code, k.loadVal a⟩] ∧
      (k.afterLoad a u).p = (k.stepped u).p ∧ (k.afterLoad a u).st cAERR = (k.st cAERR || a.isReserved) := by
  have hq : k.Quiet [] (k.afterLoad a u) :=
    .trans (.stick (.inr rfl)) (.trans (.load (by omega)) (.trans stepped_quiet (.trans .advance .done_)))
  refine ⟨hq.keeps, hq.acc, ?_⟩
  rw [← st_stick_same k cAERR a.isReserved (by decide)]
  unfold Core.afterLoad
  rw [load_of_lt _ _ (by omega)]
  obtain ⟨pc, slots, lc, lopen, cst, hadv, hcst⟩ := advance_spec (({ k.stick cAERR a.isReserved with
    pend := (k.stick cAERR a.isReserved).pend ++ [⟨3, BitVec.ofNat 8 a.code, k.loadVal a⟩] } : Core).stepped u)
  rw [hadv]
  cases u <;> (refine ⟨?_, ?_, ?_, ?_, ?_, hcst cAERR (by decide)⟩ <;> (unfold Core.stick; split <;> rfl))

/-- What a store of a register leaves and adds to the store buffer. -/
theorem afterStore_spec (k : Core) (a : Access) (u : Option (Nat × BitVec 16)) :
    CoreKeeps k (k.afterStore a u) ∧ (k.afterStore a u).acc = k.acc ∧ (k.afterStore a u).xm = k.xm ∧
      (k.afterStore a u).ym = k.ym ∧
      (k.afterStore a u).sb = k.sb ++ [⟨a.ySpace, a.at_, a.wide, (k.readCode a.code).1, none⟩] ∧
      (k.afterStore a u).pend = k.pend ∧ (k.afterStore a u).p = (k.stepped u).p ∧
      (k.afterStore a u).st cSAT = (k.st cSAT || (k.readCode a.code).2) := by
  have hq : k.Quiet [] (k.afterStore a u) :=
    .trans (.trans (.stick (.inl rfl)) .upd) (.trans stepped_quiet (.trans .advance .done_))
  refine ⟨hq.keeps, hq.acc, ?_⟩
  rw [← st_stick_same k cSAT (k.readCode a.code).2 (by decide)]
  unfold Core.afterStore
  obtain ⟨pc, slots, lc, lopen, cst, hadv, hcst⟩ := advance_spec ((k.stored a).stepped u)
  rw [hadv]
  cases u <;> (refine ⟨?_, ?_, ?_, ?_, ?_, hcst cSAT (by decide)⟩ <;> (unfold Core.stored Core.stick; split <;> rfl))

/-! ### Stops -/

/-- What sequences a core: PC, run state, states, power, store buffer and what a stop shows. -/
structure Seq where
  pc : BitVec 14
  run : Bool
  mst : BitVec 2
  dst : BitVec 2
  pwr : Bool
  sb : List SbEnt
  stopped : Bool
  fcode : BitVec 4
  fpc : BitVec 14

/-- The sequencing state of core `k`. -/
def Core.seq (k : Core) : Seq := ⟨k.pc, k.run, k.mst, k.dst, k.pwr, k.sb, k.stopped, k.fcode, k.fpc⟩

theorem seq_ite {p : Prop} {_ : Decidable p} {i j k : Core} (h : i.seq = k.seq) (g : j.seq = k.seq) :
    (if p then i else j).seq = k.seq := by
  split
  · exact h
  · exact g

/-- A delayed write names a register: none of them sequences the core. -/
theorem seq_writeCode (k : Core) (code : Nat) (v : BitVec 64) : (k.writeCode code v).seq = k.seq := by
  unfold Core.writeCode
  dsimp only
  iterate 22 refine seq_ite rfl ?_
  refine seq_ite (seq_ite rfl rfl) ?_
  iterate 5 refine seq_ite rfl ?_
  rfl

theorem seq_applyDelayed (k : Core) (l : List Delayed) : (applyDelayed k l).seq = k.seq :=
  foldl_keeps (fun j : Core => j.seq = k.seq) _ l k rfl fun _ _ h => (seq_writeCode _ _ _).trans h

theorem seq_applyPm (k : Core) (l : List PmPend) : (applyPm k l).seq = k.seq :=
  foldl_keeps (fun j : Core => j.seq = k.seq) _ l k rfl fun _ _ h => h

theorem seq_front (k : Core) : k.front.seq = k.seq := by
  unfold Core.front
  extract_lets pend loop pmp k1 k2 k3 k4 cst k5
  have h4 : k4.seq = k.seq :=
    (seq_applyPm k2 _).trans ((seq_applyDelayed k1 _).trans (seq_applyDelayed k _))
  split
  · exact h4
  · exact h4

theorem seq_retire (k : Core) : k.retire.seq = k.seq :=
  (seq_applyPm _ _).trans ((seq_applyDelayed _ _).trans (seq_applyDelayed k _))

theorem Core.Drained.seq {k j : Core} (h : k.Drained j) : j.seq = { k.seq with sb := j.sb } := by
  obtain ⟨_, _, _, _, rfl, -⟩ := h
  rfl

/-- A core disabled while it runs retires what it has issued and stops running. -/
theorem sync_of_disabled (k : Core) (hrun : k.run = true) (hdst : k.dst = 2) :
    k.sync.seq = { k.seq with run := false } := by
  have hest : k.est ≠ 1 := by
    unfold Core.est
    rw [hdst]
    exact (lt_of_lt_of_le (by decide) (le_max_right _ _)).ne'
  unfold Core.sync
  rw [if_neg (by simp [hdst]), if_neg (by simp [hest]), if_pos hrun]
  exact congrArg (fun q : Seq => { q with run := false }) (seq_retire k)

theorem sync_of_stopped (k : Core) (hrun : k.run = false) (hdst : k.dst = 2) : k.sync = k := by
  unfold Core.sync
  rw [if_neg (by simp [hdst]), hrun, if_neg Bool.false_ne_true, ite_self]

/-- Without latched splits, a core that is not retired takes the logic state given to it. -/
theorem logicDst_core (d : Dev) (c v : Nat) (hsplit : d.flt.split = []) (hdst : (d.core c).dst ≠ 3) :
    d.logicDst kCore c v = d.setCore c ({ d.core c with dst := BitVec.ofNat 2 v }).sync := by
  have hret : d.dst kCore c ≠ RETIRED := fun h => hdst (BitVec.eq_of_toNat_eq h)
  unfold Dev.logicDst
  rw [hsplit]
  exact if_neg hret

/-- A running core that the device disables: the logic state and the run state settle together. -/
theorem disable_core {d : Dev} {c : Nat} {k : Core} (hc : c < d.chn.length) (hsplit : d.flt.split = []) (hrun : k.run = true)
    (hdst : k.dst ≠ 3) :
    ((d.setCore c k).logicDst kCore c DISABLED).setCore c (((d.setCore c k).logicDst kCore c DISABLED).core c).sync =
      d.setCore c ({ k with dst := 2 }).sync := by
  have hk := core_setCore_same d c k hc
  have hseq := sync_of_disabled { k with dst := 2 } hrun rfl
  have hsync : ({ k with dst := 2 } : Core).sync.sync = ({ k with dst := 2 } : Core).sync :=
    sync_of_stopped _ (congrArg Seq.run hseq) (congrArg Seq.dst hseq)
  have hlogic : (d.setCore c k).logicDst kCore c DISABLED = d.setCore c ({ k with dst := 2 }).sync := by
    rw [logicDst_core (d.setCore c k) c DISABLED hsplit (by rwa [hk]), hk]
    exact setCore_setCore _ _ _ _
  rw [hlogic, core_setCore_same _ _ _ hc, setCore_setCore, hsync]

/-- A stop of a running core with code `f`: its buffer is drained, it stands at its PC, and nothing else in the frame changes. -/
theorem stopCore_spec {d : Dev} {c : Nat} (f : Nat) (hc : c < d.chn.length) (hhand : d.bnk.hand = []) (hsplit : d.flt.split = [])
    (hrun : (d.core c).run = true) (hdst : (d.core c).dst ≠ 3) :
    CoreFrame c d (d.stopCore c f) ∧ ((d.stopCore c f).core c).seq = { (d.core c).seq with
      run := false, dst := 2, sb := [], stopped := true, fcode := BitVec.ofNat 4 f, fpc := (d.core c).pc } := by
  have hc1 : c < (d.setCore c (d.core c).retire).chn.length := by rwa [length_chn_setCore]
  have hk1 : ((d.setCore c (d.core c).retire).core c).seq = (d.core c).seq := by
    rw [core_setCore_same _ _ _ hc]
    exact seq_retire _
  obtain ⟨hf2, hdr, hsb⟩ := drainAll_spec hc1 hhand
  have hf : CoreFrame c d _ := .trans .setCore hf2
  have hk2 := hdr.seq
  rw [hsb, hk1] at hk2
  unfold Dev.stopCore
  dsimp only
  generalize (d.setCore c (d.core c).retire).drainAll c = e at hf hk2 ⊢
  have hce : c < e.chn.length := by rwa [hf.size]
  rw [disable_core (k := { e.core c with stopped := true, fcode := BitVec.ofNat 4 f, fpc := (e.core c).pc }) hce
    (by rwa [hf.flt]) ((congrArg Seq.run hk2).trans hrun) (fun h => hdst ((congrArg Seq.dst hk2).symm.trans h)),
    core_setCore_same _ _ _ hce]
  refine ⟨hf.trans .setCore, Eq.trans (sync_of_disabled _ ?_ rfl) ?_⟩
  · exact (congrArg Seq.run hk2).trans hrun
  · exact congrArg (fun q : Seq => { q with
      run := false, dst := 2, stopped := true, fcode := BitVec.ofNat 4 f, fpc := q.pc }) hk2

/-! ### Moves -/

/-- A load that waits for nothing puts its value on its way and leaves memory, store buffer and accumulators. -/
theorem load_acts {s : State} {c : BitVec 4} {k : Core} {i : Instr} {a : Access} {u : Option (Nat × BitVec 16)}
    {acc : Core → List (Access × Option (Nat × BitVec 16))}
    (hexec : exec i s = onDev (fun d => d.issueAcc c i acc (fun _ => {}) id) s) (hnext : Next s c k i false)
    (hacc : acc k = [(a, u)]) (h : a.store = false) (hcalm : k.CalmAccess a) (hcode : a.code < 24) :
    ∃ t, exec i s = .next t ∧ OthersKeep s t c ∧ CoreKeeps k (t.dev.core c.toNat) ∧ (t.dev.core c.toNat).acc = k.acc ∧
      (t.dev.core c.toNat).xm = k.xm ∧ (t.dev.core c.toNat).ym = k.ym ∧ (t.dev.core c.toNat).sb = k.sb ∧
      (t.dev.core c.toNat).pend = k.pend ++ [⟨3, BitVec.ofNat 8 a.code, k.loadVal a⟩] ∧
      (t.dev.core c.toNat).p = (k.stepped u).p ∧ (t.dev.core c.toNat).st cAERR = (k.st cAERR || a.isReserved) := by
  refine ⟨{ s with dev := s.dev.setCore c.toNat (k.afterLoad a u) }, ?_, CoreFrame.setCore.othersKeep, ?_⟩
  · rw [hexec, onDev, issueAcc_load hnext hacc h hcalm]
  · dsimp only
    rw [core_setCore_same _ _ _ hnext.1]
    exact afterLoad_spec k u hcode

/-- A store to a local address joins a store buffer with room and leaves memory, operands and accumulators. -/
theorem store_acts {s : State} {c : BitVec 4} {k : Core} {i : Instr} {a : Access} {u : Option (Nat × BitVec 16)}
    {acc : Core → List (Access × Option (Nat × BitVec 16))}
    (hexec : exec i s = onDev (fun d => d.issueAcc c i acc (fun _ => {}) id) s) (hnext : Next s c k i false)
    (hacc : acc k = [(a, u)]) (h : a.store = true) (haddr : a.addr.toNat < 0x4000) (hsb : k.sb.length < 4) :
    ∃ t, exec i s = .next t ∧ OthersKeep s t c ∧ CoreKeeps k (t.dev.core c.toNat) ∧ (t.dev.core c.toNat).acc = k.acc ∧
      (t.dev.core c.toNat).xm = k.xm ∧ (t.dev.core c.toNat).ym = k.ym ∧
      (t.dev.core c.toNat).sb = k.sb ++ [⟨a.ySpace, a.at_, a.wide, (k.readCode a.code).1, none⟩] ∧
      (t.dev.core c.toNat).pend = k.pend ∧ (t.dev.core c.toNat).p = (k.stepped u).p ∧
      (t.dev.core c.toNat).st cSAT = (k.st cSAT || (k.readCode a.code).2) := by
  refine ⟨{ s with dev := s.dev.setCore c.toNat (k.afterStore a u) }, ?_, CoreFrame.setCore.othersKeep, ?_⟩
  · rw [hexec, onDev, issueAcc_store hnext hacc h haddr hsb]
  · dsimp only
    rw [core_setCore_same _ _ _ hnext.1]
    exact afterStore_spec k a u

theorem isReserved_of_mem {a : Access} (h : 0x4000 ≤ a.addr.toNat) (h' : a.addr.toNat < 0x8000) : a.isReserved = true := by
  unfold Access.isReserved
  rw [Bool.and_eq_true]
  exact ⟨decide_eq_true (by omega), decide_eq_true (by omega)⟩

theorem loadVal_reserved {k : Core} {a : Access} (h : a.isReserved = true) : k.loadVal a = 0 := if_pos h

/-- A program fault stops the core as its code says, and raises a notice. -/
theorem progFault_spec {s : State} {c : BitVec 4} {i : Instr} {k : Core} (f : Nat) (hc : c.toNat < s.dev.chn.length)
    (hhand : s.dev.bnk.hand = []) (hat : s.dev.atInstr c i = some k) (hsplit : s.dev.flt.split = []) (hdst : k.dst ≠ 3) :
    ((s.dev.progFault c.toNat f).core c.toNat).seq = { (s.dev.core c.toNat).seq with
      run := false, dst := 2, sb := [], stopped := true, fcode := BitVec.ofNat 4 f, fpc := (s.dev.core c.toNat).pc } := by
  have hrun := issuing_of_atInstr hat
  simp only [Core.issuing, Bool.and_eq_true] at hrun
  obtain ⟨⟨⟨-, hrun⟩, -⟩, -⟩ := hrun
  have hfront := seq_front (s.dev.core c.toNat)
  rw [front_of_atInstr hat] at hfront
  have hstop := (stopCore_spec f hc hhand hsplit hrun fun h => hdst ((congrArg Seq.dst hfront).trans h)).2
  have hcore : (s.dev.progFault c.toNat f).core c.toNat = (s.dev.stopCore c.toNat f).core c.toNat :=
    congrArg (·.getD c.toNat Core.reset) (Dev.raise_chn _ _ _ _)
  rw [hcore, hstop]

/-- Settles O27: a move is one access that waits for nothing, and a reserved word is a program fault. -/
theorem movesReachLocalMemory : Obligations.MovesReachLocalMemory := by
  intro s c k hlen J
  refine ⟨?_, ?_, ?_, ?_, ?_⟩
  · intro reg p mode hreg _ hnext g a haddr hy
    obtain ⟨t, ht, hothers, hkeeps, hacc, hxm, hym, hsb, hpend, hp, -⟩ := load_acts rfl hnext
      (acc := fun k => k.moves (.load reg p mode) .none) (a := a) rfl rfl (calmAccess_local haddr hy) hreg
    rw [loadVal_local haddr hy] at hpend
    exact ⟨t, ht, hothers, hkeeps, hacc, hxm, hym, hsb, hpend, hp.trans (by cases g.2 <;> rfl)⟩
  · intro store reg p mode hreg hroom hnext g a haddr hy
    have hcode : BitVec.ofNat 8 a.code = reg := (BitVec.ofNat_toNat 8 reg).trans reg.setWidth_eq
    cases store with
    | false =>
      obtain ⟨t, ht, hothers, hkeeps, hacc, hxm, hym, hsb, hpend, hp, -⟩ := load_acts rfl hnext
        (a := a) rfl rfl (calmAccess_local haddr (hy rfl)) hreg
      rw [loadVal_local haddr (hy rfl)] at hpend
      exact ⟨t, ht, hothers, hkeeps, hacc, hxm, hym, hsb, hpend.trans (by rw [hcode]; rfl), hp.trans (by cases g.2 <;> rfl)⟩
    | true =>
      obtain ⟨t, ht, hothers, hkeeps, hacc, hxm, hym, hsb, hpend, hp, -⟩ := store_acts rfl hnext
        (a := a) rfl rfl haddr hroom
      exact ⟨t, ht, hothers, hkeeps, hacc, hxm, hym, hsb, hpend, hp.trans (by cases g.2 <;> rfl)⟩
  · intro reg addr haddr hroom hnext a
    obtain ⟨t, ht, hothers, hkeeps, hacc, hxm, hym, hsb, hpend, hp, hsat⟩ := store_acts rfl hnext
      (a := a) rfl rfl haddr hroom
    exact ⟨t, ht, hothers, hkeeps, hacc, hxm, hym, hpend, hp, hsb, hsat⟩
  · intro ySpace reg addr hlo hhi hreg hnext
    have hres : (⟨ySpace, false, reg.toNat, addr⟩ : Access).isReserved = true := isReserved_of_mem hlo hhi
    obtain ⟨t, ht, hothers, hkeeps, -, -, -, hsb, hpend, -, haerr⟩ := load_acts rfl hnext rfl rfl
      (.inl (by rw [hres, Bool.or_true])) hreg
    rw [loadVal_reserved hres] at hpend
    rw [hres, Bool.or_true] at haerr
    exact ⟨t, ht, hothers, hkeeps, by simpa using hpend, haerr, hsb⟩
  · intro hat hsplit hhand hdst
    have hseq := progFault_spec 1 (by omega) hhand hat hsplit hdst
    have hexec : exec (.nop c .reserved) s = .next { s with dev := s.dev.progFault c.toNat 1 } := by
      change execNop c .reserved s = _
      unfold execNop onDev
      dsimp only
      rw [hat]
    refine ⟨_, hexec, ?_⟩
    generalize s.dev.progFault c.toNat 1 = e at hseq ⊢
    exact ⟨congrArg Seq.fpc hseq, congrArg Seq.fcode hseq, congrArg Seq.stopped hseq, congrArg Seq.run hseq,
      congrArg Seq.sb hseq, congrArg Seq.dst hseq, rfl, rfl, rfl, rfl, rfl⟩

/-! ### Control instructions -/

theorem exec_onDev {s : State} {i : Instr} {f : Dev → Dev} {e : Dev} (hexec : exec i s = onDev f s) (h : f s.dev = e) :
    exec i s = .next { s with dev := e } := by
  rw [hexec, onDev, h]

section
variable {s : State} {c : BitVec 4} {i : Instr} {k j : Core} {b : Bool} {body : Core → Dev → Dev}

theorem run_of_next (h : Next s c k i b) : k.run = true := by
  obtain ⟨-, -, hat, -⟩ := h
  have hrun := issuing_of_atInstr hat
  simp only [Core.issuing, Bool.and_eq_true] at hrun
  obtain ⟨⟨⟨-, hrun⟩, -⟩, -⟩ := hrun
  have hfront := congrArg Seq.run (seq_front (s.dev.core c.toNat))
  rw [front_of_atInstr hat] at hfront
  exact hfront.trans hrun

/-- Nothing of the place of an instruction forbids it: it does what its body says. -/
theorem issue_of_next (h : Next s c k i b) :
    s.dev.issue c i b body =
      if ((body k (s.dev.setCore c.toNat k)).core c.toNat).run then (body k (s.dev.setCore c.toNat k)).setCore c.toNat
        (((body k (s.dev.setCore c.toNat k)).core c.toNat).done_ k)
      else body k (s.dev.setCore c.toNat k) := by
  obtain ⟨-, -, hat, hp⟩ := h
  simp only [Dev.issue, hat, hp]

/-- An instruction after which the core runs on. -/
theorem issue_ran {d : Dev} (h : Next s c k i b) (hbody : body k (s.dev.setCore c.toNat k) = d)
    (hrun : (d.core c.toNat).run = true) : s.dev.issue c i b body = d.setCore c.toNat ((d.core c.toNat).done_ k) := by
  rw [issue_of_next h, hbody, if_pos hrun]

/-- An instruction that changes its core only. -/
theorem issue_setCore (h : Next s c k i b) (hbody : body k (s.dev.setCore c.toNat k) = s.dev.setCore c.toNat j)
    (hrun : j.run = true) : s.dev.issue c i b body = s.dev.setCore c.toNat (j.done_ k) := by
  have hj := core_setCore_same s.dev c.toNat j h.1
  rw [issue_ran h hbody (by rwa [hj]), hj, setCore_setCore]

theorem branch_of_next {f : Core → Core} (h : Next s c k i true) (hrun : (f k).run = k.run) :
    s.dev.branch c i f = s.dev.setCore c.toNat ((f k).done_ k) := by
  refine issue_setCore h ?_ (hrun.trans (run_of_next h))
  rw [core_setCore_same _ _ _ h.1, setCore_setCore]

/-- Core `k` with a loop level of `n` passes up to `le` pushed, or, with none to make, past `le`. -/
def Core.looped (k : Core) (n : BitVec 16) (le : BitVec 14) : Core :=
  if n = 0 then { k with noIrq := 3, pc := le + 1 } else { ({ k with noIrq := 3 } : Core).push n le with pc := k.pc + 1 }

theorem repeat_of_next {count : Core → BitVec 16} {le : BitVec 14} (h : Next s c k i true) (hle : (k.pc + 1).toNat ≤ le.toNat)
    (hll : k.ll < 4) : s.dev.repeat_ c i count le = s.dev.setCore c.toNat ((k.looped (count k) le).done_ k) := by
  have hrun : (k.looped (count k) le).run = k.run := by
    unfold Core.looped
    split <;> rfl
  have hissue := issue_setCore (j := k.looped (count k) le) (body := fun k d =>
      let n := count k
      let u := d.core c.toNat
      let u := { u with noIrq := 3 }
      d.setCore c.toNat (if n = 0 then { u with pc := le + 1 } else { u.push n le with pc := u.pc + 1 })) h
    (by dsimp only; rw [core_setCore_same _ _ _ h.1, setCore_setCore]; rfl) (hrun.trans (run_of_next h))
  obtain ⟨-, -, hat, hp⟩ := h
  unfold Dev.repeat_
  simp only [hat, hp, if_neg (not_lt.mpr hle), if_neg (not_le.mpr hll)]
  exact hissue

theorem repeat_of_lt {count : Core → BitVec 16} {le : BitVec 14} (h : Next s c k i true) (hle : le.toNat < (k.pc + 1).toNat) :
    s.dev.repeat_ c i count le = s.dev.progFault c.toNat 2 := by
  obtain ⟨-, -, hat, hp⟩ := h
  simp only [Dev.repeat_, hat, hp, if_pos hle]

/-- What a repeat leaves and pushes. -/
theorem looped_spec (k : Core) (n : BitVec 16) (le : BitVec 14) (hll : k.ll < 4) :
    ((k.looped n le).done_ k).acc = k.acc ∧
      (if n = 0 then ((k.looped n le).done_ k).pc = le + 1 ∧ ((k.looped n le).done_ k).ll = k.ll ∧
          ((k.looped n le).done_ k).lc = k.lc ∧ ((k.looped n le).done_ k).ls = k.ls ∧ ((k.looped n le).done_ k).le = k.le
       else ((k.looped n le).done_ k).pc = k.pc + 1 ∧ ((k.looped n le).done_ k).ll = k.ll + 1 ∧
          ((k.looped n le).done_ k).lc = setAt k.lc k.ll n ∧ ((k.looped n le).done_ k).ls = setAt k.ls k.ll (k.pc + 1) ∧
          ((k.looped n le).done_ k).le = setAt k.le k.ll le) := by
  have hnext : k.ll + 1 < 8 := by omega
  unfold Core.looped
  by_cases hn : n = 0
  · rw [if_pos hn, if_pos hn]
    exact ⟨rfl, rfl, rfl, rfl, rfl, rfl⟩
  · rw [if_neg hn, if_neg hn]
    exact ⟨rfl, rfl, ll_setLl _ _ hnext, rfl, rfl, rfl⟩

end

/-- The core after a taken or missed branch: two more instructions, then the target or past the slots. -/
theorem branchTo_spec (k : Core) (taken : Bool) (target : BitVec 14) (n : Nat) :
    ((k.branchTo taken target n).done_ k).advance.pc = k.pc + 2 ∧
      ((k.branchTo taken target n).done_ k).advance.advance.pc = if taken then target else k.pc + 3 := by
  have hpc : k.pc + 1 + 1 = k.pc + 2 := by rw [add_assoc]; rfl
  exact ⟨hpc, rfl⟩

/-- What accepting the interrupt with number `n` saves, clears and sets. -/
theorem acceptIrq_spec {k : Core} {n : Nat} (hn : n < 4) (hsrc : k.irqSource = n) :
    k.acceptIrq.pc = BitVec.ofNat 14 (4 + 4 * n) ∧ k.acceptIrq.ipc = k.pc ∧ k.acceptIrq.icst = k.cst ∧
      k.acceptIrq.st cIE = false ∧ k.acceptIrq.st cLSUSP = true ∧ k.acceptIrq.ipend.getLsbD n = false ∧
      k.acceptIrq.waiting = false ∧ k.acceptIrq.acc = k.acc := by
  have hpc : 4 * (n + 1) = 4 + 4 * n := by omega
  have hbit : (k.ipend &&& ~~~ BitVec.ofNat 4 (2 ^ n)).getLsbD n = false := by
    rw [BitVec.getLsbD_and, BitVec.getLsbD_not, BitVec.getLsbD_ofNat, Nat.testBit_two_pow_self]
    simp [hn]
  unfold Core.acceptIrq
  rw [hsrc]
  extract_lets u v
  refine ⟨congrArg (BitVec.ofNat 14) hpc, rfl, rfl, ?_, st_setSt_same _ cLSUSP true (by decide), hbit, rfl, rfl⟩
  rw [st_setSt_other _ cLSUSP cIE true (by decide) (by decide), st_setSt_same _ cIE false (by decide)]

theorem exportCore_frame {d : Dev} {c : Nat} : BankFrame d (d.exportCore c) := .ite .refl .upd

/-- The interrupt with the lowest number of those pending and enabled is taken. -/
theorem irqSource_eq {k : Core} {n : Nat} (hn : n < 4) (h : (k.ipend &&& k.ien).getLsbD n = true)
    (hlow : ∀ m < n, (k.ipend &&& k.ien).getLsbD m = false) : k.irqSource = n := by
  unfold Core.irqSource
  rw [List.find?_range_eq_some.mpr ⟨h, List.mem_range.mpr hn, fun m hm => by rw [hlow m hm]; rfl⟩]
  rfl

/-- The core after LOPEN, found as `k`. -/
def Core.lopened (k : Core) : Core :=
  (({ k.advance with lopen := some (3, k.advance.ll, k.advance.st cLSUSP) } : Core).setLl 0).setSt cLSUSP false

theorem lopened_quiet {accs : List Nat} {k : Core} : k.Quiet accs k.lopened :=
  .trans .advance (.trans .upd (.trans .setLl (.upd fun b hb =>
    st_setSt_other _ cLSUSP b false (by decide) (by rintro rfl; exact absurd hb (by decide)))))

theorem lopened_seq (k : Core) : k.lopened.seq = { k.seq with pc := k.advance.pc } := by
  obtain ⟨pc, slots, lc, lopen, cst, hadv, -⟩ := advance_spec k
  unfold Core.lopened
  rw [hadv]
  rfl

theorem lopened_ll (k : Core) : k.lopened.ll = 0 :=
  (ll_setSt _ cLSUSP false (by decide) (by decide)).trans (ll_setLl _ 0 (by decide))

/-- A core that waits has left its store buffer empty and shows its block as done. -/
def Core.waitsAt (k : Core) (n : Nat) : Core :=
  { k with waiting := true, done := true, own := true, cyc := BitVec.ofNat 20 n, cycmax := BitVec.ofNat 20 (max n k.cycmax.toNat) }

theorem waitsAt_keeps (k before : Core) (n : Nat) : CoreKeeps k ((k.waitsAt n).done_ before) := by
  unfold Core.waitsAt Core.done_ CoreKeeps
  repeat constructor

theorem setDone_waiting {d : Dev} {c : Nat} {k : Core} (hc : c < d.chn.length) :
    ∃ n, CoreFrame c d ((d.setCore c { k with waiting := true }).setDone c) ∧
      ((d.setCore c { k with waiting := true }).setDone c).core c = k.waitsAt n := by
  refine ⟨min (((d.setCore c { k with waiting := true }).brt.tbase - k.cycNow).toNat * 4) 0xFFFFF, ?_, ?_⟩
  · exact .trans .setCore (.trans .setCore (.ofBank exportCore_frame))
  · refine (exportCore_frame.core c).trans ?_
    rw [core_setCore_same _ _ _ hc, core_setCore_same _ _ _ (by rwa [length_chn_setCore])]
    rfl

/-- WAITB's choice once the buffer is empty: on, late, past a block start that came, or a wait for it. -/
def Dev.waitOrGo (d : Dev) (c : Nat) : Dev :=
  let k := d.core c
  if k.est ≠ DRAINING && k.bsp then d.setCore c { k with bsp := false, pc := k.pc + 1, noIrq := 3 }
  else (d.setCore c { k with waiting := true }).setDone c

section
variable (c : BitVec 4) (s : State)

theorem exec_rep (count : Half) (le : BitVec 14) :
    exec (.rep c count le) s = onDev (fun d => d.repeat_ c (.rep c count le) (fun _ => count) le) s := rfl

theorem exec_repr (reg : BitVec 8) (le : BitVec 14) :
    exec (.repr c reg le) s = onDev (fun d => d.repeat_ c (.repr c reg le)
      (fun k => BitVec.ofNat 16 (k.readCode reg.toNat).1.toNat) le) s := rfl

theorem exec_lopen :
    exec (.lopen c) s = onDev (fun d => d.issue c (.lopen c) false
      (fun _ d => d.setCore c.toNat (d.core c.toNat).lopened)) s := rfl

theorem exec_syncp :
    exec (.syncp c) s = onDev (fun d => d.issue c (.syncp c) true (fun _ d =>
      d.setCore c.toNat { (d.core c.toNat).retire with pc := (d.core c.toNat).retire.pc + 1 })) s := rfl

theorem exec_waitb :
    exec (.waitb c) s =
      onDev (fun d => d.issue c (.waitb c) true (fun _ d => (d.drainAll c.toNat).waitOrGo c.toNat)) s := rfl

theorem exec_stop :
    exec (.stop c) s = onDev (fun d => d.issue c (.stop c) true (fun _ d => d.stopCore c.toNat 6)) s := rfl

theorem exec_interruptAccept :
    exec (.interruptAccept c) s =
      onDev (fun d => if (d.core c.toNat).canAccept then d.setCore c.toNat (d.core c.toNat).acceptIrq else d) s := rfl

end

theorem Core.Drained.wait {k j : Core} (h : k.Drained j) :
    j.est = k.est ∧ j.bsp = k.bsp ∧ j.waiting = k.waiting ∧ j.done = k.done ∧ j.pc = k.pc ∧ j.run = k.run := by
  obtain ⟨_, _, _, _, rfl, -⟩ := h
  exact ⟨rfl, rfl, rfl, rfl, rfl, rfl⟩

theorem Core.Drained.keeps {k j : Core} (h : k.Drained j) : CoreKeeps k j := (Core.Quiet.drained (accs := []) h).keeps

theorem waitOrGo_late {d : Dev} {c : Nat} (h : (d.core c).est ≠ 1) (hbsp : (d.core c).bsp = true) :
    d.waitOrGo c = d.setCore c { d.core c with bsp := false, pc := (d.core c).pc + 1, noIrq := 3 } :=
  if_pos (by rw [Bool.and_eq_true]; exact ⟨decide_eq_true h, hbsp⟩)

theorem waitOrGo_waits {d : Dev} {c : Nat} (h : (d.core c).bsp = false ∨ (d.core c).est = 1) :
    d.waitOrGo c = (d.setCore c { d.core c with waiting := true }).setDone c :=
  if_neg (by rw [Bool.and_eq_true]; rintro ⟨hest, hbsp⟩; exact h.elim (by simp [hbsp]) fun h => of_decide_eq_true hest h)

/-- Once its buffer is empty, core `k` that waits at WAITB has changed by drained stores only. -/
theorem drainAll_of_next {s : State} {c : BitVec 4} {i : Instr} {k : Core} {b : Bool} (h : Next s c k i b) :
    ∃ e, (s.dev.setCore c.toNat k).drainAll c.toNat = e ∧ CoreFrame c.toNat s.dev e ∧ c.toNat < e.chn.length ∧
      k.Drained (e.core c.toNat) ∧ (e.core c.toNat).sb = [] := by
  obtain ⟨hf, hd, hsb⟩ := drainAll_spec (d := s.dev.setCore c.toNat k) (by rw [length_chn_setCore]; exact h.1) h.2.1
  rw [core_setCore_same _ _ _ h.1] at hd
  have hframe : CoreFrame c.toNat s.dev _ := .trans .setCore hf
  exact ⟨_, rfl, hframe, by rw [hframe.size]; exact h.1, hd, hsb⟩

section
variable {s : State} {c : BitVec 4} {k : Core}

/-- WAITB past a block start that came: the core goes on, late. -/
theorem waitb_late (h : Next s c k (.waitb c) true) (hbsp : k.bsp = true) (hest : k.est ≠ 1) :
    ∃ e j, exec (.waitb c) s = .next { s with dev := e } ∧ CoreFrame c.toNat s.dev e ∧ k.Drained j ∧ j.sb = [] ∧
      e.core c.toNat = ({ j with bsp := false, pc := j.pc + 1, noIrq := 3 } : Core).done_ k := by
  obtain ⟨e, hdrain, hframe, hce, hd, hsb⟩ := drainAll_of_next h
  obtain ⟨hjest, hjbsp, -, -, -, hjrun⟩ := hd.wait
  have hgo := waitOrGo_late (d := e) (c := c.toNat) (by rwa [hjest]) (hjbsp.trans hbsp)
  have hissue := issue_ran h (body := fun _ d => (d.drainAll c.toNat).waitOrGo c.toNat)
    ((congrArg (Dev.waitOrGo · c.toNat) hdrain).trans hgo)
    (by rw [core_setCore_same _ _ _ hce]; exact hjrun.trans (run_of_next h))
  rw [core_setCore_same _ _ _ hce, setCore_setCore] at hissue
  exact ⟨_, _, exec_onDev (exec_waitb c s) hissue, hframe.trans .setCore, hd, hsb, core_setCore_same _ _ _ hce⟩

/-- WAITB before the block's start: the core waits there, done. -/
theorem waitb_waits (h : Next s c k (.waitb c) true) (hwait : k.bsp = false ∨ k.est = 1) :
    ∃ e j n, exec (.waitb c) s = .next { s with dev := e } ∧ CoreFrame c.toNat s.dev e ∧ k.Drained j ∧ j.sb = [] ∧
      e.core c.toNat = (j.waitsAt n).done_ k := by
  obtain ⟨e, hdrain, hframe, hce, hd, hsb⟩ := drainAll_of_next h
  obtain ⟨hjest, hjbsp, -, -, -, hjrun⟩ := hd.wait
  obtain ⟨n, hf, hcore⟩ := setDone_waiting (k := e.core c.toNat) hce
  have hgo := waitOrGo_waits (d := e) (c := c.toNat) (by rwa [hjbsp, hjest])
  have hissue := issue_ran h (body := fun _ d => (d.drainAll c.toNat).waitOrGo c.toNat)
    ((congrArg (Dev.waitOrGo · c.toNat) hdrain).trans hgo) (by rw [hcore]; exact hjrun.trans (run_of_next h))
  rw [hcore] at hissue
  exact ⟨_, _, n, exec_onDev (exec_waitb c s) hissue, hframe.trans (hf.trans .setCore), hd, hsb,
    core_setCore_same _ _ _ (by rwa [hf.size])⟩

theorem stop_acts (h : Next s c k (.stop c) true) (hsplit : s.dev.flt.split = []) (hdst : k.dst ≠ 3) :
    ∃ e, exec (.stop c) s = .next { s with dev := e } ∧ e.not = s.dev.not ∧ (e.core c.toNat).seq = { k.seq with
      run := false, dst := 2, sb := [], stopped := true, fcode := 6, fpc := k.pc } := by
  have hk := core_setCore_same s.dev c.toNat k h.1
  obtain ⟨hf, hseq⟩ := stopCore_spec (d := s.dev.setCore c.toNat k) (c := c.toNat) 6 (by rw [length_chn_setCore]; exact h.1)
    h.2.1 hsplit (by rw [hk]; exact run_of_next h) (by rwa [hk])
  rw [hk] at hseq
  have hissue := (issue_of_next h (body := fun _ d => d.stopCore c.toNat 6)).trans
    (if_neg (Bool.eq_false_iff.mp (congrArg Seq.run hseq)))
  exact ⟨_, exec_onDev (exec_stop c s) hissue, hf.not, hseq⟩

end

/-- Settles O28: each instruction is its change of the core it runs on; WAITB drains the buffer first, and STOP and a misplaced
repeat stop the core. -/
theorem controlInstructionsSequence : Obligations.ControlInstructionsSequence := by
  intro s c k hlen J jump
  have hc : c.toNat < s.dev.chn.length := by omega
  have changes : ∀ {i : Instr} {f : Dev → Dev} {j : Core}, exec i s = onDev f s → f s.dev = s.dev.setCore c.toNat j →
      ∃ t, exec i s = .next t ∧ J t = j ∧ OthersKeep s t c := fun hexec h =>
    ⟨_, exec_onDev hexec h, core_setCore_same _ _ _ hc, CoreFrame.setCore.othersKeep⟩
  have branches : ∀ {i : Instr} {f : Core → Core}, Next s c k i true → exec i s = onDev (fun d => d.branch c i f) s →
      (f k).run = k.run → ∃ t, exec i s = .next t ∧ J t = (f k).done_ k ∧ OthersKeep s t c := fun h hexec hrun =>
    changes hexec (branch_of_next h hrun)
  refine ⟨?_, ?_, ?_, ?_, ?_, ?_, ?_, ?_, ?_, ?_, ?_, ?_, ?_⟩
  · intro cond target h
    obtain ⟨t, ht, hJ, hothers⟩ := branches h rfl rfl
    refine ⟨t, ht, ?_⟩
    dsimp only [jump]
    rw [hJ]
    obtain ⟨h1, h2⟩ := branchTo_spec k (k.taken cond) target 3
    exact ⟨by repeat constructor, rfl, h1, h2, rfl, rfl, rfl, rfl, hothers⟩
  · intro target h
    obtain ⟨t, ht, hJ, hothers⟩ := branches h rfl rfl
    refine ⟨t, ht, ?_⟩
    dsimp only [jump]
    rw [hJ]
    obtain ⟨h1, h2⟩ := branchTo_spec { k with lr := k.pc + 3 } true target 3
    exact ⟨⟨rfl, h1, h2, rfl, rfl, rfl, rfl, hothers⟩, rfl⟩
  · intro cond h
    obtain ⟨t, ht, hJ, hothers⟩ := branches h rfl rfl
    refine ⟨t, ht, ?_⟩
    dsimp only [jump]
    rw [hJ]
    obtain ⟨h1, h2⟩ := branchTo_spec k (k.taken cond) k.lr 3
    exact ⟨by repeat constructor, rfl, h1, h2, rfl, rfl, rfl, rfl, hothers⟩
  · intro h
    obtain ⟨t, ht, hJ, hothers⟩ := branches h rfl rfl
    refine ⟨t, ht, ?_⟩
    dsimp only [jump]
    rw [hJ]
    obtain ⟨h1, h2⟩ := branchTo_spec k true k.ipc 4
    exact ⟨by repeat constructor, ⟨rfl, h1, h2, rfl, rfl, rfl, rfl, hothers⟩, rfl⟩
  · intro count le h hle hll
    obtain ⟨t, ht, hJ, hothers⟩ := changes (exec_rep c s count le) (repeat_of_next h hle hll)
    refine ⟨t, ht, hothers, ?_⟩
    rw [hJ]
    exact looped_spec k count le hll
  · intro reg le h hle hll count
    obtain ⟨t, ht, hJ, hothers⟩ := changes (exec_repr c s reg le) (repeat_of_next h hle hll)
    refine ⟨t, ht, hothers, ?_⟩
    rw [hJ]
    obtain ⟨hacc, hloop⟩ := looped_spec k count le hll
    refine ⟨hacc, ?_⟩
    by_cases hn : count = 0
    · rw [if_pos hn] at hloop ⊢
      obtain ⟨hpc, hll, hlc, -, -⟩ := hloop
      exact ⟨hpc, hll, hlc⟩
    · rw [if_neg hn] at hloop ⊢
      exact hloop
  · intro count le h hle hsplit hdst
    have hseq := progFault_spec 2 hc h.2.1 h.2.2.1 hsplit hdst
    have hfront := congrArg Seq.pc (seq_front (s.dev.core c.toNat))
    rw [front_of_atInstr h.2.2.1] at hfront
    refine ⟨_, exec_onDev (exec_rep c s count le) (repeat_of_lt h hle), ?_⟩
    generalize s.dev.progFault c.toNat 2 = e at hseq ⊢
    exact ⟨congrArg Seq.fcode hseq, congrArg Seq.stopped hseq, (congrArg Seq.fpc hseq).trans hfront.symm, congrArg Seq.run hseq⟩
  · intro h
    have hrun := (congrArg Seq.run (lopened_seq k)).trans (run_of_next h)
    obtain ⟨t, ht, hJ, hothers⟩ := changes (exec_lopen c s) (issue_setCore (j := k.lopened) h
      (by rw [core_setCore_same _ _ _ hc, setCore_setCore]) hrun)
    refine ⟨t, ht, ?_⟩
    rw [hJ]
    have hquiet := lopened_quiet (accs := []) (k := k)
    exact ⟨lopened_ll k, st_setSt_same _ cLSUSP false (by decide), hquiet.acc, hquiet.keeps, hothers⟩
  · intro h
    have hrun := (congrArg Seq.run (seq_retire k)).trans (run_of_next h)
    obtain ⟨t, ht, hJ, hothers⟩ := changes (exec_syncp c s) (issue_setCore (j := { k.retire with pc := k.retire.pc + 1 }) h
      (by rw [core_setCore_same _ _ _ hc, setCore_setCore]) hrun)
    refine ⟨t, ht, ?_⟩
    rw [hJ]
    exact ⟨congrArg (fun q : Seq => q.pc + 1) (seq_retire k), rfl, rfl, rfl, hothers⟩
  · intro h hbsp hest
    obtain ⟨e, j, hexec, hframe, hd, hsb, hJ⟩ := waitb_late h hbsp hest
    obtain ⟨-, -, hjwait, hjdone, hjpc, -⟩ := hd.wait
    refine ⟨_, hexec, ?_⟩
    dsimp only [J]
    rw [hJ]
    exact ⟨rfl, congrArg (· + 1) hjpc, hsb, hjwait, hjdone, coreKeeps_trans hd.keeps (by repeat constructor),
      hframe.othersKeep⟩
  · intro h hwait
    obtain ⟨e, j, n, hexec, hframe, hd, hsb, hJ⟩ := waitb_waits h hwait
    obtain ⟨-, -, -, -, hjpc, -⟩ := hd.wait
    refine ⟨_, hexec, ?_⟩
    dsimp only [J]
    rw [hJ]
    exact ⟨rfl, rfl, hjpc, hsb, coreKeeps_trans hd.keeps (waitsAt_keeps _ _ _), hframe.othersKeep⟩
  · intro h hsplit hdst
    obtain ⟨e, hexec, hnot, hseq⟩ := stop_acts h hsplit hdst
    exact ⟨_, hexec, congrArg Seq.stopped hseq, congrArg Seq.fcode hseq, congrArg Seq.fpc hseq, congrArg Seq.dst hseq,
      congrArg Seq.run hseq, congrArg Seq.sb hseq, hnot, rfl, rfl, rfl, rfl, rfl⟩
  · intro n haccept hn hpend hlow
    obtain ⟨t, ht, hJ, hothers⟩ := changes (exec_interruptAccept c s) (if_pos haccept)
    refine ⟨t, ht, ?_⟩
    rw [hJ]
    obtain ⟨hpc, hipc, hicst, hie, hlsusp, hipend, hwait, hacc⟩ := acceptIrq_spec hn (irqSource_eq hn hpend hlow)
    exact ⟨hpc, hipc, hicst, hie, hlsusp, hipend, hwait, hacc, hothers⟩

/-! ### Bytes of a word -/

theorem length_leBytes (n v : Nat) : (leBytes n v).length = n := by
  induction n generalizing v with
  | zero => rfl
  | succ n ih => exact congrArg Nat.succ (ih (v / 256))

theorem leNat_leBytes (n v : Nat) : leNat (leBytes n v) = v % 256 ^ n := by
  induction n generalizing v with
  | zero => rw [pow_zero, Nat.mod_one]; rfl
  | succ n ih =>
    rw [leBytes, leNat, ih, pow_succ', Nat.mod_mul, BitVec.toNat_ofNat]

theorem leBytes_leNat (l : List Byte) : leBytes l.length (leNat l) = l := by
  induction l with
  | nil => rfl
  | cons b t ih =>
    have hb : (b.toNat + 256 * leNat t) / 256 = leNat t := by omega
    have hb' : BitVec.ofNat 8 (b.toNat + 256 * leNat t) = b := by
      apply BitVec.eq_of_toNat_eq
      rw [BitVec.toNat_ofNat]
      omega
    rw [List.length_cons, leBytes, leNat, hb, hb', ih]

theorem leNat_lt (l : List Byte) : leNat l < 256 ^ l.length := by
  have h := leNat_leBytes l.length (leNat l)
  rw [leBytes_leNat] at h
  rw [h]
  exact Nat.mod_lt _ (Nat.pow_pos (by decide))

/-- The eight bytes of local word `w`. -/
def wordBytes (m : Sparse (BitVec 64)) (w : Nat) : List Byte := leBytes 8 (sget 0 w m).toNat

theorem length_wordBytes (m : Sparse (BitVec 64)) (w : Nat) : (wordBytes m w).length = 8 := length_leBytes _ _

theorem leNat_wordBytes (m : Sparse (BitVec 64)) (w : Nat) : leNat (wordBytes m w) = (sget 0 w m).toNat := by
  rw [wordBytes, leNat_leBytes]
  exact Nat.mod_eq_of_lt (sget 0 w m).isLt

/-- A word with the bytes `l`. -/
theorem wordBytes_sput (m : Sparse (BitVec 64)) (w : Nat) {l : List Byte} (h : l.length = 8) :
    wordBytes (sput 0 w (BitVec.ofNat 64 (leNat l)) m) w = l := by
  have hlt : leNat l < 2 ^ 64 := by
    have hlt := leNat_lt l
    rwa [h] at hlt
  rw [wordBytes, sget_sput_same, BitVec.toNat_ofNat, Nat.mod_eq_of_lt hlt, ← h, leBytes_leNat]

/-! ### Outside accesses -/

/-- What stands behind a place of a list stays when the place is replaced. -/
theorem drop_setAt {α : Type} {l : List α} {i n : Nat} (h : i < l.length) (v : α) (hn : i < n) :
    (setAt l i v).drop n = l.drop n := by
  have hlen : (l.take i).length = i := List.length_take_of_le h.le
  obtain ⟨r, rfl⟩ := Nat.exists_eq_add_of_lt hn
  rw [setAt_eq_take_cons_drop h, List.drop_append, List.drop_of_length_le (by omega), hlen, List.nil_append,
    show i + r + 1 - i = r + 1 by omega, List.drop_succ_cons, List.drop_drop]
  congr 1
  omega

/-- Bytes written from outside into word `w` of the X memory, from byte `j` on. -/
theorem outBytes_x (ag w : Nat) (l : List Byte) {j : Nat} (k : Core) (h : j + l.length ≤ 8) :
    ∃ m, k.outBytes ag .x (8 * w + j) l = { k with xm := m } ∧ (∀ i, i ≠ w → sget 0 i m = sget 0 i k.xm) ∧
      wordBytes m w = (wordBytes k.xm w).take j ++ l ++ (wordBytes k.xm w).drop (j + l.length) := by
  induction l generalizing j k with
  | nil => exact ⟨k.xm, rfl, fun _ _ => rfl, by simp⟩
  | cons b t ih =>
    rw [List.length_cons] at h
    have hdiv : (8 * w + j) / 8 = w := by omega
    have hmod : (8 * w + j) % 8 = j := by omega
    obtain ⟨m, hm, hother, hw⟩ := ih (j := j + 1) (k.outByte ag .x (8 * w + j) b) (by omega)
    have hlen : j < (wordBytes k.xm w).length := by rw [length_wordBytes]; omega
    have hput : wordBytes (k.outByte ag .x (8 * w + j) b).xm w = setAt (wordBytes k.xm w) j b := by
      unfold Core.outByte
      rw [hdiv, hmod]
      exact wordBytes_sput _ _ (by rw [setAt, List.length_modify, length_leBytes])
    refine ⟨m, hm, fun i hi => (hother i hi).trans ?_, ?_⟩
    · unfold Core.outByte
      rw [hdiv]
      exact sget_sput_other _ _ _ _ _ _ hi
    · rw [hw, hput, take_succ_setAt hlen, drop_setAt hlen _ (by omega), List.length_cons, List.append_assoc, List.append_assoc,
        Nat.add_right_comm, ← Nat.add_assoc, List.append_assoc]
      rfl

/-- A whole word of the X memory written from outside. -/
theorem outBytes_word (k : Core) (ag w : Nat) (v : BitVec 64) :
    ∃ m, k.outBytes ag .x (w * 8) (leBytes 8 v.toNat) = { k with xm := m } ∧
      ∀ i, sget 0 i m = if i = w then v else sget 0 i k.xm := by
  obtain ⟨m, hm, hother, hw⟩ := outBytes_x ag w (leBytes 8 v.toNat) (j := 0) k (by rw [length_leBytes])
  rw [Nat.mul_comm] at hm
  refine ⟨m, hm, fun i => ?_⟩
  by_cases hi : i = w
  · have hv := congrArg leNat hw
    rw [length_leBytes, List.take_zero, List.nil_append, List.drop_of_length_le (by rw [length_wordBytes]), List.append_nil,
      leNat_wordBytes, leNat_leBytes] at hv
    rw [if_pos hi, hi]
    exact BitVec.eq_of_toNat_eq (hv.trans (Nat.mod_eq_of_lt v.isLt))
  · rw [if_neg hi]
    exact hother i hi

/-- A whole word of the X memory read from outside. -/
theorem memByte_word (k : Core) (w : Nat) : (List.range 8).map (fun i => k.memByte .x (w * 8 + i)) = wordBytes k.xm w := by
  refine List.ext_getElem (by rw [List.length_map, List.length_range, length_wordBytes]) fun i hi hi' => ?_
  rw [length_wordBytes] at hi'
  have hdiv : (w * 8 + i) / 8 = w := by omega
  have hmod : (w * 8 + i) % 8 = i := by omega
  rw [List.getElem_map, List.getElem_range, Core.memByte, hdiv, hmod]
  exact List.getD_eq_getElem _ _ _

section
variable {s : State} {c : BitVec 4} {off : BitVec 18}

theorem outsideAccess_write (ag : Agent) (v : BitVec 64) (hlt : off.toNat < 0x10000) :
    exec (.outsideAccess ag c .x off true (some v)) s =
      onDev (fun d => (d.chnWrite ag c.toNat .x (off.toNat / 8 * 8) (leBytes 8 v.toNat)).1.tellDenied ag
        (d.chnWrite ag c.toNat .x (off.toNat / 8 * 8) (leBytes 8 v.toNat)).2) s :=
  congrArg (fun f => onDev f s) (funext fun _ => if_neg (show ¬ 0x10000 ≤ off.toNat / 8 * 8 by omega))

theorem outsideAccess_read (ag : Agent) (hlt : off.toNat < 0x10000) :
    exec (.outsideAccess ag c .x off true none) s =
      onDev (fun d => ({ d with hrp := { d.hrp with
        rdata := BitVec.ofNat 64 (leNat (d.chnRead c.toNat .x (off.toNat / 8 * 8) 8).1) } } : Dev).tellDenied ag
          (d.chnRead c.toNat .x (off.toNat / 8 * 8) 8).2) s :=
  congrArg (fun f => onDev f s) (funext fun _ => if_neg (show ¬ 0x10000 ≤ off.toNat / 8 * 8 by omega))

/-- A word written from outside into a powered core. -/
theorem outsideWrite_acts (ag : Agent) (v : BitVec 64) (hlt : off.toNat < 0x10000)
    (hpwr : (s.dev.core c.toNat).pwr = true) :
    ∃ m, exec (.outsideAccess ag c .x off true (some v)) s =
        .next { s with dev := s.dev.setCore c.toNat { s.dev.core c.toNat with xm := m } } ∧
      ∀ i, sget 0 i m = if i = off.toNat / 8 then v else sget 0 i (s.dev.core c.toNat).xm := by
  obtain ⟨m, hm, hw⟩ := outBytes_word (s.dev.core c.toNat) (agNum ag) (off.toNat / 8) v
  refine ⟨m, exec_onDev (outsideAccess_write ag v hlt) ?_, hw⟩
  rw [Dev.chnWrite, if_pos hpwr, hm]
  rfl

theorem outsideWrite_denied (v : BitVec 64) (hlt : off.toNat < 0x10000) (hpwr : (s.dev.core c.toNat).pwr = false) :
    exec (.outsideAccess .host c .x off true (some v)) s = .next { s with dev := s.dev.s HRP_STAT.BDENY 1 } := by
  refine exec_onDev (outsideAccess_write .host v hlt) ?_
  rw [Dev.chnWrite, if_neg (by rw [hpwr]; exact Bool.false_ne_true)]
  rfl

theorem outsideRead_acts (ag : Agent) (hlt : off.toNat < 0x10000) (hpwr : (s.dev.core c.toNat).pwr = true) :
    exec (.outsideAccess ag c .x off true none) s = .next { s with dev := { s.dev with hrp := { s.dev.hrp with
      rdata := sget 0 (off.toNat / 8) (s.dev.core c.toNat).xm } } } := by
  refine exec_onDev (outsideAccess_read ag hlt) ?_
  dsimp only
  rw [Dev.chnRead, if_pos hpwr, memByte_word, leNat_wordBytes, BitVec.ofNat_toNat, BitVec.setWidth_eq]
  rfl

end

/-! ### Drain, line fill and timeout -/

theorem drainOne_local {d : Dev} {c : Nat} {e : SbEnt} {tl : List SbEnt} (hc : c < d.chn.length) (hsb : (d.core c).sb = e :: tl)
    (hext : e.ext = none) :
    d.drainOne c = d.setCore c (Core.writeLocal { d.core c with sb := tl } e.ySpace e.addr e.wide e.val) := by
  unfold Dev.drainOne
  simp only [hsb, hext, core_setCore_same _ _ _ hc, setCore_setCore]

/-- A field stored as it stands leaves the register. -/
theorem putBits_bitsOf (w : Word) (hi lo : Nat) (hhi : hi < 32) (hlo : lo ≤ hi) : putBits w hi lo (bitsOf w.toNat hi lo) = w := by
  refine BitVec.eq_of_toNat_eq (Nat.eq_of_testBit_eq fun i => ?_)
  rw [putBits_testBit _ _ _ _ _ hhi hlo]
  split
  · rename_i h
    rw [bitsOf_testBit, decide_eq_true (by omega), Bool.true_and, Nat.add_sub_cancel' h.1]
  · rfl

/-- A counter that advances by none stays. -/
theorem reg_cnt_zero (d : Dev) (f : Fld) (i p : Nat) (hhi : f.hi < 32 := by decide) (hlo : f.lo ≤ f.hi := by decide) :
    (d.cnt f i 0).reg p = d.reg p := by
  have hlt := bitsOf_lt (d.reg (f.off i)).toNat f.hi f.lo
  rw [Dev.cnt, reg_s]
  split
  · rename_i h
    rw [Nat.add_zero, Dev.g, min_eq_left (by omega), putBits_bitsOf _ _ _ hhi hlo, h]
  · rfl

/-- A read of memory without a poisoned word changes no register. -/
theorem memRead_of_clean {d : Dev} (a n : Nat) (h : d.bnk.poison = []) :
    d.memRead a n = (d.cnt BNK_POISONRD 0 0, memBytes d.bnk.mem a n, false) := by
  have hnone : (wordsOf a n).filter (d.bnk.poison.contains ·) = [] := by
    rw [h]
    exact List.filter_eq_nil_iff.mpr fun _ _ => by simp
  unfold Dev.memRead
  rw [hnone]
  rfl

section
variable {d : Dev} {c row : Nat} {y : Bool}

theorem lineFill_granted (hmiss : (d.core c).miss y = some row) (hhand : d.bnk.hand = [])
    (hpoison : d.bnk.poison = []) (hmay : d.bankMay (2 + c) (bankOf row) false = true) :
    d.lineFill c y = (d.cnt BNK_POISONRD 0 0).setCore c
      (((d.core c).setMiss y none).setLine y (some (row, memBytes d.bnk.mem row 64))) := by
  have hrow : d.bnkRow (oChn c) row 64 = ⟨d.cnt BNK_POISONRD 0 0, memBytes d.bnk.mem row 64, false, false⟩ := by
    rw [bnkRow_of_hand d _ _ _ hhand, if_pos (show d.bankMay (oChn c) (bankOf row) false = true from hmay),
      memRead_of_clean _ _ hpoison]
  unfold Dev.lineFill
  simp only [hmiss, hrow]
  rfl

theorem lineFill_denied (hmiss : (d.core c).miss y = some row) (hhand : d.bnk.hand = [])
    (hmay : d.bankMay (2 + c) (bankOf row) false = false) :
    d.lineFill c y = (d.deny (bankOf row) (2 + c) false).setCore c
      ((((d.core c).setMiss y none).setDead y true).setSt cAERR true) := by
  have hrow : d.bnkRow (oChn c) row 64 = ⟨d.deny (bankOf row) (2 + c) false, List.replicate 64 0, true, false⟩ := by
    rw [bnkRow_of_hand d _ _ _ hhand]
    exact if_neg (by rw [show oChn c = 2 + c from rfl, hmay]; exact Bool.false_ne_true)
  have hcore : (d.deny (bankOf row) (2 + c) false).core c = d.core c := BankFrame.deny.core c
  unfold Dev.lineFill
  simp only [hmiss, hrow, hcore]
  rfl

theorem windowTimeout_eq (hmiss : (d.core c).miss y = some row) :
    d.windowTimeout c y = (d.setCore c ((((d.core c).setMiss y none).setDead y true).setSt cAERR true)).raise nCHN 1
      (c * 256 + bankOf row) := by
  unfold Dev.windowTimeout
  simp only [hmiss]

end

/-- A denied access is counted. -/
theorem g_deny (d : Dev) (b a : Nat) (wr : Bool) : (d.deny b a wr).g BNK_DENY = min (d.g BNK_DENY + 1) 0xFFFFFFFF := by
  unfold Dev.deny
  iterate 5 rw [g_s_reg _ _ _ _ _ _ (by decide)]
  exact g_cnt_same _ _ _ _

@[simp] theorem line_setLine (k : Core) (y : Bool) (l : Option (Nat × List Byte)) : (k.setLine y l).line y = l := by
  cases y <;> rfl

@[simp] theorem miss_setMiss (k : Core) (y : Bool) (m : Option Nat) : (k.setMiss y m).miss y = m := by cases y <;> rfl

@[simp] theorem miss_setLine (k : Core) (y z : Bool) (l : Option (Nat × List Byte)) : (k.setLine y l).miss z = k.miss z := by
  cases y <;> rfl

/-- The core whose access through a window has ended without its row. -/
theorem dead_spec (k : Core) (y : Bool) :
    (((k.setMiss y none).setDead y true).setSt cAERR true).dead y = true ∧
      (((k.setMiss y none).setDead y true).setSt cAERR true).st cAERR = true ∧
      (((k.setMiss y none).setDead y true).setSt cAERR true).miss y = none := by
  refine ⟨?_, st_setSt_same _ cAERR true (by decide), ?_⟩
  · cases y <;> rfl
  · cases y <;> rfl

/-- A notice raised leaves what `OthersKeep` names. -/
theorem othersKeep_raise {s : State} {c : BitVec 4} {e : Dev} (h : CoreFrame c.toNat s.dev e) (src code unit : Nat) :
    OthersKeep s { s with dev := e.raise src code unit } c := by
  have hcore : ∀ n, (e.raise src code unit).core n = e.core n := fun n =>
    congrArg (·.getD n Core.reset) (Dev.raise_chn e src code unit)
  refine ⟨fun n hn => (hcore n).trans (h.others n hn), ?_, ?_, ?_, ?_, ?_, rfl, rfl, rfl, rfl, rfl⟩
  · exact (Dev.raise_rda e src code unit).trans h.rda
  · exact (Dev.raise_evs e src code unit).trans h.evs
  · exact (Dev.raise_val e src code unit).trans h.val
  · exact (Dev.raise_bel e src code unit).trans h.bel
  · exact (Dev.raise_brt e src code unit).trans h.brt

/-! ### Register writes of a core -/

theorem mapped_core_row (c : BitVec 4) : ∀ o ∈ [0, 8, 0xC, 0x18], mapped (0x8000 + 0x800 * c.toNat + o) = true := by
  have h : ∀ n : Fin 16, ∀ o ∈ [0, 8, 0xC, 0x18], mapped (0x8000 + 0x800 * n.val + o) = true := by decide +kernel
  exact h c.toFin

theorem mapped_core_view (c : BitVec 4) {o : Nat} (hlo : 0x100 ≤ o) (hhi : o < 0x2C0) (h4 : o % 4 = 0) :
    mapped (0x8000 + 0x800 * c.toNat + o) = true := by
  have hc := c.isLt
  have hmod : (0x8000 + 0x800 * c.toNat + o) % 0x800 = o := by omega
  unfold mapped
  simp only [hmod, Bool.or_eq_true, Bool.and_eq_true, decide_eq_true_eq]
  exact .inr ⟨⟨⟨⟨by omega, by omega⟩, by omega⟩, hlo⟩, hhi⟩

/-- A write of `v` to the register of core `c` at offset `o`; one of CHN_CTL settles the run state again. -/
def Dev.coreWrite (d : Dev) (c o v : Nat) : Dev :=
  if o = 0 then (d.chnReg c o v).setCore c ((d.chnReg c o v).core c).sync else d.chnReg c o v

/-- A host write of one of core `c`'s registers in a running device. -/
theorem regWrite_core {s : State} {c : BitVec 4} {o : Nat} (v : Word) (hrun : s.dev.running = true)
    (hmap : mapped (0x8000 + 0x800 * c.toNat + o) = true) (ho : o < 0x800) :
    s.regWrite .host (0x8000 + 0x800 * c.toNat + o) v = { s with dev := s.dev.coreWrite c.toNat o v.toNat } := by
  have hc := c.isLt
  have hmay : s.dev.mayWrite .host (0x8000 + 0x800 * c.toNat + o) = true := by
    unfold Dev.mayWrite
    simp only [hrun, Bool.true_or]
  have hblk : 8 ≤ (0x8000 + 0x800 * c.toNat + o) / 0x1000 ∧ (0x8000 + 0x800 * c.toNat + o) / 0x1000 < 16 := by omega
  have hdev : s.dev.regWrite s.otp.wrapKey .host (0x8000 + 0x800 * c.toNat + o) v =
      s.dev.wrChn (0x8000 + 0x800 * c.toNat + o) v := by
    rw [Dev.regWrite, if_neg (by simp [hmay, hmap])]
    generalize 0x8000 + 0x800 * c.toNat + o = off at hblk ⊢
    obtain ⟨hlo, hhi⟩ := hblk
    generalize off / 0x1000 = n at hlo hhi ⊢
    interval_cases n <;> rfl
  have hcore : (0x8000 + 0x800 * c.toNat + o - 0x8000) / 0x800 = c.toNat := by omega
  have hoff : (0x8000 + 0x800 * c.toNat + o) % 0x800 = o := by omega
  rw [State.regWrite, if_neg (by simp [hmay, hmap]), if_neg (by omega), if_neg (by omega), if_neg (by omega), hdev]
  unfold Dev.wrChn
  simp only [hcore, hoff]
  rfl

/-! ### CHN_CTL -/

/-- The word of CHN_CTL by its fields. -/
theorem ctl_fields {w : Word} {m p r sp : Nat} (hm : m < 4) (hp : p < 2) (hr : r < 2) (hsp : sp < 2 ^ 14)
    (hw : w.toNat = m + 4 * p + 8 * r + sp * 2 ^ 16) :
    w.toNat % 4 = m ∧ bit w.toNat 2 = decide (p = 1) ∧ bit w.toNat 3 = decide (r = 1) ∧ bitsOf w.toNat 29 16 = sp := by
  unfold bit bitsOf
  simp only [Nat.testBit_eq_decide_div_mod_eq, Nat.shiftRight_eq_div_pow, decide_eq_decide]
  omega

/-- The word a host writes back to CHN_CTL with PWR 0, PWR 1 or RESTART. -/
theorem ctlWord_put (d : Dev) (c : BitVec 4) (v : Nat) (hv : v < 2) :
    (putBits (BitVec.ofNat 32 (d.chnCtlWord c)) 2 2 v).toNat =
      (d.core c.toNat).mst.toNat + 4 * v + 8 * 0 + (d.core c.toNat).startpc.toNat * 2 ^ 16 ∧
    (putBits (BitVec.ofNat 32 (d.chnCtlWord c)) 3 3 1).toNat =
      (d.core c.toNat).mst.toNat + 4 * b2n (d.core c.toNat).pwr + 8 * 1 + (d.core c.toNat).startpc.toNat * 2 ^ 16 := by
  have hm := (d.core c.toNat).mst.isLt
  have hs := (d.core c.toNat).startpc.isLt
  have hp : b2n (d.core c.toNat).pwr < 2 := by unfold b2n; split <;> decide
  unfold putBits bitsOf Dev.chnCtlWord
  simp only [BitVec.toNat_ofNat, Nat.shiftRight_eq_div_pow]
  omega

/-- Core `k` brought up, zeroed, unless it is powered. -/
def Core.on (k : Core) : Core := if k.pwr then k else { k.cleared with pwr := true }

theorem chnOn_eq (d : Dev) (c : Nat) : d.chnOn c = d.setCore c (d.core c).on := by
  unfold Dev.chnOn Core.on
  split
  · exact (setCore_core d c).symm
  · rfl

theorem on_mst (k : Core) : k.on.mst = k.mst := by
  unfold Core.on
  split <;> rfl

theorem manage_core (d : Dev) (c m : Nat) (hsplit : d.flt.split = []) :
    d.manage kCore c m = d.setCore c ({ d.core c with mst := BitVec.ofNat 2 m }).managed := by
  have hflt : ({ d with flt := { d.flt with split := [] } } : Dev) = d := by rw [← hsplit]
  unfold Dev.manage
  rw [hsplit]
  dsimp only [List.lookup, List.filter_nil]
  rw [hflt]
  rfl

/-- A core that is given the management state it has. -/
theorem manage_setCore {d : Dev} {c m : Nat} {k : Core} (hc : c < d.chn.length) (hsplit : d.flt.split = [])
    (hm : BitVec.ofNat 2 m = k.mst) : (d.setCore c k).manage kCore c m = d.setCore c k.managed := by
  have h := manage_core (d.setCore c k) c m hsplit
  rwa [core_setCore_same _ _ _ hc, setCore_setCore, hm] at h

section
variable {d : Dev} {c v : Nat}

/-- A write of CHN_CTL with PWR 0 that changes nothing else. -/
theorem chnCtl_off (hp : bit v 2 = false) (hr : bit v 3 = false)
    (hs : BitVec.ofNat 14 (bitsOf v 29 16) = (d.core c).startpc) : d.chnCtl c v = d.chnOff c := by
  unfold Dev.chnCtl
  simp only [hp, hr, hs, Bool.or_false, Bool.false_eq_true, if_false]
  exact congrArg (Dev.chnOff · c) (setCore_core d c)

/-- A write of CHN_CTL with PWR 1 and RESTART `r` that changes nothing else. -/
theorem coreWrite_on {r : Bool} (hc : c < d.chn.length) (hsplit : d.flt.split = []) (hp : bit v 2 = true) (hr : bit v 3 = r)
    (hs : BitVec.ofNat 14 (bitsOf v 29 16) = (d.core c).startpc) (hm : v % 4 = (d.core c).mst.toNat) :
    d.coreWrite c 0 v =
      d.setCore c (({ d.core c with restart := (d.core c).restart || r } : Core).on.managed.sync.sync) := by
  have hmst : BitVec.ofNat 2 (d.core c).mst.toNat =
      ({ d.core c with restart := (d.core c).restart || r } : Core).on.mst := by
    rw [on_mst, BitVec.ofNat_toNat, BitVec.setWidth_eq]
  have hctl : d.chnCtl c v =
      d.setCore c (({ d.core c with restart := (d.core c).restart || r } : Core).on.managed.sync) := by
    unfold Dev.chnCtl
    simp only [hp, hr, hs, hm, if_true]
    rw [chnOn_eq, core_setCore_same _ _ _ hc, setCore_setCore, manage_setCore hc hsplit hmst, core_setCore_same _ _ _ hc,
      setCore_setCore]
  have hreg : d.chnReg c 0 v = d.chnCtl c v := rfl
  rw [Dev.coreWrite, if_pos rfl, hreg, hctl, core_setCore_same _ _ _ hc, setCore_setCore]

end

/-! ### Power and restart -/

theorem sync_of_running {k : Core} (hpwr : k.pwr = true) (hmst : k.mst = 0) (hdst : k.dst = 0) (hrun : k.run = true)
    (hwait : (k.waiting && k.bsp) = false) : k.sync = k := by
  unfold Core.sync
  simp only [hpwr, hmst, hdst, hrun, hwait, decide_true, Bool.and_self, if_true, Bool.false_eq_true, if_false]

theorem sync_of_gated {k : Core} (hpwr : k.pwr = false) (hrun : k.run = false) : k.sync = k := by
  unfold Core.sync
  simp only [hpwr, hrun, Bool.false_and, Bool.false_eq_true, if_false]

/-- A core whose management state is not ENABLED settles its run state and keeps its states. -/
theorem sync_states {k : Core} (h : k.mst ≠ 0) : k.sync.mst = k.mst ∧ k.sync.dst = k.dst := by
  unfold Core.sync
  rw [if_neg (by simp only [decide_eq_false h, Bool.and_false, Bool.false_and, Bool.false_eq_true, not_false_eq_true])]
  split
  · exact ⟨rfl, rfl⟩
  · split
    · exact ⟨congrArg Seq.mst (seq_retire k), congrArg Seq.dst (seq_retire k)⟩
    · exact ⟨rfl, rfl⟩

theorem managed_states {k : Core} (h : k.mst ≠ 0) : k.managed.mst = k.mst ∧ k.managed.dst = k.dst := by
  unfold Core.managed
  rw [if_neg (by simp only [decide_eq_false h, Bool.and_false, Bool.false_and, Bool.false_eq_true, not_false_eq_true])]
  exact sync_states h

/-- A gated core: its memories and registers are empty, and its states stay, but ENABLED, DRAINING and DISABLED are DISABLED. -/
theorem chnOff_spec {d : Dev} {c : Nat} (hc : c < d.chn.length) (hhand : d.bnk.hand = []) :
    CoreFrame c d (d.chnOff c) ∧ ∃ j : Core, (d.chnOff c).core c = { j.cleared with pwr := false } ∧
      j.mst = (if (d.core c).mst = 3 then 3 else 2) ∧ j.dst = (d.core c).dst := by
  have hput : ∃ k, (if (d.core c).mst = 3 then d else d.putMst kCore c DISABLED) = d.setCore c k ∧
      k.mst = (if (d.core c).mst = 3 then 3 else 2) ∧ k.dst = (d.core c).dst := by
    split
    · rename_i h
      exact ⟨d.core c, (setCore_core d c).symm, h, rfl⟩
    · exact ⟨({ d.core c with mst := 2 } : Core).managed, rfl, managed_states (k := { d.core c with mst := 2 })
        (show (2 : BitVec 2) ≠ 0 by decide)⟩
  obtain ⟨k, hk, hmst, hdst⟩ := hput
  have hcore := core_setCore_same d c k hc
  have hdrain : ∃ e, (if ((d.setCore c k).core c).pwr then (d.setCore c k).drainAll c else d.setCore c k) = e ∧
      CoreFrame c d e ∧ (e.core c).mst = k.mst ∧ (e.core c).dst = k.dst := by
    split
    · obtain ⟨hf, hd, -⟩ := drainAll_spec (d := d.setCore c k) (c := c) (by rwa [length_chn_setCore]) hhand
      rw [hcore] at hd
      exact ⟨_, rfl, .trans .setCore hf, congrArg Seq.mst hd.seq, congrArg Seq.dst hd.seq⟩
    · exact ⟨_, rfl, .setCore, congrArg Core.mst hcore, congrArg Core.dst hcore⟩
  obtain ⟨e, he, hframe, hemst, hedst⟩ := hdrain
  have hoff : d.chnOff c = e.setCore c { (e.core c).cleared with pwr := false } := by
    unfold Dev.chnOff
    rw [hk]
    dsimp only
    rw [he]
  rw [hoff]
  exact ⟨hframe.trans .setCore, e.core c, core_setCore_same _ _ _ (by rwa [hframe.size]), hemst.trans hmst, hedst.trans hdst⟩

theorem coreWrite_off {d : Dev} {c v : Nat} (hc : c < d.chn.length) (hhand : d.bnk.hand = []) (hp : bit v 2 = false)
    (hr : bit v 3 = false) (hs : BitVec.ofNat 14 (bitsOf v 29 16) = (d.core c).startpc) : d.coreWrite c 0 v = d.chnOff c := by
  obtain ⟨-, j, hj, -, -⟩ := chnOff_spec hc hhand
  have hreg : d.chnReg c 0 v = d.chnOff c := chnCtl_off hp hr hs
  have hsync : ((d.chnOff c).core c).sync = (d.chnOff c).core c := by
    rw [hj]
    exact sync_of_gated rfl rfl
  rw [Dev.coreWrite, if_pos rfl, hreg, hsync]
  exact setCore_core _ _

/-- A powered core whose memories and accumulators are zero and on whose way nothing is. -/
structure Core.Blank (m : BitVec 2) (k : Core) : Prop where
  pwr : k.pwr = true
  xm : k.xm = []
  ym : k.ym = []
  pm : k.pm = []
  acc : k.acc = List.replicate 8 0
  mst : k.mst = m
  pend : k.pend = []
  loopPend : k.loopPend = []
  pmPend : k.pmPend = []

namespace Core.Blank
variable {m : BitVec 2} {k : Core}

theorem on (h : k.pwr = false) : Blank k.mst k.on := by
  unfold Core.on
  rw [if_neg (by rw [h]; exact Bool.false_ne_true)]
  exact ⟨rfl, rfl, rfl, rfl, rfl, rfl, rfl, rfl, rfl⟩

theorem retire (h : k.Blank m) : k.retire.Blank m := by
  unfold Core.retire
  rw [h.pend, h.loopPend, h.pmPend]
  exact ⟨h.pwr, h.xm, h.ym, h.pm, h.acc, h.mst, rfl, rfl, rfl⟩

theorem restarted (h : k.Blank m) : k.restarted.Blank m :=
  ⟨h.pwr, h.xm, h.ym, h.pm, h.acc, h.mst, h.pend, h.loopPend, h.pmPend⟩

/-- The run state of a blank core is set and its block start taken. -/
theorem upd (h : k.Blank m) {run waiting stalled bsp xdead ydead pc xmiss ymiss dst} :
    ({ k with run := run, waiting := waiting, stalled := stalled, bsp := bsp, xdead := xdead, ydead := ydead, pc := pc,
              xmiss := xmiss, ymiss := ymiss, dst := dst } : Core).Blank m :=
  ⟨h.pwr, h.xm, h.ym, h.pm, h.acc, h.mst, h.pend, h.loopPend, h.pmPend⟩

theorem sync (h : k.Blank m) : k.sync.Blank m := by
  unfold Core.sync
  split
  · split
    · split
      · exact h.upd
      · exact h
    · split
      · exact h.restarted.upd
      · exact h.upd
  · split
    · exact h
    · split
      · exact h.retire.upd
      · exact h

theorem managed (h : k.Blank m) : k.managed.Blank m := by
  unfold Core.managed
  split
  · exact h.upd.sync
  · exact h.sync

end Core.Blank

/-- Core `k` restarted from DISABLED: it runs from STARTPC. -/
def Core.started (k : Core) : Core :=
  { ({ k with dst := 0 } : Core).restarted with run := true, waiting := false, stalled := false, xmiss := none, ymiss := none }

theorem managed_of_stopped {k : Core} (hpwr : k.pwr = true) (hmst : k.mst = 0) (hdst : k.dst = 2) (hrun : k.run = false)
    (hrestart : k.restart = true) : k.managed = k.started := by
  have hsync : ({ k with dst := 0 } : Core).sync = k.started := by
    unfold Core.sync
    rw [if_pos (by simp [hpwr, hmst]), if_neg (by simp [hrun])]
    dsimp only
    rw [if_pos hrestart]
    rfl
  unfold Core.managed
  rw [if_pos (by simp [hpwr, hmst, hdst, hrun, hrestart]), hsync]

/-- What a restart sets; CST is left without LL, LSUSP and IE. -/
theorem restarted_eq (k : Core) :
    ∃ cst dst, k.restarted = { k with
      restart := false, pc := k.startpc, ipend := 0, done := true, own := false, bsp := false, stopped := false, fcode := 0,
      slots := 0, slotRti := false, noIrq := 0, dst := dst, cst := cst } ∧ dst = if k.dst = 2 then 0 else k.dst :=
  ⟨_, _, rfl, rfl⟩

/-- What a restarted core shows. -/
theorem started_spec (k : Core) :
    k.started.restart = false ∧ k.started.pc = k.startpc ∧ k.started.run = true ∧ k.started.dst = 0 ∧
      k.started.stopped = false ∧ k.started.fcode = 0 ∧ k.started.ipend = 0 ∧ k.started.acc = k.acc ∧
      k.started.waiting = false ∧ k.started.pwr = k.pwr ∧ k.started.mst = k.mst := by
  obtain ⟨cst, dst, h, hdst⟩ := restarted_eq { k with dst := 0 }
  rw [ite_self] at hdst
  unfold Core.started
  rw [h, hdst]
  exact ⟨rfl, rfl, rfl, rfl, rfl, rfl, rfl, rfl, rfl, rfl, rfl⟩

/-! ### The register view -/

/-- One half of a word replaced: that half is the new one, the other stays. -/
theorem part_putPart {n i j v : Nat} (hn : n < 2 ^ 64) (hi : i < 2) (hj : j < 2) :
    putPart n i v % 2 ^ 64 / 2 ^ (j * 32) % 2 ^ 32 = if j = i then v % 2 ^ 32 else n / 2 ^ (j * 32) % 2 ^ 32 := by
  unfold putPart
  interval_cases i <;> interval_cases j <;> norm_num <;> omega

/-- The half of a register of `l` that a view shows at offset `o` of it. -/
def partAt (l : List (BitVec 64)) (o : Nat) : Nat := (l.getD (o / 8) 0).toNat / 2 ^ (o % 8 / 4 * 32) % 2 ^ 32

/-- The registers `l` with the half at offset `o` written through the view. -/
def putAt (l : List (BitVec 64)) (o v : Nat) : List (BitVec 64) :=
  l.modify (o / 8) fun w => BitVec.ofNat 64 (putPart w.toNat (o % 8 / 4) v)

theorem partAt_putAt {l : List (BitVec 64)} {o p v : Nat} (ho : o / 8 < l.length) (ho4 : o % 4 = 0) (hp4 : p % 4 = 0) :
    partAt (putAt l o v) p = if p = o then v % 2 ^ 32 else partAt l p := by
  unfold partAt putAt
  rw [List.getD_eq_getElem?_getD, List.getElem?_modify, List.getD_eq_getElem?_getD]
  by_cases hpo : o / 8 = p / 8
  · have hget : l[p / 8]? = some l[p / 8] := List.getElem?_eq_getElem (by omega)
    have hpart := part_putPart (n := (l[p / 8]).toNat) (i := o % 8 / 4) (j := p % 8 / 4) (v := v) (l[p / 8]).isLt
      (by omega) (by omega)
    simp only [hget, Option.map_eq_map, Option.map_some, Option.getD_some, if_pos hpo, BitVec.toNat_ofNat, hpart]
    exact if_congr (by omega) rfl rfl
  · have hne : p ≠ o := fun h => hpo (by rw [h])
    simp only [if_neg hpo, if_neg hne, Option.map_eq_map, Option.map_id_fun', id]

theorem view_x (k : Core) {o : Nat} (hlo : 0x200 ≤ o) (hhi : o < 0x220) : k.view o = partAt k.x (o - 0x200) := by
  have hmod : (o - 0x200) % 8 = o % 8 := by omega
  unfold Core.view partAt
  rw [hmod]
  iterate 10 rw [if_neg (by omega)]
  iterate 6 rw [if_neg (by simp; omega)]
  rw [if_pos (by simp; omega)]

theorem view_y (k : Core) {o : Nat} (hlo : 0x220 ≤ o) (hhi : o < 0x240) : k.view o = partAt k.y (o - 0x220) := by
  have hmod : (o - 0x220) % 8 = o % 8 := by omega
  unfold Core.view partAt
  rw [hmod]
  iterate 10 rw [if_neg (by omega)]
  iterate 7 rw [if_neg (by simp; omega)]
  rw [if_pos (by simp; omega)]

theorem view_of_x (k : Core) (l : List (BitVec 64)) {o : Nat} (h : ¬ (0x200 ≤ o ∧ o < 0x220)) :
    ({ k with x := l } : Core).view o = k.view o := by
  have hx : (decide (0x200 ≤ o) && decide (o < 0x220)) = false := by simpa using h
  unfold Core.view
  simp only [hx, Bool.false_eq_true, if_false]

theorem view_of_y (k : Core) (l : List (BitVec 64)) {o : Nat} (h : ¬ (0x220 ≤ o ∧ o < 0x240)) :
    ({ k with y := l } : Core).view o = k.view o := by
  have hy : (decide (0x220 ≤ o) && decide (o < 0x240)) = false := by simpa using h
  unfold Core.view
  simp only [hy, Bool.false_eq_true, if_false]

theorem viewWrite_x (k : Core) {o v : Nat} (hlo : 0x200 ≤ o) (hhi : o < 0x220) :
    k.viewWrite o v = { k with x := putAt k.x (o - 0x200) v } := by
  have hmod : (o - 0x200) % 8 = o % 8 := by omega
  unfold Core.viewWrite putAt
  rw [hmod]
  dsimp only
  iterate 10 rw [if_neg (by omega)]
  iterate 6 rw [if_neg (by simp; omega)]
  rw [if_pos (by simp; omega)]

theorem viewWrite_y (k : Core) {o v : Nat} (hlo : 0x220 ≤ o) (hhi : o < 0x240) :
    k.viewWrite o v = { k with y := putAt k.y (o - 0x220) v } := by
  have hmod : (o - 0x220) % 8 = o % 8 := by omega
  unfold Core.viewWrite putAt
  rw [hmod]
  dsimp only
  iterate 10 rw [if_neg (by omega)]
  iterate 7 rw [if_neg (by simp; omega)]
  rw [if_pos (by simp; omega)]

/-- A view write of half an operand register shows there, and nowhere else. -/
theorem viewWrite_spec (k : Core) {o v : Nat} (hlo : 0x200 ≤ o) (hhi : o < 0x240) (h4 : o % 4 = 0) (hx : k.x.length = 4)
    (hy : k.y.length = 4) :
    (k.viewWrite o v).acc = k.acc ∧
      ∀ p, p % 4 = 0 → (k.viewWrite o v).view p = if p = o then v % 2 ^ 32 else k.view p := by
  by_cases ho : o < 0x220
  · rw [viewWrite_x k hlo ho]
    refine ⟨rfl, fun p hp4 => ?_⟩
    by_cases hp : 0x200 ≤ p ∧ p < 0x220
    · rw [view_x _ hp.1 hp.2, view_x k hp.1 hp.2, partAt_putAt (by omega) (by omega) (by omega)]
      exact if_congr (by omega) rfl rfl
    · rw [view_of_x k _ hp, if_neg (by omega)]
  · rw [viewWrite_y k (by omega) hhi]
    refine ⟨rfl, fun p hp4 => ?_⟩
    by_cases hp : 0x220 ≤ p ∧ p < 0x240
    · rw [view_y _ hp.1 hp.2, view_y k hp.1 hp.2, partAt_putAt (by omega) (by omega) (by omega)]
      exact if_congr (by omega) rfl rfl
    · rw [view_of_y k _ hp, if_neg (by omega)]

section
variable {s : State} {c : BitVec 4} (hc : c.toNat < s.dev.chn.length)
include hc

/-- A step that replaces core `c` and nothing else of the device but registers and banks. -/
theorem core_acts {i : Instr} {d : Dev} {j : Core} (hexec : exec i s = .next { s with dev := d.setCore c.toNat j })
    (hf : BankFrame s.dev d) :
    ∃ t, exec i s = .next t ∧ t.dev.core c.toNat = j ∧ (∀ o, t.dev.reg o = d.reg o) ∧ OthersKeep s t c :=
  ⟨_, hexec, core_setCore_same _ _ _ (by rwa [hf.chn]), fun _ => rfl, (CoreFrame.trans (.ofBank hf) .setCore).othersKeep⟩

/-- A host write of a register of core `c` that replaces the core. -/
theorem write_acts {i : Instr} {o : Nat} {v : Word} {j : Core} (hrun : s.dev.running = true)
    (hexec : exec i s = .next (s.regWrite .host (0x8000 + 0x800 * c.toNat + o) v))
    (hmap : mapped (0x8000 + 0x800 * c.toNat + o) = true) (ho : o < 0x800)
    (hwrite : s.dev.coreWrite c.toNat o v.toNat = s.dev.setCore c.toNat j) :
    ∃ t, exec i s = .next t ∧ t.dev.core c.toNat = j ∧ OthersKeep s t c := by
  rw [regWrite_core v hrun hmap ho, hwrite] at hexec
  exact ⟨_, hexec, core_setCore_same _ _ _ hc, CoreFrame.setCore.othersKeep⟩

end

theorem core_raise (d : Dev) (src code unit n : Nat) : (d.raise src code unit).core n = d.core n :=
  congrArg (·.getD n Core.reset) (Dev.raise_chn d src code unit)

theorem chnReg_view (d : Dev) (c v : Nat) {o : Nat} (hlo : 0x100 ≤ o) (hhi : o < 0x2C0) : d.chnReg c o v = d.chnView c o v := by
  unfold Dev.chnReg
  dsimp only
  iterate 6 rw [if_neg (by omega)]
  rw [if_pos (by simp; omega)]

theorem winMask_eq (v : Word) : winMask v.toNat = v &&& 0x1FE0000 := by
  apply BitVec.eq_of_toNat_eq
  rw [winMask, BitVec.toNat_ofNat, BitVec.toNat_and]
  exact Nat.mod_eq_of_lt (lt_of_le_of_lt Nat.and_le_left v.isLt)

/-- A core that is kept running by a request to restart it goes on as it was. -/
theorem managed_of_running {k : Core} (hpwr : k.pwr = true) (hmst : k.mst = 0) (hdst : k.dst = 0) (hrun : k.run = true)
    (hwait : (k.waiting && k.bsp) = false) : k.managed = k := by
  unfold Core.managed
  rw [if_neg (by simp [hrun])]
  exact sync_of_running hpwr hmst hdst hrun hwait

section
variable (c : BitVec 4) (y : Bool) (s : State)

theorem exec_storeBufferDrain : exec (.storeBufferDrain c) s = onDev (fun d => d.drainOne c.toNat) s := rfl

theorem exec_windowLineFill : exec (.windowLineFill c y) s = onDev (fun d => d.lineFill c.toNat y) s := rfl

theorem exec_windowTimeout : exec (.windowTimeout c y) s = onDev (fun d => d.windowTimeout c.toNat y) s := rfl

end

theorem ofNat_startpc (k : Core) : BitVec.ofNat 14 k.startpc.toNat = k.startpc := by
  rw [BitVec.ofNat_toNat, BitVec.setWidth_eq]

/-- A core that is powered stays so when it is brought up. -/
theorem on_of_powered {k : Core} (h : k.pwr = true) : k.on = k := if_pos h

section
variable {s : State} {c : BitVec 4} (hc : c.toNat < s.dev.chn.length) (hrun : s.dev.running = true)
include hc hrun

theorem powerOff_acts (hhand : s.dev.bnk.hand = []) :
    exec (.chnPowerOff .host c) s = .next { s with dev := s.dev.chnOff c.toNat } := by
  obtain ⟨hw, -⟩ := ctlWord_put s.dev c 0 (by decide)
  obtain ⟨-, hp, hr, hs⟩ := ctl_fields (p := 0) (r := 0) (s.dev.core c.toNat).mst.isLt (by decide) (by decide)
    (s.dev.core c.toNat).startpc.isLt hw
  have hwrite := regWrite_core (o := 0) (putBits (BitVec.ofNat 32 (s.dev.chnCtlWord c)) 2 2 0) hrun
    (mapped_core_row c 0 (by decide)) (by decide)
  rw [coreWrite_off hc hhand hp hr (by rw [hs, ofNat_startpc])] at hwrite
  exact congrArg Host.Outcome.next hwrite

theorem powerOn_acts (hsplit : s.dev.flt.split = []) :
    ∃ t, exec (.chnPowerOn .host c) s = .next t ∧ t.dev.core c.toNat = (s.dev.core c.toNat).on.managed.sync.sync ∧
      OthersKeep s t c := by
  obtain ⟨hw, -⟩ := ctlWord_put s.dev c 1 (by decide)
  obtain ⟨hm, hp, hr, hs⟩ := ctl_fields (p := 1) (r := 0) (s.dev.core c.toNat).mst.isLt (by decide) (by decide)
    (s.dev.core c.toNat).startpc.isLt hw
  have hwrite := coreWrite_on hc hsplit hp hr (by rw [hs, ofNat_startpc]) hm
  simp only [decide_false, Bool.or_false, Nat.zero_ne_one] at hwrite
  exact write_acts (o := 0) hc hrun rfl (mapped_core_row c 0 (by decide)) (by decide) hwrite

theorem restart_acts (hsplit : s.dev.flt.split = []) (hpwr : (s.dev.core c.toNat).pwr = true) :
    ∃ t, exec (.restart .host c) s = .next t ∧
      t.dev.core c.toNat = ({ s.dev.core c.toNat with restart := true } : Core).managed.sync.sync ∧ OthersKeep s t c := by
  obtain ⟨-, hw⟩ := ctlWord_put s.dev c 1 (by decide)
  rw [hpwr] at hw
  obtain ⟨hm, hp, hr, hs⟩ := ctl_fields (p := 1) (r := 1) (s.dev.core c.toNat).mst.isLt (by decide) (by decide)
    (s.dev.core c.toNat).startpc.isLt hw
  have hwrite := coreWrite_on hc hsplit hp hr (by rw [hs, ofNat_startpc]) hm
  simp only [decide_true, Bool.or_true] at hwrite
  have hon : ({ s.dev.core c.toNat with restart := true } : Core).on = { s.dev.core c.toNat with restart := true } :=
    on_of_powered hpwr
  rw [hon] at hwrite
  exact write_acts (o := 0) hc hrun rfl (mapped_core_row c 0 (by decide)) (by decide) hwrite

/-- A restart asked of a running core waits. -/
theorem restart_waits (hsplit : s.dev.flt.split = []) (hpwr : (s.dev.core c.toNat).pwr = true)
    (hmst : (s.dev.core c.toNat).mst = 0) (hdst : (s.dev.core c.toNat).dst = 0) (hkrun : (s.dev.core c.toNat).run = true)
    (hwait : ((s.dev.core c.toNat).waiting && (s.dev.core c.toNat).bsp) = false) :
    ∃ t, exec (.restart .host c) s = .next t ∧ t.dev.core c.toNat = { s.dev.core c.toNat with restart := true } ∧
      OthersKeep s t c := by
  obtain ⟨t, ht, hJ, hothers⟩ := restart_acts hc hrun hsplit hpwr
  have hmanaged := managed_of_running (k := { s.dev.core c.toNat with restart := true }) hpwr hmst hdst hkrun hwait
  have hsync := sync_of_running (k := { s.dev.core c.toNat with restart := true }) hpwr hmst hdst hkrun hwait
  rw [hmanaged, hsync, hsync] at hJ
  exact ⟨t, ht, hJ, hothers⟩

/-- A restart asked of a stopped core starts it. -/
theorem restart_starts (hsplit : s.dev.flt.split = []) (hpwr : (s.dev.core c.toNat).pwr = true)
    (hmst : (s.dev.core c.toNat).mst = 0) (hdst : (s.dev.core c.toNat).dst = 2) (hkrun : (s.dev.core c.toNat).run = false) :
    ∃ t, exec (.restart .host c) s = .next t ∧
      t.dev.core c.toNat = ({ s.dev.core c.toNat with restart := true } : Core).started ∧ OthersKeep s t c := by
  obtain ⟨t, ht, hJ, hothers⟩ := restart_acts hc hrun hsplit hpwr
  have hmanaged := managed_of_stopped (k := { s.dev.core c.toNat with restart := true }) hpwr hmst hdst hkrun rfl
  obtain ⟨-, -, hrun', hdst', -, -, -, -, hwaiting, hpwr', hmst'⟩ := started_spec { s.dev.core c.toNat with restart := true }
  have hsync := sync_of_running (hpwr'.trans hpwr) (hmst'.trans hmst) hdst' hrun' (by rw [hwaiting, Bool.false_and])
  rw [hmanaged, hsync, hsync] at hJ
  exact ⟨t, ht, hJ, hothers⟩

theorem door_acts :
    ∃ t, exec (.door .host c) s = .next t ∧
      t.dev.core c.toNat = { s.dev.core c.toNat with ipend := (s.dev.core c.toNat).ipend ||| 2 } ∧ OthersKeep s t c := by
  have hoff : 0x8018 + 0x800 * c.toNat = 0x8000 + 0x800 * c.toNat + 0x18 := by omega
  exact write_acts (o := 0x18) (v := 1) hc hrun (by rw [← hoff]; rfl) (mapped_core_row c 0x18 (by decide)) (by decide) rfl

theorem windowWrite_acts (y : Bool) (v : Word) :
    ∃ t, exec (.chnWindowWrite .host c y v) s = .next t ∧
      t.dev.core c.toNat = (if y then { s.dev.core c.toNat with ywin := v &&& 0x1FE0000, yline := none }
        else { s.dev.core c.toNat with xwin := v &&& 0x1FE0000, xline := none }) ∧ OthersKeep s t c := by
  rw [← winMask_eq]
  cases y with
  | false =>
    have hoff : 0x8008 + 0x800 * c.toNat = 0x8000 + 0x800 * c.toNat + 8 := by omega
    exact write_acts (o := 8) (v := v) hc hrun (by rw [← hoff]; rfl) (mapped_core_row c 8 (by decide)) (by decide) rfl
  | true =>
    have hoff : 0x800C + 0x800 * c.toNat = 0x8000 + 0x800 * c.toNat + 0xC := by omega
    exact write_acts (o := 0xC) (v := v) hc hrun (by rw [← hoff]; rfl) (mapped_core_row c 0xC (by decide)) (by decide) rfl

/-- A write of the register view: ignored while the core runs. -/
theorem viewWrite_acts {off : BitVec 11} (v : Word) (hlo : 0x100 ≤ off.toNat) (hhi : off.toNat < 0x2C0)
    (h4 : off.toNat % 4 = 0) :
    ((s.dev.core c.toNat).run = true → exec (.coreRegisterViewWrite .host c off v) s = .next s) ∧
      ((s.dev.core c.toNat).run = false → (s.dev.core c.toNat).pwr = true →
        ∃ t, exec (.coreRegisterViewWrite .host c off v) s = .next t ∧
          t.dev.core c.toNat = (s.dev.core c.toNat).viewWrite off.toNat v.toNat ∧ OthersKeep s t c) := by
  have hmap := mapped_core_view c hlo hhi h4
  have hexec : exec (.coreRegisterViewWrite .host c off v) s =
      .next (s.regWrite .host (0x8000 + 0x800 * c.toNat + off.toNat) v) := if_pos hlo
  have hwrite : s.dev.coreWrite c.toNat off.toNat v.toNat =
      if (s.dev.core c.toNat).pwr && !(s.dev.core c.toNat).run then
        s.dev.setCore c.toNat ((s.dev.core c.toNat).viewWrite off.toNat v.toNat) else s.dev := by
    rw [Dev.coreWrite, if_neg (by omega), chnReg_view _ _ _ hlo hhi]
    rfl
  refine ⟨fun hkrun => ?_, fun hkrun hpwr => ?_⟩
  · rw [hexec, regWrite_core v hrun hmap (by omega), hwrite, if_neg (by simp [hkrun])]
  · rw [if_pos (by simp [hkrun, hpwr])] at hwrite
    exact write_acts hc hrun hexec hmap (by omega) hwrite

end

/-- Settles O30: each command is one change of the core it names, with its read or denial of a bank, its notice or its register
write beside it. -/
theorem coresAreReachedFromOutside : Obligations.CoresAreReachedFromOutside := by
  intro s c hlen hhand k J
  have hc : c.toNat < s.dev.chn.length := by omega
  refine ⟨?_, ?_, ?_, ?_⟩
  · intro e tl hsb hext
    exact ⟨_, exec_onDev (exec_storeBufferDrain c s) (drainOne_local hc hsb hext), core_setCore_same _ _ _ hc, fun _ _ => rfl,
      CoreFrame.setCore.othersKeep⟩
  · intro y row hmiss hpoison
    refine ⟨fun hmay => ?_, fun hmay => ?_, ?_⟩
    · obtain ⟨t, ht, hJ, hreg, hothers⟩ := core_acts hc
        (exec_onDev (exec_windowLineFill c y s) (lineFill_granted hmiss hhand hpoison hmay)) .cnt
      refine ⟨t, ht, ?_, ?_, fun o _ => (hreg o).trans (reg_cnt_zero _ _ _ _), hothers⟩
      · exact (congrArg (Core.line · y) hJ).trans (line_setLine _ _ _)
      · exact (congrArg (Core.miss · y) hJ).trans (by rw [miss_setLine, miss_setMiss])
    · obtain ⟨t, ht, hJ, hreg, hothers⟩ := core_acts hc
        (exec_onDev (exec_windowLineFill c y s) (lineFill_denied hmiss hhand hmay)) .deny
      obtain ⟨hdead, haerr, hnone⟩ := dead_spec k y
      refine ⟨t, ht, ?_, ?_, ?_, ?_, hothers⟩
      · exact (congrArg (Core.dead · y) hJ).trans hdead
      · exact (congrArg (Core.st · cAERR) hJ).trans haerr
      · exact (congrArg (Core.miss · y) hJ).trans hnone
      · rw [Dev.g, hreg]
        exact g_deny _ _ _ _
    · obtain ⟨hdead, haerr, hnone⟩ := dead_spec k y
      refine ⟨_, exec_onDev (exec_windowTimeout c y s) (windowTimeout_eq hmiss), ?_, ?_, ?_,
        othersKeep_raise .setCore _ _ _⟩
      all_goals dsimp only [J]; rw [core_raise, core_setCore_same _ _ _ hc]
      · exact hdead
      · exact haerr
      · exact hnone
  · intro ag off v hoff hlt
    refine ⟨fun hpwr => ?_, fun hpwr => ?_, fun hpwr => ?_⟩
    · obtain ⟨m, hexec, hm⟩ := outsideWrite_acts ag v hlt hpwr
      refine ⟨_, hexec, ?_⟩
      dsimp only [J]
      rw [core_setCore_same _ _ _ hc]
      exact ⟨hm, rfl, rfl, fun _ _ => rfl, CoreFrame.setCore.othersKeep⟩
    · exact ⟨_, outsideRead_acts ag hlt hpwr, rfl, rfl, fun _ _ => rfl, fun _ _ => rfl, rfl, rfl, rfl, rfl, rfl, rfl, rfl, rfl, rfl,
        rfl⟩
    · refine ⟨_, outsideWrite_denied v hlt hpwr, rfl, g_s_same _ _ _ _, fun o ho => ?_, (CoreFrame.ofBank .s).othersKeep⟩
      exact reg_s_other _ HRP_STAT.BDENY _ 0 _ fun h => ho (List.mem_singleton.mpr h)
  · intro hrun
    refine ⟨?_, fun hpwr hsplit => ?_, fun hpwr hkrun hmst hdst hwait hsplit => ?_, fun hpwr hkrun hmst hdst hsplit => ?_, ?_,
      fun y v => ?_, fun off v hlo hhi h4 => ?_⟩
    · obtain ⟨hframe, j, hj, hmst, hdst⟩ := chnOff_spec hc hhand
      refine ⟨_, powerOff_acts hc hrun hhand, ?_⟩
      dsimp only [J]
      rw [hj]
      refine ⟨rfl, rfl, rfl, rfl, rfl, rfl, hmst, ?_, hframe.othersKeep⟩
      exact congrArg (fun x : BitVec 2 => if x = 3 then 3 else 2) hdst
    · obtain ⟨t, ht, hJ, hothers⟩ := powerOn_acts hc hrun hsplit
      obtain ⟨hp, hxm, hym, hpm, hacc, hm, -, -, -⟩ := (Core.Blank.on hpwr).managed.sync.sync
      refine ⟨t, ht, ?_⟩
      dsimp only [J]
      rw [hJ]
      exact ⟨hp, hxm, hym, hpm, hacc, hm, hothers⟩
    · obtain ⟨t, ht, hJ, hothers⟩ := restart_waits hc hrun hsplit hpwr hmst hdst hkrun hwait
      refine ⟨t, ht, ?_⟩
      dsimp only [J]
      rw [hJ]
      exact ⟨rfl, rfl, hkrun, hothers⟩
    · obtain ⟨t, ht, hJ, hothers⟩ := restart_starts hc hrun hsplit hpwr hmst hdst hkrun
      obtain ⟨hrestart, hpc, hrun', hdst', hstopped, hfcode, hipend, hacc, -, -, -⟩ := started_spec { k with restart := true }
      refine ⟨t, ht, ?_⟩
      dsimp only [J]
      rw [hJ]
      exact ⟨hrestart, hpc, hrun', hdst', hstopped, hfcode, hipend, hacc, hothers⟩
    · exact door_acts hc hrun
    · obtain ⟨t, ht, hJ, hothers⟩ := windowWrite_acts hc hrun y v
      exact ⟨t, ht, hothers, hJ⟩
    · refine ⟨fun hkrun => (viewWrite_acts hc hrun v (by omega) (by omega) h4).1 hkrun, fun hkrun hpwr hx hy => ?_⟩
      obtain ⟨t, ht, hJ, hothers⟩ := (viewWrite_acts hc hrun v (by omega) (by omega) h4).2 hkrun hpwr
      obtain ⟨hacc, hview⟩ := viewWrite_spec k (v := v.toNat) hlo hhi h4 hx hy
      refine ⟨t, ht, ?_⟩
      dsimp only [J]
      rw [hJ]
      refine ⟨?_, hacc, fun o ho ho4 => ?_, hothers⟩
      · rw [hview _ h4, if_pos rfl]
        exact Nat.mod_eq_of_lt v.isLt
      · rw [hview o ho4, if_neg ho]

end Sys2Proof.Machine

/-! SUPPORT. Chanter programs: copies, posts, writes of program memory and notices. Each is a plain instruction: an effect on its
core, at most a count or a notice beside it, and the move to the next instruction. -/
namespace Sys2Proof.Machine

/-! ### A plain instruction -/

/-- What a move to the next instruction leaves of the writes on their way and the rows held. -/
theorem advance_done_pipeline (j before : Core) :
    (j.advance.done_ before).pend = j.pend ∧ (j.advance.done_ before).loopPend = j.loopPend ∧
      (j.advance.done_ before).pmPend = j.pmPend ∧ (j.advance.done_ before).xline = j.xline ∧
      (j.advance.done_ before).yline = j.yline := by
  obtain ⟨pc, slots, lc, lopen, cst, hadv, -⟩ := advance_spec j
  rw [hadv]
  exact ⟨rfl, rfl, rfl, rfl, rfl⟩

/-- What a move to the next instruction leaves of the operands, the posts and CHN_NOTE. -/
theorem advance_done_shown (j before : Core) :
    (j.advance.done_ before).acc = j.acc ∧ (j.advance.done_ before).x = j.x ∧ (j.advance.done_ before).y = j.y ∧
      (j.advance.done_ before).post = j.post ∧ (j.advance.done_ before).pref = j.pref ∧
      (j.advance.done_ before).note = j.note := by
  obtain ⟨pc, slots, lc, lopen, cst, hadv, -⟩ := advance_spec j
  rw [hadv]
  exact ⟨rfl, rfl, rfl, rfl, rfl, rfl⟩

theorem advance_done_quiet {accs : List Nat} (j before : Core) : j.Quiet accs (j.advance.done_ before) := .trans .advance .done_

theorem advance_run (k : Core) : k.advance.run = k.run := by
  obtain ⟨pc, slots, lc, lopen, cst, hadv, -⟩ := advance_spec k
  rw [hadv]

section
variable {s : State} {c : BitVec 4} {i : Instr} {k j : Core} {body : Core → Dev → Dev}

/-- A plain instruction that gives its core as `j`, does `f` to the rest of the device, and moves on. -/
theorem plain_then {f : Dev → Dev} (hexec : exec i s = onDev (fun d => d.plain c i body) s) (hnext : Next s c k i false)
    (hbody : ∀ d : Dev, d.core c.toNat = k → body k d = f (d.setCore c.toNat j)) (hf : ∀ d, (f d).chn = d.chn)
    (hrun : j.run = k.run) :
    exec i s = .next { s with dev := (f (s.dev.setCore c.toNat j)).setCore c.toNat (j.advance.done_ k) } ∧
      ((f (s.dev.setCore c.toNat j)).setCore c.toNat (j.advance.done_ k)).core c.toNat = j.advance.done_ k := by
  have hc := hnext.1
  have hlen : c.toNat < (f (s.dev.setCore c.toNat j)).chn.length := by rwa [hf, length_chn_setCore]
  have hcore : (f (s.dev.setCore c.toNat j)).core c.toNat = j :=
    (congrArg (·.getD c.toNat Core.reset) (hf _)).trans (core_setCore_same _ _ _ hc)
  have heffect := hbody (s.dev.setCore c.toNat k) (core_setCore_same _ _ _ hc)
  rw [setCore_setCore] at heffect
  have hadv := core_setCore_same (f (s.dev.setCore c.toNat j)) c.toNat j.advance hlen
  have hissue := issue_ran (d := (f (s.dev.setCore c.toNat j)).setCore c.toNat j.advance)
    (body := fun k d => (body k d).setCore c.toNat ((body k d).core c.toNat).advance) hnext
    (by rw [heffect, hcore]) (by rw [hadv, advance_run, hrun, run_of_next hnext])
  rw [hadv, setCore_setCore] at hissue
  exact ⟨exec_onDev hexec hissue, core_setCore_same _ _ _ hlen⟩

/-- A plain instruction that changes its core only. -/
theorem plain_acts (hexec : exec i s = onDev (fun d => d.plain c i body) s) (hnext : Next s c k i false)
    (hbody : ∀ d : Dev, d.core c.toNat = k → body k d = d.setCore c.toNat j) (hrun : j.run = k.run) :
    ∃ t, exec i s = .next t ∧ t.dev.core c.toNat = j.advance.done_ k ∧ OthersKeep s t c ∧ SameRegs s.dev t.dev [] := by
  obtain ⟨hplain, hJ⟩ := plain_then (f := id) hexec hnext hbody (fun _ => rfl) hrun
  exact ⟨_, hplain, hJ, CoreFrame.othersKeep (.trans .setCore .setCore), fun _ _ => rfl⟩

end

/-! ### Loads -/

theorem load_run (k : Core) (code : Nat) (v : BitVec 64) : (k.load code v).run = k.run := by
  have hseq : (k.load code v).seq = k.seq := seq_ite rfl (seq_ite rfl (seq_ite rfl rfl))
  exact congrArg Seq.run hseq

theorem stick_run (k : Core) (n : Nat) (b : Bool) : (k.stick n b).run = k.run := by
  have hseq : (k.stick n b).seq = k.seq := seq_ite rfl rfl
  exact congrArg Seq.run hseq

theorem applyPm_x (k : Core) (l : List PmPend) : (applyPm k l).x = k.x :=
  foldl_keeps (fun j : Core => j.x = k.x) _ l k rfl fun _ _ h => h

/-- With no loop register on its way, the next instruction finds the X registers as the delayed writes now due leave them, and the
others one instruction nearer. -/
theorem front_of_no_loop {k : Core} (h : k.loopPend = []) :
    k.front.x = (applyDelayed k ((k.pend.map Delayed.tick).filter (·.wait = 0))).x ∧
      k.front.pend = (k.pend.map Delayed.tick).filter (·.wait ≠ 0) ∧ k.front.loopPend = [] := by
  unfold Core.front
  rw [h]
  extract_lets pend loop pmp k1 k2 k3 k4 cst k5
  have hx : k4.x = k1.x := applyPm_x k2 _
  split
  · exact ⟨hx, rfl, rfl⟩
  · exact ⟨hx, rfl, rfl⟩

section
variable {k : Core} {code : BitVec 8} {v : BitVec 64}

/-- A lone write that is not due at the next instruction. -/
theorem front_of_later {n : Nat} (hpend : k.pend = [⟨n + 2, code, v⟩]) (hloop : k.loopPend = []) :
    k.front.x = k.x ∧ k.front.pend = [⟨n + 1, code, v⟩] ∧ k.front.loopPend = [] := by
  obtain ⟨hx, hp, hl⟩ := front_of_no_loop hloop
  rw [hpend] at hx hp
  exact ⟨hx, hp, hl⟩

/-- A lone write that is due at the next instruction. -/
theorem front_of_due (hpend : k.pend = [⟨1, code, v⟩]) (hloop : k.loopPend = []) :
    k.front.x = (k.writeCode code.toNat v).x := by
  obtain ⟨hx, -, -⟩ := front_of_no_loop hloop
  rw [hpend] at hx
  exact hx

theorem writeCode_x (hcode : code.toNat < 4) : (k.writeCode code.toNat v).x = setAt k.x code.toNat v := by
  unfold Core.writeCode
  rw [if_pos hcode]

/-- A lone write of an X register: the old value is read two instructions later, the new one three later (R307). -/
theorem x_seen_third (hpend : k.pend = [⟨3, code, v⟩]) (hloop : k.loopPend = []) (hcode : code.toNat < 4)
    (hx : k.x.length = 4) : k.front.front.x = k.x ∧ k.front.front.front.x.getD code.toNat 0 = v := by
  obtain ⟨hx1, hpend1, hloop1⟩ := front_of_later hpend hloop
  obtain ⟨hx2, hpend2, hloop2⟩ := front_of_later hpend1 hloop1
  have hold : k.front.front.x = k.x := hx2.trans hx1
  refine ⟨hold, ?_⟩
  rw [front_of_due hpend2 hloop2, writeCode_x hcode, hold, getD_setAt, if_pos ⟨rfl, by omega⟩]

/-- LDI of an X register with no other write on its way (R307). -/
theorem ldi_seen_third {imm : Word} (hcode : code.toNat < 4) (hpend : k.pend = []) (hloop : k.loopPend = []) (hx : k.x.length = 4) :
    (((k.load code.toNat (ext64 code.toNat imm)).advance).done_ k).front.front.x = k.x ∧
      (((k.load code.toNat (ext64 code.toNat imm)).advance).done_ k).front.front.front.x.getD code.toNat 0 =
        imm.signExtend 64 := by
  have hofNat : BitVec.ofNat 8 code.toNat = code := (BitVec.ofNat_toNat 8 code).trans code.setWidth_eq
  have hwide : wideCode code.toNat = true := by
    rw [wideCode, Bool.or_eq_true]
    exact .inl (decide_eq_true (by omega))
  rw [load_of_lt _ _ (by omega), hofNat, ext64, if_pos hwide, hpend]
  obtain ⟨hjpend, hjloop, -, -, -⟩ := advance_done_pipeline { k with pend := [⟨3, code, imm.signExtend 64⟩] } k
  obtain ⟨-, hjx, -, -, -, -⟩ := advance_done_shown { k with pend := [⟨3, code, imm.signExtend 64⟩] } k
  obtain ⟨hold, hnew⟩ := x_seen_third hjpend (hjloop.trans hloop) hcode ((congrArg List.length hjx).trans hx)
  exact ⟨hold.trans hjx, hnew⟩

end

/-! ### Posts -/

section
variable {s : State} {c : BitVec 4} {k : Core}

/-- EVPOST to a queue with room adds its word. -/
theorem evpost_adds {a b : BitVec 2} (hnext : Next s c k (.evpost c a b) false) (hroom : k.post.length < 8) :
    ∃ t, exec (.evpost c a b) s = .next t ∧ t.dev.core c.toNat = ({ k with
      pref := false, post := k.post ++ [⟨k.x.getD a.toNat 0, k.y.getD b.toNat 0⟩] } : Core).advance.done_ k ∧
      OthersKeep s t c ∧ SameRegs s.dev t.dev [] :=
  plain_acts rfl hnext (fun d hd => by
    dsimp only
    rw [hd]
    exact if_neg (by omega)) rfl

/-- EVPOST to a full queue is refused and counted. -/
theorem evpost_refused {a b : BitVec 2} (hnext : Next s c k (.evpost c a b) false) (hfull : 8 ≤ k.post.length) :
    ∃ t, exec (.evpost c a b) s = .next t ∧ t.dev.core c.toNat = ({ k with pref := true } : Core).advance.done_ k ∧
      OthersKeep s t c ∧ t.dev.g EVS_DROP = min (s.dev.g EVS_DROP + 1) 0xFFFFFFFF ∧
      SameRegs s.dev t.dev [EVS_DROP.base] := by
  obtain ⟨hplain, hJ⟩ := plain_then (f := fun d => d.cnt EVS_DROP) (j := { k with pref := true }) rfl hnext (fun d hd => by
    dsimp only
    rw [hd]
    exact if_pos hfull) (fun _ => rfl) rfl
  exact ⟨_, hplain, hJ, CoreFrame.othersKeep (.trans .setCore (.trans (.ofBank .cnt) .setCore)), g_cnt_same s.dev EVS_DROP 0 1,
    fun off hoff => reg_cnt_other s.dev EVS_DROP 0 1 off (by simpa [Fld.off] using hoff)⟩

/-! ### Program memory -/

/-- With no PMW on its way, PMR loads the word of program memory. -/
theorem pmr_acts {a : BitVec 2} {p : BitVec 3} (hnext : Next s c k (.pmr c a p) false) (hpm : k.pmPend = []) :
    ∃ t, exec (.pmr c a p) s = .next t ∧ t.dev.core c.toNat =
      (k.load a.toNat ((sget 0 ((k.p.getD p.toNat 0).toNat % 16384) k.pm).setWidth 64)).advance.done_ k ∧
      OthersKeep s t c ∧ SameRegs s.dev t.dev [] :=
  plain_acts rfl hnext (fun d hd => by
    dsimp only
    rw [hd, hpm, BitVec.toNat_ofNat]
    rfl) (load_run _ _ _)

/-! ### Notices -/

/-- NOTIFY shows its value in CHN_NOTE, and its notice, where there is room, stands at the queue's end. -/
theorem notify_acts {v : Half} (hnext : Next s c k (.notify c v) false)
    (hroom : s.dev.not.q.length < s.dev.rowsLeft 6 256) :
    ∃ t, exec (.notify c v) s = .next t ∧ t.dev.core c.toNat = ({ k with note := v } : Core).advance.done_ k ∧
      OthersKeep s t c ∧
      t.dev.not.q = s.dev.not.q ++ [noticeWord 7 5 (v.toNat % 4096) s.dev.not.lostNext (s.dev.brt.pos.toNat / 65536)] := by
  obtain ⟨hplain, hJ⟩ := plain_then (f := fun d => d.raise nCHN 5 (v.toNat % 4096)) (j := { k with note := v }) rfl hnext
    (fun d hd => by dsimp only; rw [hd]) (fun d => Dev.raise_chn d _ _ _) rfl
  have hnot := (Dev.raise_not (s.dev.setCore c.toNat { k with note := v }) nCHN 5 (v.toNat % 4096)).trans (if_pos hroom)
  obtain ⟨hothers, hrest⟩ := othersKeep_raise (s := s) (c := c) (.setCore (v := { k with note := v })) nCHN 5 (v.toNat % 4096)
  exact ⟨_, hplain, hJ, ⟨fun n hn => (core_setCore_other _ _ n _ hn).trans (hothers n hn), hrest⟩, congrArg Notices.q hnot⟩

end

/-- Settles O29: each instruction is plain, and what it changes of its core shows in the core that moves on. -/
theorem copiesPostsAndProgramWritesAct : Obligations.CopiesPostsAndProgramWritesAct := by
  intro s c k hlen J
  have moved : ∀ j : Core, CoreKeeps j (j.advance.done_ k) := fun j => (advance_done_quiet (accs := []) j k).keeps
  refine ⟨?_, ?_, ?_, ?_, ?_, ?_, ?_⟩
  · intro reg imm h
    obtain ⟨t, ht, hJ, hothers, hregs⟩ := plain_acts (j := k.load reg.toNat (ext64 reg.toNat imm)) rfl h
      (fun d hd => by rw [hd]) (load_run _ _ _)
    refine ⟨t, ht, hJ, hothers, hregs, fun hreg hpend hloop hx => ?_⟩
    dsimp only [J]
    rw [hJ]
    exact ldi_seen_third hreg hpend hloop hx
  · intro dst src h
    obtain ⟨t, ht, hJ, hothers, hregs⟩ := plain_acts rfl h (fun d hd => by dsimp only; rw [hd])
      ((load_run _ _ _).trans (stick_run _ _ _))
    exact ⟨t, ht, hothers, hregs, hJ⟩
  · intro a b h
    rcases Nat.lt_or_ge k.post.length 8 with hroom | hfull
    · obtain ⟨t, ht, hJ, hothers, hregs⟩ := evpost_adds h hroom
      refine ⟨t, ht, hothers, ?_⟩
      dsimp only [J]
      rw [hJ]
      obtain ⟨hacc, hx, hy, hpost, hpref, -⟩ := advance_done_shown _ k
      exact ⟨hacc, hx, hy, fun _ => ⟨hpost, hpref, hregs⟩, fun hfull => absurd hroom (by omega)⟩
    · obtain ⟨t, ht, hJ, hothers, hdrop, hregs⟩ := evpost_refused h hfull
      refine ⟨t, ht, hothers, ?_⟩
      dsimp only [J]
      rw [hJ]
      obtain ⟨hacc, hx, hy, hpost, hpref, -⟩ := advance_done_shown _ k
      exact ⟨hacc, hx, hy, fun hroom => absurd hfull (by omega), fun _ => ⟨hpost, hpref, hdrop, hregs⟩⟩
  · intro a p h
    obtain ⟨t, ht, hJ, hothers, -⟩ := plain_acts (j := { k with pmPend := k.pmPend ++
      [⟨5, BitVec.ofNat 14 (k.p.getD p.toNat 0).toNat, BitVec.ofNat 48 (k.x.getD a.toNat 0).toNat⟩] }) rfl h
      (fun d hd => by dsimp only; rw [hd]) rfl
    refine ⟨t, ht, hothers, ?_⟩
    dsimp only [J]
    rw [hJ]
    obtain ⟨-, -, hpm, -, -⟩ := advance_done_pipeline _ k
    exact ⟨moved _, hpm⟩
  · intro a p h hpm
    obtain ⟨t, ht, hJ, hothers, -⟩ := pmr_acts h hpm
    rw [load_of_lt _ _ (by omega)] at hJ
    refine ⟨t, ht, hothers, ?_⟩
    dsimp only [J]
    rw [hJ]
    obtain ⟨hpend, -, -, -, -⟩ := advance_done_pipeline _ k
    exact ⟨moved _, hpend⟩
  · intro h
    obtain ⟨t, ht, hJ, hothers, hregs⟩ := plain_acts (j := { k with xline := none, yline := none }) rfl h
      (fun d hd => by rw [hd]) rfl
    refine ⟨t, ht, hothers, ?_⟩
    dsimp only [J]
    rw [hJ]
    obtain ⟨-, -, -, hxline, hyline⟩ := advance_done_pipeline _ k
    obtain ⟨hacc, -, -, -, -, -⟩ := advance_done_shown _ k
    exact ⟨moved _, hxline, hyline, hacc, hregs⟩
  · intro v h hroom
    obtain ⟨t, ht, hJ, hothers, hq⟩ := notify_acts h hroom
    refine ⟨t, ht, hothers, ?_⟩
    dsimp only [J]
    rw [hJ]
    obtain ⟨hacc, -, -, -, -, hnote⟩ := advance_done_shown _ k
    exact ⟨hnote, hacc, hq⟩

end Sys2Proof.Machine

/-! SUPPORT and certificates. Ownership of the banks: the write of an owner or guest code, the end of a handover, complete or
forced, and the end of salvage. -/
namespace Sys2Proof

open Sys2Proof.Machine

/-! ### Registers that an update leaves -/

namespace SameRegs
variable {d e f : Dev} {but : List Nat}

theorem refl : SameRegs d d but := fun _ _ => rfl

theorem trans (h : SameRegs d e but) (g : SameRegs e f but) : SameRegs d f but :=
  fun off hoff => (g off hoff).trans (h off hoff)

theorem mono {more : List Nat} (h : SameRegs d e but) (hsub : but ⊆ more) : SameRegs d e more :=
  fun off hoff => h off fun hin => hoff (hsub hin)

theorem s {fl : Fld} {v i : Nat} (h : fl.off i ∈ but) : SameRegs d (d.s fl v i) but :=
  fun off hoff => reg_s_other d fl v i off fun e => hoff (e ▸ h)

theorem cnt {fl : Fld} {i n : Nat} (h : fl.off i ∈ but) : SameRegs d (d.cnt fl i n) but := s h

theorem then_s {fl : Fld} {v i : Nat} (h : SameRegs d e but) (hin : fl.off i ∈ but) : SameRegs d (e.s fl v i) but :=
  h.trans (s hin)

/-- A field outside the registers listed reads what it read. -/
theorem g (h : SameRegs d e but) (fl : Fld) (i : Nat) (hout : fl.off i ∉ but) : e.g fl i = d.g fl i := by
  rw [Dev.g, h _ hout, Dev.g]

end SameRegs

end Sys2Proof

namespace Sys2Proof.Machine

/-! ### Where the banks' registers lie -/

theorem off_bankOwn (n : Nat) : BNK_OWN.OWN.off n = 0x11000 + 16 * n := rfl
theorem off_bankDst (n : Nat) : BNK_MODE.DST.off n = 0x11008 + 16 * n := rfl
theorem off_bankCap : BNK_CAP.off 0 = 0x10008 := rfl
theorem off_bankRet (n : Nat) : BNK_RET.off (n / 32) = 0x10010 + 4 * (n / 32) := rfl

theorem mapped_bankRow (b : BitVec 7) :
    mapped (0x11000 + 16 * b.toNat) = true ∧ mapped (0x11004 + 16 * b.toNat) = true := by
  have h : ∀ n : Fin 128, mapped (0x11000 + 16 * n.val) = true ∧ mapped (0x11004 + 16 * n.val) = true := by decide +kernel
  exact h b.toFin

/-! ### The writes of BNK_OWN and BNK_GUEST (R337, R339) -/

/-- A host write of a register of the banks' blocks in a running device. -/
theorem regWrite_bankRow {s : State} {off : Nat} (v : Word) (hrun : s.dev.running = true) (hmap : mapped off = true)
    (hblk : off / 0x1000 = 0x11) : s.regWrite .host off v = { s with dev := s.dev.wrBnk off v } := by
  have hmay : s.dev.mayWrite .host off = true := by
    unfold Dev.mayWrite
    simp only [hrun, Bool.true_or]
  have hdev : s.dev.regWrite s.otp.wrapKey .host off v = s.dev.wrBnk off v := by
    rw [Dev.regWrite, if_neg (by simp [hmay, hmap])]
    simp only [hblk]
  rw [State.regWrite, if_neg (by simp [hmay, hmap]), if_neg (by omega), if_neg (by omega), if_neg (by omega), hdev]

theorem wrBnk_own (d : Dev) (b : BitVec 7) (v : Word) :
    d.wrBnk (0x11000 + 16 * b.toNat) v = d.writeOwn b.toNat v.toNat := by
  have hb := b.isLt
  have hbank : (0x11000 + 16 * b.toNat - 0x11000) / 16 = b.toNat := by omega
  have hreg : (0x11000 + 16 * b.toNat) % 16 = 0 := by omega
  rw [Dev.wrBnk, if_pos (by simp; omega)]
  simp only [hbank, hreg]

theorem wrBnk_guest (d : Dev) (b : BitVec 7) (v : Word) :
    d.wrBnk (0x11004 + 16 * b.toNat) v = d.writeGuest b.toNat v.toNat := by
  have hb := b.isLt
  have hbank : (0x11004 + 16 * b.toNat - 0x11000) / 16 = b.toNat := by omega
  have hreg : (0x11004 + 16 * b.toNat) % 16 = 4 := by omega
  rw [Dev.wrBnk, if_pos (by simp; omega)]
  simp only [hbank, hreg]

section
variable {s : State} {b : BitVec 7}

theorem exec_bnkOwnWrite (v : Word) (hrun : s.dev.running = true) :
    exec (.bnkOwnWrite .host b v) s = .next { s with dev := s.dev.writeOwn b.toNat v.toNat } := by
  have hb := b.isLt
  change writeRow .host (0x11000 + 16 * b.toNat) v s = _
  rw [writeRow, regWrite_bankRow v hrun (mapped_bankRow b).1 (by omega), wrBnk_own]

theorem exec_bnkGuestWrite (v : Word) (hrun : s.dev.running = true) :
    exec (.bnkGuestWrite .host b v) s = .next { s with dev := s.dev.writeGuest b.toNat v.toNat } := by
  have hb := b.isLt
  change writeRow .host (0x11004 + 16 * b.toNat) v s = _
  rw [writeRow, regWrite_bankRow v hrun (mapped_bankRow b).2 (by omega), wrBnk_guest]

end

/-- Handover `h` waits behind the ones under way. -/
def Dev.handing (d : Dev) (h : Handover) : Dev := { d with bnk := { d.bnk with hand := d.bnk.hand ++ [h] } }

/-- BNK_OWN with a new owner, BUSY. -/
def Dev.ownedBy (d : Dev) (bank code : Nat) : Dev := (d.s BNK_OWN.OWN code bank).s BNK_OWN.BUSY 1 bank

/-- BNK_GUEST with a new grant, BUSY. -/
def Dev.grantedTo (d : Dev) (bank code rdonly : Nat) : Dev :=
  ((d.s BNK_GUEST.RDONLY rdonly bank).s BNK_GUEST.GUEST code bank).s BNK_GUEST.BUSY 1 bank

theorem ownedBy_spec (d : Dev) (bank : Nat) {code : Nat} (hcode : code < 32) :
    (d.ownedBy bank code).g BNK_OWN.OWN bank = code ∧ (d.ownedBy bank code).g BNK_OWN.BUSY bank = 1 ∧
      SameRegs d (d.ownedBy bank code) [BNK_OWN.OWN.off bank] := by
  have hin : BNK_OWN.OWN.off bank ∈ [BNK_OWN.OWN.off bank] := List.mem_singleton.mpr rfl
  refine ⟨?own, g_s_same _ BNK_OWN.BUSY 1 bank, ?regs⟩
  case own =>
    rw [Dev.ownedBy, g_s_bits _ BNK_OWN.BUSY BNK_OWN.OWN _ _ _ (h := by decide), g_s_same _ BNK_OWN.OWN]
    exact Nat.mod_eq_of_lt hcode
  case regs =>
    rw [Dev.ownedBy]
    exact .then_s (.s hin) hin

theorem grantedTo_spec (d : Dev) (bank : Nat) {code rdonly : Nat} (hcode : code < 4) (hrdonly : rdonly < 2) :
    (d.grantedTo bank code rdonly).g BNK_GUEST.GUEST bank = code ∧
      (d.grantedTo bank code rdonly).g BNK_GUEST.RDONLY bank = rdonly ∧
      (d.grantedTo bank code rdonly).g BNK_GUEST.BUSY bank = 1 ∧
      SameRegs d (d.grantedTo bank code rdonly) [BNK_GUEST.GUEST.off bank] := by
  have hin : BNK_GUEST.GUEST.off bank ∈ [BNK_GUEST.GUEST.off bank] := List.mem_singleton.mpr rfl
  refine ⟨?guest, ?rdonly, g_s_same _ BNK_GUEST.BUSY 1 bank, ?regs⟩
  case guest =>
    rw [Dev.grantedTo, g_s_bits _ BNK_GUEST.BUSY BNK_GUEST.GUEST _ _ _ (h := by decide), g_s_same _ BNK_GUEST.GUEST]
    exact Nat.mod_eq_of_lt hcode
  case rdonly =>
    rw [Dev.grantedTo, g_s_bits _ BNK_GUEST.BUSY BNK_GUEST.RDONLY _ _ _ (h := by decide),
      g_s_bits _ BNK_GUEST.GUEST BNK_GUEST.RDONLY _ _ _ (h := by decide), g_s_same _ BNK_GUEST.RDONLY]
    exact Nat.mod_eq_of_lt hrdonly
  case regs =>
    rw [Dev.grantedTo]
    exact .then_s (.then_s (.s hin) hin) hin

section
variable {d : Dev} {bank v : Nat}

theorem writeOwn_of_busy (hbusy : d.on BNK_OWN.BUSY bank = true) : d.writeOwn bank v = d.s BNK_STAT.HOERR 1 := if_pos hbusy

theorem writeOwn_of_new (hbusy : d.on BNK_OWN.BUSY bank = false) (hcode : v % 32 < 22)
    (hnew : v % 32 ≠ d.g BNK_OWN.OWN bank) (hsalvage : v % 32 = 0 → d.g BNK_MODE.DST bank ≠ 1) :
    d.writeOwn bank v = (d.ownedBy bank (v % 32)).handing ⟨bank, false, d.g BNK_OWN.OWN bank⟩ := by
  have hkeeps : ¬ (decide (v % 32 = 0) && decide (d.dst kBank bank = DRAINING)) = true := by
    simp only [Bool.and_eq_true, decide_eq_true_eq, not_and]
    exact hsalvage
  unfold Dev.writeOwn
  simp only [hbusy, if_neg hkeeps, if_neg hnew, if_neg (not_le.mpr hcode), Bool.false_eq_true, if_false]
  rfl

theorem writeGuest_of_new (hbusy : d.on BNK_GUEST.BUSY bank = false) (hcode : v % 4 < 3)
    (hnew : v % 4 ≠ d.g BNK_GUEST.GUEST bank) :
    d.writeGuest bank v =
      (d.grantedTo bank (v % 4) (bitsOf v 2 2)).handing ⟨bank, true, d.g BNK_GUEST.GUEST bank⟩ := by
  have hold : (d.s BNK_GUEST.RDONLY (bitsOf v 2 2) bank).g BNK_GUEST.GUEST bank = d.g BNK_GUEST.GUEST bank :=
    g_s_bits _ _ _ _ _ _ (h := by decide)
  have hpass : ¬ (decide (v % 4 = 3) || decide (v % 4 = d.g BNK_GUEST.GUEST bank)) = true := by
    simp only [Bool.or_eq_true, decide_eq_true_eq, not_or]
    exact ⟨by omega, hnew⟩
  unfold Dev.writeGuest
  simp only [hbusy, hold, if_neg hpass, Bool.false_eq_true, if_false]
  rfl

end

/-! ### The end of a handover (R337, R343) -/

/-- The device after the owner input's only handover. -/
def Dev.handedOver (d : Dev) (bank : Nat) : Dev := ({ d with bnk := { d.bnk with hand := [] } } : Dev).s BNK_OWN.BUSY 0 bank

/-- What the close of a handover shows and leaves. -/
theorem handedOver_spec (d : Dev) (bank : Nat) :
    (d.handedOver bank).bnk = { d.bnk with hand := [] } ∧ (d.handedOver bank).g BNK_OWN.BUSY bank = 0 ∧
      (d.handedOver bank).g BNK_OWN.OWN bank = d.g BNK_OWN.OWN bank ∧
      SameRegs d (d.handedOver bank) [BNK_OWN.OWN.off bank] :=
  ⟨rfl, g_s_same _ BNK_OWN.BUSY 0 bank, g_s_bits _ BNK_OWN.BUSY BNK_OWN.OWN 0 bank bank (h := by decide),
    .s (d := { d with bnk := { d.bnk with hand := [] } }) (List.mem_singleton.mpr rfl)⟩

section
variable {d : Dev} {bank old : Nat}

/-- The only handover under way, one of the owner input, ends. -/
theorem closeHandover_of_only (h : d.bnk.hand = [⟨bank, false, old⟩]) :
    d.closeHandover bank false = d.handedOver bank := by
  unfold Dev.closeHandover Dev.handedOver
  simp [h]

theorem settle_of_only (h : d.bnk.hand = [⟨bank, false, old⟩]) :
    d.settle bank false = (d.drainOwner bank old).closeHandover bank false := by
  unfold Dev.settle
  simp [h]

theorem settle_of_none (h : d.bnk.hand = []) (guest : Bool) : d.settle bank guest = d := by
  unfold Dev.settle
  rw [h]
  rfl

/-- An owner other than a core and the host port has no store buffer. -/
theorem drainOwner_of_bufferless (h : old < 2 ∨ old = 18 ∨ 20 ≤ old) : d.drainOwner bank old = d := by
  have hcore : ¬ (decide (2 ≤ old) && decide (old < 18)) = true := by
    simp only [Bool.and_eq_true, decide_eq_true_eq]
    omega
  unfold Dev.drainOwner
  rw [if_neg hcore, if_neg (show ¬ old = oHost by unfold oHost; omega)]

end

theorem exec_handoverComplete {s : State} {b : BitVec 7} {old : Nat} (h : s.dev.bnk.hand = [⟨b.toNat, false, old⟩])
    (hold : old < 2 ∨ old = 18 ∨ 20 ≤ old) :
    exec (.handoverComplete b) s = .next { s with dev := s.dev.handedOver b.toNat } := by
  refine exec_onDev (f := fun d => d.settled b.toNat) rfl ?_
  rw [Dev.settled, settle_of_only h, drainOwner_of_bufferless hold, closeHandover_of_only h]
  exact settle_of_none rfl true

/-! ### The forced end of a handover (R343) -/

/-- The registers that tell of a denial. -/
def denialRegs : List Nat := [BNK_DENY.base, BNK_STAT.DENIED.base, BNK_DENYLOG.BANK.base, HRP_STAT.BDENY.base]

/-- From `d` to `e` nothing changes but the registers that tell of a denial. -/
structure DenialFrame (d e : Dev) : Prop where
  rest : ∃ r, e = { d with regs := r }
  regs : SameRegs d e denialRegs

namespace DenialFrame
variable {d e f : Dev}

theorem refl : DenialFrame d d := ⟨⟨_, rfl⟩, .refl⟩

theorem trans (h : DenialFrame d e) (g : DenialFrame e f) : DenialFrame d f := by
  obtain ⟨⟨_, rfl⟩, hregs⟩ := h
  obtain ⟨⟨_, rfl⟩, gregs⟩ := g
  exact ⟨⟨_, rfl⟩, hregs.trans gregs⟩

theorem s {fl : Fld} {v i : Nat} (h : fl.off i ∈ denialRegs) : DenialFrame d (d.s fl v i) := ⟨⟨_, rfl⟩, .s h⟩

theorem sIf {c : Bool} {fl : Fld} {v i : Nat} (h : fl.off i ∈ denialRegs) : DenialFrame d (d.sIf c fl v i) := by
  unfold Dev.sIf
  split
  · exact .s h
  · exact .refl

theorem deny {bank agent : Nat} {wr : Bool} : DenialFrame d (d.deny bank agent wr) := by
  have hcnt : DenialFrame d (d.cnt BNK_DENY) := .s (by decide)
  exact hcnt.trans <| .trans (.s (by decide)) <| .trans (.s (by decide)) <| .trans (.s (by decide)) <|
    .trans (.s (by decide)) (.s (by decide))

theorem denials {bank agent n : Nat} : DenialFrame d ((List.range n).foldl (fun d _ => d.deny bank agent true) d) :=
  foldl_keeps (DenialFrame d) _ _ d .refl fun _ _ h => h.trans .deny

theorem core (h : DenialFrame d e) (n : Nat) : e.core n = d.core n := by
  obtain ⟨⟨_, rfl⟩, -⟩ := h
  rfl

theorem hrp (h : DenialFrame d e) : e.hrp = d.hrp := by
  obtain ⟨⟨_, rfl⟩, -⟩ := h
  rfl

theorem bnk (h : DenialFrame d e) : e.bnk = d.bnk := by
  obtain ⟨⟨_, rfl⟩, -⟩ := h
  rfl

end DenialFrame

/-- The old owner has no store for the bank presented. -/
structure Dev.Unowed (d : Dev) (bank old : Nat) : Prop where
  core : 2 ≤ old → old < 18 → ∀ e ∈ (d.core (old - 2)).sb, ∀ a ∈ e.ext, bankOf a ≠ bank
  host : old = oHost → ∀ e ∈ d.hrp.wbuf, bankOf e.addr ≠ bank

/-- A drain that finds no store for the bank leaves the banks and the registers. -/
theorem drainOwner_of_unowed {d : Dev} {bank old : Nat} (h : d.Unowed bank old) :
    (d.drainOwner bank old).bnk = d.bnk ∧ (d.drainOwner bank old).regs = d.regs := by
  unfold Dev.drainOwner
  split
  next hcore =>
    obtain ⟨hlo, hhi⟩ : 2 ≤ old ∧ old < 18 := by simpa using hcore
    dsimp only
    rw [List.filter_eq_nil_iff.mpr fun e he => ?_]
    · exact ⟨rfl, rfl⟩
    · split
      next a hext => simpa using h.core hlo hhi e he a hext
      next => exact Bool.false_ne_true
  next =>
    split
    next hhost =>
      rw [List.filter_eq_nil_iff.mpr fun e he => by simpa using h.host hhost e he]
      exact ⟨rfl, rfl⟩
    next => exact ⟨rfl, rfl⟩

/-- A core of the device after another took its place, or the core that stands for one that is not there. -/
theorem core_setCore_self (d : Dev) (c : Nat) (v : Core) : (d.setCore c v).core c = v ∨ (d.setCore c v).core c = Core.reset := by
  by_cases hc : c < d.chn.length
  · exact .inl (core_setCore_same d c v hc)
  · exact .inr (List.getD_eq_default _ _ (by simpa using hc))

section
variable {d : Dev} {bank old : Nat}

/-- What a core's store buffer holds for the bank is discarded, each store told as a denial. -/
theorem discardOwner_of_core (hlo : 2 ≤ old) (hhi : old < 18) :
    ∃ k, (∀ e ∈ k.sb, ∀ a ∈ e.ext, bankOf a ≠ bank) ∧ DenialFrame (d.setCore (old - 2) k) (d.discardOwner bank old) := by
  unfold Dev.discardOwner
  rw [if_pos (by simp [hlo, hhi])]
  refine ⟨_, fun e he a hext => ?_, .denials⟩
  have hkept := (List.mem_filter.mp he).2
  simpa [Option.mem_def.mp hext] using hkept

/-- What the host port's buffer holds for the bank is discarded likewise, and the host told. -/
theorem discardOwner_of_host :
    ∃ p : Hrp, (∀ e ∈ p.wbuf, bankOf e.addr ≠ bank) ∧ DenialFrame { d with hrp := p } (d.discardOwner bank oHost) := by
  refine ⟨{ d.hrp with wbuf := d.hrp.wbuf.filter (fun e => bankOf e.addr ≠ bank) }, fun e he => ?_, ?_⟩
  · simpa using (List.mem_filter.mp he).2
  · exact .trans (.sIf (by decide)) .denials

theorem discardOwner_of_other (hcore : ¬(2 ≤ old ∧ old < 18)) (hhost : old ≠ oHost) : d.discardOwner bank old = d := by
  unfold Dev.discardOwner
  rw [if_neg (by simpa using hcore), if_neg hhost]

end

/-- A discard tells of denials, and leaves the banks and no store of the old owner for the bank. -/
theorem discardOwner_spec (d : Dev) (bank old : Nat) :
    (d.discardOwner bank old).bnk = d.bnk ∧ SameRegs d (d.discardOwner bank old) denialRegs ∧
      (d.discardOwner bank old).Unowed bank old := by
  by_cases hcore : 2 ≤ old ∧ old < 18
  · obtain ⟨k, hk, hframe⟩ := discardOwner_of_core (d := d) (bank := bank) hcore.1 hcore.2
    refine ⟨hframe.bnk, hframe.regs, fun _ _ e he => ?_, fun hhost => absurd hcore.2 (by rw [hhost]; decide)⟩
    rw [hframe.core] at he
    rcases core_setCore_self d (old - 2) k with hself | hself
    · exact hk e (hself ▸ he)
    · exact absurd (hself ▸ he) List.not_mem_nil
  · by_cases hhost : old = oHost
    · subst hhost
      obtain ⟨p, hp, hframe⟩ := discardOwner_of_host (d := d) (bank := bank)
      refine ⟨hframe.bnk, hframe.regs, fun hlo hhi => absurd ⟨hlo, hhi⟩ hcore, fun _ e he => ?_⟩
      rw [hframe.hrp] at he
      exact hp e he
    · rw [discardOwner_of_other hcore hhost]
      exact ⟨rfl, .refl, fun hlo hhi => absurd ⟨hlo, hhi⟩ hcore, fun h => absurd h hhost⟩

/-- A counter advanced leaves what the old owner owes. -/
theorem Dev.Unowed.cnt {d : Dev} {bank old : Nat} {f : Fld} {i n : Nat} (h : d.Unowed bank old) :
    (d.cnt f i n).Unowed bank old := ⟨h.core, h.host⟩

/-- The device as a forced handover closes it: what was presented discarded, the handover counted. -/
def Dev.forced (d : Dev) (bank old : Nat) : Dev := ((d.discardOwner bank old).cnt BNK_FORCED).drainOwner bank old

theorem forced_spec (d : Dev) (bank old : Nat) :
    (d.forced bank old).bnk = d.bnk ∧ (d.forced bank old).g BNK_FORCED = min (d.g BNK_FORCED + 1) 0xFFFFFFFF ∧
      SameRegs d (d.forced bank old) (BNK_FORCED.base :: denialRegs) := by
  obtain ⟨hbnk, hregs, hunowed⟩ := discardOwner_spec d bank old
  obtain ⟨hdrain, hdrained⟩ := drainOwner_of_unowed (hunowed.cnt (f := BNK_FORCED) (i := 0) (n := 1))
  have hreg : ∀ off, (d.forced bank old).reg off = ((d.discardOwner bank old).cnt BNK_FORCED).reg off := fun off =>
    congrArg (sget (resetOf off) off) hdrained
  refine ⟨hdrain.trans hbnk, ?_, fun off hoff => (hreg off).trans ?_⟩
  · rw [Dev.g, hreg, ← hregs.g BNK_FORCED 0 (by decide)]
    exact g_cnt_same _ BNK_FORCED 0 1
  · exact ((hregs.mono (List.subset_cons_self _ _)).trans (.cnt List.mem_cons_self)) off hoff

theorem exec_handoverForced {s : State} {b : BitVec 7} {old : Nat} (h : s.dev.bnk.hand = [⟨b.toNat, false, old⟩]) :
    exec (.handoverForced b) s = .next { s with dev := (s.dev.forced b.toNat old).handedOver b.toNat } := by
  have hfind : s.dev.bnk.hand.find? (fun h => h.bank = b.toNat) = some ⟨b.toNat, false, old⟩ := by simp [h]
  have hbnk : ((s.dev.discardOwner b.toNat old).cnt BNK_FORCED).bnk = s.dev.bnk := (discardOwner_spec s.dev b.toNat old).1
  have hforced : (s.dev.forced b.toNat old).bnk = s.dev.bnk := (forced_spec s.dev b.toNat old).1
  change execHandoverForced b s = _
  rw [execHandoverForced, onDev]
  simp only [hfind, Bool.false_eq_true, if_false]
  rw [settle_of_only (by rw [hbnk, h]), ← Dev.forced, closeHandover_of_only (by rw [hforced, h])]

/-! ### The end of salvage (R353) -/

theorem flag_setFlag_same (d : Dev) (f : Fld) (i : Nat) (v : Bool) : (d.setFlag f i v).flag f i = v := by
  have hi : i % 32 < 32 := Nat.mod_lt _ (by decide)
  rw [Dev.flag, Dev.setFlag, reg_setReg_same, ← BitVec.testBit_toNat,
    putBits_testBit _ _ _ _ _ hi (Nat.le_refl _), if_pos ⟨Nat.le_refl _, Nat.le_refl _⟩, Nat.sub_self]
  cases v <;> rfl

/-- The fault logic retires a bank without a latched split. -/
theorem logicDst_bank {d : Dev} {b : BitVec 7} (v : Nat) (hsplit : d.flt.split.lookup (2 * 256 + b.toNat) = none)
    (hlives : d.g BNK_MODE.DST b.toNat ≠ 3) :
    ∃ e, d.logicDst kBank b.toNat v = (d.s BNK_MODE.DST v b.toNat).s BNK_MODE.EST e b.toNat := by
  have hb := b.isLt
  have hunit : unitCode kBank b.toNat = 2 * 256 + b.toNat := by
    rw [unitCode, Nat.mod_eq_of_lt (show b.toNat < 256 by omega)]
    rfl
  unfold Dev.logicDst
  rw [hunit]
  simp only [hsplit]
  rw [if_neg (show ¬ d.dst kBank b.toNat = RETIRED from hlives)]
  exact ⟨_, rfl⟩

/-- A notice leaves the registers of the banks' blocks. -/
theorem reg_raise_bank (d : Dev) (src code unit : Nat) {off : Nat} (hoff : off < 0x12000) :
    (d.raise src code unit).reg off = d.reg off := by
  have ne : ∀ n, 0x12000 ≤ n → off ≠ n := fun n hn => by omega
  exact reg_raise d src code unit off (ne _ (by decide)) (ne _ (by decide)) (ne _ (by decide)) (ne _ (by decide))

/-- Bank `bank` with its state RETIRED, `e` shown as the effective one, and its bit of BNK_RET. -/
def Dev.shownRetired (d : Dev) (bank e : Nat) : Dev :=
  ((d.s BNK_MODE.DST RETIRED bank).s BNK_MODE.EST e bank).setFlag BNK_RET bank true

theorem sameRegs_shownRetired (d : Dev) (bank e : Nat) :
    SameRegs d (d.shownRetired bank e) [BNK_MODE.DST.off bank, BNK_RET.off (bank / 32)] := by
  have hmode : BNK_MODE.DST.off bank ∈ [BNK_MODE.DST.off bank, BNK_RET.off (bank / 32)] := List.mem_cons_self
  have hstates : SameRegs d ((d.s BNK_MODE.DST RETIRED bank).s BNK_MODE.EST e bank)
      [BNK_MODE.DST.off bank, BNK_RET.off (bank / 32)] := .then_s (.s hmode) hmode
  refine hstates.trans fun off hoff => ?_
  rw [Dev.shownRetired, Dev.setFlag, reg_setReg_other _ _ _ _ fun h => hoff (by simp [h])]

theorem g_shownRetired_dst (d : Dev) (bank e : Nat) :
    (d.shownRetired bank e).g BNK_MODE.DST bank = 3 := by
  rw [Dev.shownRetired, Dev.g, Dev.setFlag, reg_setReg_other _ _ _ _ (by rw [off_bankRet, off_bankDst]; omega)]
  exact (g_s_bits _ BNK_MODE.EST BNK_MODE.DST e _ _ (h := by decide)).trans (g_s_same _ _ _ _)

theorem g_shownRetired_cap (d : Dev) (bank e : Nat) : (d.shownRetired bank e).g BNK_CAP = d.g BNK_CAP := by
  refine (sameRegs_shownRetired d bank e).g BNK_CAP 0 ?_
  rw [List.mem_pair, off_bankDst, off_bankRet, off_bankCap]
  omega

theorem g_shownRetired_own (d : Dev) (bank e : Nat) :
    (d.shownRetired bank e).g BNK_OWN.OWN bank = d.g BNK_OWN.OWN bank := by
  refine (sameRegs_shownRetired d bank e).g BNK_OWN.OWN bank ?_
  rw [List.mem_pair, off_bankDst, off_bankRet, off_bankOwn]
  omega

section
variable {d : Dev} {b : BitVec 7}

/-- A bank that no split latches is retired, the banks counted and a notice raised. -/
theorem bankRetire_eq (hsplit : d.flt.split.lookup (2 * 256 + b.toNat) = none) (hlives : d.g BNK_MODE.DST b.toNat ≠ 3) :
    ∃ e, d.bankRetire b.toNat = ((d.shownRetired b.toNat e).s BNK_CAP (d.g BNK_CAP - 1)).raise nBNK 4 b.toNat := by
  obtain ⟨e, hlogic⟩ := logicDst_bank RETIRED hsplit hlives
  refine ⟨e, ?_⟩
  unfold Dev.bankRetire
  rw [← g_shownRetired_cap d b.toNat e, Dev.shownRetired, hlogic]

/-- A register of the banks' blocks other than BNK_CAP, after the count and the notice. -/
theorem reg_raise_cap (d : Dev) (n unit : Nat) {off : Nat} (hoff : off < 0x12000) (hne : off ≠ BNK_CAP.off 0) :
    ((d.s BNK_CAP n).raise nBNK 4 unit).reg off = d.reg off := by
  rw [reg_raise_bank _ _ _ _ hoff, reg_s_other _ _ _ _ _ hne]

theorem bankRetire_spec (hsplit : d.flt.split.lookup (2 * 256 + b.toNat) = none) (hlives : d.g BNK_MODE.DST b.toNat ≠ 3) :
    (d.bankRetire b.toNat).g BNK_MODE.DST b.toNat = 3 ∧ (d.bankRetire b.toNat).flag BNK_RET b.toNat = true ∧
      (d.bankRetire b.toNat).g BNK_CAP = d.g BNK_CAP - 1 ∧ (d.bankRetire b.toNat).bnk = d.bnk ∧
      (d.bankRetire b.toNat).g BNK_OWN.OWN b.toNat = d.g BNK_OWN.OWN b.toNat := by
  have hb := b.isLt
  obtain ⟨e, heq⟩ := bankRetire_eq hsplit hlives
  rw [heq]
  refine ⟨?dst, ?ret, ?cap, Dev.raise_bnk _ _ _ _, ?own⟩
  case dst =>
    rw [Dev.g, reg_raise_cap _ _ _ (by rw [off_bankDst]; omega) (by rw [off_bankDst, off_bankCap]; omega)]
    exact g_shownRetired_dst d _ e
  case ret =>
    rw [Dev.flag, reg_raise_cap _ _ _ (by rw [off_bankRet]; omega) (by rw [off_bankRet, off_bankCap]; omega)]
    exact flag_setFlag_same _ BNK_RET b.toNat true
  case cap =>
    rw [Dev.g, reg_raise_bank _ _ _ _ (by rw [off_bankCap]; decide)]
    refine (g_s_same _ BNK_CAP _ 0).trans (Nat.mod_eq_of_lt ?_)
    exact lt_of_le_of_lt (Nat.sub_le _ _) (g_lt d BNK_CAP 0)
  case own =>
    rw [Dev.g, reg_raise_cap _ _ _ (by rw [off_bankOwn]; omega) (by rw [off_bankOwn, off_bankCap]; omega)]
    exact g_shownRetired_own d _ e

end

theorem exec_salvageEnd {s : State} {b : BitVec 7} (hdst : s.dev.g BNK_MODE.DST b.toNat = 1) :
    exec (.salvageEnd b) s = .next { s with dev := s.dev.bankRetire b.toNat } :=
  exec_onDev rfl (if_pos hdst)

/-- Settles O32: each command by what it leaves the device as, a handover ended by `handedOver_spec`, a bank retired by
`bankRetire_spec`. -/
theorem ownershipPassesByHandover : Obligations.OwnershipPassesByHandover := by
  unfold Obligations.OwnershipPassesByHandover
  refine fun s b v => ⟨fun hrun hbusy => ?busy, fun hrun hbusy hcode hnew hsalvage => ?own, fun hrun hbusy hcode hnew => ?guest,
    fun old hhand hold => ?complete, fun old hhand => ?forced, fun hdst hsplit => ?salvage⟩
  case busy =>
    refine ⟨_, exec_bnkOwnWrite v hrun, ?_⟩
    dsimp only
    rw [writeOwn_of_busy hbusy]
    exact ⟨g_s_same _ BNK_STAT.HOERR 1 0, rfl, .s (List.mem_singleton.mpr rfl), rfl, rfl, rfl, rfl, rfl⟩
  case own =>
    obtain ⟨hown, hset, hregs⟩ := ownedBy_spec s.dev b.toNat (Nat.mod_lt v.toNat (by decide))
    refine ⟨_, exec_bnkOwnWrite v hrun, ?_⟩
    dsimp only
    rw [writeOwn_of_new hbusy hcode hnew hsalvage]
    exact ⟨hown, hset, rfl, hregs, rfl, rfl, rfl, rfl, rfl⟩
  case guest =>
    obtain ⟨hguest, hrdonly, hset, hregs⟩ := grantedTo_spec s.dev b.toNat (Nat.mod_lt v.toNat (by decide)) (bitsOf_lt v.toNat 2 2)
    refine ⟨_, exec_bnkGuestWrite v hrun, ?_⟩
    dsimp only
    rw [writeGuest_of_new hbusy hcode hnew]
    exact ⟨hguest, hrdonly, hset, rfl, hregs, rfl, rfl, rfl, rfl, rfl⟩
  case complete =>
    obtain ⟨hbnk, hclear, hown, hregs⟩ := handedOver_spec s.dev b.toNat
    exact ⟨_, exec_handoverComplete hhand hold, hbnk, hclear, hown, hregs, rfl, rfl, rfl, rfl, rfl⟩
  case forced =>
    have hb := b.isLt
    obtain ⟨hforced, hcount, hfregs⟩ := forced_spec s.dev b.toNat old
    obtain ⟨hbnk, hclear, -, hregs⟩ := handedOver_spec (s.dev.forced b.toNat old) b.toNat
    refine ⟨_, exec_handoverForced hhand, hbnk.trans (by rw [hforced]), hclear, (hregs.g BNK_FORCED 0 ?_).trans hcount, ?_,
      rfl, rfl, rfl, rfl, rfl⟩
    · rw [List.mem_singleton, off_bankOwn, show BNK_FORCED.off 0 = 0x10058 from rfl]
      omega
    · exact (hfregs.mono (List.subset_cons_self _ _)).trans (hregs.mono (by simp))
  case salvage =>
    obtain ⟨hretired, hret, hcap, hbnk, hown⟩ := bankRetire_spec hsplit (by omega)
    exact ⟨_, exec_salvageEnd hdst, hretired, hret, hcap, hbnk, hown, rfl, rfl, rfl, rfl, rfl⟩

end Sys2Proof.Machine

/-! SUPPORT. The Bell's supervision: what a notice, a self-test and a verdict leave of the outputs, the verdicts of a
read-back test, and the states of a line or current output. -/
namespace Sys2Proof.Machine

/-! ### Telling of an event: notices, tests, results and log entries -/

/-- The registers that a notice may change. -/
def noticeRegs : List Nat := [HRP_NOTLOST.base, HRP_NOTCNT.LOSTF.base, USB_NOTDROP.base, USB_STAT.RWPEND.base]

theorem sameRegs_raise (d : Dev) (src code unit : Nat) : SameRegs d (d.raise src code unit) noticeRegs := fun off hoff => by
  simp only [noticeRegs, List.mem_cons, List.not_mem_nil, or_false, not_or] at hoff
  obtain ⟨hlost, hflag, hdrop, hwake⟩ := hoff
  exact reg_raise d src code unit off hlost hflag hdrop hwake

theorem sameRegs_raiseOnce (d : Dev) (src code unit key : Nat) : SameRegs d (d.raiseOnce src code unit key) noticeRegs := by
  unfold Dev.raiseOnce
  split
  · exact .refl
  · have honce : SameRegs d { d with not := { d.not with once := (src, code, key) :: d.not.once } } noticeRegs :=
      fun _ _ => rfl
    exact honce.trans (sameRegs_raise _ _ _ _)

/-- The registers that tell of a self-test, its verdict, and what is said of them. -/
def tellRegs : List Nat := [LCK_SVC.DONE.base, FLT_STAT.TESTS.base, FLT_NTESTS.base, FLT_NLAST.base, FLT_NTRANS.base,
  CFG_SKIP.FLOG.base] ++ noticeRegs

/-- None of them is a register of the output block. -/
theorem g_of_tellRegs {d e : Dev} (h : SameRegs d e tellRegs) (fl : Fld) (i : Nat)
    (hout : 0x1C000 ≤ fl.off i ∧ fl.off i < 0x1E000 := by decide) : e.g fl i = d.g fl i := by
  have hmem : ∀ off ∈ tellRegs, ¬(0x1C000 ≤ off ∧ off < 0x1E000) := by decide
  exact h.g fl i fun hin => hmem _ hin hout

/-- From `d` to `e` the outputs and the rendered audio stay, and no register changes but those that tell of tests. -/
structure TellFrame (d e : Dev) : Prop where
  bel : e.bel = d.bel
  rda : e.rda = d.rda
  regs : SameRegs d e tellRegs

namespace TellFrame
variable {d e f : Dev}

theorem refl : TellFrame d d := ⟨rfl, rfl, .refl⟩

theorem trans (h : TellFrame d e) (g : TellFrame e f) : TellFrame d f :=
  ⟨g.bel.trans h.bel, g.rda.trans h.rda, h.regs.trans g.regs⟩

theorem ite {p : Prop} {_ : Decidable p} (h : TellFrame d e) (g : TellFrame d f) : TellFrame d (if p then e else f) := by
  split
  · exact h
  · exact g

theorem upd {flt : Flt} {lck : Lck} {boot : Boot} {hrp : Hrp} :
    TellFrame d { d with flt := flt, lck := lck, boot := boot, hrp := hrp } := ⟨rfl, rfl, fun _ _ => rfl⟩

theorem s {fl : Fld} {v i : Nat} (h : fl.off i ∈ tellRegs) : TellFrame d (d.s fl v i) := ⟨rfl, rfl, .s h⟩

theorem cnt {fl : Fld} {i n : Nat} (h : fl.off i ∈ tellRegs) : TellFrame d (d.cnt fl i n) := ⟨rfl, rfl, .cnt h⟩

theorem raise {src code unit : Nat} : TellFrame d (d.raise src code unit) :=
  ⟨d.raise_bel _ _ _, d.raise_rda _ _ _, (sameRegs_raise d _ _ _).mono (List.subset_append_right _ _)⟩

theorem raiseOnce {src code unit key : Nat} : TellFrame d (d.raiseOnce src code unit key) :=
  ⟨d.raiseOnce_bel _ _ _ _, d.raiseOnce_rda _ _ _ _, (sameRegs_raiseOnce d _ _ _ _).mono (List.subset_append_right _ _)⟩

theorem showTests : TellFrame d d.showTests := s (by decide)

theorem beginTest {t : Test} : TellFrame d (d.beginTest t) := .trans .upd (.trans (.cnt (by decide)) .showTests)

theorem startTest {kind i row : Nat} : TellFrame d (d.startTest kind i row) :=
  .ite .refl (.ite (.ite .upd .refl) .beginTest)

theorem serviceDone {t : Test} : TellFrame d (d.serviceDone t) := .ite (.trans .upd (.s (by decide))) .refl

theorem endTest {t : Test} : TellFrame d (d.endTest t) := by
  have hended : TellFrame d ({ d.serviceDone t with
      flt := { (d.serviceDone t).flt with tests := (d.serviceDone t).flt.tests.erase t } } : Dev).showTests :=
    .trans .serviceDone (.trans .upd .showTests)
  unfold Dev.endTest
  dsimp only
  split
  · exact hended.trans (.trans .upd .beginTest)
  · exact hended

theorem logUnit {w : BitVec 64} {detail : Nat} : TellFrame d (d.logUnit w detail) :=
  .ite .refl (.ite .upd (.cnt (by decide)))

theorem testResult {kind i verdict micros st2 : Nat} : TellFrame d (d.testResult kind i verdict micros st2) := upd

theorem scorePass {cls i : Nat} : TellFrame d (d.scorePass cls i).1 := by
  unfold Dev.scorePass
  dsimp only
  split
  · exact .refl
  · split
    · exact .upd
    · exact .trans (.ite .upd .refl) .upd

/-- A field of the output block reads what it read. -/
theorem g (h : TellFrame d e) (fl : Fld) (i : Nat) (hout : 0x1C000 ≤ fl.off i ∧ fl.off i < 0x1E000 := by decide) :
    e.g fl i = d.g fl i := g_of_tellRegs h.regs fl i hout

end TellFrame

/-! ### The states of an output (R707, R724) -/

theorem off_outState (n : Nat) : BEL_OSTATE.MST.off n = 0x1C404 + 8 * n := rfl

theorem outState_ne (n : Nat) {off : Nat} (h : off < 0x1C404) : BEL_OSTATE.MST.off n ≠ off := by
  rw [off_outState]
  omega

/-- A channel's state register lies in the output block. -/
theorem outState_inBlock {n : Nat} (hn : n < 112) :
    0x1C000 ≤ BEL_OSTATE.MST.off n ∧ BEL_OSTATE.MST.off n < 0x1E000 := by
  rw [off_outState]
  omega

theorem est_out_of_reg {d e : Dev} {n : Nat} (h : e.reg (BEL_OSTATE.MST.off n) = d.reg (BEL_OSTATE.MST.off n)) :
    e.est kOut n = d.est kOut n := by
  have hmst : e.g BEL_OSTATE.MST n = d.g BEL_OSTATE.MST n := by rw [Dev.g, h, Dev.g]
  have hdst : e.g BEL_OSTATE.DST n = d.g BEL_OSTATE.DST n := by
    rw [Dev.g, Dev.g, show BEL_OSTATE.DST.off n = BEL_OSTATE.MST.off n from rfl, h]
  exact congrArg₂ max hmst hdst

/-- The targeted test of an output that is not retired runs or waits once it is started. -/
theorem startTest_out {d : Dev} {n row : Nat} (h : d.est kOut n ≠ RETIRED) :
    Test.of kOut n row ∈ (d.startTest kOut n row).flt.tests ∨
      Test.of kOut n row ∈ (d.startTest kOut n row).flt.waiting := by
  have hlives : d.unitRetired kOut n row = false := decide_eq_false h
  unfold Dev.startTest
  simp only [hlives, Bool.false_or, Bool.or_eq_true, List.contains_iff_mem]
  split
  next hknown => exact hknown
  next => exact .inl (List.mem_append_right _ (List.mem_singleton.mpr rfl))

/-- What an output's DST shows is stored in it, and the effective state beside it. -/
theorem putDst_out (d : Dev) (n v : Nat) : ∃ e, d.putDst kOut n v = (d.s BEL_OSTATE.DST v n).s BEL_OSTATE.EST e n :=
  ⟨_, rfl⟩

theorem putDst_out_retired (d : Dev) (n : Nat) :
    (d.putDst kOut n RETIRED).g BEL_OSTATE.DST n = 3 ∧ (d.putDst kOut n RETIRED).bel = d.bel ∧
      (d.putDst kOut n RETIRED).rda = d.rda := by
  obtain ⟨e, heq⟩ := putDst_out d n RETIRED
  rw [heq, g_s_bits _ BEL_OSTATE.EST BEL_OSTATE.DST e n n (h := by decide), g_s_same d BEL_OSTATE.DST]
  exact ⟨rfl, rfl, rfl⟩

/-- The fault logic retires an output, whatever it held and whether or not a split is latched (R727, R728). -/
theorem logicDst_out_retired (d : Dev) (n : Nat) :
    (d.logicDst kOut n RETIRED).g BEL_OSTATE.DST n = 3 ∧ (d.logicDst kOut n RETIRED).bel = d.bel ∧
      (d.logicDst kOut n RETIRED).rda = d.rda := by
  have hmost : ¬ RETIRED < d.dst kOut n := not_lt.mpr (Nat.le_of_lt_succ (g_lt d BEL_OSTATE.DST n))
  unfold Dev.logicDst
  dsimp only
  split
  · split
    next hor =>
      simp only [Bool.or_eq_true, decide_eq_true_eq] at hor
      exact ⟨hor.resolve_right hmost, rfl, rfl⟩
    next => exact putDst_out_retired _ n
  · split
    next hretired => exact ⟨hretired, rfl, rfl⟩
    next => exact putDst_out_retired d n

/-! ### The verdicts of a read-back test (R399, R711, R712) -/

/-- A failed test is a lasting fault: it is told, and the unit bears its consequence. -/
theorem judgeUnit_fail (d : Dev) (kind i row at_ micros : Nat) :
    ∃ e w, TellFrame d e ∧ d.judgeUnit kind i row at_ false micros = e.lastUnit kind i row w :=
  ⟨_, _, .trans .testResult (.trans (.cnt (by decide)) .raise), rfl⟩

/-- A passed test whose score stays below the limit is a transient: it is told, and the unit goes on. -/
theorem judgeUnit_pass {d : Dev} {kind i : Nat} (row at_ micros : Nat)
    (hscore : (d.scorePass (classOf kind i) (scoreIdx kind i)).2 = false) :
    ∃ e, TellFrame d e ∧ d.judgeUnit kind i row at_ true micros = e.passUnit kind i := by
  unfold Dev.judgeUnit
  simp only [if_true, hscore, Bool.false_eq_true, if_false]
  exact ⟨_, .trans .scorePass (.trans .testResult (.trans (.cnt (by decide)) (.ite .raiseOnce .refl))), rfl⟩

theorem scorePass_below {d : Dev} {cls i : Nat}
    (h : d.g FLT_THR.LIMIT cls = 0 ∨ d.score cls i + 1 < d.g FLT_THR.LIMIT cls) : (d.scorePass cls i).2 = false := by
  unfold Dev.scorePass
  dsimp only
  split
  · rfl
  next hscored =>
    have hlimit : d.g FLT_THR.LIMIT cls ≠ 0 := fun h0 => hscored (by simp [h0])
    rw [if_neg (not_le.mpr (h.resolve_left hlimit))]

/-- The monitor of a line output is out of use; the output's own state stays. -/
theorem lastUnit_monitor (d : Dev) {lo : Nat} (hlo : lo < 8) (row : Nat) (w : BitVec 64) :
    (d.lastUnit kMon lo row w).g BEL_OSTATE.MONRET lo = 1 ∧
      (d.lastUnit kMon lo row w).g BEL_OSTATE.DST lo = d.g BEL_OSTATE.DST lo ∧
      (d.lastUnit kMon lo row w).bel = d.bel ∧ (d.lastUnit kMon lo row w).rda = d.rda := by
  have hframe : TellFrame (d.s BEL_OSTATE.MONRET 1 lo) (d.lastUnit kMon lo row w) := .trans .raise .logUnit
  refine ⟨?_, ?_, hframe.bel, hframe.rda⟩
  · exact (hframe.g BEL_OSTATE.MONRET lo (outState_inBlock (by omega))).trans (g_s_same d BEL_OSTATE.MONRET 1 lo)
  · exact (hframe.g BEL_OSTATE.DST lo (outState_inBlock (by omega))).trans
      (g_s_bits d BEL_OSTATE.MONRET BEL_OSTATE.DST 1 lo lo (h := by decide))

/-- A line output is retired. -/
theorem lastUnit_lineOutput (d : Dev) {lo : Nat} (hlo : lo < 8) (row : Nat) (w : BitVec 64) :
    (d.lastUnit kOut lo row w).g BEL_OSTATE.DST lo = 3 ∧ (d.lastUnit kOut lo row w).bel = d.bel ∧
      (d.lastUnit kOut lo row w).rda = d.rda := by
  obtain ⟨hdst, hbel, hrda⟩ := logicDst_out_retired d lo
  have hframe : TellFrame (d.logicDst kOut lo RETIRED) (d.lastUnit kOut lo row w) := by
    rw [show d.lastUnit kOut lo row w = (d.retireUnit kOut lo w).raise nBEL 4 lo from if_pos hlo]
    exact .trans .logUnit .raise
  have hkept := hframe.g BEL_OSTATE.DST lo (outState_inBlock (by omega))
  exact ⟨hkept.trans hdst, hframe.bel.trans hbel, hframe.rda.trans hrda⟩

/-- The end of line output `lo`'s read-back test, before its verdict. -/
def Dev.readbackEnded (d : Dev) (lo : Nat) : Dev :=
  { d.endTest (Test.of kOut lo 0) with
    bel := { d.bel with rbStep := setAt d.bel.rbStep lo 0, rbBad := setAt d.bel.rbBad lo 0 } }

theorem endReadback_eq (d : Dev) (lo step : Nat) (pass : Bool) (micros : Nat) :
    d.endReadback lo step pass micros =
      if pass then (d.readbackEnded lo).judgeUnit kOut lo 0 0 true micros
      else (d.readbackEnded lo).judgeUnit (if step = 3 then kOut else kMon) lo 0 step false micros := rfl

theorem scores_endTest (d : Dev) (t : Test) : (d.endTest t).flt.scores = d.flt.scores := by
  have hdone : (d.serviceDone t).flt = d.flt := by
    unfold Dev.serviceDone
    split
    · exact Dev.s_flt _ _ _ _
    · rfl
  unfold Dev.endTest
  dsimp only
  split
  all_goals
    change (d.serviceDone t).flt.scores = d.flt.scores
    rw [hdone]

section
variable {d : Dev} {lo : Nat}

theorem readbackEnded_spec (hlen : d.bel.rbStep.length = 8) (hlo : lo < 8) :
    (d.readbackEnded lo).bel.rbStep.getD lo 0 = 0 ∧ (d.readbackEnded lo).rda = d.rda ∧
      SameRegs d (d.readbackEnded lo) tellRegs := by
  have hframe : TellFrame d (d.endTest (Test.of kOut lo 0)) := .endTest
  refine ⟨?_, hframe.rda, hframe.regs⟩
  change (setAt d.bel.rbStep lo 0).getD lo 0 = 0
  rw [getD_setAt, if_pos ⟨rfl, by omega⟩]

/-- A failure of step 1 or 2 is the monitor's (R399). -/
theorem endReadback_monitor (hlen : d.bel.rbStep.length = 8) (hlo : lo < 8) {step : Nat} (hstep : step ≠ 3) (micros : Nat) :
    (d.endReadback lo step false micros).g BEL_OSTATE.MONRET lo = 1 ∧
      (d.endReadback lo step false micros).g BEL_OSTATE.DST lo = d.g BEL_OSTATE.DST lo ∧
      (d.endReadback lo step false micros).bel.rbStep.getD lo 0 = 0 ∧ (d.endReadback lo step false micros).rda = d.rda := by
  obtain ⟨hended, hrda, hregs⟩ := readbackEnded_spec hlen hlo
  obtain ⟨e, w, hframe, heq⟩ := judgeUnit_fail (d.readbackEnded lo) kMon lo 0 step micros
  obtain ⟨hmon, hdst, hbel, hkept⟩ := lastUnit_monitor e hlo 0 w
  have hout := outState_inBlock (n := lo) (by omega)
  rw [endReadback_eq, if_neg Bool.false_ne_true, if_neg hstep, heq]
  refine ⟨hmon, ?_, by rw [hbel, hframe.bel, hended], by rw [hkept, hframe.rda, hrda]⟩
  rw [hdst, hframe.g BEL_OSTATE.DST lo hout]
  exact g_of_tellRegs hregs BEL_OSTATE.DST lo hout

/-- A failure of step 3 retires the output (R399). -/
theorem endReadback_output (hlen : d.bel.rbStep.length = 8) (hlo : lo < 8) (micros : Nat) :
    (d.endReadback lo 3 false micros).g BEL_OSTATE.DST lo = 3 ∧
      (d.endReadback lo 3 false micros).bel.rbStep.getD lo 0 = 0 ∧ (d.endReadback lo 3 false micros).rda = d.rda := by
  obtain ⟨hended, hrda, -⟩ := readbackEnded_spec hlen hlo
  obtain ⟨e, w, hframe, heq⟩ := judgeUnit_fail (d.readbackEnded lo) kOut lo 0 3 micros
  obtain ⟨hdst, hbel, hkept⟩ := lastUnit_lineOutput e hlo 0 w
  rw [endReadback_eq, if_neg Bool.false_ne_true, if_pos rfl, heq]
  exact ⟨hdst, by rw [hbel, hframe.bel, hended], by rw [hkept, hframe.rda, hrda]⟩

/-- A pass below the class limit counts a mismatch that did not last (R385). -/
theorem endReadback_passed (hlen : d.bel.rbStep.length = 8) (hlo : lo < 8) (step micros : Nat)
    (hscore : d.g FLT_THR.LIMIT 4 = 0 ∨ d.score 4 lo + 1 < d.g FLT_THR.LIMIT 4) :
    (d.endReadback lo step true micros).g BEL_RBMIS = min (d.g BEL_RBMIS + 1) 0xFFFFFFFF ∧
      (d.endReadback lo step true micros).g BEL_OSTATE.DST lo = d.g BEL_OSTATE.DST lo ∧
      (d.endReadback lo step true micros).bel.rbStep.getD lo 0 = 0 ∧ (d.endReadback lo step true micros).rda = d.rda := by
  obtain ⟨hended, hrda, hregs⟩ := readbackEnded_spec hlen hlo
  have hclass : classOf kOut lo = 4 := if_pos hlo
  have hindex : scoreIdx kOut lo = lo := if_neg (by simp; omega)
  have hlow : ((d.readbackEnded lo).scorePass (classOf kOut lo) (scoreIdx kOut lo)).2 = false := by
    rw [hclass, hindex]
    refine scorePass_below ?_
    rw [hregs.g FLT_THR.LIMIT 4 (by decide), Dev.score,
      show (d.readbackEnded lo).flt.scores = d.flt.scores from scores_endTest d _]
    exact hscore
  obtain ⟨e, hframe, heq⟩ := judgeUnit_pass 0 0 micros hlow
  have hpass : e.passUnit kOut lo = e.cnt BEL_RBMIS := if_pos hlo
  have hout := outState_inBlock (n := lo) (by omega)
  rw [endReadback_eq, if_pos rfl, heq, hpass]
  refine ⟨?_, ?_, ?_, hframe.rda.trans hrda⟩
  · rw [← g_of_tellRegs hregs BEL_RBMIS 0, ← hframe.g BEL_RBMIS 0]
    exact g_cnt_same e BEL_RBMIS 0 1
  · rw [Dev.cnt, g_s_reg _ _ BEL_OSTATE.DST _ _ _ (outState_ne lo (by decide)), hframe.g BEL_OSTATE.DST lo hout]
    exact g_of_tellRegs hregs BEL_OSTATE.DST lo hout
  · exact (congrArg (fun b : Bel => b.rbStep.getD lo 0) hframe.bel).trans hended

end

/-! ### Read-back windows (R385) -/

/-- The device with `n` bad windows of line output `lo` in a row. -/
def Dev.badWindows (d : Dev) (lo n : Nat) : Dev := { d with bel := { d.bel with rbBad := setAt d.bel.rbBad lo n } }

/-- The device as a mismatch of line output `lo` leaves it: the read-back test begins at step 1. -/
def Dev.mismatched (d : Dev) (lo : Nat) : Dev :=
  { d with bel := { d.bel with rbBad := setAt d.bel.rbBad lo 0, rbStep := setAt d.bel.rbStep lo 1 } }

theorem readbackWindow_rda (d : Dev) (lo : Nat) (diff : Half) : (readbackWindow d lo diff).rda = d.rda := by
  unfold readbackWindow
  split
  · rfl
  · split
    · split
      · exact Dev.startTest_rda _ _ _ _
      · rfl
    · rfl

section
variable {d : Dev} {lo : Nat} {diff : Half}

theorem readbackWindow_of_watched (hest : d.est kOut lo = ENABLED) (hmon : d.on BEL_OSTATE.MONRET lo = false)
    (hstarted : d.bel.started = true) (hstep : d.bel.rbStep.getD lo 0 = 0) :
    readbackWindow d lo diff =
      if (BitVec.ofNat 16 (d.g BEL_RBTOL)).toInt < diff.toInt then
        if d.bel.rbBad.getD lo 0 = 1 then (d.mismatched lo).startTest kOut lo 0 else d.badWindows lo 1
      else d.badWindows lo 0 :=
  if_neg (by rw [hest, hmon, hstarted, hstep]; decide)

theorem badWindows_spec (hlen : d.bel.rbBad.length = 8) (hlo : lo < 8) (n : Nat) :
    (d.badWindows lo n).bel.rbBad.getD lo 0 = n ∧ (d.badWindows lo n).flt = d.flt := by
  refine ⟨?_, rfl⟩
  change (setAt d.bel.rbBad lo n).getD lo 0 = n
  rw [getD_setAt, if_pos ⟨rfl, by omega⟩]

theorem mismatched_spec (hbad : d.bel.rbBad.length = 8) (hsteps : d.bel.rbStep.length = 8) (hlo : lo < 8) :
    (d.mismatched lo).bel.rbBad.getD lo 0 = 0 ∧ (d.mismatched lo).bel.rbStep.getD lo 0 = 1 := by
  change (setAt d.bel.rbBad lo 0).getD lo 0 = 0 ∧ (setAt d.bel.rbStep lo 1).getD lo 0 = 1
  rw [getD_setAt, getD_setAt, if_pos ⟨rfl, by omega⟩, if_pos ⟨rfl, by omega⟩]
  exact ⟨rfl, rfl⟩

end

/-! ### What the supervision commands do -/

theorem outCh_setOut_same (d : Dev) (n : Nat) (o : OutSt) : (d.setOut n o).outCh n = o := sget_sput_same _ _ _ _

theorem outCh_setOut_other (d : Dev) {n j : Nat} (o : OutSt) (h : j ≠ n) : (d.setOut n o).outCh j = d.outCh j :=
  sget_sput_other _ _ _ _ _ _ h

/-- Line output `n` presenting 0 with SHORT set. -/
def Dev.shorted (d : Dev) (n : Nat) : Dev := (d.setOut n { d.outCh n with shown := 0 }).s BEL_OSTATE.SHORT 1 n

/-- Current output `co` out of compliance, counted. -/
def Dev.uncompliant (d : Dev) (co : Nat) : Dev :=
  (d.s BEL_COSTAT.COMPL (d.g BEL_COSTAT.COMPL ||| 2 ^ co)).cnt BEL_COMPLN

/-- A retry of what set a flag: the flag is cleared where its cause is gone. -/
def Dev.retried (d : Dev) (fl : Fld) (i : Nat) (gone : Bool) : Dev := if d.on fl i && gone then d.s fl 0 i else d

section
variable {s : State} {lo : BitVec 3}

theorem exec_stepPassed (htest : Test.of kOut lo.toNat 0 ∈ s.dev.flt.tests) (hstep : s.dev.bel.rbStep.getD lo.toNat 0 < 3) :
    exec (.readbackTestStepEnd lo true) s = .next { s with dev := { s.dev with
      bel := { s.dev.bel with rbStep := setAt s.dev.bel.rbStep lo.toNat (s.dev.bel.rbStep.getD lo.toNat 0 + 1) } } } := by
  change execReadbackTestStepEnd lo true s = _
  rw [execReadbackTestStepEnd, onDev]
  dsimp only
  rw [if_neg (by simpa using htest), if_pos (by simpa only [Bool.true_and, decide_eq_true_eq] using hstep)]

/-- A failed step, or the last one, ends the test. -/
theorem exec_testEnds {pass : Bool} (htest : Test.of kOut lo.toNat 0 ∈ s.dev.flt.tests)
    (hend : pass = false ∨ 3 ≤ s.dev.bel.rbStep.getD lo.toNat 0) :
    ∃ micros, exec (.readbackTestStepEnd lo pass) s =
      .next { s with dev := s.dev.endReadback lo.toNat (s.dev.bel.rbStep.getD lo.toNat 0) pass micros } := by
  have hlast : ¬(pass && decide (s.dev.bel.rbStep.getD lo.toNat 0 < 3)) = true := by
    simp only [Bool.and_eq_true, decide_eq_true_eq, not_and, not_lt]
    intro hpass
    exact hend.resolve_left (by simp [hpass])
  refine ⟨if s.dev.bel.rbStep.getD lo.toNat 0 = 1 then 1000
    else if s.dev.bel.rbStep.getD lo.toNat 0 = 2 then 11000 else 11000, ?_⟩
  change execReadbackTestStepEnd lo pass s = _
  rw [execReadbackTestStepEnd, onDev]
  dsimp only
  rw [if_neg (by simpa using htest), if_neg hlast]

/-- An output that is not retired and whose flag is clear acts. -/
theorem not_idle {est : Nat} {flag : Bool} (hlives : est ≠ RETIRED) (hclear : flag = false) :
    ¬(decide (est = RETIRED) || flag) = true := by
  simp [hlives, hclear]

theorem exec_loCurrentLimit (hlives : s.dev.est kOut lo.toNat ≠ RETIRED)
    (hshort : s.dev.on BEL_OSTATE.SHORT lo.toNat = false) :
    exec (.loCurrentLimit lo) s = .next { s with dev := (s.dev.shorted lo.toNat).raise nBEL 2 lo.toNat } := by
  change execLoCurrentLimit lo s = _
  rw [execLoCurrentLimit, onDev, if_neg (not_idle hlives hshort)]
  rfl

theorem exec_coComplianceFlag {co : BitVec 2} (hlives : s.dev.est kOut (8 + co.toNat) ≠ RETIRED)
    (hload : s.dev.on BEL_OSTATE.LOAD (8 + co.toNat) = false) :
    exec (.coComplianceFlag co) s =
      .next { s with dev := (s.dev.uncompliant co.toNat).startTest kOut (8 + co.toNat) 0 } := by
  change execCoComplianceFlag co s = _
  rw [execCoComplianceFlag, onDev]
  dsimp only
  rw [if_neg (not_idle hlives hload)]
  rfl

theorem exec_readbackWindow (diff : Half) :
    exec (.readbackWindow lo diff) s = .next { s with dev := readbackWindow s.dev lo.toNat diff } := rfl

theorem exec_loShortRetry (holds : Bool) :
    exec (.loShortRetry lo holds) s = .next { s with dev := s.dev.retried BEL_OSTATE.SHORT lo.toNat (!holds) } := rfl

theorem exec_coLoadRetry (co : BitVec 2) (holds : Bool) :
    exec (.coLoadRetry co holds) s = .next { s with dev := s.dev.retried BEL_OSTATE.LOAD (8 + co.toNat) holds } := rfl

end

theorem shorted_spec (d : Dev) {n : Nat} (hn : n < 112) :
    ((d.shorted n).raise nBEL 2 n).g BEL_OSTATE.SHORT n = 1 ∧ (((d.shorted n).raise nBEL 2 n).outCh n).shown = 0 ∧
      ∀ j, j ≠ n → ((d.shorted n).raise nBEL 2 n).outCh j = d.outCh j := by
  have hframe : TellFrame (d.shorted n) ((d.shorted n).raise nBEL 2 n) := .raise
  have hout : ∀ j, ((d.shorted n).raise nBEL 2 n).outCh j = (d.setOut n { d.outCh n with shown := 0 }).outCh j := fun j =>
    congrArg (fun b : Bel => sget OutSt.zero j b.out) hframe.bel
  refine ⟨?_, ?_, fun j hj => ?_⟩
  · exact (hframe.g BEL_OSTATE.SHORT n (outState_inBlock hn)).trans (g_s_same _ BEL_OSTATE.SHORT 1 n)
  · rw [hout, outCh_setOut_same]
  · rw [hout, outCh_setOut_other _ _ hj]

theorem uncompliant_spec (d : Dev) {co : Nat} (hco : co < 4) :
    bit ((d.uncompliant co).g BEL_COSTAT.COMPL) co = true ∧
      (d.uncompliant co).g BEL_COMPLN = min (d.g BEL_COMPLN + 1) 0xFFFFFFFF ∧
      (d.uncompliant co).bel = d.bel ∧ (d.uncompliant co).rda = d.rda ∧
      (d.uncompliant co).est kOut (8 + co) = d.est kOut (8 + co) := by
  refine ⟨?_, ?_, rfl, rfl, est_out_of_reg ?_⟩
  · rw [Dev.uncompliant, Dev.cnt, g_s_reg _ _ BEL_COSTAT.COMPL _ _ _ (by decide), g_s_same _ BEL_COSTAT.COMPL, bit,
      Nat.testBit_mod_two_pow, Nat.testBit_or, Nat.testBit_two_pow_self, Bool.or_true, Bool.and_true]
    exact decide_eq_true hco
  · rw [Dev.uncompliant, g_cnt_same _ BEL_COMPLN, g_s_reg _ _ BEL_COMPLN _ _ _ (by decide)]
    rfl
  · rw [Dev.uncompliant, reg_cnt_other _ _ _ _ _ (outState_ne _ (by decide)),
      reg_s_other _ _ _ _ _ (outState_ne _ (by decide))]

theorem retry_spec (d : Dev) (fl : Fld) (i : Nat) (gone : Bool) (hon : d.on fl i = true) (hhi : fl.hi < 32 := by decide)
    (hlo : fl.lo ≤ fl.hi := by decide) :
    (d.retried fl i gone).on fl i = !gone ∧ SameRegs d (d.retried fl i gone) [fl.off i] ∧
      (d.retried fl i gone).bel = d.bel := by
  unfold Dev.retried
  cases gone with
  | false => simpa [hon] using SameRegs.refl
  | true =>
    rw [if_pos (by simp [hon])]
    refine ⟨?_, .s (List.mem_singleton.mpr rfl), rfl⟩
    rw [Dev.on, g_s_same _ _ _ _ hhi hlo]
    simp

/-- Settles O35: a window by the run of bad ones before it, the end of a test by the step it ends in
(`endReadback_monitor`, `endReadback_output`, `endReadback_passed`), each other command by what it leaves the device as. -/
theorem outputsAreSupervised : Obligations.OutputsAreSupervised := by
  unfold Obligations.OutputsAreSupervised
  intro s hbad hsteps
  refine ⟨fun lo diff hest hmon hstarted hstep => ?window, fun lo htest => ⟨fun hstep => ?next, fun hstep => ?monitor,
    fun hstep => ⟨?output, fun hscore => ?passed⟩⟩, fun lo hlives hshort => ?limit, fun lo holds hshort => ?shortRetry,
    fun co hlives hload => ?flag, fun co holds hload => ?loadRetry⟩
  case window =>
    refine ⟨_, exec_readbackWindow diff, ⟨rfl, rfl, rfl, rfl, rfl⟩, readbackWindow_rda _ _ _, ?_⟩
    dsimp only
    rw [readbackWindow_of_watched hest hmon hstarted hstep]
    refine ⟨fun hgood => ?_, fun hover hrun => ?_, fun hover hrun => ?_⟩
    · rw [if_neg (not_lt.mpr hgood)]
      exact badWindows_spec hbad lo.isLt 0
    · rw [if_pos hover, if_neg (by omega)]
      exact badWindows_spec hbad lo.isLt 1
    · rw [if_pos hover, if_pos hrun, Dev.startTest_bel]
      obtain ⟨hcleared, hfirst⟩ := mismatched_spec hbad hsteps lo.isLt
      have hlives : (s.dev.mismatched lo.toNat).est kOut lo.toNat ≠ RETIRED := by
        rw [show (s.dev.mismatched lo.toNat).est kOut lo.toNat = ENABLED from hest]
        decide
      exact ⟨hcleared, hfirst, startTest_out hlives⟩
  case next =>
    refine ⟨_, exec_stepPassed htest hstep, ?_, rfl, fun _ _ => rfl, rfl, rfl, rfl, rfl, rfl⟩
    dsimp only
    rw [getD_setAt, if_pos ⟨rfl, by omega⟩]
  case monitor =>
    obtain ⟨micros, hexec⟩ := exec_testEnds htest (.inl rfl)
    have hearly : s.dev.bel.rbStep.getD lo.toNat 0 ≠ 3 := by omega
    obtain ⟨hmon, hdst, hended, hrda⟩ := endReadback_monitor hsteps lo.isLt hearly micros
    exact ⟨_, hexec, hmon, hdst, hended, hrda, rfl, rfl, rfl, rfl, rfl⟩
  case output =>
    obtain ⟨micros, hexec⟩ := exec_testEnds htest (.inl rfl)
    obtain ⟨hdst, hended, hrda⟩ := endReadback_output hsteps lo.isLt micros
    rw [hstep] at hexec
    exact ⟨_, hexec, hdst, hended, hrda, rfl, rfl, rfl, rfl, rfl⟩
  case passed =>
    obtain ⟨micros, hexec⟩ := exec_testEnds (pass := true) htest (.inr hstep.ge)
    obtain ⟨hcount, hdst, hended, hrda⟩ := endReadback_passed hsteps lo.isLt
      (s.dev.bel.rbStep.getD lo.toNat 0) micros hscore
    exact ⟨_, hexec, hcount, hdst, hended, hrda, rfl, rfl, rfl, rfl, rfl⟩
  case limit =>
    obtain ⟨hset, hzero, hothers⟩ := shorted_spec s.dev (n := lo.toNat) (by omega)
    refine ⟨_, exec_loCurrentLimit hlives hshort, ?_⟩
    dsimp only
    rw [Dev.raise_flt, Dev.raise_rda]
    exact ⟨hset, hzero, hothers, rfl, rfl, rfl, rfl, rfl, rfl, rfl⟩
  case shortRetry =>
    obtain ⟨hon, hregs, hbel⟩ := retry_spec s.dev BEL_OSTATE.SHORT lo.toNat (!holds) hshort
    exact ⟨_, exec_loShortRetry holds, hon.trans (Bool.not_not _), hregs, hbel, rfl, rfl, rfl, rfl, rfl⟩
  case flag =>
    obtain ⟨hcompl, hcount, hbel, hrda, hest⟩ := uncompliant_spec s.dev co.isLt
    have hframe : TellFrame _ ((s.dev.uncompliant co.toNat).startTest kOut (8 + co.toNat) 0) := .startTest
    have htested := startTest_out (d := s.dev.uncompliant co.toNat) (row := 0) (hest.trans_ne hlives)
    refine ⟨_, exec_coComplianceFlag hlives hload, ?_⟩
    dsimp only
    rw [hframe.g BEL_COSTAT.COMPL 0, hframe.g BEL_COMPLN 0, hframe.bel, hframe.rda]
    exact ⟨hcompl, hcount, hbel, htested, hrda, rfl, rfl, rfl, rfl, rfl⟩
  case loadRetry =>
    obtain ⟨hon, hregs, hbel⟩ := retry_spec s.dev BEL_OSTATE.LOAD (8 + co.toNat) holds hload
    exact ⟨_, exec_coLoadRetry co holds, hon, hregs, hbel, rfl, rfl, rfl, rfl, rfl⟩

end Sys2Proof.Machine

/-! SUPPORT. The Bell's rows, queue exits and serial ports: what a fetched row appends to its channel's queue, what the exit of
one channel changes and what it leaves of the others, and what the release of the mute and the ports leave of the outputs. -/
namespace Sys2Proof.Machine

/-! ### Row fetch (R360, R361, R369) -/

/-- From `d` to `e` channel `n` becomes `o` and nothing else changes. -/
structure ChannelPut (n : Nat) (d : Dev) (o : OutSt) (e : Dev) : Prop where
  rest : ∃ m, e = { d with bel := { d.bel with out := m } }
  here : e.outCh n = o
  others : ∀ j, j ≠ n → e.outCh j = d.outCh j

namespace ChannelPut
variable {n : Nat} {d e f : Dev} {o u : OutSt}

theorem setOut : ChannelPut n d o (d.setOut n o) :=
  ⟨⟨_, rfl⟩, outCh_setOut_same d n o, fun _ hj => outCh_setOut_other d o hj⟩

theorem trans (h : ChannelPut n d o e) (g : ChannelPut n e u f) : ChannelPut n d u f := by
  obtain ⟨⟨_, rfl⟩, -, hothers⟩ := h
  obtain ⟨⟨_, rfl⟩, hhere, gothers⟩ := g
  exact ⟨⟨_, rfl⟩, hhere, fun j hj => (gothers j hj).trans (hothers j hj)⟩

end ChannelPut

/-- A code that comes in time for its exit joins a queue with room. -/
theorem arrive_of_room {d : Dev} {n p : Nat} (v : Int) (hroom : (d.outCh n).q.length < 64)
    (hdue : whole d.brt.pos ≤ p + d.g BEL_PLAT) (hahead : ∀ m ∈ d.bel.exitAt, m < p + d.g BEL_PLAT) :
    d.arrive n p v = d.setOut n { d.outCh n with q := (d.outCh n).q ++ [(p, v)] } := by
  unfold Dev.arrive
  cases hexit : d.bel.exitAt with
  | none =>
    simp only [Bool.or_false, decide_eq_false (not_lt.mpr hdue), Bool.false_and, Bool.false_eq_true, if_false,
      if_neg (not_le.mpr hroom)]
  | some m =>
    have hm := hahead m hexit
    simp only [decide_eq_false (not_lt.mpr hdue), decide_eq_false (not_le.mpr hm), Bool.or_self, Bool.false_and,
      Bool.false_eq_true, if_false, if_neg (not_le.mpr hroom)]

/-- The codes of a row join the queue one after another. -/
theorem foldl_arrive {d : Dev} {n r : Nat} (code : Nat → Int) (hdue : whole d.brt.pos ≤ r + d.g BEL_PLAT)
    (hahead : ∀ m ∈ d.bel.exitAt, m < r + d.g BEL_PLAT) :
    ∀ k, (d.outCh n).q.length + k ≤ 64 →
      ChannelPut n d { d.outCh n with q := (d.outCh n).q ++ (List.range k).map (fun i => (r + i, code i)) }
        ((List.range k).foldl (fun d i => d.arrive n (r + i) (code i)) d) := by
  intro k
  induction k with
  | zero => exact fun _ => ⟨⟨d.bel.out, rfl⟩, by simp, fun _ _ => rfl⟩
  | succ k ih =>
    intro hroom
    have hput := ih (by omega)
    rw [List.range_succ, List.foldl_append, List.foldl_cons, List.foldl_nil]
    generalize (List.range k).foldl (fun d i => d.arrive n (r + i) (code i)) d = e at hput ⊢
    have hlast : e.arrive n (r + k) (code k) = e.setOut n { e.outCh n with q := (e.outCh n).q ++ [(r + k, code k)] } := by
      refine arrive_of_room _ ?_ ?_ ?_
      · rw [hput.here]
        simp
        omega
      all_goals
        obtain ⟨⟨m, rfl⟩, -, -⟩ := hput
      · exact hdue.trans (Nat.add_le_add_right (Nat.le_add_right r k) _)
      · exact fun m hm => (hahead m hm).trans_le (Nat.add_le_add_right (Nat.le_add_right r k) _)
    rw [hlast, hput.here]
    simpa [List.map_append] using hput.trans ChannelPut.setOut

/-- A row that is rendered and kept is there. -/
theorem busRow_ready {d : Dev} {bus r cur : Nat} (hblock : d.rda.block = some cur) (hdone : r + 16 ≤ cur * d.blk)
    (hfrom : d.bel.busFrom ≤ r) (hkept : cur * d.blk ≤ r + 512) :
    d.busRow bus r = .ready ((List.range 16).map (fun i => sget 0 (busKey bus (r + i)) d.rda.bus)) := by
  have hin : ¬(decide (r < d.bel.busFrom) || decide (r + 512 < cur * d.blk)) = true := by
    simp only [Bool.or_eq_true, decide_eq_true_eq]
    omega
  unfold Dev.busRow
  simp only [hblock]
  rw [if_neg (by omega), if_neg hin]

/-- Channel `n` with its next row moved on, the clipped codes of the row counted. -/
def Dev.rowTaken (d : Dev) (n r : Nat) (lat : Option (Nat × Word × List Word)) (clipped : Nat) : Dev :=
  (d.setOut n { d.outCh n with row := some (r + 16), lat := lat }).cnt BEL_CLIP 0 clipped

/-- The fetch of a mix-bus row that is there, under the route as it stands. -/
theorem fetchRow_of_ready {d : Dev} {n r fuel : Nat} {v : List Int} (hlat : (d.outCh n).lat = none)
    (hrow : (d.outCh n).row = some r) (hdue : r + d.g BEL_PLAT ≤ whole d.brt.pos + 48)
    (htype : d.g BEL_ROUTE.TYPE n = 1) (hready : d.busRow (d.g BEL_ROUTE.BUS n) r = .ready v) :
    ∃ lat clipped, d.fetchRow n (fuel + 1) = (List.range 16).foldl (fun (e : Dev) i => e.arrive n (r + i)
      ((v.map (routeCode (d.g BEL_ROUTE.GAIN n))).getD i (0, false)).1) (d.rowTaken n r lat clipped) := by
  have hfresh : d.latched n (r / d.blk) = Dev.latched.fresh d n := by
    unfold Dev.latched
    rw [hlat]
  have hbus : bitsOf (d.reg (BEL_ROUTE.TYPE.off n)).toNat 1 0 = 1 := htype
  have hthere : d.busRow (bitsOf (d.reg (BEL_ROUTE.TYPE.off n)).toNat 6 2) r = .ready v := hready
  unfold Dev.fetchRow
  simp only [hrow, Option.getD_some, if_neg (not_lt.mpr hdue), hfresh, Dev.latched.fresh, hbus, hthere]
  exact ⟨_, _, rfl⟩

/-- The code of a sample under a route's gain. -/
theorem routeCode_fst (gain : Nat) (v : Int) : (routeCode gain v).1 = codeClip (roundQ ((v : Rat) * gainOf gain)) := rfl

/-- A due mix-bus row that is rendered and kept joins its channel's queue, sample by sample. -/
theorem fetchRow_spec {d : Dev} {n r cur : Nat} (fuel : Nat) (hlat : (d.outCh n).lat = none)
    (hrow : (d.outCh n).row = some r) (htype : d.g BEL_ROUTE.TYPE n = 1) (hroom : (d.outCh n).q.length ≤ 48)
    (hblock : d.rda.block = some cur) (hdone : r + 16 ≤ cur * d.blk) (hfrom : d.bel.busFrom ≤ r)
    (hkept : cur * d.blk ≤ r + 512) (hdue : r + d.g BEL_PLAT ≤ whole d.brt.pos + 48)
    (htime : whole d.brt.pos ≤ r + d.g BEL_PLAT) (hahead : ∀ m ∈ d.bel.exitAt, m < r + d.g BEL_PLAT) :
    ((d.fetchRow n (fuel + 1)).outCh n).row = some (r + 16) ∧
      ((d.fetchRow n (fuel + 1)).outCh n).q = (d.outCh n).q ++ (List.range 16).map (fun i => (r + i, codeClip (roundQ
        (((sget 0 (busKey (d.g BEL_ROUTE.BUS n) (r + i)) d.rda.bus : Int) : Rat) * gainOf (d.g BEL_ROUTE.GAIN n))))) ∧
      (∀ j, j ≠ n → (d.fetchRow n (fuel + 1)).outCh j = d.outCh j) ∧
      SameRegs d (d.fetchRow n (fuel + 1)) [BEL_CLIP.base] := by
  obtain ⟨lat, clipped, hfetch⟩ := fetchRow_of_ready (fuel := fuel) hlat hrow hdue htype
    (busRow_ready hblock hdone hfrom hkept)
  have htaken : (d.rowTaken n r lat clipped).outCh n = { d.outCh n with row := some (r + 16), lat := lat } :=
    outCh_setOut_same _ _ _
  have hregs : SameRegs d (d.rowTaken n r lat clipped) [BEL_CLIP.base] :=
    .trans (e := d.setOut n { d.outCh n with row := some (r + 16), lat := lat }) (fun _ _ => rfl)
      (.cnt (List.mem_singleton.mpr rfl))
  have hplat : (d.rowTaken n r lat clipped).g BEL_PLAT = d.g BEL_PLAT := hregs.g BEL_PLAT 0 (by decide)
  have hput := foldl_arrive (d := d.rowTaken n r lat clipped) (n := n) (r := r)
    (fun i => ((((List.range 16).map (fun i => sget 0 (busKey (d.g BEL_ROUTE.BUS n) (r + i)) d.rda.bus)).map
      (routeCode (d.g BEL_ROUTE.GAIN n))).getD i (0, false)).1)
    (by rw [hplat]; exact htime) (by rw [hplat]; exact hahead) 16 (by rw [htaken]; exact Nat.add_le_add_right hroom 16)
  rw [hfetch]
  refine ⟨?row, ?codes, fun j hj => ?others, ?regs⟩
  case row => rw [hput.here, htaken]
  case codes =>
    rw [hput.here, htaken]
    refine congrArg ((d.outCh n).q ++ ·) (List.map_congr_left fun i hi => ?_)
    have hi : i < 16 := List.mem_range.mp hi
    simp [hi, routeCode_fst]
  case others => exact (hput.others j hj).trans (outCh_setOut_other _ _ hj)
  case regs =>
    obtain ⟨⟨m, heq⟩, -, -⟩ := hput
    rw [heq]
    exact hregs.trans fun _ _ => rfl

/-! ### The exit of one channel (R374, R375, R379 to R381) -/

theorem roundQ_zero : roundQ 0 = 0 := rfl

/-- An underflow of channel `n` counted as an episode. -/
def Dev.episode (d : Dev) (n : Nat) : Dev := ((d.setFlag BEL_UFL n true).cnt BEL_NUFL).raiseOnce nBEL 1 n 0

theorem episode_bel (d : Dev) (n : Nat) : (d.episode n).bel = d.bel := Dev.raiseOnce_bel _ _ _ _ _

/-- The exit of a channel changes that channel and, where an underflow begins, tells of it. -/
theorem exitChannel_form (d : Dev) (n : Nat) (code : Option Int) :
    ∃ o, (d.exitChannel n code = d.setOut n o ∨ d.exitChannel n code = (d.setOut n o).episode n) ∧
      (d.bel.g = 0 → o.shown = 0) := by
  unfold Dev.exitChannel
  dsimp only
  split
  · exact ⟨_, .inl rfl, fun _ => rfl⟩
  · split
    · exact ⟨_, .inl rfl, fun _ => rfl⟩
    · generalize (if (decide (d.g BEL_ROUTE.TYPE n = 0) && code.isNone) = true then
        ({ d.outCh n with last := 0, ufl := 0, left := 0 }, (0 : Rat), false)
        else (d.outCh n).present code (d.g BEL_STAT.MSTATE)) = shown
      refine ⟨_, by split; exacts [.inr rfl, .inl rfl], fun hg => ?_⟩
      dsimp only
      rw [hg, mul_zero, roundQ_zero, ite_self]

/-- What a channel needs to present its codes as they are: it is ENABLED, routed and not shorted, and the mute is released. -/
structure Dev.Sounds (d : Dev) (n : Nat) : Prop where
  enabled : d.est kOut n = ENABLED
  routed : d.g BEL_ROUTE.TYPE n ≠ 0
  clear : d.on BEL_OSTATE.SHORT n = false
  unmuted : d.g BEL_STAT.MSTATE = 0
  full : d.bel.g = 1
  calm : (d.outCh n).ufl = 0

/-- A channel that sounds presents its code. -/
theorem exitChannel_code {d : Dev} {n : Nat} (h : d.Sounds n) (v : Int) :
    d.exitChannel n (some v) = d.setOut n { d.outCh n with
      last := v, ufl := 0, left := 0, counted := false, drain := 0, shown := v } := by
  obtain ⟨hest, htype, hshort, hmute, hfull, hcalm⟩ := h
  unfold Dev.exitChannel OutSt.present
  simp [hest, htype, hshort, hmute, hfull, hcalm, ENABLED, RETIRED, DISABLED, DRAINING, roundQ]

/-- A channel that sounds and has no code begins an underflow of 64 samples from its last value. -/
theorem exitChannel_underflow {d : Dev} {n : Nat} (h : d.Sounds n) :
    d.exitChannel n none = (d.setOut n { d.outCh n with
      ufl := 1, left := 64, counted := true, drain := 0, shown := roundQ (d.outCh n).last }).episode n := by
  obtain ⟨hest, htype, hshort, hmute, hfull, hcalm⟩ := h
  unfold Dev.exitChannel OutSt.present Dev.episode
  simp [hest, htype, hshort, hmute, hfull, hcalm, ENABLED, RETIRED, DISABLED, DRAINING]

/-! ### What the exit of one channel leaves of the others -/

/-- The registers that a queue exit may change: the underflow flags with their count, and those of a notice. -/
def exitRegs : List Nat := [BEL_UFL.off 0, BEL_UFL.off 1, BEL_UFL.off 2, BEL_UFL.off 3, BEL_NUFL.base] ++ noticeRegs

theorem off_underflow (k : Nat) : BEL_UFL.off k = 0x1C020 + 4 * k := rfl

theorem off_underflow_mem {n : Nat} (hn : n < 128) : BEL_UFL.off (n / 32) ∈ exitRegs := by
  have h : ∀ k : Fin 4, BEL_UFL.off k ∈ exitRegs := by decide
  exact h ⟨n / 32, by omega⟩

/-- From `d` to `e` only the channels listed exit: the rest of the outputs stays, and no underflow flag is cleared. -/
structure ExitFrame (chs : List Nat) (d e : Dev) : Prop where
  bel : ∃ m, e.bel = { d.bel with out := m }
  regs : SameRegs d e exitRegs
  flags : ∀ n, n < 128 → d.flag BEL_UFL n = true → e.flag BEL_UFL n = true
  others : ∀ n, n ∉ chs → e.outCh n = d.outCh n

theorem flag_setFlag_set {d : Dev} {f : Fld} {i : Nat} (n : Nat) (h : d.flag f n = true) :
    (d.setFlag f i true).flag f n = true := by
  have hi : i % 32 < 32 := Nat.mod_lt _ (by decide)
  rw [Dev.flag, Dev.setFlag, reg_setReg]
  split
  next heq =>
    rw [← BitVec.testBit_toNat, putBits_testBit _ _ _ _ _ hi (Nat.le_refl _)]
    split
    next hbit => rw [Nat.le_antisymm hbit.1 hbit.2, Nat.sub_self]; rfl
    next => rw [BitVec.testBit_toNat, ← heq]; exact h
  next => exact h

/-- The flags after an episode: its count and notice leave them. -/
theorem flag_episode (d : Dev) (n : Nat) {j : Nat} (hj : j < 128) :
    (d.episode n).flag BEL_UFL j = (d.setFlag BEL_UFL n true).flag BEL_UFL j := by
  have hout : ∀ k : Fin 4, BEL_UFL.off k ≠ BEL_NUFL.off 0 ∧ BEL_UFL.off k ∉ noticeRegs := by decide
  obtain ⟨hcount, hnotice⟩ := hout ⟨j / 32, by omega⟩
  rw [Dev.flag, Dev.episode, sameRegs_raiseOnce _ _ _ _ _ _ hnotice, reg_cnt_other _ _ _ _ _ hcount]
  rfl

/-- An episode leaves the registers outside the list and every underflow flag set before. -/
theorem episode_frame (d : Dev) {n : Nat} (hn : n < 128) : ExitFrame [] d (d.episode n) := by
  have hnotice : SameRegs ((d.setFlag BEL_UFL n true).cnt BEL_NUFL) (d.episode n) noticeRegs :=
    sameRegs_raiseOnce _ _ _ _ _
  have hflag : SameRegs d (d.setFlag BEL_UFL n true) exitRegs := fun off hoff =>
    reg_setReg_other _ _ _ _ fun h => hoff (h ▸ off_underflow_mem hn)
  refine ⟨⟨d.bel.out, episode_bel d n⟩, ?regs, fun j hj hset => ?flags, fun j _ => ?others⟩
  case regs => exact (hflag.trans (.cnt (by decide))).trans (hnotice.mono (List.subset_append_right _ _))
  case flags => rw [flag_episode d n hj, flag_setFlag_set j hset]
  case others => exact congrArg (fun b : Bel => sget OutSt.zero j b.out) (episode_bel d n)

namespace ExitFrame
variable {l k : List Nat} {d e f : Dev}

theorem refl : ExitFrame l d d := ⟨⟨_, rfl⟩, .refl, fun _ _ h => h, fun _ _ => rfl⟩

theorem trans (h : ExitFrame l d e) (g : ExitFrame k e f) : ExitFrame (l ++ k) d f := by
  obtain ⟨⟨m, hbel⟩, hregs, hflags, hothers⟩ := h
  obtain ⟨⟨u, gbel⟩, gregs, gflags, gothers⟩ := g
  refine ⟨⟨u, by rw [gbel, hbel]⟩, hregs.trans gregs, fun n hn hset => gflags n hn (hflags n hn hset), fun n hn => ?_⟩
  rw [List.mem_append, not_or] at hn
  exact (gothers n hn.2).trans (hothers n hn.1)

theorem mono (h : ExitFrame l d e) (hsub : l ⊆ k) : ExitFrame k d e :=
  ⟨h.bel, h.regs, h.flags, fun n hn => h.others n fun hin => hn (hsub hin)⟩

theorem setOut {n : Nat} {o : OutSt} : ExitFrame [n] d (d.setOut n o) :=
  ⟨⟨_, rfl⟩, fun _ _ => rfl, fun _ _ h => h, fun _ hj => outCh_setOut_other d o (by simpa using hj)⟩

theorem exitChannel {n : Nat} (hn : n < 128) (code : Option Int) : ExitFrame [n] d (d.exitChannel n code) := by
  obtain ⟨o, heq | heq, -⟩ := exitChannel_form d n code
  · rw [heq]
    exact .setOut
  · rw [heq]
    exact setOut.trans (episode_frame _ hn)

/-- The exits of a list of channels, one after another. -/
theorem foldl {step : Dev → Nat → Dev} (hstep : ∀ d n, n < 128 → ExitFrame [n] d (step d n)) :
    ∀ (l : List Nat) (d : Dev), (∀ n ∈ l, n < 128) → ExitFrame l d (l.foldl step d) := by
  intro l
  induction l with
  | nil => exact fun _ _ => refl
  | cons n l ih =>
    intro d hl
    exact (hstep d n (hl n List.mem_cons_self)).trans (ih _ fun j hj => hl j (List.mem_cons_of_mem n hj))

/-- The exit of one channel among others: it meets what the channel held, and the later exits leave it. -/
theorem foldl_at {step : Dev → Nat → Dev} (hstep : ∀ d n, n < 128 → ExitFrame [n] d (step d n)) {l : List Nat} {d : Dev}
    (hl : ∀ n ∈ l, n < 128) (hnodup : l.Nodup) {c : Nat} (hc : c ∈ l) :
    ∃ e a b, c ∉ a ∧ c ∉ b ∧ ExitFrame a d e ∧ ExitFrame b (step e c) (l.foldl step d) := by
  obtain ⟨a, b, rfl⟩ := List.append_of_mem hc
  obtain ⟨hout, -⟩ := List.nodup_cons.mp (List.nodup_middle.mp hnodup)
  rw [List.mem_append, not_or] at hout
  refine ⟨a.foldl step d, a, b, hout.1, hout.2, foldl hstep a d fun n hn => hl n (by simp [hn]), ?_⟩
  rw [List.foldl_append, List.foldl_cons]
  exact foldl hstep b _ fun n hn => hl n (by simp [hn])

end ExitFrame

/-! ### The queue exit of a channel that sounds or is muted (R374, R379) -/

theorem g_of_reg {d e : Dev} {fl : Fld} {i : Nat} (h : e.reg (fl.off i) = d.reg (fl.off i)) : e.g fl i = d.g fl i := by
  rw [Dev.g, h, Dev.g]

/-- What `Sounds` says of a channel depends on the channel, the routes and states of channels, and the mute. -/
theorem Dev.Sounds.congr {d e : Dev} {n : Nat} (h : d.Sounds n) (hn : n < 112)
    (hregs : ∀ off, off = 0x1C000 ∨ 0x1C400 ≤ off ∧ off < 0x1D000 → e.reg off = d.reg off)
    (hg : e.bel.g = d.bel.g) (hout : e.outCh n = d.outCh n) : e.Sounds n := by
  have hstate : e.reg (BEL_OSTATE.MST.off n) = d.reg (BEL_OSTATE.MST.off n) :=
    hregs _ (.inr (by rw [off_outState]; omega))
  have hroute : e.g BEL_ROUTE.TYPE n = d.g BEL_ROUTE.TYPE n :=
    g_of_reg (hregs _ (.inr (by rw [show BEL_ROUTE.TYPE.off n = 0x1C400 + 8 * n from rfl]; omega)))
  have hshort : e.g BEL_OSTATE.SHORT n = d.g BEL_OSTATE.SHORT n := g_of_reg hstate
  have hmute : e.g BEL_STAT.MSTATE = d.g BEL_STAT.MSTATE := g_of_reg (hregs _ (.inl rfl))
  refine ⟨(est_out_of_reg hstate).trans h.enabled, hroute ▸ h.routed, ?_, hmute.trans h.unmuted, hg.trans h.full,
    hout ▸ h.calm⟩
  rw [Dev.on, hshort]
  exact h.clear

/-- The code that a channel holds for a position. -/
def OutSt.codeAt (o : OutSt) (p : Nat) : Option Int := (o.q.find? (fun e => e.1 = p)).map (·.2)

/-- Channel `n` without the codes up to position `p`. -/
def Dev.passed (d : Dev) (p n : Nat) : Dev :=
  d.setOut n { d.outCh n with q := (d.outCh n).q.filter (fun e => p < e.1) }

/-- Channel `n` exits the sample of position `p`. -/
def Dev.leave (p : Nat) (d : Dev) (n : Nat) : Dev := (d.passed p n).exitChannel n ((d.outCh n).codeAt p)

theorem leave_frame (p : Nat) (d : Dev) (n : Nat) (hn : n < 128) : ExitFrame [n] d (d.leave p n) :=
  (ExitFrame.setOut.trans (.exitChannel hn _)).mono (by simp)

section
variable {d : Dev} {p n : Nat}

theorem outCh_passed : (d.passed p n).outCh n = { d.outCh n with q := (d.outCh n).q.filter (fun e => p < e.1) } :=
  outCh_setOut_same _ _ _

theorem Dev.Sounds.passed (h : d.Sounds n) : (d.passed p n).Sounds n :=
  ⟨h.enabled, h.routed, h.clear, h.unmuted, h.full, by rw [outCh_passed]; exact h.calm⟩

theorem leave_code {v : Int} (h : d.Sounds n) (hcode : (d.outCh n).q.find? (fun e => e.1 = p) = some (p, v)) :
    ((d.leave p n).outCh n).shown = v ∧ ((d.leave p n).outCh n).ufl = 0 ∧
      ((d.leave p n).outCh n).q = (d.outCh n).q.filter (fun e => p < e.1) := by
  rw [Dev.leave, OutSt.codeAt, hcode, Option.map_some, exitChannel_code h.passed, outCh_setOut_same, outCh_passed]
  exact ⟨rfl, rfl, rfl⟩

theorem leave_underflow (h : d.Sounds n) (hn : n < 128) (hcode : (d.outCh n).q.find? (fun e => e.1 = p) = none) :
    ((d.leave p n).outCh n).ufl = 1 ∧ ((d.leave p n).outCh n).left = 64 ∧
      ((d.leave p n).outCh n).shown = roundQ (d.outCh n).last ∧ (d.leave p n).flag BEL_UFL n = true := by
  have hleave := exitChannel_underflow (h.passed (p := p))
  rw [outCh_passed] at hleave
  rw [Dev.leave, OutSt.codeAt, hcode, Option.map_none, hleave, (episode_frame _ hn).others n List.not_mem_nil,
    outCh_setOut_same, flag_episode _ _ hn]
  exact ⟨rfl, rfl, rfl, flag_setFlag_same _ _ _ _⟩

/-- At gain 0 a channel presents 0, whatever its state and its code. -/
theorem leave_muted (hg : d.bel.g = 0) (hn : n < 128) : ((d.leave p n).outCh n).shown = 0 := by
  obtain ⟨o, heq, hzero⟩ := exitChannel_form (d.passed p n) n ((d.outCh n).codeAt p)
  have hout : (d.leave p n).outCh n = o := by
    rw [Dev.leave]
    rcases heq with heq | heq
    · rw [heq, outCh_setOut_same]
    · rw [heq, (episode_frame _ hn).others n List.not_mem_nil, outCh_setOut_same]
  rw [hout]
  exact hzero hg

end

/-! ### What comes before the channels exit: the ramp and the computer's samples (R376, R568) -/

theorem rampStep_eq (d : Dev) :
    ∃ g, d.rampStep = { d with bel := { d.bel with g := g } } ∧
      (d.g BEL_STAT.MSTATE = 0 ∨ d.g BEL_STAT.MSTATE = 2 → g = d.bel.g) := by
  unfold Dev.rampStep
  dsimp only
  split
  next h => exact ⟨_, rfl, by omega⟩
  next h => exact ⟨_, rfl, by omega⟩
  next => exact ⟨d.bel.g, rfl, fun _ => rfl⟩

theorem usbDrain_inCh (upto : Nat) : ∀ fuel u, (usbDrain upto fuel u).1.inCh = u.inCh := by
  intro fuel
  induction fuel with
  | zero => exact fun _ => rfl
  | succ fuel ih =>
    intro u
    unfold usbDrain
    split
    · rfl
    · split
      · rfl
      · split
        · rfl
        · exact ih _

/-- The device once the sample `n` has begun to leave: the gain has moved and the computer's frames are taken. -/
def Dev.exiting (d : Dev) (n : Nat) : Dev := ({ d with bel := { d.bel with exitAt := some n } }.rampStep).usbTake n

theorem exiting_spec (d : Dev) (n : Nat) :
    (∃ g, (d.exiting n).bel = { d.bel with exitAt := some n, g := g } ∧
      (d.g BEL_STAT.MSTATE = 0 ∨ d.g BEL_STAT.MSTATE = 2 → g = d.bel.g)) ∧
      (d.exiting n).usb.inCh = d.usb.inCh ∧ SameRegs d (d.exiting n) [USB_AUNDER.base, USB_AFILL.base] := by
  obtain ⟨g, hramp, hsteady⟩ := rampStep_eq { d with bel := { d.bel with exitAt := some n } }
  rw [Dev.exiting, Dev.usbTake, hramp]
  refine ⟨⟨g, rfl, hsteady⟩, usbDrain_inCh _ _ _, ?_⟩
  refine SameRegs.then_s (.trans (e := { d with usb := (usbDrain n 1025 d.usb).1 }) (fun _ _ => rfl) ?_) (by simp [Fld.off])
  exact .trans (e := { d with usb := (usbDrain n 1025 d.usb).1, bel := { d.bel with exitAt := some n, g := g } })
    (fun _ _ => rfl) (.cnt (by simp [Fld.off]))

/-- Which channels exist and leave at the Breath's instants: it depends on the ports' control and the USB status alone. -/
theorem mem_exitChannels {d e : Dev} {c : Nat} (hregs : SameRegs d e [USB_AUNDER.base, USB_AFILL.base])
    (hin : e.usb.inCh = d.usb.inCh) (hc : c < 112) (hexists : d.outExists c = true) (hslave : d.slaveOut c = false) :
    c ∈ e.exitChannels := by
  have hport : ∀ fl : Fld, fl.off ((c - 16) / 16) = 0x1D000 + 0x40 * ((c - 16) / 16) →
      e.g fl ((c - 16) / 16) = d.g fl ((c - 16) / 16) := fun fl hoff => hregs.g fl _ (by
    rw [hoff, List.mem_pair, show USB_AUNDER.base = 0x1E050 from rfl, show USB_AFILL.base = 0x1E01C from rfl]
    omega)
  have husb : ∀ fl : Fld, fl.off 0 = 0x1E004 → e.g fl 0 = d.g fl 0 := fun fl hoff =>
    hregs.g fl 0 (by rw [hoff]; decide)
  have hthere : e.outExists c = d.outExists c := by
    unfold Dev.outExists Dev.sapSlot Dev.usbIn Dev.on
    rw [hport SAP_CTL.TXEN rfl, hport SAP_CTL.SLOTS rfl, husb USB_STAT.AIN rfl, husb USB_STAT.STATE rfl, hin]
  have hmaster : e.slaveOut c = d.slaveOut c := by
    unfold Dev.slaveOut Dev.on
    rw [hport SAP_CTL.SLAVE rfl]
  rw [Dev.exitChannels, List.mem_filter, hthere, hmaster, hexists, hslave]
  exact ⟨List.mem_range.mpr hc, rfl⟩

/-! ### The release of what waits for a sample (R88, R373, R379) -/

/-- From `d` to `e` the channels, the count of exits and the underflow flags stay. -/
structure OutputsKept (d e : Dev) : Prop where
  out : e.bel.out = d.bel.out
  exitAt : e.bel.exitAt = d.bel.exitAt
  flags : ∀ off, 0x1C020 ≤ off → off < 0x1C030 → e.reg off = d.reg off

namespace OutputsKept
variable {d e f : Dev}

theorem refl : OutputsKept d d := ⟨rfl, rfl, fun _ _ _ => rfl⟩

theorem trans (h : OutputsKept d e) (g : OutputsKept e f) : OutputsKept d f :=
  ⟨g.out.trans h.out, g.exitAt.trans h.exitAt, fun off hlo hhi => (g.flags off hlo hhi).trans (h.flags off hlo hhi)⟩

theorem ite {p : Prop} {_ : Decidable p} (h : OutputsKept d e) (g : OutputsKept d f) : OutputsKept d (if p then e else f) := by
  split
  · exact h
  · exact g

theorem ifThen {p : Prop} {_ : Decidable p} (h : OutputsKept d e) (g : OutputsKept e f) :
    OutputsKept d (if p then f else e) := .ite (h.trans g) h

theorem brt {b : Brt} : OutputsKept d { d with brt := b } := ⟨rfl, rfl, fun _ _ _ => rfl⟩

theorem usb {u : Usb} : OutputsKept d { d with usb := u } := ⟨rfl, rfl, fun _ _ _ => rfl⟩

theorem bel {b : Bel} (hout : b.out = d.bel.out) (hexit : b.exitAt = d.bel.exitAt) : OutputsKept d { d with bel := b } :=
  ⟨hout, hexit, fun _ _ _ => rfl⟩

theorem s {fl : Fld} {v i : Nat} (h : fl.off i < 0x1C020 := by decide) : OutputsKept d (d.s fl v i) :=
  ⟨rfl, rfl, fun _ hlo _ => reg_s_other _ _ _ _ _ (by omega)⟩

theorem muteCheck : OutputsKept d d.muteCheck := .ite .refl (.ite .s (.ite .s .refl))

theorem muteEnd {k : Nat} : OutputsKept d (d.muteEnd k) := .trans .s .muteCheck

theorem toAcquire {b : Bool} : OutputsKept d (d.toAcquire b) := .trans .s .brt

theorem switchSrc {v : Nat} : OutputsKept d (d.switchSrc v) := by
  have hreset : OutputsKept d (((d.s BRT_CTL.SRC v).s BRT_STAT.BACKWARD 0).s BRT_STAT.SRCOK 0) := .trans .s (.trans .s .s)
  unfold Dev.switchSrc
  refine .ite .s (.ite ?free ?locked)
  case free => exact hreset.trans (.trans .brt (.trans .s (.trans .s .s)))
  case locked => exact hreset.trans (.trans .brt (.trans .toAcquire .brt))

theorem srcWaited : OutputsKept d d.srcWaited := by
  unfold Dev.srcWaited
  split
  · exact .ite .refl (.ite .brt (.trans .brt .switchSrc))
  · exact .refl

theorem moveReleased : OutputsKept d d.moveReleased := .trans .brt (.trans .muteEnd .srcWaited)

theorem started : OutputsKept d { d with bel := { d.bel with started := true } } := .bel rfl rfl

theorem latencyMet : OutputsKept d ({ d with bel := { d.bel with platWait := false } }.muteEnd 5) := by
  have hmet : OutputsKept d { d with bel := { d.bel with platWait := false } } := .bel rfl rfl
  exact hmet.trans .muteEnd

/-- A sample's release changes the Breath, the mute and what waits, not the channels. -/
theorem released {p : Nat} {left : Bool} : OutputsKept d (d.released p left) := by
  unfold Dev.released
  refine .trans ?_ .muteCheck
  split
  · exact .ifThen (.ifThen (.ifThen .refl .started) .latencyMet) .moveReleased
  · exact .ifThen (.ifThen .refl .started) .latencyMet

theorem outCh (h : OutputsKept d e) (n : Nat) : e.outCh n = d.outCh n := congrArg (sget OutSt.zero n) h.out

theorem flag (h : OutputsKept d e) {n : Nat} (hn : n < 128) : e.flag BEL_UFL n = d.flag BEL_UFL n := by
  rw [Dev.flag, h.flags _ (by rw [off_underflow]; omega) (by rw [off_underflow]; omega), Dev.flag]

end OutputsKept

/-! ### Queue exit (R367) -/

/-- The channels that leave at the Breath's instants have left for the sample of position `p`. -/
def Dev.exited (d : Dev) (p : Nat) : Dev := d.exitChannels.foldl (Dev.leave p) d

theorem queueExit_eq {d : Dev} {m : Nat} (hrun : d.running = true) (hbrt : d.on BRT_STAT.RUNNING = true)
    (hexit : d.bel.exitAt = some m) (hdue : m + 1 ≤ whole d.brt.pos) (hplat : d.g BEL_PLAT ≤ m + 1) :
    ∃ e left, queueExit d = e.released (m + 1 - d.g BEL_PLAT) left ∧
      OutputsKept ((d.exiting (m + 1)).exited (m + 1 - d.g BEL_PLAT)) e := by
  unfold queueExit
  rw [if_neg (by simp [hrun, hbrt])]
  simp only [hexit]
  rw [if_neg (not_lt.mpr hdue), if_neg (not_lt.mpr hplat)]
  split
  · exact ⟨_, _, rfl, .usb⟩
  · exact ⟨_, _, rfl, .refl⟩

theorem exitChannels_lt {d : Dev} : ∀ n ∈ d.exitChannels, n < 128 := fun n hn => by
  have := List.mem_range.mp (List.mem_filter.mp hn).1
  omega

/-- A channel leaves as it stands when its turn comes, and the later ones leave it so. -/
theorem exited_at {d : Dev} {c : Nat} (p : Nat) (hc : c ∈ d.exitChannels) :
    ∃ e a b, c ∉ a ∧ c ∉ b ∧ ExitFrame a d e ∧ ExitFrame b (e.leave p c) (d.exited p) :=
  ExitFrame.foldl_at (leave_frame p) exitChannels_lt (List.nodup_range.filter _) hc

section
variable {d : Dev} {m : Nat} (hrun : d.running = true) (hbrt : d.on BRT_STAT.RUNNING = true) (hexit : d.bel.exitAt = some m)
  (hdue : m + 1 ≤ whole d.brt.pos) (hplat : d.g BEL_PLAT ≤ m + 1)
include hrun hbrt hexit hdue hplat

theorem queueExit_exitAt : (queueExit d).bel.exitAt = some (m + 1) := by
  obtain ⟨e, left, heq, hkept⟩ := queueExit_eq hrun hbrt hexit hdue hplat
  obtain ⟨⟨g, hbel, -⟩, -, -⟩ := exiting_spec d (m + 1)
  obtain ⟨⟨u, hout⟩, -, -, -⟩ :=
    ExitFrame.foldl (leave_frame (m + 1 - d.g BEL_PLAT)) _ (d.exiting (m + 1)) exitChannels_lt
  rw [heq, OutputsKept.released.exitAt, hkept.exitAt, Dev.exited, hout, hbel]

/-- With the mute steady, a channel leaves a device `e` that differs from `d` in nothing its exit reads, and nothing after
its exit changes it. -/
theorem queueExit_at (hsteady : d.g BEL_STAT.MSTATE = 0 ∨ d.g BEL_STAT.MSTATE = 2) {c : Nat} (hc : c < 112)
    (hexists : d.outExists c = true) (hslave : d.slaveOut c = false) :
    ∃ e : Dev, (∀ off, off = 0x1C000 ∨ 0x1C400 ≤ off ∧ off < 0x1D000 → e.reg off = d.reg off) ∧
      e.bel.g = d.bel.g ∧ e.outCh c = d.outCh c ∧
      (queueExit d).outCh c = (e.leave (m + 1 - d.g BEL_PLAT) c).outCh c ∧
      ((e.leave (m + 1 - d.g BEL_PLAT) c).flag BEL_UFL c = true → (queueExit d).flag BEL_UFL c = true) := by
  obtain ⟨f, left, heq, hkept⟩ := queueExit_eq hrun hbrt hexit hdue hplat
  obtain ⟨⟨g, hbel, hg⟩, hin, hregs⟩ := exiting_spec d (m + 1)
  obtain ⟨e, a, b, ha, hb, hbefore, hafter⟩ :=
    exited_at (m + 1 - d.g BEL_PLAT) (mem_exitChannels hregs hin hc hexists hslave)
  have hfinal : OutputsKept ((d.exiting (m + 1)).exited (m + 1 - d.g BEL_PLAT)) (queueExit d) := heq ▸ hkept.trans .released
  refine ⟨e, fun off hoff => ?regs, ?gain, ?before, ?after, fun hset => ?flag⟩
  case regs =>
    have hlists : ∀ off ∈ exitRegs ++ [USB_AUNDER.base, USB_AFILL.base],
      ¬(off = 0x1C000 ∨ 0x1C400 ≤ off ∧ off < 0x1D000) := by decide
    rw [hbefore.regs off fun hin => hlists off (List.mem_append_left _ hin) hoff,
      hregs off fun hin => hlists off (List.mem_append_right _ hin) hoff]
  case gain =>
    obtain ⟨u, hu⟩ := hbefore.bel
    rw [hu, hbel]
    exact hg hsteady
  case before =>
    have hheld := congrArg (fun b : Bel => sget OutSt.zero c b.out) hbel
    exact (hbefore.others c ha).trans hheld
  case after => rw [hfinal.outCh, hafter.others c hb]
  case flag =>
    rw [hfinal.flag (by omega)]
    exact hafter.flags c (by omega) hset

end

/-! ### Serial ports (R389, R390, R402) -/

theorem off_portStat (p : Nat) : SAP_STAT.SLIP.off p = 0x1D004 + 0x40 * p := rfl

/-- A port's status is no register of an exit or a notice. -/
theorem portStat_out {p : Nat} (hp : p < 4) : SAP_STAT.SLIP.off p ∉ exitRegs := by
  have h : ∀ k : Fin 4, SAP_STAT.SLIP.off k ∉ exitRegs := by decide
  exact h ⟨p, hp⟩

/-- A device with the frame of position `pos` marked as port `p`'s last. -/
def Dev.framed (d : Dev) (p pos : Nat) : Dev := { d with bel := { d.bel with sapAt := setAt d.bel.sapAt p (some pos) } }

section
variable {d : Dev} {p : Nat} {slots : List Word} (hrun : d.running = true) (hbrt : d.on BRT_STAT.RUNNING = true)
  (hrx : d.on SAP_CTL.RXEN p = true) (htx : d.on SAP_CTL.TXEN p = false)
include hrun hbrt hrx htx

/-- A master port that only receives keeps the slots of the Breath's position, once. -/
theorem sapFrame_master (n : Nat) (hmaster : d.on SAP_CTL.SLAVE p = false)
    (hnew : d.bel.sapAt.getD p none ≠ some (whole d.brt.pos)) :
    sapFrame d p slots n = (d.framed p (whole d.brt.pos)).sapKeep p (whole d.brt.pos) slots := by
  unfold sapFrame
  simp only [hrun, hbrt, hrx, htx, hmaster, Bool.not_true, Bool.not_false, Bool.or_false, Bool.and_false, Bool.false_eq_true,
    if_false, if_true, if_neg hnew]
  rfl

/-- A slave port that only receives takes a whole frame to the nearest whole position, or counts a slip. -/
theorem sapFrame_slave (hslave : d.on SAP_CTL.SLAVE p = true)
    (hahead : ∀ cur ∈ d.rda.block, cur * d.blk ≤ (d.brt.pos.toNat + 32768) / 65536) :
    sapFrame d p slots (d.g SAP_CTL.SLOTS p * 32) =
      if d.bel.sapIn.any (fun e => e.1 = p && e.2.1 = (d.brt.pos.toNat + 32768) / 65536) then d.slip p
      else d.sapKeep p ((d.brt.pos.toNat + 32768) / 65536) slots := by
  unfold sapFrame
  cases hblock : d.rda.block with
  | none =>
    simp only [hrun, hbrt, hrx, htx, hslave, hblock, Bool.not_true, Bool.not_false, Bool.or_false, Bool.and_false,
      Bool.false_eq_true, if_false, if_true, ne_eq, not_true_eq_false]
  | some cur =>
    have hfree : decide ((d.brt.pos.toNat + 32768) / 65536 < cur * d.blk) = false :=
      decide_eq_false (not_lt.mpr (hahead cur hblock))
    simp only [hrun, hbrt, hrx, htx, hslave, hblock, hfree, Bool.not_true, Bool.not_false, Bool.or_false, Bool.and_false,
      Bool.false_eq_true, if_false, if_true, ne_eq, not_true_eq_false]

end

theorem slip_spec (d : Dev) {p : Nat} (hp : p < 4) :
    (d.slip p).bel = d.bel ∧ (d.slip p).g SAP_STAT.SLIP p = 1 ∧
      (d.slip p).g SAP_SLIP p = min (d.g SAP_SLIP p + 1) 0xFFFFFFFF := by
  have hcount : SAP_SLIP.off p ∉ noticeRegs := by
    have h : ∀ k : Fin 4, SAP_SLIP.off k ∉ noticeRegs := by decide
    exact h ⟨p, hp⟩
  have hstat : SAP_STAT.SLIP.off p ∉ noticeRegs := fun hin => portStat_out hp (List.mem_append_right _ hin)
  have hregs : SameRegs ((d.s SAP_STAT.SLIP 1 p).cnt SAP_SLIP p) (d.slip p) noticeRegs := sameRegs_raiseOnce _ _ _ _ _
  have hne : SAP_SLIP.off p ≠ SAP_STAT.SLIP.off p := by
    rw [off_portStat, show SAP_SLIP.off p = 0x1D008 + 0x40 * p from rfl]
    omega
  refine ⟨Dev.raiseOnce_bel _ _ _ _ _, ?_, ?_⟩
  · rw [hregs.g _ _ hstat, Dev.cnt, g_s_reg _ _ SAP_STAT.SLIP _ _ _ hne.symm]
    exact g_s_same d SAP_STAT.SLIP 1 p
  · rw [hregs.g _ _ hcount, g_cnt_same _ SAP_SLIP, g_s_reg _ _ SAP_SLIP _ _ _ hne]
    rfl

/-- A loss of the clock is shown; the transmit channels that underflow leave the port's status and the frames received. -/
theorem sapClockLoss_spec {d : Dev} {p : Nat} (hp : p < 4) (hslave : d.on SAP_CTL.SLAVE p = true)
    (hrx : d.on SAP_CTL.RXEN p = true) :
    (sapClockLoss d p).g SAP_STAT.CLKLOSS p = 1 ∧ (sapClockLoss d p).bel.sapIn = d.bel.sapIn := by
  have hlost : ((d.s SAP_STAT.CLKLOSS 1 p).raise nSAP 2 p).g SAP_STAT.CLKLOSS p = 1 ∧
      ((d.s SAP_STAT.CLKLOSS 1 p).raise nSAP 2 p).bel.sapIn = d.bel.sapIn := by
    refine ⟨?_, congrArg Bel.sapIn (Dev.raise_bel _ _ _ _)⟩
    rw [(sameRegs_raise _ nSAP 2 p).g SAP_STAT.CLKLOSS p fun hin => portStat_out hp (List.mem_append_right _ hin)]
    exact g_s_same d SAP_STAT.CLKLOSS 1 p
  unfold sapClockLoss
  rw [if_neg (by simp [hslave, hrx])]
  dsimp only
  generalize (d.s SAP_STAT.CLKLOSS 1 p).raise nSAP 2 p = e at hlost ⊢
  split
  · rw [← List.foldl_map (f := fun s => 16 + 16 * p + s) (g := fun (d : Dev) n => d.exitChannel n none)]
    have hframe := ExitFrame.foldl (step := fun d n => d.exitChannel n none) (fun _ _ hn => .exitChannel hn none)
      ((List.range (e.g SAP_CTL.SLOTS p)).map fun s => 16 + 16 * p + s) e fun n hn => by
        obtain ⟨s, hs, rfl⟩ := List.mem_map.mp hn
        have hslots : e.g SAP_CTL.SLOTS p < 32 := g_lt e SAP_CTL.SLOTS p
        have := List.mem_range.mp hs
        omega
    obtain ⟨m, hbel⟩ := hframe.bel
    exact ⟨(hframe.regs.g SAP_STAT.CLKLOSS p (portStat_out hp)).trans hlost.1, by rw [hbel]; exact hlost.2⟩
  · exact hlost

/-! ### What the commands do -/

section
variable {s : State}

theorem exec_bellRowFetch {c : BitVec 7} (hrun : s.dev.running = true) (hbrt : s.dev.on BRT_STAT.RUNNING = true)
    (hexists : s.dev.outExists c.toNat = true) (hlives : s.dev.est kOut c.toNat ≠ RETIRED) :
    exec (.bellRowFetch c) s = .next { s with dev := s.dev.fetchRow c.toNat 64 } := by
  change execBellRowFetch c s = _
  rw [execBellRowFetch, onDev, rowFetch, if_pos (by simp [hrun, hbrt, hexists, hlives])]

theorem exec_queueExit : exec .queueExit s = .next { s with dev := queueExit s.dev } := rfl

theorem exec_sapFrame (p : BitVec 2) (slots : List Word) (n : Nat) :
    exec (.sapFrame p slots n) s = .next { s with dev := sapFrame s.dev p.toNat slots n } := rfl

theorem exec_sapClockLoss (p : BitVec 2) :
    exec (.sapClockLoss p) s = .next { s with dev := sapClockLoss s.dev p.toNat } := rfl

end

/-- Settles O33: a fetched row by `fetchRow_spec`, a queue exit by the exit of one channel among the others (`queueExit_at`),
the serial ports by the frame of a master and of a slave. -/
theorem bellFetchesAndPresentsCodes : Obligations.BellFetchesAndPresentsCodes := by
  unfold Obligations.BellFetchesAndPresentsCodes
  intro s hrun hbrt
  refine ⟨fun c r cur hexists _ hlives hlat hrow htype hroom hblock hdone hfrom hkept hdue htime hahead => ?fetch,
    fun m hexit hdue hplat => ⟨_, exec_queueExit, queueExit_exitAt hrun hbrt hexit hdue hplat, ⟨rfl, rfl, rfl, rfl, rfl⟩,
      fun hmute hfull c hc hexists hslave hest htype hshort hcalm => ?sounds, fun hmute hzero c hc hexists hslave => ?muted⟩,
    fun p slots n hrx htx hmaster hnew => ?master,
    fun p slots at_ hrx htx hslave hat hahead => ⟨fun hfree => ?slave, fun htaken => ?slip⟩, fun p hslave hrx => ?clock⟩
  case fetch =>
    obtain ⟨hnext, hcodes, hothers, hregs⟩ :=
      fetchRow_spec 63 hlat hrow htype hroom hblock hdone hfrom hkept hdue htime hahead
    exact ⟨_, exec_bellRowFetch hrun hbrt hexists hlives, hnext, hcodes, hothers, hregs, rfl, rfl, rfl, rfl, rfl⟩
  case sounds =>
    obtain ⟨e, hregs, hgain, hheld, hout, hflag⟩ := queueExit_at hrun hbrt hexit hdue hplat (.inl hmute) hc hexists hslave
    have hsounds : e.Sounds c := .congr ⟨hest, htype, hshort, hmute, hfull, hcalm⟩ hc hregs hgain hheld
    dsimp only
    rw [hout, ← hheld]
    refine ⟨fun v hcode => leave_code hsounds hcode, fun hcode => ?_⟩
    obtain ⟨hufl, hleft, hshown, hset⟩ := leave_underflow hsounds (by omega) hcode
    exact ⟨hufl, hleft, hshown, hflag hset⟩
  case muted =>
    obtain ⟨e, -, hgain, -, hout, -⟩ := queueExit_at hrun hbrt hexit hdue hplat (.inr hmute) hc hexists hslave
    dsimp only
    rw [hout]
    exact leave_muted (hgain.trans hzero) (by omega)
  case master =>
    refine ⟨_, exec_sapFrame p slots n, ?_⟩
    dsimp only
    rw [sapFrame_master hrun hbrt hrx htx n hmaster hnew]
    exact ⟨fun _ _ => rfl, ⟨rfl, rfl, rfl, rfl, rfl⟩, rfl⟩
  case slave =>
    subst hat
    refine ⟨_, exec_sapFrame p slots _, ?_⟩
    dsimp only
    rw [sapFrame_slave hrun hbrt hrx htx hslave hahead, if_neg fun hany => by
      obtain ⟨e, he, hmeets⟩ := List.any_eq_true.mp hany
      exact hfree e he (by simpa using hmeets)]
    exact ⟨fun _ _ => rfl, ⟨rfl, rfl, rfl, rfl, rfl⟩, rfl⟩
  case slip =>
    subst hat
    obtain ⟨hbel, hstat, hcount⟩ := slip_spec s.dev p.isLt
    refine ⟨_, exec_sapFrame p slots _, ?_⟩
    dsimp only
    obtain ⟨e, he, hmeets⟩ := htaken
    rw [sapFrame_slave hrun hbrt hrx htx hslave hahead, if_pos (List.any_eq_true.mpr ⟨e, he, by simpa using hmeets⟩)]
    exact ⟨congrArg Bel.sapIn hbel, hstat, ⟨rfl, rfl, rfl, rfl, rfl⟩, hcount⟩
  case clock =>
    obtain ⟨hlost, hin⟩ := sapClockLoss_spec p.isLt hslave hrx
    exact ⟨_, exec_sapClockLoss p, hlost, hin, rfl, rfl, rfl, rfl, rfl⟩

end Sys2Proof.Machine

/-! SUPPORT. The frame ports: what an update of one port, of its registers' fields and of the notices leaves of the device, and
the shared operations of a port by what they make of it. -/
namespace Sys2Proof.Machine

/-! ### Fields and registers of one port -/

/-- Two fields of an element share no bit: their registers have one stride and different bases, or their bits differ. -/
abbrev Fld.Apart (f g : Fld) : Prop := (f.stride = g.stride ∧ f.base ≠ g.base) ∨ f.hi < g.lo ∨ g.hi < f.lo

/-- The field is one of the frame ports' registers. -/
abbrev Fld.OfPort (f : Fld) : Prop := f.base / 0x400 = 0x50 ∧ f.stride = 0x400

/-- `g` is a field of the frame ports, in another register than `f`. -/
abbrev Fld.Elsewhere (f g : Fld) : Prop := g.OfPort ∧ f.base ≠ g.base

/-- A field that shares no bit with the one stored is as before. -/
theorem g_s_apart (d : Dev) {f g : Fld} (v n : Nat) (h : g.Apart f) (hhi : f.hi < 32 := by decide)
    (hlo : f.lo ≤ f.hi := by decide) : (d.s f v n).g g n = d.g g n := by
  rcases h with ⟨hstride, hbase⟩ | hbits
  · refine g_s_reg d f g v n n fun hoff => hbase ?_
    unfold Fld.off at hoff
    rw [hstride] at hoff
    exact Nat.add_right_cancel hoff
  · exact g_s_bits d f g v n n hhi hlo hbits

/-- A flag that was stored reads back. -/
theorem on_s_bit (d : Dev) (f : Fld) (b : Bool) (n : Nat) (hhi : f.hi < 32 := by decide) (hlo : f.lo ≤ f.hi := by decide) :
    (d.s f (b2n b) n).on f n = b := by
  have hwidth : 2 ≤ 2 ^ (f.hi + 1 - f.lo) := Nat.pow_le_pow_right (n := 2) (i := 1) (by decide) (by omega)
  rw [Dev.on, g_s_same d f _ n hhi hlo]
  cases b with
  | true => rw [b2n, if_pos rfl, Nat.mod_eq_of_lt (by omega)]; rfl
  | false => rw [b2n, if_neg Bool.false_ne_true, Nat.zero_mod]; rfl

/-- The frame ports' registers lie apart from those that a notice may change. -/
theorem off_port_quiet {f : Fld} {n : Nat} (hn : n < 4) (hf : f.OfPort) : f.off n ∉ noticeRegs := by
  obtain ⟨hbase, hstride⟩ := hf
  have hmem : ∀ off ∈ noticeRegs, 0x15000 ≤ off := by decide
  have hoff : f.off n < 0x15000 := by
    unfold Fld.off
    rw [hstride]
    omega
  exact fun hin => absurd (hmem _ hin) (by omega)

/-- From `d` to `e` nothing changes but port `n`, notices, the registers of the fields `fs` of port `n`, no other field of
theirs, and the registers `more` (none, or those that a notice may change). -/
structure PortFrame (n : Nat) (fs : List Fld) (more : List Nat) (d e : Dev) : Prop where
  rest : ∃ r m x u h, e = { d with regs := r, mac := m, not := x, usb := u, hrp := h }
  ports : e.mac.length = d.mac.length
  others : ∀ m, m ≠ n → e.port m = d.port m
  regs : SameRegs d e (fs.map (·.off n) ++ more)
  fields : ∀ g : Fld, g.off n ∉ noticeRegs → (∀ f ∈ fs, g.Apart f) → e.g g n = d.g g n

theorem port_raise (d : Dev) (src code unit n : Nat) : (d.raise src code unit).port n = d.port n :=
  congrArg (·.getD n Port.reset) (d.raise_mac src code unit)

theorem port_s (d : Dev) (f : Fld) (v i n : Nat) : (d.s f v i).port n = d.port n :=
  congrArg (·.getD n Port.reset) (d.s_mac f v i)

theorem port_cnt (d : Dev) (f : Fld) (i k n : Nat) : (d.cnt f i k).port n = d.port n :=
  congrArg (·.getD n Port.reset) (d.cnt_mac f i k)

theorem port_setPort_same (d : Dev) {n : Nat} (v : Port) (hn : n < d.mac.length) : (d.setPort n v).port n = v := by
  rw [port_setPort, if_pos ⟨rfl, hn⟩]

namespace PortFrame
variable {n : Nat} {fs : List Fld} {more : List Nat} {d e f : Dev}

theorem refl : PortFrame n fs more d d := ⟨⟨_, _, _, _, _, rfl⟩, rfl, fun _ _ => rfl, .refl, fun _ _ _ => rfl⟩

theorem trans (h : PortFrame n fs more d e) (k : PortFrame n fs more e f) : PortFrame n fs more d f where
  rest := by
    obtain ⟨_, _, _, _, _, rfl⟩ := h.rest
    obtain ⟨_, _, _, _, _, rfl⟩ := k.rest
    exact ⟨_, _, _, _, _, rfl⟩
  ports := k.ports.trans h.ports
  others m hm := (k.others m hm).trans (h.others m hm)
  regs := h.regs.trans k.regs
  fields g hg hapart := (k.fields g hg hapart).trans (h.fields g hg hapart)

theorem mono {gs : List Fld} {most : List Nat} (h : PortFrame n fs more d e) (hsub : fs ⊆ gs := by decide)
    (hmore : more ⊆ most := by decide) : PortFrame n gs most d e where
  rest := h.rest
  ports := h.ports
  others := h.others
  regs := h.regs.mono (List.append_subset.mpr ⟨List.Subset.trans (List.map_subset _ hsub) (List.subset_append_left _ _),
    List.Subset.trans hmore (List.subset_append_right _ _)⟩)
  fields g hg hapart := h.fields g hg fun f hf => hapart f (hsub hf)

theorem setPort {v : Port} : PortFrame n fs more d (d.setPort n v) where
  rest := ⟨_, _, _, _, _, rfl⟩
  ports := length_setAt _ _ _
  others m hm := by rw [port_setPort, if_neg fun h => hm h.1]
  regs := fun _ _ => rfl
  fields _ _ _ := rfl

theorem s {fl : Fld} {v : Nat} (h : fl ∈ fs := by decide) (hhi : fl.hi < 32 := by decide) (hlo : fl.lo ≤ fl.hi := by decide) :
    PortFrame n fs more d (d.s fl v n) where
  rest := ⟨_, _, _, _, _, rfl⟩
  ports := rfl
  others _ _ := rfl
  regs := .s (List.mem_append_left _ (List.mem_map_of_mem h))
  fields _ _ hapart := g_s_apart d v n (hapart fl h) hhi hlo

theorem stored (d : Dev) (fl : Fld) (v n : Nat) (hhi : fl.hi < 32 := by decide) (hlo : fl.lo ≤ fl.hi := by decide) :
    PortFrame n [fl] [] d (d.s fl v n) := s (List.mem_singleton.mpr rfl) hhi hlo

theorem cnt {fl : Fld} {k : Nat} (h : fl ∈ fs := by decide) (hhi : fl.hi < 32 := by decide)
    (hlo : fl.lo ≤ fl.hi := by decide) : PortFrame n fs more d (d.cnt fl n k) := s h hhi hlo

theorem raise {src code unit : Nat} : PortFrame n fs noticeRegs d (d.raise src code unit) where
  rest := by
    obtain ⟨r, x, u, h, heq⟩ := d.raise_frame src code unit
    exact ⟨r, d.mac, x, u, h, heq⟩
  ports := congrArg List.length (d.raise_mac src code unit)
  others m _ := port_raise d src code unit m
  regs := (sameRegs_raise d src code unit).mono (List.subset_append_right _ _)
  fields g hg _ := (sameRegs_raise d src code unit).g g n hg

/-- A field of the port that shares no bit with those of the frame reads what it read. -/
theorem g (h : PortFrame n fs more d e) (hn : n < 4) (fl : Fld) (hapart : ∀ f ∈ fs, fl.Apart f := by decide)
    (hmac : fl.OfPort := by decide) : e.g fl n = d.g fl n :=
  h.fields fl (off_port_quiet hn hmac) hapart

theorem on (h : PortFrame n fs more d e) (hn : n < 4) (fl : Fld) (hapart : ∀ f ∈ fs, fl.Apart f := by decide)
    (hmac : fl.OfPort := by decide) : e.on fl n = d.on fl n := by
  rw [Dev.on, h.g hn fl hapart hmac, Dev.on]

/-- A register of a port, any port, that the frame's registers are apart from. -/
theorem reg (h : PortFrame n fs more d e) {m : Nat} (hm : m < 4) (fl : Fld)
    (hbase : ∀ f ∈ fs, fl.Elsewhere f := by decide) (hmac : fl.OfPort := by decide)
    (hmore : more ⊆ noticeRegs := by decide) : e.reg (fl.off m) = d.reg (fl.off m) := by
  refine h.regs _ fun hin => ?_
  rcases List.mem_append.mp hin with hfs | hnotice
  · obtain ⟨f, hf, hoff⟩ := List.mem_map.mp hfs
    obtain ⟨⟨hblock, hstride⟩, hne⟩ := hbase f hf
    unfold Fld.off at hoff
    rw [hstride, hmac.2] at hoff
    omega
  · exact off_port_quiet hm hmac (hmore hnotice)

theorem bnk (h : PortFrame n fs more d e) : e.bnk = d.bnk := by
  obtain ⟨_, _, _, _, _, rfl⟩ := h.rest
  rfl

theorem rda (h : PortFrame n fs more d e) : e.rda = d.rda := by
  obtain ⟨_, _, _, _, _, rfl⟩ := h.rest
  rfl

theorem brt (h : PortFrame n fs more d e) : e.brt = d.brt := by
  obtain ⟨_, _, _, _, _, rfl⟩ := h.rest
  rfl

theorem blw (h : PortFrame n fs more d e) : e.blw = d.blw := by
  obtain ⟨_, _, _, _, _, rfl⟩ := h.rest
  rfl

theorem flt (h : PortFrame n fs more d e) : e.flt = d.flt := by
  obtain ⟨_, _, _, _, _, rfl⟩ := h.rest
  rfl

theorem est (h : PortFrame n fs more d e) (hn : n < 4)
    (hapart : ∀ f ∈ fs, Fld.Apart MAC_CTL.MST f ∧ Fld.Apart MAC_STAT.DST f := by decide) : e.est kPort n = d.est kPort n :=
  congrArg₂ max (h.g hn MAC_CTL.MST fun f hf => (hapart f hf).1) (h.g hn MAC_STAT.DST fun f hf => (hapart f hf).2)

theorem macMode (h : PortFrame n fs more d e) (hn : n < 4) (hapart : ∀ f ∈ fs, Fld.Apart MAC_CTL.MODE f := by decide) :
    e.macMode n = d.macMode n := h.g hn MAC_CTL.MODE hapart

theorem macAddr (h : PortFrame n fs more d e) {m : Nat} (hm : m < 4)
    (hlow : ∀ f ∈ fs, MAC_ADDR_L.Elsewhere f := by decide) (hhigh : ∀ f ∈ fs, MAC_ADDR_H.Elsewhere f := by decide)
    (hmore : more ⊆ noticeRegs := by decide) : e.macAddr m = d.macAddr m := by
  rw [Dev.macAddr, g_of_reg (fl := MAC_ADDR_L) (h.reg hm MAC_ADDR_L hlow (by decide) hmore),
    g_of_reg (fl := MAC_ADDR_H) (h.reg hm MAC_ADDR_H hhigh (by decide) hmore), Dev.macAddr]

/-- A register outside the ports' block that no notice changes. -/
theorem reg_outside (h : PortFrame n fs more d e) (hn : n < 4) {off : Nat} (hquiet : off ∉ noticeRegs)
    (hoff : off / 0x1000 ≠ 0x14) (hfs : ∀ f ∈ fs, f.OfPort := by decide)
    (hmore : more ⊆ noticeRegs := by decide) : e.reg off = d.reg off := by
  refine h.regs off fun hin => ?_
  rcases List.mem_append.mp hin with hmap | hnotice
  · obtain ⟨f, hf, rfl⟩ := List.mem_map.mp hmap
    obtain ⟨hbase, hstride⟩ := hfs f hf
    unfold Fld.off at hoff
    rw [hstride] at hoff
    omega
  · exact hquiet (hmore hnotice)

theorem running (h : PortFrame n fs more d e) (hn : n < 4) (hfs : ∀ f ∈ fs, f.OfPort := by decide)
    (hmore : more ⊆ noticeRegs := by decide) : e.running = d.running := by
  have hmode : e.mode = d.mode := g_of_reg (h.reg_outside hn (by decide) (by decide) hfs hmore)
  rw [Dev.running, hmode, Dev.running]

end PortFrame

/-- What carries frames on a port is its mode, its link and its state. -/
theorem portUp_congr {d e : Dev} {n : Nat} (hmode : e.macMode n = d.macMode n)
    (hlink : e.on MAC_STAT.LINK n = d.on MAC_STAT.LINK n) (hest : e.est kPort n = d.est kPort n) : e.portUp n = d.portUp n := by
  rw [Dev.portUp, hmode, hlink, hest, Dev.portUp]

/-! ### The first of the lowest class (R416, R423) -/

/-- Of the classes in rising order, the first one that has an element gives the first element of the lowest class. -/
theorem findSome?_lowest {α : Type} {key : α → Nat} {a b : List α} {x : α} {classes : List Nat}
    (ha : ∀ y ∈ a, key x < key y) (hb : ∀ y ∈ b, key x ≤ key y) (hrising : classes.Pairwise (· < ·))
    (hclass : key x ∈ classes) :
    classes.findSome? (fun t => (a ++ x :: b).find? (fun y => key y = t)) = some x := by
  obtain ⟨lower, rest, rfl⟩ := List.append_of_mem hclass
  obtain ⟨-, -, hbelow⟩ := List.pairwise_append.mp hrising
  have hlower : ∀ t ∈ lower, (a ++ x :: b).find? (fun y => key y = t) = none := fun t ht => by
    have hlt : t < key x := hbelow t ht (key x) List.mem_cons_self
    refine List.find?_eq_none.mpr fun y hy => ?_
    have hle : key x ≤ key y := by
      rcases List.mem_append.mp hy with hy | hy
      · exact (ha y hy).le
      · rcases List.mem_cons.mp hy with rfl | hy
        · exact le_rfl
        · exact hb y hy
    simpa using (hlt.trans_le hle).ne'
  have hfirst : (a ++ x :: b).find? (fun y => key y = key x) = some x := by
    have hnone : a.find? (fun y => key y = key x) = none :=
      List.find?_eq_none.mpr fun y hy => by simpa using (ha y hy).ne'
    rw [List.find?_append, hnone, Option.none_or, List.find?_cons_of_pos (by simp)]
  rw [List.findSome?_append, List.findSome?_eq_none_iff.mpr hlower, Option.none_or, List.findSome?_cons, hfirst]

theorem erase_first {α : Type} [DecidableEq α] {a b : List α} {x : α} (h : x ∉ a) : (a ++ x :: b).erase x = a ++ b := by
  rw [List.erase_append_right _ h, List.erase_cons_head]

/-! ### The line (R422 to R426) -/

section
variable {d e : Dev} {n : Nat}

theorem lineBytes_congr (f : TxFrame) (hbrt : e.brt = d.brt) (htag : e.reg (MAC_TAG.VID.off n) = d.reg (MAC_TAG.VID.off n))
    (hlow : e.reg (MAC_ADDR_L.off n) = d.reg (MAC_ADDR_L.off n)) (hhigh : e.reg (MAC_ADDR_H.off n) = d.reg (MAC_ADDR_H.off n)) :
    e.lineBytes n f = d.lineBytes n f := by
  have hvid : e.g MAC_TAG.VID n = d.g MAC_TAG.VID n := g_of_reg htag
  have hen : e.on MAC_TAG.TAGEN n = d.on MAC_TAG.TAGEN n := by rw [Dev.on, g_of_reg (fl := MAC_TAG.TAGEN) htag, Dev.on]
  have haddr : e.macAddr n = d.macAddr n := by
    rw [Dev.macAddr, g_of_reg (fl := MAC_ADDR_L) hlow, g_of_reg (fl := MAC_ADDR_H) hhigh, Dev.macAddr]
  simp only [Dev.lineBytes, hbrt, htag, hvid, hen, haddr]

/-- An update of other fields leaves what a frame puts on the line. -/
theorem PortFrame.lineBytes {fs : List Fld} {more : List Nat} (h : PortFrame n fs more d e) (f : TxFrame) (hport : n < 4)
    (htag : ∀ f ∈ fs, MAC_TAG.VID.Elsewhere f := by decide) (hlow : ∀ f ∈ fs, MAC_ADDR_L.Elsewhere f := by decide)
    (hhigh : ∀ f ∈ fs, MAC_ADDR_H.Elsewhere f := by decide) (hmore : more ⊆ noticeRegs := by decide) :
    e.lineBytes n f = d.lineBytes n f :=
  lineBytes_congr f h.brt (h.reg hport MAC_TAG.VID htag (by decide) hmore) (h.reg hport MAC_ADDR_L hlow (by decide) hmore)
    (h.reg hport MAC_ADDR_H hhigh (by decide) hmore)

/-- A frame put on the line is the port's last one, and is counted. -/
theorem sendFrame_spec (f : TxFrame) (hn : n < d.mac.length) :
    (d.sendFrame n f).port n = { d.port n with line := some (d.lineBytes n f, d.brt.pos) } ∧
      PortFrame n [MAC_TXOK] [] d (d.sendFrame n f) ∧
      (d.sendFrame n f).g MAC_TXOK n = min (d.g MAC_TXOK n + 1) 0xFFFFFFFF :=
  ⟨port_setPort_same d _ hn, .trans .setPort .cnt, g_cnt_same _ MAC_TXOK n 1⟩

/-- The first frame of the lowest class that the port may send goes on the line (R423, R437). -/
theorem transmit_spec {a b : List TxFrame} {f : TxFrame} (hn : n < d.mac.length) (hup : d.portUp n = true)
    (htest : (d.port n).testing = 0) (hlpi : d.on MAC_STAT.LPITX n = false) (hmay : d.est kPort n = ENABLED ∨ f.tc = 0)
    (htx : (d.port n).tx = a ++ f :: b) (ha : ∀ x ∈ a, f.tc < x.tc) (hb : ∀ x ∈ b, f.tc ≤ x.tc) :
    (transmit d n).port n = { d.port n with tx := a ++ b, line := some (d.lineBytes n f, d.brt.pos) } ∧
      PortFrame n [MAC_TXOK] [] d (transmit d n) ∧ (transmit d n).g MAC_TXOK n = min (d.g MAC_TXOK n + 1) 0xFFFFFFFF := by
  have hhead : d.txHead n = some f := by
    unfold Dev.txHead
    dsimp only
    rw [htx]
    have hlt := f.tc.isLt
    split
    · exact findSome?_lowest ha hb (by decide) (by simp only [List.mem_cons]; omega)
    next hne => exact findSome?_lowest ha hb (by decide) (by rw [hmay.resolve_left hne]; decide)
  have hfirst : f ∉ a := fun hin => BitVec.lt_irrefl _ (ha f hin)
  have heq : transmit d n = (d.setPort n { d.port n with tx := a ++ b }).sendFrame n f := by
    unfold transmit
    rw [if_neg (by simp [hup, htest, hlpi]), hhead]
    simp only [htx, erase_first hfirst]
  have htaken : PortFrame n [MAC_TXOK] [] d (d.setPort n { d.port n with tx := a ++ b }) := .setPort
  obtain ⟨hsent, hframe, hcount⟩ := sendFrame_spec (d := d.setPort n { d.port n with tx := a ++ b }) f (htaken.ports.symm ▸ hn)
  have hline : (d.setPort n { d.port n with tx := a ++ b }).lineBytes n f = d.lineBytes n f := lineBytes_congr f rfl rfl rfl rfl
  rw [heq]
  exact ⟨by rw [hsent, hline, port_setPort_same d _ hn, Dev.setPort_brt], htaken.trans hframe, hcount⟩

theorem enqueue_spec (f : TxFrame) (hn : n < d.mac.length) :
    (d.enqueue n f).port n = { d.port n with tx := (d.port n).tx ++ [f] } ∧ PortFrame n [] [] d (d.enqueue n f) :=
  ⟨port_setPort_same d _ hn, .setPort⟩

/-- All that is queued on a port is discarded and counted. -/
theorem txDiscard_all_spec (hn : n < d.mac.length) :
    (d.txDiscard n (fun _ => true)).port n = { d.port n with tx := [] } ∧
      PortFrame n [MAC_TXDISC] [] d (d.txDiscard n (fun _ => true)) ∧
      (d.txDiscard n (fun _ => true)).g MAC_TXDISC n = min (d.g MAC_TXDISC n + (d.port n).tx.length) 0xFFFFFFFF := by
  have hall : (d.port n).tx.filter (fun _ => true) = (d.port n).tx := List.filter_eq_self.mpr fun _ _ => rfl
  have hnone : (d.port n).tx.filter (fun _ => !true) = [] := List.filter_eq_nil_iff.mpr fun _ _ => Bool.false_ne_true
  unfold Dev.txDiscard
  rw [hall, hnone]
  exact ⟨port_setPort_same d _ hn, .trans .setPort .cnt, g_cnt_same _ MAC_TXDISC n _⟩

/-! ### The neighbour record and the link (R409, R432, R433) -/

/-- What the LLDP agent would send depends on the port's record and mode and on two ports' addresses. -/
theorem lldpFrame_congr (ttl : Nat) (hport : (e.port n).nbr = (d.port n).nbr) (hmode : e.macMode n = d.macMode n)
    (hfirst : e.macAddr 0 = d.macAddr 0) (haddr : e.macAddr n = d.macAddr n) : e.lldpFrame n ttl = d.lldpFrame n ttl := by
  simp only [Dev.lldpFrame, Dev.lldpdu, Dev.twTx, hport, hmode, hfirst, haddr]

/-- The fields that follow the mode and the neighbour record. -/
def nbrFields : List Fld := [MAC_EEE.TWMAX, MAC_EEE.TWTX, MAC_STAT.EEEOK, MAC_LLDP.VALID, MAC_LLDP.TTL, MAC_LLDP.PRX]

/-- Those fields with the values given. -/
def Dev.shownMac (d : Dev) (n twmax twtx eeeok valid ttl prx : Nat) : Dev :=
  (((((d.s MAC_EEE.TWMAX twmax n).s MAC_EEE.TWTX twtx n).s MAC_STAT.EEEOK eeeok n).s MAC_LLDP.VALID valid n).s
    MAC_LLDP.TTL ttl n).s MAC_LLDP.PRX prx n

theorem shownMac_spec (d : Dev) (n twmax twtx eeeok valid ttl prx : Nat) :
    (d.shownMac n twmax twtx eeeok valid ttl prx).port n = d.port n ∧
      PortFrame n nbrFields [] d (d.shownMac n twmax twtx eeeok valid ttl prx) ∧
      (d.shownMac n twmax twtx eeeok valid ttl prx).g MAC_STAT.EEEOK n = eeeok % 2 ∧
      (d.shownMac n twmax twtx eeeok valid ttl prx).g MAC_LLDP.VALID n = valid % 2 := by
  unfold Dev.shownMac
  refine ⟨by simp only [port_s], .trans (.trans .s (.trans .s .s)) (.trans .s (.trans .s .s)), ?eeeok, ?valid⟩
  case eeeok =>
    rw [g_s_apart (f := MAC_LLDP.PRX) _ _ _ (by decide), g_s_apart (f := MAC_LLDP.TTL) _ _ _ (by decide),
      g_s_apart (f := MAC_LLDP.VALID) _ _ _ (by decide)]
    exact g_s_same _ MAC_STAT.EEEOK eeeok n
  case valid =>
    rw [g_s_apart (f := MAC_LLDP.PRX) _ _ _ (by decide), g_s_apart (f := MAC_LLDP.TTL) _ _ _ (by decide)]
    exact g_s_same _ MAC_LLDP.VALID valid n

/-- Without a record, EEEOK and VALID are shown as 0. -/
theorem showMac_form (d : Dev) (n : Nat) : ∃ twmax twtx eeeok valid ttl prx,
    d.showMac n = d.shownMac n twmax twtx eeeok valid ttl prx ∧ ((d.port n).nbr = none → eeeok = 0 ∧ valid = 0) := by
  unfold Dev.showMac
  simp only [port_s]
  cases h : (d.port n).nbr with
  | none => exact ⟨_, _, _, _, _, _, rfl, fun _ => ⟨rfl, rfl⟩⟩
  | some r => exact ⟨_, _, _, _, _, _, rfl, nofun⟩

theorem showMac_spec (d : Dev) (n : Nat) :
    (d.showMac n).port n = d.port n ∧ PortFrame n nbrFields [] d (d.showMac n) ∧
      ((d.port n).nbr = none → (d.showMac n).g MAC_STAT.EEEOK n = 0 ∧ (d.showMac n).g MAC_LLDP.VALID n = 0) := by
  obtain ⟨twmax, twtx, eeeok, valid, ttl, prx, hform, hnone⟩ := showMac_form d n
  obtain ⟨hport, hframe, heee, hvalid⟩ := shownMac_spec d n twmax twtx eeeok valid ttl prx
  rw [hform, heee, hvalid]
  refine ⟨hport, hframe, fun h => ?_⟩
  obtain ⟨rfl, rfl⟩ := hnone h
  exact ⟨rfl, rfl⟩

/-- The record is dropped: the fields that follow it show none, and the rest of the port stays. -/
theorem setNbr_none_spec (hn : n < d.mac.length) (hport : n < 4) :
    (d.setNbr n none).port n = { d.port n with nbr := none } ∧ PortFrame n nbrFields noticeRegs d (d.setNbr n none) ∧
      (d.setNbr n none).g MAC_STAT.EEEOK n = 0 ∧ (d.setNbr n none).g MAC_LLDP.VALID n = 0 := by
  have hset := port_setPort_same d { d.port n with nbr := none } hn
  obtain ⟨hshown, hframe, hnone⟩ := showMac_spec (d.setPort n { d.port n with nbr := none }) n
  obtain ⟨heee, hvalid⟩ := hnone (by rw [hset])
  have hdropped : PortFrame n nbrFields noticeRegs d ((d.setPort n { d.port n with nbr := none }).showMac n) :=
    .trans .setPort hframe.mono
  unfold Dev.setNbr
  dsimp only
  split
  · exact ⟨hshown.trans hset, hdropped, heee, hvalid⟩
  · have hraise : ∀ e : Dev, PortFrame n [] noticeRegs e (e.raise nMAC 4 n) := fun e => .raise
    exact ⟨(port_raise _ _ _ _ _).trans (hshown.trans hset), hdropped.trans .raise,
      ((hraise _).g hport MAC_STAT.EEEOK).trans heee, ((hraise _).g hport MAC_LLDP.VALID).trans hvalid⟩

/-- The port's state shows that the link is gone, with its notice and count. -/
def Dev.linkLost (d : Dev) (n : Nat) : Dev :=
  ((((d.s MAC_STAT.LINK 0 n).s MAC_STAT.LPITX 0 n).s MAC_STAT.LPIRX 0 n).raise nMAC 2 n).cnt MAC_LINKDN n

theorem linkLost_spec (d : Dev) {n : Nat} (hport : n < 4) :
    (d.linkLost n).port n = d.port n ∧
      PortFrame n [MAC_STAT.LINK, MAC_STAT.LPITX, MAC_STAT.LPIRX, MAC_LINKDN] noticeRegs d (d.linkLost n) ∧
      (d.linkLost n).g MAC_STAT.LINK n = 0 ∧ (d.linkLost n).g MAC_STAT.LPITX n = 0 ∧ (d.linkLost n).g MAC_STAT.LPIRX n = 0 ∧
      (d.linkLost n).g MAC_LINKDN n = min (d.g MAC_LINKDN n + 1) 0xFFFFFFFF := by
  have htold : PortFrame n [MAC_LINKDN] noticeRegs (((d.s MAC_STAT.LINK 0 n).s MAC_STAT.LPITX 0 n).s MAC_STAT.LPIRX 0 n)
      (d.linkLost n) := .trans .raise .cnt
  have hdown : PortFrame n [MAC_STAT.LINK, MAC_STAT.LPITX, MAC_STAT.LPIRX] [] d
      (((d.s MAC_STAT.LINK 0 n).s MAC_STAT.LPITX 0 n).s MAC_STAT.LPIRX 0 n) := .trans (.trans .s .s) .s
  have hraised : PortFrame n [] noticeRegs (((d.s MAC_STAT.LINK 0 n).s MAC_STAT.LPITX 0 n).s MAC_STAT.LPIRX 0 n)
      ((((d.s MAC_STAT.LINK 0 n).s MAC_STAT.LPITX 0 n).s MAC_STAT.LPIRX 0 n).raise nMAC 2 n) := .raise
  refine ⟨?port, hdown.mono.trans htold.mono, ?link, ?tx, ?rx, ?count⟩
  case port => rw [Dev.linkLost, port_cnt, port_raise, port_s, port_s, port_s]
  case link =>
    rw [htold.g hport MAC_STAT.LINK, g_s_apart (f := MAC_STAT.LPIRX) _ _ _ (by decide),
      g_s_apart (f := MAC_STAT.LPITX) _ _ _ (by decide)]
    exact g_s_same d MAC_STAT.LINK 0 n
  case tx =>
    rw [htold.g hport MAC_STAT.LPITX, g_s_apart (f := MAC_STAT.LPIRX) _ _ _ (by decide)]
    exact g_s_same _ MAC_STAT.LPITX 0 n
  case rx =>
    rw [htold.g hport MAC_STAT.LPIRX]
    exact g_s_same _ MAC_STAT.LPIRX 0 n
  case count =>
    rw [← hdown.g hport MAC_LINKDN, ← hraised.g hport MAC_LINKDN]
    exact g_cnt_same _ MAC_LINKDN n 1

/-- The fields that a link going down changes. -/
def linkFields : List Fld := [MAC_STAT.LINK, MAC_STAT.LPITX, MAC_STAT.LPIRX, MAC_LINKDN, MAC_TXDISC] ++ nbrFields

/-- A link goes down: its queue is discarded, its record dropped. -/
theorem linkDown_spec (hn : n < d.mac.length) (hport : n < 4) (hlink : d.on MAC_STAT.LINK n = true) :
    (d.linkDown n).port n = { d.port n with tx := [], nbr := none } ∧ PortFrame n linkFields noticeRegs d (d.linkDown n) ∧
      (d.linkDown n).g MAC_STAT.LINK n = 0 ∧ (d.linkDown n).g MAC_STAT.LPITX n = 0 ∧ (d.linkDown n).g MAC_STAT.LPIRX n = 0 ∧
      (d.linkDown n).g MAC_LINKDN n = min (d.g MAC_LINKDN n + 1) 0xFFFFFFFF ∧
      (d.linkDown n).g MAC_TXDISC n = min (d.g MAC_TXDISC n + (d.port n).tx.length) 0xFFFFFFFF := by
  obtain ⟨hlost, hlframe, hdown, htx, hrx, hcount⟩ := linkLost_spec d hport
  have hn' : n < (d.linkLost n).mac.length := by rw [hlframe.ports]; exact hn
  obtain ⟨hempty, hdframe, hdiscarded⟩ := txDiscard_all_spec (d := d.linkLost n) hn'
  obtain ⟨hdropped, hnframe, -, -⟩ := setNbr_none_spec (d := (d.linkLost n).txDiscard n (fun _ => true))
    (by rw [hdframe.ports]; exact hn') hport
  have heq : d.linkDown n = ((d.linkLost n).txDiscard n (fun _ => true)).setNbr n none := if_neg (by simp [hlink])
  have hrest := hdframe.mono (gs := MAC_TXDISC :: nbrFields) (most := noticeRegs)
    |>.trans (hnframe.mono (List.subset_cons_self _ _))
  rw [heq, hrest.g hport MAC_STAT.LINK, hrest.g hport MAC_STAT.LPITX, hrest.g hport MAC_STAT.LPIRX, hrest.g hport MAC_LINKDN,
    hnframe.g hport MAC_TXDISC, hdiscarded, hlframe.g hport MAC_TXDISC, hlost]
  exact ⟨by rw [hdropped, hempty, hlost], hlframe.mono.trans hrest.mono, hdown, htx, hrx, hcount, rfl⟩

/-- A link that is down stays down. -/
theorem linkDown_of_down (hlink : d.on MAC_STAT.LINK n = false) : d.linkDown n = d := by
  rw [Dev.linkDown, hlink, if_pos Bool.not_false]

/-- Whether or not there was a link, there is none after it goes down. -/
theorem linkDown_frame (hn : n < d.mac.length) (hport : n < 4) :
    PortFrame n linkFields noticeRegs d (d.linkDown n) ∧ (d.linkDown n).g MAC_STAT.LINK n = 0 ∧
      (d.on MAC_STAT.LINK n = true → ((d.linkDown n).port n).tx = []) := by
  cases hlink : d.on MAC_STAT.LINK n with
  | true =>
    obtain ⟨hdown, hframe, hclear, -⟩ := linkDown_spec hn hport hlink
    exact ⟨hframe, hclear, fun _ => by rw [hdown]⟩
  | false =>
    rw [linkDown_of_down hlink]
    exact ⟨.refl, by simpa [Dev.on] using hlink, nofun⟩

/-! ### The link error counter (R434, R435) -/

/-- Below the quarantine level the counter takes its value, with the notices of the levels it rises into. -/
theorem setLec_of_low {v : Nat} (hv : v < 1000) (hport : n < 4) :
    (d.setLec n v).mac = d.mac ∧ PortFrame n [MAC_LEC.VALUE, MAC_STAT.LECLVL] noticeRegs d (d.setLec n v) ∧
      (d.setLec n v).g MAC_LEC.VALUE n = v := by
  have hlevel : ¬(d.g MAC_STAT.LECLVL n < 3 ∧ 3 ≤ lecLevel v) := fun h => by
    have hlow : lecLevel v ≤ 2 := by
      unfold lecLevel
      rw [if_pos (show v < 1000 from hv)]
      split_ifs <;> omega
    omega
  have hstored : ((d.s MAC_LEC.VALUE v n).s MAC_STAT.LECLVL (lecLevel v) n).g MAC_LEC.VALUE n = v := by
    rw [g_s_apart _ _ _ (by decide), g_s_same _ MAC_LEC.VALUE]
    exact Nat.mod_eq_of_lt (show v < 1024 by omega)
  have hraise : ∀ (p : Prop) [Decidable p] (e : Dev) (code : Nat),
      (if p then e.raise nMAC code n else e).mac = e.mac ∧
        PortFrame n [] noticeRegs e (if p then e.raise nMAC code n else e) := fun p _ e code => by
    split
    · exact ⟨e.raise_mac nMAC code n, .raise⟩
    · exact ⟨rfl, .refl⟩
  unfold Dev.setLec
  dsimp only
  rw [if_neg hlevel]
  obtain ⟨hmac5, h5⟩ := hraise (d.g MAC_STAT.LECLVL n < 1 ∧ 1 ≤ lecLevel v)
    ((d.s MAC_LEC.VALUE v n).s MAC_STAT.LECLVL (lecLevel v) n) 5
  obtain ⟨hmac6, h6⟩ := hraise (d.g MAC_STAT.LECLVL n < 2 ∧ 2 ≤ lecLevel v) _ 6
  refine ⟨hmac6.trans hmac5, ?_, ((h6.g hport MAC_LEC.VALUE).trans (h5.g hport MAC_LEC.VALUE)).trans hstored⟩
  exact .trans (.trans .s .s) (h5.mono.trans h6.mono)

/-- The counter at 0 shows level 0, which nothing rises into. -/
theorem setLec_zero_spec (d : Dev) {n : Nat} (hport : n < 4) :
    (d.setLec n 0).g MAC_LEC.VALUE n = 0 ∧ (d.setLec n 0).g MAC_STAT.LECLVL n = 0 ∧ (d.setLec n 0).mac = d.mac ∧
      PortFrame n [MAC_LEC.VALUE, MAC_STAT.LECLVL] [] d (d.setLec n 0) := by
  have heq : d.setLec n 0 = (d.s MAC_LEC.VALUE 0 n).s MAC_STAT.LECLVL 0 n := by
    have hlevel : lecLevel 0 = 0 := rfl
    simp [Dev.setLec, hlevel]
  have hvalue : PortFrame n [MAC_LEC.VALUE] [] d (d.s MAC_LEC.VALUE 0 n) := .s
  have hlevel : PortFrame n [MAC_STAT.LECLVL] [] (d.s MAC_LEC.VALUE 0 n)
    ((d.s MAC_LEC.VALUE 0 n).s MAC_STAT.LECLVL 0 n) := .s
  rw [heq, hlevel.g hport MAC_LEC.VALUE]
  exact ⟨g_s_same d MAC_LEC.VALUE 0 n, g_s_same _ MAC_STAT.LECLVL 0 n, (Dev.s_mac _ _ _ _).trans (Dev.s_mac _ _ _ _),
    hvalue.mono.trans hlevel.mono⟩

/-- Below the quarantine level an error charges the counter in full. -/
theorem lecAdd_of_low {k : Nat} (hlow : d.g MAC_LEC.VALUE n + k < 1000) :
    d.lecAdd n k = d.setLec n (d.g MAC_LEC.VALUE n + k) := by
  rw [Dev.lecAdd, Nat.min_eq_right (by omega)]

/-- A PCS block error is counted and charges 4. -/
theorem lecAdd_counted_spec (d : Dev) {n : Nat} (hport : n < 4) (hlow : d.g MAC_LEC.VALUE n + 4 < 1000) :
    ((d.cnt MAC_PCSERR n).lecAdd n 4).g MAC_LEC.VALUE n = d.g MAC_LEC.VALUE n + 4 ∧
      ((d.cnt MAC_PCSERR n).lecAdd n 4).mac = d.mac ∧
      ((d.cnt MAC_PCSERR n).lecAdd n 4).g MAC_PCSERR n = min (d.g MAC_PCSERR n + 1) 0xFFFFFFFF ∧
      PortFrame n [MAC_PCSERR, MAC_LEC.VALUE, MAC_STAT.LECLVL] noticeRegs d ((d.cnt MAC_PCSERR n).lecAdd n 4) := by
  have hcounted : PortFrame n [MAC_PCSERR] [] d (d.cnt MAC_PCSERR n) := .cnt
  have hold : (d.cnt MAC_PCSERR n).g MAC_LEC.VALUE n = d.g MAC_LEC.VALUE n := hcounted.g hport MAC_LEC.VALUE
  obtain ⟨hmac, hframe, hvalue⟩ := setLec_of_low (d := d.cnt MAC_PCSERR n) hlow hport
  rw [lecAdd_of_low (hold ▸ hlow), hold, hframe.g hport MAC_PCSERR]
  exact ⟨hvalue, hmac, g_cnt_same d MAC_PCSERR n 1, hcounted.mono.trans hframe.mono⟩

end

end Sys2Proof.Machine

/-! SUPPORT and certificates. The links of the frame ports: link, mode, low-power idle, LLDP agent and error counter. -/
namespace Sys2Proof.Machine

/-! ### Link up, low-power idle and the LLDP agent (R408, R429, R432) -/

section
variable {d : Dev} {n : Nat}

/-- The port's state shows the link, with its notice. -/
def Dev.linked (d : Dev) (n : Nat) : Dev := (d.s MAC_STAT.LINK 1 n).raise nMAC 1 n

theorem linked_spec (d : Dev) {n : Nat} (hport : n < 4) :
    (d.linked n).port n = d.port n ∧ PortFrame n [MAC_STAT.LINK] noticeRegs d (d.linked n) ∧
      (d.linked n).g MAC_STAT.LINK n = 1 := by
  have hraise : PortFrame n [] noticeRegs (d.s MAC_STAT.LINK 1 n) (d.linked n) := .raise
  exact ⟨(port_raise _ _ _ _ _).trans (port_s _ _ _ _ _), .trans .s hraise.mono,
    (hraise.g hport MAC_STAT.LINK).trans (g_s_same d MAC_STAT.LINK 1 n)⟩

/-- The LLDPDU of the linked port is the one of the port before. -/
theorem lldpFrame_linked (d : Dev) {n : Nat} (ttl : Nat) (hport : n < 4) :
    (d.linked n).lldpFrame n ttl = d.lldpFrame n ttl := by
  obtain ⟨hsame, hframe, -⟩ := linked_spec d hport
  exact lldpFrame_congr ttl (congrArg Port.nbr hsame) (hframe.macMode hport) (hframe.macAddr (by decide)) (hframe.macAddr hport)

theorem linkUp_spec (hn : n < d.mac.length) (hport : n < 4) (hmode : d.macMode n ≠ 0) (hlink : d.on MAC_STAT.LINK n = false)
    (hest : d.est kPort n < 2) :
    PortFrame n [MAC_STAT.LINK] noticeRegs d (linkUp d n) ∧ (linkUp d n).g MAC_STAT.LINK n = 1 ∧
      ((linkUp d n).port n).tx =
        if d.on MAC_CTL.LLDPEN n && d.running then (d.port n).tx ++ [d.lldpFrame n 120] else (d.port n).tx := by
  obtain ⟨hsame, hframe, hup⟩ := linked_spec d hport
  obtain ⟨hqueued, henq⟩ := enqueue_spec (d := d.linked n) ((d.linked n).lldpFrame n 120) (hframe.ports.symm ▸ hn)
  have heq : linkUp d n = if (d.linked n).on MAC_CTL.LLDPEN n && (d.linked n).running then
      (d.linked n).enqueue n ((d.linked n).lldpFrame n 120) else d.linked n :=
    if_neg (by simp [hmode, hlink, show ¬ DISABLED ≤ d.est kPort n from not_le.mpr hest])
  rw [heq, hframe.on hport MAC_CTL.LLDPEN, hframe.running hport]
  split
  · exact ⟨hframe.trans henq.mono, (henq.g hport MAC_STAT.LINK).trans hup,
      by rw [hqueued, hsame, lldpFrame_linked d 120 hport]⟩
  · exact ⟨hframe, hup, by rw [hsame]⟩

/-- With nothing queued and no record of a partner, the transmitter enters low-power idle. -/
theorem lpiEntry_spec (hport : n < 4) (hup : d.portUp n = true) (hen : d.on MAC_CTL.EEEEN n = true) (hmode : 2 ≤ d.macMode n)
    (htx : (d.port n).tx = []) (hlpi : d.on MAC_STAT.LPITX n = false) (htest : (d.port n).testing = 0)
    (hnbr : (d.port n).nbr = none) :
    (lpiEntry d n).g MAC_STAT.LPITX n = 1 ∧ (lpiEntry d n).mac = d.mac ∧
      (lpiEntry d n).g MAC_LPIENT n = min (d.g MAC_LPIENT n + 1) 0xFFFFFFFF ∧
      PortFrame n [MAC_STAT.LPITX, MAC_LPIENT] [] d (lpiEntry d n) := by
  have heq : lpiEntry d n = (d.s MAC_STAT.LPITX 1 n).cnt MAC_LPIENT n := by
    unfold lpiEntry
    dsimp only
    rw [if_pos (by simp [hup, hen, hmode, htx, hlpi, htest, hnbr])]
  have hset : PortFrame n [MAC_STAT.LPITX] [] d (d.s MAC_STAT.LPITX 1 n) := .s
  have hcount : PortFrame n [MAC_LPIENT] [] (d.s MAC_STAT.LPITX 1 n) ((d.s MAC_STAT.LPITX 1 n).cnt MAC_LPIENT n) := .cnt
  rw [heq, hcount.g hport MAC_STAT.LPITX, ← hset.g hport MAC_LPIENT]
  exact ⟨g_s_same d MAC_STAT.LPITX 1 n, (Dev.cnt_mac _ _ _ _).trans (Dev.s_mac _ _ _ _), g_cnt_same _ MAC_LPIENT n 1,
    hset.mono.trans hcount.mono⟩

/-- The transmitter leaves low-power idle and sends the frame that waits. -/
theorem lpiExit_spec {f : TxFrame} (hn : n < d.mac.length) (hport : n < 4) (hup : d.portUp n = true)
    (htest : (d.port n).testing = 0) (htx : (d.port n).tx = [f]) (hmay : d.est kPort n = ENABLED ∨ f.tc = 0) :
    (transmit (d.s MAC_STAT.LPITX 0 n) n).port n = { d.port n with tx := [], line := some (d.lineBytes n f, d.brt.pos) } ∧
      PortFrame n [MAC_STAT.LPITX, MAC_TXOK] [] d (transmit (d.s MAC_STAT.LPITX 0 n) n) ∧
      (transmit (d.s MAC_STAT.LPITX 0 n) n).g MAC_STAT.LPITX n = 0 := by
  have hawake : PortFrame n [MAC_STAT.LPITX] [] d (d.s MAC_STAT.LPITX 0 n) := .s
  have hclear : (d.s MAC_STAT.LPITX 0 n).g MAC_STAT.LPITX n = 0 := g_s_same d MAC_STAT.LPITX 0 n
  have hup' := (portUp_congr (hawake.macMode hport) (hawake.on hport MAC_STAT.LINK) (hawake.est hport)).trans hup
  have hline : (d.s MAC_STAT.LPITX 0 n).lineBytes n f = d.lineBytes n f := hawake.lineBytes f hport
  obtain ⟨hsent, hframe, -⟩ := transmit_spec (d := d.s MAC_STAT.LPITX 0 n) (a := []) (b := []) hn hup' htest
    (by simp [Dev.on, hclear]) (by rw [hawake.est hport]; exact hmay) htx nofun nofun
  exact ⟨by rw [hsent, hline, port_s, Dev.s_brt, List.nil_append], hawake.mono.trans hframe.mono,
    (hframe.g hport MAC_STAT.LPITX).trans hclear⟩

end

/-! ### Register writes of a port (R7, R410, R435, R442, R773) -/

theorem mapped_port (p : BitVec 2) :
    mapped (0x14000 + 0x400 * p.toNat) = true ∧ mapped (0x14014 + 0x400 * p.toNat) = true := by
  have h : ∀ n : Fin 4, mapped (0x14000 + 0x400 * n.val) = true ∧ mapped (0x14014 + 0x400 * n.val) = true := by
    decide +kernel
  exact h p.toFin

/-- A host write of a register of the frame ports in a running device. -/
theorem regWrite_port {s : State} {off : Nat} (v : Word) (hrun : s.dev.running = true) (hmap : mapped off = true)
    (hblk : off / 0x1000 = 0x14) : s.regWrite .host off v = { s with dev := s.dev.wrMac off v } := by
  have hmay : s.dev.mayWrite .host off = true := by
    unfold Dev.mayWrite
    simp only [hrun, Bool.true_or]
  have hdev : s.dev.regWrite s.otp.wrapKey .host off v = s.dev.wrMac off v := by
    rw [Dev.regWrite, if_neg (by simp [hmay, hmap])]
    simp only [hblk]
  rw [State.regWrite, if_neg (by simp [hmay, hmap]), if_neg (by omega), if_neg (by omega), if_neg (by omega), hdev]

/-- MAC_CTL is written whether or not the port's island is gated. -/
theorem wrMac_ctl (d : Dev) (p : BitVec 2) (v : Word) :
    d.wrMac (0x14000 + 0x400 * p.toNat) v =
      (d.writeMacCtl p.toNat (d.merged (0x14000 + 0x400 * p.toNat) v)).afterState kPort p.toNat := by
  have hp := p.isLt
  have hidx : (0x14000 + 0x400 * p.toNat - 0x14000) / 0x400 = p.toNat := by omega
  have hreg : (0x14000 + 0x400 * p.toNat) % 0x400 = 0 := by omega
  have hshadow : macShadow 0 = true := rfl
  unfold Dev.wrMac
  simp only [hidx, hreg, hshadow]
  rw [if_neg (by simp; omega), if_pos trivial]

theorem wrMac_lecClr {d : Dev} {p : BitVec 2} (hgated : (d.port p.toNat).gated = false) :
    d.wrMac (0x14014 + 0x400 * p.toNat) 0x80000000 = d.writeLecClr p.toNat := by
  have hp := p.isLt
  have hidx : (0x14014 + 0x400 * p.toNat - 0x14000) / 0x400 = p.toNat := by omega
  have hreg : (0x14014 + 0x400 * p.toNat) % 0x400 = 0x14 := by omega
  unfold Dev.wrMac
  simp only [hidx, hreg, hgated]
  rw [if_neg (by simp; omega), if_neg (by decide), if_pos trivial, if_pos (by decide)]

/-- The row of MAC_CTL: eleven writable bits, MODE 0 to 4. -/
theorem rowOf_ctl (p : BitVec 2) :
    rowOf (0x14000 + 0x400 * p.toNat) = some ⟨0x14000, 0x400, 4, 0xA0, 0x7FF, 0, 0, 0, 0, [(4, 2, [(0, 4, 1)])]⟩ := by
  have h : ∀ n : Fin 4, rowOf (0x14000 + 0x400 * n.val) =
      some ⟨0x14000, 0x400, 4, 0xA0, 0x7FF, 0, 0, 0, 0, [(4, 2, [(0, 4, 1)])]⟩ := by decide +kernel
  exact h p.toFin

/-- A legal mode is taken with the other writable bits of the word. -/
theorem bitsOf_mergedCtl (d : Dev) (p : BitVec 2) {v : Word} (hlegal : bitsOf v.toNat 4 2 ≤ 4) {hi : Nat} (lo : Nat)
    (hhi : hi ≤ 10) : bitsOf (d.merged (0x14000 + 0x400 * p.toNat) v).toNat hi lo = bitsOf v.toNat hi lo := by
  have hmode : legal (bitsOf v.toNat 4 2) [(0, 4, 1)] = true := by simp [legal, hlegal, Nat.mod_one]
  have hwritable : ∀ j < 11, (0x7FF : Word).getLsbD j = true := by decide
  have hbit : ∀ j < 11, (d.merged (0x14000 + 0x400 * p.toNat) v).toNat.testBit j = v.toNat.testBit j := fun j hj => by
    simp only [Dev.merged, rowOf_ctl, RegRow.merge, List.foldl_cons, List.foldl_nil, hmode, if_true, BitVec.testBit_toNat,
      BitVec.getLsbD_or, BitVec.getLsbD_and, BitVec.getLsbD_not, hwritable j hj, show j < 32 by omega]
    simp
  refine Nat.eq_of_testBit_eq fun i => ?_
  rw [bitsOf_testBit, bitsOf_testBit]
  by_cases hi' : i < hi + 1 - lo
  · rw [hbit _ (by omega)]
  · simp [hi']

/-! ### The mode of a port (R410, R442) -/

section
variable {d : Dev} {n : Nat}

/-- Both polarity bits of MAC_CTL. -/
def polarity : Fld := ⟨0x14000, 0x400, 10, 9⟩

/-- The word of MAC_CTL with a mode and both polarity bits. -/
def Dev.ctlWord (d : Dev) (n mode pol : Nat) : Word := putBits (putBits (d.reg (MAC_CTL.MODE.off n)) 4 2 mode) 10 9 pol

theorem bitsOf_ctlWord (d : Dev) (n : Nat) {mode : Nat} (pol : Nat) (hmode : mode < 8) :
    bitsOf (d.ctlWord n mode pol).toNat 4 2 = mode := by
  rw [Dev.ctlWord, bitsOf_putBits_other _ _ _ _ _ _ (by decide) (by decide) (by decide),
    bitsOf_putBits_same _ _ _ _ (by decide) (by decide)]
  exact Nat.mod_eq_of_lt hmode

/-- MAC_CTL takes that word. -/
theorem setReg_ctlWord (d : Dev) (n mode pol : Nat) :
    PortFrame n [MAC_CTL.MODE, polarity] [] d (d.setReg (MAC_CTL.MODE.off n) (d.ctlWord n mode pol)) where
  rest := ⟨_, _, _, _, _, rfl⟩
  ports := rfl
  others _ _ := rfl
  regs off hoff := reg_setReg_other _ _ _ _ fun h => hoff (by simp [h])
  fields g _ hapart := by
    have hmode := hapart MAC_CTL.MODE (by simp)
    have hpol := hapart polarity (by simp)
    rw [Dev.g, Dev.g, reg_setReg]
    split
    next hreg =>
      have hbase : ¬(g.stride = MAC_CTL.MODE.stride ∧ g.base ≠ MAC_CTL.MODE.base) := fun ⟨hstride, hne⟩ => hne (by
        unfold Fld.off at hreg
        rw [hstride] at hreg
        exact Nat.add_right_cancel hreg)
      rw [hreg, Dev.ctlWord]
      exact (bitsOf_putBits_other _ 10 9 _ _ _ (by decide) (by decide) (hpol.resolve_left hbase)).trans
        (bitsOf_putBits_other _ 4 2 _ _ _ (by decide) (by decide) (hmode.resolve_left hbase))
    next => rfl

/-- The mode and the polarity bits of a written word are in force: no record, no pending write, the island gated in mode 0. -/
def Dev.modeTaken (d : Dev) (n : Nat) (v : Word) : Dev :=
  let e := d.setReg (MAC_CTL.MODE.off n) (d.ctlWord n (bitsOf v.toNat 4 2) (bitsOf v.toNat 10 9))
  let p := { e.port n with modePend := none, gated := bitsOf v.toNat 4 2 = 0 || e.est kPort n = RETIRED }
  ((e.setPort n p).setNbr n none).showMac n

theorem modeTaken_spec {v : Word} (hn : n < d.mac.length) (hport : n < 4) (hest : d.est kPort n < 2) :
    (d.modeTaken n v).port n =
        { d.port n with modePend := none, gated := decide (bitsOf v.toNat 4 2 = 0), nbr := none } ∧
      PortFrame n (MAC_CTL.MODE :: polarity :: nbrFields) noticeRegs d (d.modeTaken n v) ∧
      (d.modeTaken n v).macMode n = bitsOf v.toNat 4 2 := by
  have hword := setReg_ctlWord d n (bitsOf v.toNat 4 2) (bitsOf v.toNat 10 9)
  unfold Dev.modeTaken
  dsimp only
  set e := d.setReg (MAC_CTL.MODE.off n) (d.ctlWord n (bitsOf v.toNat 4 2) (bitsOf v.toNat 10 9)) with he
  have hmode : e.macMode n = bitsOf v.toNat 4 2 := by
    rw [he, Dev.macMode, Dev.g, reg_setReg_same]
    exact bitsOf_ctlWord d n _ (bitsOf_lt _ 4 2)
  have hlives : ¬ e.est kPort n = RETIRED := by
    rw [hword.est hport]
    exact (hest.trans (by decide)).ne
  set p : Port := { e.port n with modePend := none, gated := bitsOf v.toNat 4 2 = 0 || e.est kPort n = RETIRED } with hp
  have hset : PortFrame n [] [] e (e.setPort n p) := .setPort
  obtain ⟨hdropped, hnframe, -⟩ := setNbr_none_spec (d := e.setPort n p) (hset.ports.symm ▸ hn) hport
  obtain ⟨hshown, hsframe, -⟩ := showMac_spec ((e.setPort n p).setNbr n none) n
  have hrest : PortFrame n nbrFields noticeRegs e (((e.setPort n p).setNbr n none).showMac n) :=
    hset.mono.trans (hnframe.trans hsframe.mono)
  refine ⟨?_, hword.mono.trans hrest.mono, (hrest.macMode hport).trans hmode⟩
  have hsame : e.port n = d.port n := congrArg (·.getD n Port.reset) (d.setReg_mac _ _)
  rw [hshown, hdropped, port_setPort_same e p hn, hp, hsame, decide_eq_false hlives, Bool.or_false]

/-- A frame that the agent sends before a change, where it does. -/
theorem sendFrame_if (c : Bool) (f : TxFrame) (hn : n < d.mac.length) :
    (∃ l, (if c then d.sendFrame n f else d).port n = { d.port n with line := l }) ∧
      PortFrame n [MAC_TXOK] [] d (if c then d.sendFrame n f else d) := by
  cases c with
  | true =>
    obtain ⟨hsent, hframe, -⟩ := sendFrame_spec (d := d) f hn
    exact ⟨⟨_, hsent⟩, hframe⟩
  | false => exact ⟨⟨_, rfl⟩, .refl⟩

/-- The fields that a change of the mode changes. -/
def modeFields : List Fld := MAC_TXOK :: MAC_CTL.MODE :: polarity :: linkFields

/-- A change of the mode takes the link down (R410). -/
theorem applyMode_spec {v : Word} (hn : n < d.mac.length) (hport : n < 4) (hchange : bitsOf v.toNat 4 2 ≠ d.macMode n)
    (hest : d.est kPort n < 2) :
    PortFrame n modeFields noticeRegs d (d.applyMode n v) ∧ (d.applyMode n v).macMode n = bitsOf v.toNat 4 2 ∧
      (d.applyMode n v).g MAC_STAT.LINK n = 0 ∧ ((d.applyMode n v).port n).nbr = none ∧
      ((d.applyMode n v).port n).gated = decide (bitsOf v.toNat 4 2 = 0) ∧
      (d.on MAC_STAT.LINK n = true → ((d.applyMode n v).port n).tx = []) := by
  obtain ⟨-, haframe⟩ := sendFrame_if (bitsOf v.toNat 4 2 = 0 && d.portUp n && d.on MAC_CTL.LLDPEN n) (d.lldpFrame n 0) hn
  set e := if bitsOf v.toNat 4 2 = 0 && d.portUp n && d.on MAC_CTL.LLDPEN n then d.sendFrame n (d.lldpFrame n 0) else d with he
  have heq : d.applyMode n v = (e.linkDown n).modeTaken n v := by
    unfold Dev.applyMode
    dsimp only
    rw [if_neg (by simp [hchange])]
    rfl
  have hne : n < e.mac.length := haframe.ports.symm ▸ hn
  obtain ⟨hlframe, hdown, hempty⟩ := linkDown_frame hne hport
  have hest' : (e.linkDown n).est kPort n < 2 := by rw [hlframe.est hport, haframe.est hport]; exact hest
  obtain ⟨htaken, hmframe, hmode⟩ := modeTaken_spec (v := v) (hlframe.ports.symm ▸ hne) hport hest'
  rw [heq, htaken]
  refine ⟨haframe.mono.trans (hlframe.mono.trans hmframe.mono), hmode, (hmframe.g hport MAC_STAT.LINK).trans hdown, rfl, rfl,
    fun hlink => hempty ?_⟩
  rw [haframe.on hport MAC_STAT.LINK, hlink]

/-- The enables that a write of MAC_CTL stores beside the state. -/
def Dev.enabled (d : Dev) (n : Nat) (v : Word) : Dev :=
  (((d.s MAC_CTL.ANEN (bitsOf v.toNat 5 5) n).s MAC_CTL.EEEEN (bitsOf v.toNat 6 6) n).s MAC_CTL.LLDPEN
    (bitsOf v.toNat 7 7) n).s MAC_CTL.PROMISC (bitsOf v.toNat 8 8) n

theorem enabled_spec (d : Dev) (n : Nat) (v : Word) :
    (d.enabled n v).port n = d.port n ∧
      PortFrame n [MAC_CTL.ANEN, MAC_CTL.EEEEN, MAC_CTL.LLDPEN, MAC_CTL.PROMISC] [] d (d.enabled n v) := by
  refine ⟨?_, .trans (.trans .s .s) (.trans .s .s)⟩
  rw [Dev.enabled, port_s, port_s, port_s, port_s]

/-- A management write of the state that the port has leaves it. -/
theorem manage_same {m : Nat} (hport : n < 4) (hsplit : d.flt.split = []) (hm : m = d.g MAC_CTL.MST n) :
    (d.manage kPort n m).port n = d.port n ∧
      PortFrame n [MAC_CTL.MST, MAC_STAT.EST] [] d (d.manage kPort n m) ∧ (d.manage kPort n m).est kPort n = d.est kPort n := by
  have hflt : ({ d with flt := { d.flt with split := [] } } : Dev) = d := by rw [← hsplit]
  have heq : d.manage kPort n m = (d.s MAC_CTL.MST m n).s MAC_STAT.EST ((d.s MAC_CTL.MST m n).est kPort n) n := by
    unfold Dev.manage
    simp only [hsplit, List.filter_nil, List.lookup_nil, hflt]
    rfl
  have hshown : PortFrame n [MAC_STAT.EST] [] (d.s MAC_CTL.MST m n) (d.manage kPort n m) := heq ▸ .s
  have hmst : (d.s MAC_CTL.MST m n).g MAC_CTL.MST n = d.g MAC_CTL.MST n := by
    rw [g_s_same d MAC_CTL.MST, hm]
    exact Nat.mod_eq_of_lt (g_lt d MAC_CTL.MST n)
  have hdst : (d.s MAC_CTL.MST m n).g MAC_STAT.DST n = d.g MAC_STAT.DST n := g_s_apart d m n (by decide)
  refine ⟨by rw [heq, port_s, port_s], .trans .s hshown.mono, ?_⟩
  exact (hshown.est hport).trans (congrArg₂ max hmst hdst)

/-- The port after what a write of MAC_CTL does before the mode: the agent's last frame, the management state, the enables. -/
def Dev.ctlStored (d : Dev) (n : Nat) (v : Word) : Dev :=
  ((if d.on MAC_CTL.LLDPEN n && !bit v.toNat 7 && d.portUp n then d.sendFrame n (d.lldpFrame n 0) else d).manage kPort n
    (v.toNat % 4)).enabled n v

/-- Under no self-test the mode of the word is in force at once. -/
theorem writeMacCtl_of_untested {v : Word} (h : ((d.ctlStored n v).port n).testing = 0) :
    d.writeMacCtl n v = (d.ctlStored n v).applyMode n v := by
  have hwrite : d.writeMacCtl n v = if ((d.ctlStored n v).port n).testing ≠ 0 then
      (d.ctlStored n v).setPort n { (d.ctlStored n v).port n with modePend := some v } else (d.ctlStored n v).applyMode n v := rfl
  rw [hwrite, if_neg (fun hne => hne h)]

/-- The fields that are stored before the mode. -/
def ctlFields : List Fld :=
  [MAC_TXOK, MAC_CTL.MST, MAC_STAT.EST, MAC_CTL.ANEN, MAC_CTL.EEEEN, MAC_CTL.LLDPEN, MAC_CTL.PROMISC]

theorem ctlStored_spec {v : Word} (hn : n < d.mac.length) (hport : n < 4) (hsplit : d.flt.split = [])
    (hmst : v.toNat % 4 = d.g MAC_CTL.MST n) :
    (∃ l, (d.ctlStored n v).port n = { d.port n with line := l }) ∧ PortFrame n ctlFields [] d (d.ctlStored n v) ∧
      (d.ctlStored n v).est kPort n = d.est kPort n := by
  obtain ⟨⟨l, hline⟩, haframe⟩ := sendFrame_if (d.on MAC_CTL.LLDPEN n && !bit v.toNat 7 && d.portUp n) (d.lldpFrame n 0) hn
  obtain ⟨hmanaged, hmframe, hmest⟩ := manage_same hport (haframe.flt ▸ hsplit)
    (hmst.trans (haframe.g hport MAC_CTL.MST).symm)
  obtain ⟨henabled, heframe⟩ := enabled_spec (Dev.manage _ kPort n (v.toNat % 4)) n v
  exact ⟨⟨l, henabled.trans (hmanaged.trans hline)⟩, haframe.mono.trans (hmframe.mono.trans heframe.mono),
    (heframe.est hport).trans (hmest.trans (haframe.est hport))⟩

/-- A write of MAC_CTL that changes the mode and keeps the management state. -/
theorem writeMacCtl_spec {v : Word} (hn : n < d.mac.length) (hport : n < 4) (htest : (d.port n).testing = 0)
    (hsplit : d.flt.split = []) (hmst : v.toNat % 4 = d.g MAC_CTL.MST n) (hchange : bitsOf v.toNat 4 2 ≠ d.macMode n)
    (hest : d.est kPort n < 2) :
    PortFrame n (ctlFields ++ modeFields) noticeRegs d (d.writeMacCtl n v) ∧
      (d.writeMacCtl n v).est kPort n = d.est kPort n ∧ (d.writeMacCtl n v).macMode n = bitsOf v.toNat 4 2 ∧
      (d.writeMacCtl n v).g MAC_STAT.LINK n = 0 ∧ ((d.writeMacCtl n v).port n).nbr = none ∧
      ((d.writeMacCtl n v).port n).gated = decide (bitsOf v.toNat 4 2 = 0) ∧
      (d.on MAC_STAT.LINK n = true → ((d.writeMacCtl n v).port n).tx = []) := by
  obtain ⟨⟨l, hline⟩, hstored, hsame⟩ := ctlStored_spec hn hport hsplit hmst
  obtain ⟨hframe, hmode, hdown, hnbr, hgated, hempty⟩ := applyMode_spec (v := v) (hstored.ports.symm ▸ hn) hport
    (by rw [hstored.macMode hport]; exact hchange) (hsame ▸ hest)
  rw [writeMacCtl_of_untested (by rw [hline]; exact htest)]
  refine ⟨hstored.mono.trans hframe.mono, (hframe.est hport).trans hsame, hmode, hdown, hnbr, hgated, fun hlink => hempty ?_⟩
  rw [hstored.on hport MAC_STAT.LINK, hlink]

end

/-! ### What the link commands do -/

/-- What a command leaves that acts on one port: OTP, flash, TAP, pins and queue, the banks, the Reeds, the other ports. -/
theorem PortFrame.elsewhere {s : State} {e : Dev} {n : Nat} {fs : List Fld} {more : List Nat}
    (h : PortFrame n fs more s.dev e) :
    SameOutside s { s with dev := e } ∧ e.bnk = s.dev.bnk ∧ e.rda = s.dev.rda ∧ ∀ m, m ≠ n → e.port m = s.dev.port m :=
  ⟨⟨rfl, rfl, rfl, rfl, rfl⟩, h.bnk, h.rda, h.others⟩

section
variable {s : State} {p : BitVec 2}

theorem exec_linkUp : exec (.linkUp p) s = .next { s with dev := linkUp s.dev p.toNat } := rfl

theorem exec_linkDown : exec (.linkDown p) s = .next { s with dev := s.dev.linkDown p.toNat } := rfl

theorem exec_autoNegotiationFail (hmode : s.dev.macMode p.toNat = 1) (hen : s.dev.on MAC_CTL.ANEN p.toNat = true)
    (hlink : s.dev.on MAC_STAT.LINK p.toNat = false) :
    exec (.autoNegotiationFail p) s = .next { s with dev := s.dev.s MAC_STAT.ANFAIL 1 p.toNat } :=
  exec_onDev rfl (if_pos (by simp [hmode, hen, hlink]))

/-- The mode write of a port that stays enabled or draining. -/
theorem exec_macModeWrite {v : Word} (hrun : s.dev.running = true)
    (hest : (s.dev.writeMacCtl p.toNat (s.dev.merged (0x14000 + 0x400 * p.toNat) v)).est kPort p.toNat < 2) :
    exec (.macModeWrite .host p v) s =
      .next { s with dev := s.dev.writeMacCtl p.toNat (s.dev.merged (0x14000 + 0x400 * p.toNat) v) } := by
  have hp := p.isLt
  have hafter : ∀ d : Dev, d.est kPort p.toNat < 2 → d.afterState kPort p.toNat = d := fun d h => if_neg (not_le.mpr h)
  change writeRow .host (0x14000 + 0x400 * p.toNat) v s = _
  rw [writeRow, regWrite_port v hrun (mapped_port p).1 (by omega), wrMac_ctl, hafter _ hest]

theorem exec_lpiEntry : exec (.lpiEntry p) s = .next { s with dev := lpiEntry s.dev p.toNat } := rfl

theorem exec_lpiExit (hlpi : s.dev.on MAC_STAT.LPITX p.toNat = true) (htx : (s.dev.port p.toNat).tx ≠ []) :
    exec (.lpiExit p) s = .next { s with dev := transmit (s.dev.s MAC_STAT.LPITX 0 p.toNat) p.toNat } :=
  exec_onDev rfl (if_pos (by simp [hlpi, htx]))

theorem exec_partnerLowPowerIdle (enter : Bool) (hup : s.dev.portUp p.toNat = true) (hmode : 2 ≤ s.dev.macMode p.toNat) :
    exec (.partnerLowPowerIdle p enter) s = .next { s with dev := s.dev.s MAC_STAT.LPIRX (b2n enter) p.toNat } :=
  exec_onDev rfl (if_pos (by simp [hup, hmode]))

theorem exec_lldpTransmit (hrun : s.dev.running = true) (hup : s.dev.portUp p.toNat = true)
    (hen : s.dev.on MAC_CTL.LLDPEN p.toNat = true) :
    exec (.lldpTransmit p) s = .next { s with dev := s.dev.enqueue p.toNat (s.dev.lldpFrame p.toNat 120) } :=
  exec_onDev rfl (if_pos (by simp [hrun, hup, hen]))

theorem exec_lldpTtlExpiry {r : Nbr} (hnbr : (s.dev.port p.toNat).nbr = some r) :
    exec (.lldpTtlExpiry p) s = .next { s with dev := s.dev.setNbr p.toNat none } :=
  exec_onDev rfl (if_pos (by simp [hnbr]))

theorem exec_lecClear (hrun : s.dev.running = true) (htest : (s.dev.port p.toNat).testing = 0)
    (hgated : (s.dev.port p.toNat).gated = false) :
    exec (.lecClear .host p) s =
      .next { s with dev := s.dev.setLec p.toNat 0 } := by
  have hp := p.isLt
  change writeRow .host (0x14014 + 0x400 * p.toNat) 0x80000000 s = _
  rw [writeRow, regWrite_port _ hrun (mapped_port p).2 (by omega), wrMac_lecClr hgated, Dev.writeLecClr,
    if_neg (fun hne => hne htest)]

theorem exec_pcsBlockError (hmode : s.dev.macMode p.toNat ≠ 0) (hest : s.dev.est kPort p.toNat ≤ 1)
    (htest : (s.dev.port p.toNat).testing = 0) :
    exec (.pcsBlockError p) s = .next { s with dev := (s.dev.cnt MAC_PCSERR p.toNat).lecAdd p.toNat 4 } :=
  exec_onDev rfl (if_pos (by simp [hmode, htest, show s.dev.est kPort p.toNat ≤ DRAINING from hest]))

end

/-- Settles O37: each command by what it makes of its port (`linkUp_spec`, `linkDown_spec`, `writeMacCtl_spec`, `lpiExit_spec`,
`setNbr_none_spec`, `setLec_of_low`), and by the frame of one port. -/
theorem linksFollowTheLine : Obligations.LinksFollowTheLine := by
  unfold Obligations.LinksFollowTheLine
  intro s p hlen
  dsimp only
  have hport : p.toNat < 4 := p.isLt
  have hn : p.toNat < s.dev.mac.length := hlen.symm ▸ hport
  refine ⟨fun hmode hlink hest => ?up, fun hlink => ?down, fun hmode hen hlink => ?fail,
    fun v hrun htest hsplit hmst hlegal hchange hest => ?mode, fun hup hen hmode htx hlpi htest hnbr => ?entry,
    fun f hup hlpi htest htx hmay => ?exit, fun e hup hmode => ?partner, fun hrun hup hen => ?lldp, fun r hnbr => ?expiry,
    fun hrun htest hgated => ?clear, fun hmode hest htest hlow => ?pcs⟩
  case up =>
    obtain ⟨hframe, hup, htx⟩ := linkUp_spec hn hport hmode hlink hest
    exact ⟨_, exec_linkUp, hup, hframe.elsewhere, htx⟩
  case down =>
    obtain ⟨hdown, hframe, hclear, htx, hrx, hcount, hdisc⟩ := linkDown_spec hn hport hlink
    exact ⟨_, exec_linkDown, hclear, htx, hrx, congrArg Port.tx hdown, congrArg Port.nbr hdown, hframe.elsewhere, hcount, hdisc⟩
  case fail =>
    have hframe := PortFrame.stored s.dev MAC_STAT.ANFAIL 1 p.toNat
    refine ⟨_, exec_autoNegotiationFail hmode hen hlink, g_s_same _ MAC_STAT.ANFAIL 1 p.toNat, ?_, hframe.regs, rfl,
      hframe.elsewhere⟩
    exact (hframe.g hport MAC_STAT.LINK).trans (by simpa [Dev.on] using hlink)
  case mode =>
    have hbits {hi : Nat} (lo : Nat) (hhi : hi ≤ 10) := bitsOf_mergedCtl s.dev p hlegal lo hhi
    obtain ⟨hframe, hsame, hmode, hdown, hnbr, hgated, hempty⟩ := writeMacCtl_spec hn hport htest hsplit
      ((hbits 0 (by decide : 1 ≤ 10)).trans hmst) ((hbits 2 (by decide : 4 ≤ 10)).symm ▸ hchange) hest
    rw [hbits 2 (by decide : 4 ≤ 10)] at hmode hgated
    exact ⟨_, exec_macModeWrite hrun (hsame.trans_lt hest), hmode, hdown, hnbr, hgated, hframe.elsewhere, hsame,
      hframe.g hport MAC_LEC.VALUE, hempty⟩
  case entry =>
    obtain ⟨hentered, hmac, hcount, hframe⟩ := lpiEntry_spec hport hup hen hmode htx hlpi htest hnbr
    exact ⟨_, exec_lpiEntry, hentered, hmac, hframe.elsewhere, hcount, hframe.regs⟩
  case exit =>
    obtain ⟨hsent, hframe, hawake⟩ := lpiExit_spec hn hport hup htest htx hmay
    exact ⟨_, exec_lpiExit hlpi (by rw [htx]; exact List.cons_ne_nil _ _), hawake, congrArg Port.tx hsent, hframe.elsewhere,
      congrArg Port.line hsent, hframe.regs⟩
  case partner =>
    have hframe := PortFrame.stored s.dev MAC_STAT.LPIRX (b2n e) p.toNat
    exact ⟨_, exec_partnerLowPowerIdle e hup hmode, on_s_bit _ _ _ _, rfl, hframe.elsewhere, hframe.regs⟩
  case lldp =>
    obtain ⟨hqueued, hframe⟩ := enqueue_spec (s.dev.lldpFrame p.toNat 120) hn
    exact ⟨_, exec_lldpTransmit hrun hup hen, congrArg Port.tx hqueued, hframe.regs, hframe.elsewhere⟩
  case expiry =>
    obtain ⟨hdropped, hframe, heee, hvalid⟩ := setNbr_none_spec hn hport
    have htx : ((s.dev.setNbr p.toNat none).port p.toNat).tx = (s.dev.port p.toNat).tx := by rw [hdropped]
    exact ⟨_, exec_lldpTtlExpiry hnbr, congrArg Port.nbr hdropped, hvalid, heee, htx, hframe.elsewhere⟩
  case clear =>
    obtain ⟨hvalue, hlevel, hmac, hframe⟩ := setLec_zero_spec s.dev hport
    exact ⟨_, exec_lecClear hrun htest hgated, hvalue, hlevel, hmac, hframe.regs, hframe.elsewhere⟩
  case pcs =>
    obtain ⟨hvalue, hmac, hcount, hframe⟩ := lecAdd_counted_spec s.dev hport hlow
    exact ⟨_, exec_pcsBlockError hmode hest htest, hvalue, hmac, hcount, hframe.elsewhere⟩

end Sys2Proof.Machine

/-! SUPPORT and certificates. Frames: a write of the banks that is allowed all through, the reception of a frame, its delivery and
its transmission. -/
namespace Sys2Proof.Machine

/-! ### A write within one bank (R331, R332, R340) -/

theorem memPut_append (m : Sparse Byte) (a : Nat) (l k : List Byte) :
    memPut m a (l ++ k) = memPut (memPut m a l) (a + l.length) k := by
  induction l generalizing m a with
  | nil => rfl
  | cons b t ih =>
    rw [List.cons_append, memPut, ih, memPut, List.length_cons]
    congr 1
    omega

/-- The parts of a run of bytes, stored one after another, are the run. -/
theorem foldl_memPut_pieces {k : Nat} (hk : 0 < k) {fuel : Nat} {l : List Byte} (hfuel : l.length < fuel) (a : Nat)
    (m : Sparse Byte) : (pieces k a l fuel).foldl (fun m p => memPut m p.1 p.2) m = memPut m a l := by
  induction fuel generalizing l a m with
  | zero => omega
  | succ fuel ih =>
    have hmod := Nat.mod_lt a hk
    cases hl : l with
    | nil => rfl
    | cons b t =>
      rw [← hl, pieces, if_neg (by simp [hl])]
      dsimp only
      rw [List.foldl_cons]
      by_cases hlong : k - a % k ≤ l.length
      · have hdrop : (l.drop (k - a % k)).length < fuel := by rw [List.length_drop]; omega
        rw [ih hdrop]
        conv_rhs => rw [← List.take_append_drop (k - a % k) l, memPut_append, List.length_take, Nat.min_eq_left hlong]
      · have hnone : l.drop (k - a % k) = [] := List.drop_eq_nil_of_le (by omega)
        have hfuel' : ([] : List Byte).length < fuel := by rw [hl] at hfuel; simp at hfuel ⊢; omega
        rw [hnone, ih hfuel', List.take_of_length_le (by omega), memPut]

/-- Each part of a run begins within it. -/
theorem mem_pieces {k fuel a : Nat} {l : List Byte} {p : Nat × List Byte} (hk : 0 < k) (h : p ∈ pieces k a l fuel) :
    a ≤ p.1 ∧ p.1 < a + l.length := by
  induction fuel generalizing l a with
  | zero => exact absurd h List.not_mem_nil
  | succ fuel ih =>
    rw [pieces] at h
    split at h
    · exact absurd h List.not_mem_nil
    next hne =>
      have hpos : 0 < l.length := List.length_pos_iff.mpr (by simpa using hne)
      have hmod := Nat.mod_lt a hk
      rcases List.mem_cons.mp h with rfl | h
      · exact ⟨le_rfl, by omega⟩
      · obtain ⟨hlo, hhi⟩ := ih h
        rw [List.length_drop] at hhi
        omega

section
variable {d : Dev}

theorem putMem_foldl (d : Dev) (ps : List (Nat × List Byte)) :
    ps.foldl (fun d p => d.putMem p.1 p.2) d =
      { d with bnk := { d.bnk with mem := ps.foldl (fun m p => memPut m p.1 p.2) d.bnk.mem } } := by
  induction ps generalizing d with
  | nil => rfl
  | cons p ps ih => rw [List.foldl_cons, ih]; rfl

/-- With no word poisoned, a word's bytes are stored and nothing else happens. -/
theorem wordWrite_of_clean (a : Nat) (l : List Byte) (h : d.bnk.poison = []) : d.wordWrite a l = d.putMem a l := by
  have hunpoison : (d.putMem a l).unpoison (a / 8) = d.putMem a l := by
    unfold Dev.unpoison
    rw [if_neg (by simp [Dev.putMem, h])]
  unfold Dev.wordWrite
  simp only [h, List.contains_nil, Bool.false_and, Bool.false_eq_true, if_false, hunpoison]

theorem foldl_wordWrite_of_clean (ps : List (Nat × List Byte)) (h : d.bnk.poison = []) :
    ps.foldl (fun d p => d.wordWrite p.1 p.2) d = ps.foldl (fun d p => d.putMem p.1 p.2) d := by
  induction ps generalizing d with
  | nil => rfl
  | cons p ps ih => rw [List.foldl_cons, List.foldl_cons, wordWrite_of_clean p.1 p.2 h]; exact ih (d := d.putMem p.1 p.2) h

theorem memWrite_of_clean (a : Nat) (l : List Byte) (h : d.bnk.poison = []) : d.memWrite a l = d.putMem a l := by
  rw [Dev.memWrite, foldl_wordWrite_of_clean _ h, putMem_foldl, foldl_memPut_pieces (by decide) (Nat.lt_succ_self _)]
  rfl

/-- A part of a row in a bank that the agent may write is stored. -/
theorem bnkRowWrite_of_may {agent a bank : Nat} (l : List Byte) (hhand : d.bnk.hand = []) (hclean : d.bnk.poison = [])
    (hbank : bankOf a = bank) (hmay : d.bankMay agent bank true = true) :
    d.bnkRowWrite agent a l = ⟨d.putMem a l, [], false, false⟩ := by
  rw [bnkRowWrite_of_hand d agent a l hhand, hbank, if_pos hmay, memWrite_of_clean a l hclean]

theorem foldl_bnkRowWrite_of_may {agent bank : Nat} {ps : List (Nat × List Byte)} (hps : ∀ p ∈ ps, bankOf p.1 = bank)
    (hhand : d.bnk.hand = []) (hclean : d.bnk.poison = []) (hmay : d.bankMay agent bank true = true) :
    ps.foldl (fun r p => if r.denied then r else r.dev.bnkRowWrite agent p.1 p.2) (⟨d, [], false, false⟩ : BnkRes) =
      ⟨ps.foldl (fun d p => d.putMem p.1 p.2) d, [], false, false⟩ := by
  induction ps generalizing d with
  | nil => rfl
  | cons p ps ih =>
    obtain ⟨hp, hps⟩ := List.forall_mem_cons.mp hps
    rw [List.foldl_cons, List.foldl_cons, if_neg Bool.false_ne_true, bnkRowWrite_of_may p.2 hhand hclean hp hmay]
    exact ih hps hhand hclean hmay

/-- A run of bytes that lies in one bank, which the agent may write, is stored whole. -/
theorem bnkWrite_of_may {agent a bank : Nat} {l : List Byte} (hbank : ∀ x, a ≤ x → x < a + l.length → bankOf x = bank)
    (hhand : d.bnk.hand = []) (hclean : d.bnk.poison = []) (hmay : d.bankMay agent bank true = true) :
    d.bnkWrite agent a l = ⟨d.putMem a l, [], false, false⟩ := by
  have hps : ∀ p ∈ pieces 64 a l (l.length + 1), bankOf p.1 = bank := fun p hp => by
    obtain ⟨hlo, hhi⟩ := mem_pieces (by decide) hp
    exact hbank p.1 hlo hhi
  rw [Dev.bnkWrite, foldl_bnkRowWrite_of_may hps hhand hclean hmay, putMem_foldl,
    foldl_memPut_pieces (by decide) (Nat.lt_succ_self _)]
  rfl

end

/-! ### Fields of a frame (R3, R418) -/

theorem length_slice (l : List Byte) (o n : Nat) : (slice l o n).length = n := by
  have htake : ((l.drop o).take n).length ≤ n := List.length_take_le _ _
  simp only [slice, List.length_append, List.length_replicate]
  omega

theorem beNat_slice_lt (l : List Byte) (o : Nat) : beNat (slice l o 2) < 65536 := by
  have h := leNat_lt (slice l o 2).reverse
  rw [List.length_reverse, length_slice] at h
  exact h

/-- A field within the frame does not see what follows it, nor where the rest is cut. -/
theorem slice_take_append {l : List Byte} (k : List Byte) {o n m : Nat} (hl : o + n ≤ l.length) (hm : o + n ≤ m) :
    slice ((l ++ k).take m) o n = slice l o n := by
  have hpart : (((l ++ k).take m).drop o).take n = (l.drop o).take n := by
    rw [List.drop_take, List.take_take, Nat.min_eq_left (by omega), List.drop_append_of_le_length (by omega),
      List.take_append_of_le_length (by rw [List.length_drop]; omega)]
  simp only [slice, hpart]

theorem fieldAt_byte {l : List Byte} {o : Nat} (h : o < l.length) : fieldAt l o 1 = (l.getD o 0).toNat := by
  have hone : (l.drop o).take 1 = [l.getD o 0] := by
    rw [List.drop_eq_getElem_cons h, List.take_succ_cons, List.take_zero, List.getD_eq_getElem _ _ h]
  simp [fieldAt, slice, hone, leNat]

/-! ### Reception (R412 to R418, R434, R445) -/

section
variable {d : Dev} {n : Nat} {f : Frame}

/-- A frame of the receive buffer that came without a tag: a Kreovouri packet in its header's class, another one in TC3. -/
def Dev.untagged (d : Dev) (kept : List Byte) (ovs : Bool) (len : Nat) : RxFrame :=
  ⟨kept, ovs, false,
    BitVec.ofNat 2 (if beNat (slice kept 12 2) = d.g BLW_ETYPE then fieldAt (kept.drop 14) 2 1 % 4 else 3),
    BitVec.ofNat 16 (beNat (slice kept 12 2)), d.brt.pos, d.brt.pos, len, kept.drop 14⟩

theorem sortFrame_untagged {kept : List Byte} (ovs : Bool) (len : Nat)
    (hety : beNat (slice kept 12 2) ∉ [0x8100, 0x8808, 0x88CC]) :
    d.sortFrame n kept ovs len = d.setPort n { d.port n with rx := (d.port n).rx ++ [d.untagged kept ovs len] } := by
  simp only [List.mem_cons, List.not_mem_nil, or_false, not_or] at hety
  obtain ⟨htag, hmac, hlldp⟩ := hety
  have hsplit : splitFrame kept = (none, beNat (slice kept 12 2), kept.drop 14) := if_neg htag
  unfold Dev.sortFrame Dev.untagged
  rw [hsplit]
  dsimp only
  rw [if_neg hmac, if_neg hlldp]
  split <;> rfl

/-- What an update of a port's counters leaves of its address filter. -/
theorem PortFrame.accepts {e : Dev} {fs : List Fld} {more : List Nat} (h : PortFrame n fs more d e) (hport : n < 4)
    (dst : List Byte) (hlow : ∀ f ∈ fs, MAC_ADDR_L.Elsewhere f := by decide)
    (hhigh : ∀ f ∈ fs, MAC_ADDR_H.Elsewhere f := by decide) (hfabLow : ∀ f ∈ fs, MAC_FABMC_L.Elsewhere f := by decide)
    (hfabHigh : ∀ f ∈ fs, MAC_FABMC_H.Elsewhere f := by decide) (hpromisc : ∀ f ∈ fs, MAC_CTL.PROMISC.Elsewhere f := by decide)
    (hmore : more ⊆ noticeRegs := by decide) : e.accepts n dst = d.accepts n dst := by
  have hfab : e.fabMc n = d.fabMc n := by
    rw [Dev.fabMc, g_of_reg (fl := MAC_FABMC_L) (h.reg hport MAC_FABMC_L hfabLow (by decide) hmore),
      g_of_reg (fl := MAC_FABMC_H) (h.reg hport MAC_FABMC_H hfabHigh (by decide) hmore), Dev.fabMc]
  have hprom : e.on MAC_CTL.PROMISC n = d.on MAC_CTL.PROMISC n := by
    rw [Dev.on, g_of_reg (fl := MAC_CTL.PROMISC) (h.reg hport MAC_CTL.PROMISC hpromisc (by decide) hmore), Dev.on]
  rw [Dev.accepts, h.macAddr hport hlow hhigh hmore, hfab, hprom, Dev.accepts]

theorem awake_of_running (hrun : d.running = true) : d.mode ≠ mDORMANT ∧ d.mode ≠ mIDLE := by
  simp only [Dev.running, Bool.or_eq_true, decide_eq_true_eq] at hrun
  rcases hrun with ((h | h) | h) | h <;> rw [h] <;> decide

section
variable (hup : d.portUp n = true) (htest : (d.port n).testing = 0) (hrun : d.running = true)
include hup htest hrun

/-- A port that is up, under no self-test, in a running device judges the frame. -/
theorem receive_starts (f : Frame) : (¬(!d.portUp n || decide ((d.port n).testing ≠ 0) || decide (d.mode = mDORMANT)) = true) ∧
    ¬(decide (d.mode = mIDLE) && (!d.idleKeeps f || bit d.pwr.held.toNat n)) = true := by
  obtain ⟨hdormant, hidle⟩ := awake_of_running hrun
  exact ⟨by simp [hup, htest, hdormant], by simp [hidle]⟩

theorem receive_dropped (hspace : 32768 < d.rxUsed n + d.g MAC_MAXFRM n) : receive d n f = d.cnt MAC_RXDROP n := by
  obtain ⟨hawake, htaken⟩ := receive_starts hup htest hrun f
  unfold receive
  dsimp only
  rw [if_neg hawake, if_neg htaken, if_pos hspace]

variable (hspace : d.rxUsed n + d.g MAC_MAXFRM n ≤ 32768)
include hspace

theorem receive_runt (hshort : f.bytes.length < 60) : receive d n f = d.cnt MAC_RXRUNT n := by
  obtain ⟨hawake, htaken⟩ := receive_starts hup htest hrun f
  unfold receive
  dsimp only
  rw [if_neg hawake, if_neg htaken, if_neg (not_lt.mpr hspace), if_pos (by omega)]

/-- Fewer than fifteen earlier bad frames make no burst. -/
theorem receive_badFcs (hlong : 60 ≤ f.bytes.length) (hfits : f.bytes.length + 4 ≤ d.g MAC_MAXFRM n) (hfcs : f.fcsOk = false)
    (hfew : (d.port n).crcAt.length < 15) :
    ∃ l, receive d n f = ((d.setPort n { d.port n with crcAt := l }).cnt MAC_RXFCS n).lecAdd n 8 := by
  obtain ⟨hawake, htaken⟩ := receive_starts hup htest hrun f
  have hburst : ∃ l, burst (d.port n).crcAt d.brt.tbase 16 100000 = (l, false) := by
    refine ⟨_, Prod.ext rfl (decide_eq_false ?_)⟩
    have hkept := List.length_filter_le (fun t => decide ((d.brt.tbase - t).toNat ≤ 100000)) (d.port n).crcAt
    simp only [List.length_take, List.length_cons]
    omega
  obtain ⟨l, hburst⟩ := hburst
  refine ⟨l, ?_⟩
  unfold receive
  dsimp only
  rw [if_neg hawake, if_neg htaken, if_neg (not_lt.mpr hspace), if_neg (by omega),
    if_neg (not_lt.mpr hfits), if_pos (by simp [hfcs]), hburst]
  rfl

/-- The port after a good frame, before its address is looked at. -/
def Dev.goodFrame (d : Dev) (n : Nat) : Dev :=
  (d.setPort n { d.port n with good := ((d.port n).good + 1) % 1000 }).cnt MAC_RXOK n

theorem receive_good (hlong : 60 ≤ f.bytes.length) (hfits : f.bytes.length + 4 ≤ d.g MAC_MAXFRM n) (hfcs : f.fcsOk = true)
    (hlost : f.lost = false) (hgood : (d.port n).good < 999) :
    receive d n f = if (d.goodFrame n).accepts n (f.bytes.take 6) then
      (d.goodFrame n).sortFrame n f.bytes false (f.bytes.length + 4) else (d.goodFrame n).cnt MAC_RXFILT n := by
  obtain ⟨hawake, htaken⟩ := receive_starts hup htest hrun f
  unfold receive
  dsimp only
  rw [if_neg hawake, if_neg htaken, if_neg (not_lt.mpr hspace), if_neg (by omega),
    if_neg (not_lt.mpr hfits), if_neg (by simp [hfcs]), if_neg (show ¬(d.port n).good + 1 = 1000 by omega)]
  rw [← Dev.goodFrame, hlost]
  cases (d.goodFrame n).accepts n (f.bytes.take 6) <;> rfl

/-- A frame that is too long is kept as far as MAXFRM goes. -/
theorem receive_oversized (hmax : 64 ≤ d.g MAC_MAXFRM n) (hlong : d.g MAC_MAXFRM n < f.bytes.length + 4) (hfcs : f.fcsOk = true)
    (hlost : f.lost = false) (haccepts : (d.cnt MAC_RXOVS n).accepts n (f.bytes.take 6) = true) :
    receive d n f = (d.cnt MAC_RXOVS n).sortFrame n ((f.bytes ++ leBytes 4 (crc32 f.bytes)).take (d.g MAC_MAXFRM n)) true
      (d.g MAC_MAXFRM n) := by
  obtain ⟨hawake, htaken⟩ := receive_starts hup htest hrun f
  unfold receive
  dsimp only
  rw [if_neg hawake, if_neg htaken, if_neg (not_lt.mpr hspace), if_neg (by omega),
    if_pos hlong, hfcs]
  simp only [if_true, haccepts, hlost, Bool.false_eq_true, if_false]

end

theorem goodFrame_spec (hn : n < d.mac.length) :
    (d.goodFrame n).port n = { d.port n with good := ((d.port n).good + 1) % 1000 } ∧
      PortFrame n [MAC_RXOK] [] d (d.goodFrame n) :=
  ⟨(port_cnt _ _ _ _ _).trans (port_setPort_same d _ hn), .trans .setPort .cnt⟩

/-- A bad FCS counts and charges the link error counter; the queues stay. -/
theorem badFcs_spec (l : List (BitVec 64)) (hn : n < d.mac.length) (hport : n < 4) (hlow : d.g MAC_LEC.VALUE n + 8 < 1000) :
    let e := ((d.setPort n { d.port n with crcAt := l }).cnt MAC_RXFCS n).lecAdd n 8
    e.port n = { d.port n with crcAt := l } ∧ PortFrame n [MAC_RXFCS, MAC_LEC.VALUE, MAC_STAT.LECLVL] noticeRegs d e ∧
      e.g MAC_RXFCS n = min (d.g MAC_RXFCS n + 1) 0xFFFFFFFF ∧ e.g MAC_LEC.VALUE n = d.g MAC_LEC.VALUE n + 8 := by
  have hset : PortFrame n [MAC_RXFCS] [] d (d.setPort n { d.port n with crcAt := l }) := .setPort
  have hcounted : PortFrame n [MAC_RXFCS] [] d ((d.setPort n { d.port n with crcAt := l }).cnt MAC_RXFCS n) := hset.trans .cnt
  have hold := hcounted.g hport MAC_LEC.VALUE
  have hkept := (port_cnt (d.setPort n { d.port n with crcAt := l }) MAC_RXFCS n 1 n).trans (port_setPort_same d _ hn)
  obtain ⟨hmac, hframe, hvalue⟩ :=
    setLec_of_low (d := (d.setPort n { d.port n with crcAt := l }).cnt MAC_RXFCS n) hlow hport
  intro e
  have heq : e = ((d.setPort n { d.port n with crcAt := l }).cnt MAC_RXFCS n).setLec n (d.g MAC_LEC.VALUE n + 8) :=
    (lecAdd_of_low (hold.symm ▸ hlow)).trans (by rw [hold])
  rw [heq, hframe.g hport MAC_RXFCS]
  exact ⟨(congrArg (·.getD n Port.reset) hmac).trans hkept, hcounted.mono.trans hframe.mono, g_cnt_same _ MAC_RXFCS n 1, hvalue⟩

/-- The class in which an untagged frame waits. -/
theorem untagged_tc (d : Dev) {kept : List Byte} (ovs : Bool) (len : Nat) (hlong : 60 ≤ kept.length) :
    (d.untagged kept ovs len).tc.toNat =
      if beNat (slice kept 12 2) = d.g BLW_ETYPE then (kept.getD 16 0).toNat % 4 else 3 := by
  have hbyte : fieldAt (kept.drop 14) 2 1 = (kept.getD 16 0).toNat := by
    rw [fieldAt_byte (by rw [List.length_drop]; omega)]
    simp [List.getD_eq_getElem?_getD]
  unfold Dev.untagged
  dsimp only
  rw [hbyte, BitVec.toNat_ofNat]
  split
  · exact Nat.mod_eq_of_lt (Nat.mod_lt _ (by decide))
  · rfl

theorem untagged_ety (d : Dev) (kept : List Byte) (ovs : Bool) (len : Nat) :
    (d.untagged kept ovs len).ety.toNat = beNat (slice kept 12 2) :=
  Nat.mod_eq_of_lt (beNat_slice_lt kept 12)

end

/-! ### Delivery (R416, R427, R428) -/

section
variable {d : Dev} {n : Nat} {a b : List RxFrame} {f : RxFrame}

/-- The port with these complete frames left to deliver. -/
def Dev.rxLeft (d : Dev) (n : Nat) (l : List RxFrame) : Dev := d.setPort n { d.port n with rx := l }

theorem rxLeft_spec (l : List RxFrame) (hn : n < d.mac.length) :
    ((d.rxLeft n l).port n).rx = l ∧ PortFrame n [] [] d (d.rxLeft n l) :=
  ⟨congrArg Port.rx (port_setPort_same d _ hn), .setPort⟩

/-- Of the complete frames the first one of the lowest class is handed on. -/
theorem deliver_of_waiting (hrx : (d.port n).rx = a ++ f :: b) (ha : ∀ x ∈ a, f.tc < x.tc) (hb : ∀ x ∈ b, f.tc ≤ x.tc) :
    deliver d n =
      if f.ety.toNat = d.g BLW_ETYPE then
        (if f.ovs then d.rxLeft n (a ++ b)
         else { d.rxLeft n (a ++ b) with
           blw := { d.blw with inbox := d.blw.inbox ++ [⟨n, f.stamp, f.body.take 48, f.body.drop 48⟩] } })
      else (d.rxLeft n (a ++ b)).foreign n f := by
  have hlt := f.tc.isLt
  have hhead : [0, 1, 2, 3].findSome? (fun t => (a ++ f :: b).find? (fun x => x.tc.toNat = t)) = some f :=
    findSome?_lowest ha hb (by decide) (by simp only [List.mem_cons]; omega)
  have hfirst : f ∉ a := fun hin => BitVec.lt_irrefl _ (ha f hin)
  unfold deliver
  dsimp only
  rw [hrx, hhead]
  dsimp only
  rw [erase_first hfirst]
  rfl

/-- A frame's slot in the foreign ring: length, flags, class, four bytes of 0, the stamp of its end, its bytes (R427). -/
def RxFrame.record (f : RxFrame) : List Byte :=
  leBytes 2 f.bytes.length ++ [BitVec.ofNat 8 (b2n f.ovs + 2 * b2n f.tagged), BitVec.ofNat 8 f.tc.toNat] ++
    List.replicate 4 0 ++ leBytes 8 f.endAt.toNat ++ f.bytes

theorem length_record (f : RxFrame) : f.record.length = 16 + f.bytes.length := by
  simp [RxFrame.record, length_leBytes]
  omega

theorem foreign_of_off (hslot : d.g MAC_FFQ_CFG.SLOT n = 0) : d.foreign n f = d.cnt MAC_FFDROP n := by
  unfold Dev.foreign
  dsimp only
  rw [if_pos (by simp [hslot])]

/-- The ring of port `n` lies in one bank of the host's, and takes frame `f` into the slot of HEAD. -/
structure Dev.RingTakes (d : Dev) (n : Nat) (f : RxFrame) : Prop where
  slots : 2 ≤ d.g MAC_FFQ_CFG.NSLOT n
  inside : d.g MAC_FFQ_BASE n * 64 < bankEnd
  oneBank : bankOf (d.g MAC_FFQ_BASE n * 64 + d.g MAC_FFQ_CFG.SLOT n * 64 * d.g MAC_FFQ_CFG.NSLOT n - 1) =
    bankOf (d.g MAC_FFQ_BASE n * 64)
  owner : d.g BNK_OWN.OWN (bankOf (d.g MAC_FFQ_BASE n * 64)) = 19
  may : d.bankMay 19 (bankOf (d.g MAC_FFQ_BASE n * 64)) true = true
  hand : d.bnk.hand = []
  clean : d.bnk.poison = []
  head : d.g MAC_FFQ_HEAD n < d.g MAC_FFQ_CFG.NSLOT n
  fits : 16 + f.bytes.length ≤ d.g MAC_FFQ_CFG.SLOT n * 64
  room : (d.g MAC_FFQ_HEAD n + 1) % d.g MAC_FFQ_CFG.NSLOT n ≠ d.g MAC_FFQ_TAIL n

/-- The internal address of the slot of HEAD. -/
def Dev.slotAt (d : Dev) (n : Nat) : Nat := d.g MAC_FFQ_BASE n * 64 + d.g MAC_FFQ_HEAD n * (d.g MAC_FFQ_CFG.SLOT n * 64)

/-- The whole slot lies in the ring's bank. -/
theorem Dev.RingTakes.bankOf_eq (h : d.RingTakes n f) {x : Nat} (hlo : d.slotAt n ≤ x)
    (hhi : x < d.slotAt n + f.record.length) : bankOf x = bankOf (d.g MAC_FFQ_BASE n * 64) := by
  have hlast : d.g MAC_FFQ_CFG.SLOT n * 64 * (d.g MAC_FFQ_HEAD n + 1) ≤
      d.g MAC_FFQ_CFG.SLOT n * 64 * d.g MAC_FFQ_CFG.NSLOT n := Nat.mul_le_mul_left _ h.head
  have hcomm := Nat.mul_comm (d.g MAC_FFQ_HEAD n) (d.g MAC_FFQ_CFG.SLOT n * 64)
  have hfits := h.fits
  rw [Nat.mul_succ] at hlast
  rw [length_record] at hhi
  unfold Dev.slotAt at hlo hhi
  refine le_antisymm ?_ (Nat.div_le_div_right (by omega))
  rw [← h.oneBank]
  exact Nat.div_le_div_right (by omega)

/-- The record stands in the slot of HEAD, and HEAD has advanced. -/
def Dev.stored (d : Dev) (n : Nat) (f : RxFrame) : Dev :=
  (d.putMem (d.slotAt n) f.record).s MAC_FFQ_HEAD ((d.g MAC_FFQ_HEAD n + 1) % d.g MAC_FFQ_CFG.NSLOT n) n

/-- The ring takes the frame, with a notice where it was empty (R428). -/
theorem foreign_of_takes (h : d.RingTakes n f) :
    d.foreign n f =
      if d.g MAC_FFQ_HEAD n = d.g MAC_FFQ_TAIL n then (d.stored n f).raise nMAC 3 n else d.stored n f := by
  have hwrite : d.bnkWrite oHost (d.slotAt n) f.record = ⟨d.putMem (d.slotAt n) f.record, [], false, false⟩ :=
    bnkWrite_of_may (fun _ => h.bankOf_eq) h.hand h.clean h.may
  have hslot : d.g MAC_FFQ_CFG.SLOT n * 64 ≠ 0 := fun hzero => by
    have hfits := h.fits
    omega
  unfold Dev.foreign
  dsimp only
  rw [if_neg (by
    simp only [Bool.or_eq_true, decide_eq_true_eq, not_or, ne_eq, not_not]
    exact ⟨⟨⟨⟨⟨⟨hslot, not_lt.mpr h.slots⟩, not_le.mpr h.inside⟩, h.oneBank⟩, h.owner⟩, not_lt.mpr h.fits⟩, h.room⟩)]
  rw [← RxFrame.record, ← Dev.slotAt, hwrite]
  rfl

theorem foreign_spec (h : d.RingTakes n f) (hport : n < 4) :
    (d.foreign n f).mac = d.mac ∧ (d.foreign n f).bnk.mem = memPut d.bnk.mem (d.slotAt n) f.record ∧
      (d.foreign n f).blw = d.blw ∧
      (d.foreign n f).g MAC_FFQ_HEAD n = (d.g MAC_FFQ_HEAD n + 1) % d.g MAC_FFQ_CFG.NSLOT n := by
  have hlt : (d.g MAC_FFQ_HEAD n + 1) % d.g MAC_FFQ_CFG.NSLOT n < 4096 :=
    (Nat.mod_lt _ (Nat.zero_lt_of_lt h.head)).trans (g_lt d MAC_FFQ_CFG.NSLOT n)
  have hhead : (d.stored n f).g MAC_FFQ_HEAD n = (d.g MAC_FFQ_HEAD n + 1) % d.g MAC_FFQ_CFG.NSLOT n :=
    (g_s_same _ MAC_FFQ_HEAD _ n).trans (Nat.mod_eq_of_lt hlt)
  have hmac : (d.stored n f).mac = d.mac := (Dev.s_mac _ _ _ _).trans (Dev.putMem_mac _ _ _)
  have hblw : (d.stored n f).blw = d.blw := (Dev.s_blw _ _ _ _).trans (Dev.putMem_blw _ _ _)
  have hmem : (d.stored n f).bnk.mem = memPut d.bnk.mem (d.slotAt n) f.record := congrArg Banks.mem (Dev.s_bnk _ _ _ _)
  rw [foreign_of_takes h]
  split
  · have htold : PortFrame n [] noticeRegs (d.stored n f) ((d.stored n f).raise nMAC 3 n) := .raise
    exact ⟨(Dev.raise_mac _ _ _ _).trans hmac, (congrArg Banks.mem htold.bnk).trans hmem, htold.blw.trans hblw,
      (htold.g hport MAC_FFQ_HEAD).trans hhead⟩
  · exact ⟨hmac, hmem, hblw, hhead⟩

end

/-! ### What the frame commands do -/

/-- What a frame command leaves: OTP, flash, TAP, pins and queue, the banks, the other ports. -/
theorem PortFrame.beside {s : State} {e : Dev} {n : Nat} {fs : List Fld} {more : List Nat} (h : PortFrame n fs more s.dev e) :
    SameOutside s { s with dev := e } ∧ e.bnk = s.dev.bnk ∧ ∀ m, m ≠ n → e.port m = s.dev.port m :=
  ⟨⟨rfl, rfl, rfl, rfl, rfl⟩, h.bnk, h.others⟩

/-- A counter of a port advanced, and nothing else. -/
theorem portCnt_spec (d : Dev) (f : Fld) (n : Nat) (hfull : f.hi + 1 - f.lo = 32 := by decide) (hhi : f.hi < 32 := by decide)
    (hlo : f.lo ≤ f.hi := by decide) :
    PortFrame n [f] [] d (d.cnt f n) ∧ (d.cnt f n).g f n = min (d.g f n + 1) 0xFFFFFFFF := by
  refine ⟨.stored d f _ n hhi hlo, ?_⟩
  rw [g_cnt_same d f n 1 hhi hlo, hfull]
  rfl

section
variable {s : State} {n : BitVec 2}

theorem exec_frameReceive (f : Frame) : exec (.frameReceive n f) s = .next { s with dev := receive s.dev n.toNat f } := rfl

theorem exec_frameDelivery : exec (.frameDelivery n) s = .next { s with dev := deliver s.dev n.toNat } := rfl

theorem exec_frameTransmit : exec (.frameTransmit n) s = .next { s with dev := transmit s.dev n.toNat } := rfl

end

section
variable {d : Dev} {n : Nat} {f : Frame} (hn : n < d.mac.length) (hport : n < 4) (hup : d.portUp n = true)
  (htest : (d.port n).testing = 0) (hrun : d.running = true) (hspace : d.rxUsed n + d.g MAC_MAXFRM n ≤ 32768)
include hn hport hup htest hrun hspace

/-- A good frame that no rule accepts is counted and dropped. -/
theorem receive_filtered_spec (hlong : 60 ≤ f.bytes.length) (hfits : f.bytes.length + 4 ≤ d.g MAC_MAXFRM n)
    (hfcs : f.fcsOk = true) (hlost : f.lost = false) (hgood : (d.port n).good < 999)
    (hrefused : d.accepts n (f.bytes.take 6) = false) :
    ((receive d n f).port n).rx = (d.port n).rx ∧ (receive d n f).g MAC_RXFILT n = min (d.g MAC_RXFILT n + 1) 0xFFFFFFFF ∧
      PortFrame n [MAC_RXFILT, MAC_RXOK] [] d (receive d n f) := by
  obtain ⟨hkept, hframe⟩ := goodFrame_spec hn
  obtain ⟨hdropped, hcount⟩ := portCnt_spec (d.goodFrame n) MAC_RXFILT n
  have heq : receive d n f = (d.goodFrame n).cnt MAC_RXFILT n := by
    rw [receive_good hup htest hrun hspace hlong hfits hfcs hlost hgood, hframe.accepts hport, hrefused,
      if_neg Bool.false_ne_true]
  rw [heq, port_cnt, hkept, hcount, hframe.g hport MAC_RXFILT]
  exact ⟨rfl, rfl, hframe.mono.trans hdropped.mono⟩

/-- A good frame that is accepted waits for delivery. -/
theorem receive_accepted_spec (hlong : 60 ≤ f.bytes.length) (hfits : f.bytes.length + 4 ≤ d.g MAC_MAXFRM n)
    (hfcs : f.fcsOk = true) (hlost : f.lost = false) (hgood : (d.port n).good < 999)
    (haccepted : d.accepts n (f.bytes.take 6) = true) (hety : beNat (slice f.bytes 12 2) ∉ [0x8100, 0x8808, 0x88CC]) :
    ((receive d n f).port n).rx = (d.port n).rx ++ [d.untagged f.bytes false (f.bytes.length + 4)] ∧
      PortFrame n [MAC_RXOK] [] d (receive d n f) := by
  obtain ⟨hkept, hframe⟩ := goodFrame_spec hn
  have hsame : (d.goodFrame n).untagged f.bytes false (f.bytes.length + 4) = d.untagged f.bytes false (f.bytes.length + 4) := by
    have hkrv : (d.goodFrame n).g BLW_ETYPE = d.g BLW_ETYPE :=
      g_of_reg (fl := BLW_ETYPE) (hframe.reg_outside hport (by decide) (by decide))
    simp only [Dev.untagged, hkrv, hframe.brt]
  rw [receive_good hup htest hrun hspace hlong hfits hfcs hlost hgood, hframe.accepts hport, haccepted, if_pos rfl,
    sortFrame_untagged false _ hety, hsame, port_setPort_same _ _ (hframe.ports.symm ▸ hn), hkept]
  exact ⟨rfl, hframe.trans .setPort⟩

/-- A frame that is too long and accepted waits with its first MAXFRM bytes. -/
theorem receive_oversized_spec (hmax : 64 ≤ d.g MAC_MAXFRM n) (hlong : d.g MAC_MAXFRM n < f.bytes.length + 4)
    (hfcs : f.fcsOk = true) (hlost : f.lost = false) (haccepted : d.accepts n (f.bytes.take 6) = true)
    (hety : beNat (slice f.bytes 12 2) ∉ [0x8100, 0x8808, 0x88CC]) :
    ((receive d n f).port n).rx = (d.port n).rx ++ [(d.cnt MAC_RXOVS n).untagged
        ((f.bytes ++ leBytes 4 (crc32 f.bytes)).take (d.g MAC_MAXFRM n)) true (d.g MAC_MAXFRM n)] ∧
      PortFrame n [MAC_RXOVS] [] d (receive d n f) ∧
      (receive d n f).g MAC_RXOVS n = min (d.g MAC_RXOVS n + 1) 0xFFFFFFFF := by
  obtain ⟨hframe, hcount⟩ := portCnt_spec d MAC_RXOVS n
  have hety' := slice_take_append (l := f.bytes) (leBytes 4 (crc32 f.bytes)) (o := 12) (n := 2) (m := d.g MAC_MAXFRM n)
    (by omega) (by omega)
  rw [receive_oversized hup htest hrun hspace hmax hlong hfcs hlost (by rw [hframe.accepts hport, haccepted]),
    sortFrame_untagged true _ (by rw [hety']; exact hety), port_setPort_same _ _ (hframe.ports.symm ▸ hn), port_cnt]
  exact ⟨rfl, hframe.trans .setPort, hcount⟩

end

/-- Settles O36: reception by its branches (`receive_dropped` to `receive_oversized_spec`), delivery by the frame that is handed
on (`deliver_of_waiting`) and the ring's slot (`foreign_spec`), transmission by `transmit_spec`. -/
theorem framesAreReceivedAndSent : Obligations.FramesAreReceivedAndSent := by
  unfold Obligations.FramesAreReceivedAndSent
  intro s n hlen hrun hup htest
  dsimp only
  have hport : n.toNat < 4 := n.isLt
  have hn : n.toNat < s.dev.mac.length := hlen.symm ▸ hport
  refine ⟨fun f hfull => ?dropped, fun f hspace => ⟨fun hshort => ?runt, fun hlong hfits hfcs hfew hlow => ?badFcs,
    fun hlong hfits hfcs hlost hgood => ⟨fun hrefused => ?filtered, fun haccepted hety => ?accepted⟩,
    fun hmax hlong hfcs hlost haccepted hety => ?oversized⟩,
    fun a b f hrx ha hb => ⟨fun hkrv => ?krv, fun hforeign hoff => ?off,
      fun hforeign hslots hinside hbank howner hmay hhand hclean hhead hfits _ hroom => ?ring⟩,
    fun a b f htx ha hb hlpi hmay => ?sent⟩
  case dropped =>
    obtain ⟨hframe, hcount⟩ := portCnt_spec s.dev MAC_RXDROP n.toNat
    rw [← receive_dropped hup htest hrun hfull (f := f)] at hframe hcount
    have hmac : (receive s.dev n.toNat f).mac = s.dev.mac := by rw [receive_dropped hup htest hrun hfull, Dev.cnt_mac]
    exact ⟨_, exec_frameReceive f, hmac, hframe.beside, hcount, hframe.regs⟩
  case runt =>
    obtain ⟨hframe, hcount⟩ := portCnt_spec s.dev MAC_RXRUNT n.toNat
    rw [← receive_runt hup htest hrun hspace hshort] at hframe hcount
    have hmac : (receive s.dev n.toNat f).mac = s.dev.mac := by
      rw [receive_runt hup htest hrun hspace hshort, Dev.cnt_mac]
    exact ⟨_, exec_frameReceive f, hmac, hframe.beside, hcount, hframe.regs⟩
  case badFcs =>
    obtain ⟨l, heq⟩ := receive_badFcs hup htest hrun hspace hlong hfits hfcs hfew
    obtain ⟨hkept, hframe, hcount, hvalue⟩ := badFcs_spec l hn hport hlow
    rw [← heq] at hkept hframe hcount hvalue
    have hrx : ((receive s.dev n.toNat f).port n.toNat).rx = (s.dev.port n.toNat).rx := by rw [hkept]
    have htx : ((receive s.dev n.toNat f).port n.toNat).tx = (s.dev.port n.toNat).tx := by rw [hkept]
    exact ⟨_, exec_frameReceive f, hrx, htx, hframe.beside, hcount, hvalue⟩
  case filtered =>
    obtain ⟨hrx, hcount, hframe⟩ :=
      receive_filtered_spec hn hport hup htest hrun hspace hlong hfits hfcs hlost hgood hrefused
    exact ⟨_, exec_frameReceive f, hrx, hcount, hframe.beside, hframe.regs⟩
  case accepted =>
    obtain ⟨hrx, hframe⟩ :=
      receive_accepted_spec hn hport hup htest hrun hspace hlong hfits hfcs hlost hgood haccepted hety
    exact ⟨_, _, exec_frameReceive f, hrx, rfl, rfl, rfl, untagged_ety _ _ _ _, rfl, hframe.beside, untagged_tc _ _ _ hlong,
      hframe.regs⟩
  case oversized =>
    obtain ⟨hrx, hframe, hcount⟩ :=
      receive_oversized_spec hn hport hup htest hrun hspace hmax hlong hfcs hlost haccepted hety
    exact ⟨_, _, exec_frameReceive f, hrx, rfl, rfl, hframe.beside, hcount, hframe.regs⟩
  case krv =>
    obtain ⟨hrest, htaken⟩ := rxLeft_spec (d := s.dev) (a ++ b) hn
    refine ⟨_, exec_frameDelivery, ?_⟩
    dsimp only
    rw [deliver_of_waiting hrx ha hb, if_pos hkrv]
    cases f.ovs with
    | true => exact ⟨hrest, htaken.beside, htaken.regs, congrArg Blw.inbox htaken.blw⟩
    | false => exact ⟨hrest, htaken.beside, htaken.regs, rfl⟩
  case off =>
    obtain ⟨hrest, htaken⟩ := rxLeft_spec (d := s.dev) (a ++ b) hn
    obtain ⟨hframe, hcount⟩ := portCnt_spec (s.dev.rxLeft n.toNat (a ++ b)) MAC_FFDROP n.toNat
    have hall := htaken.mono.trans hframe
    have hoff' := (htaken.g hport MAC_FFQ_CFG.SLOT).trans hoff
    refine ⟨_, exec_frameDelivery, ?_⟩
    dsimp only
    rw [deliver_of_waiting hrx ha hb, if_neg hforeign, foreign_of_off hoff', port_cnt, hcount, htaken.g hport MAC_FFDROP]
    exact ⟨hrest, hall.beside, hall.blw, rfl, hall.regs⟩
  case ring =>
    obtain ⟨hrest, htaken⟩ := rxLeft_spec (d := s.dev) (a ++ b) hn
    have htakes : (s.dev.rxLeft n.toNat (a ++ b)).RingTakes n.toNat f :=
      ⟨hslots, hinside, hbank, howner, hmay, hhand, hclean, hhead, hfits, hroom⟩
    obtain ⟨hmac, hmem, hblw, hnext⟩ := foreign_spec htakes hport
    have hkept := (congrArg (fun l => (l.getD n.toNat Port.reset).rx) hmac).trans hrest
    refine ⟨_, exec_frameDelivery, ?_⟩
    dsimp only
    rw [deliver_of_waiting hrx ha hb, if_neg hforeign, hmem]
    refine ⟨hkept, hnext, ?_, fun x hx => ?_, hblw.trans htaken.blw, ⟨rfl, rfl, rfl, rfl, rfl⟩⟩
    · rw [← length_record]
      exact memBytes_memPut _ _ _
    · have hat : (s.dev.rxLeft n.toNat (a ++ b)).slotAt n.toNat = s.dev.g MAC_FFQ_BASE n.toNat * 64 +
        s.dev.g MAC_FFQ_HEAD n.toNat * (s.dev.g MAC_FFQ_CFG.SLOT n.toNat * 64) := rfl
      rw [sget_memPut, length_record, hat, if_neg (by omega)]
      exact congrArg (fun b => sget 0 x b.mem) htaken.bnk
  case sent =>
    obtain ⟨hsent, hframe, hcount⟩ := transmit_spec hn hup htest hlpi hmay htx ha hb
    have hrx : ((transmit s.dev n.toNat).port n.toNat).rx = (s.dev.port n.toNat).rx := by rw [hsent]
    exact ⟨_, exec_frameTransmit, congrArg Port.tx hsent, hrx, hframe.beside, congrArg Port.line hsent, hcount, hframe.regs⟩

end Sys2Proof.Machine
